-- ==== Sys2Proof/Word.lean ====
section
/-! DEFINITION. The machine's words: bytes, register words, doublewords and their plainest arithmetic (00 R1, R7). -/
namespace Sys2Proof

/-- One byte, the smallest unit memory addresses (R1). -/
abbrev Byte := BitVec 8
/-- One lane of a register line (06 R110), and one instruction word (03 R39). -/
abbrev Word := BitVec 32
/-- A register pair, a k register, a latch (03 R42). -/
abbrev DWord := BitVec 64
/-- A virtual address within the 57 bits that may be nonzero (11 R202). -/
abbrev VA := BitVec 57

/-- The two's-complement reading of the low `n` bits of a natural number. -/
def signedOf (n v : Nat) : Int :=
  let u := v % 2 ^ n
  if u < 2 ^ (n - 1) then (u : Int) else (u : Int) - (2 ^ n : Nat)

/-- The residue of an integer modulo 2^n (R7). -/
def wrapInt (n : Nat) (x : Int) : Nat := (x % (2 ^ n : Nat)).toNat

end Sys2Proof
end

