-- ==== Sys2Proof/Syntax.lean ====
section
/-! DEFINITION. The steps of the part: one constructor per row of spec/opcode_table.json (03 R59, 19 R393, 95).
Three kinds stand in one inductive: the words a bundle issues (hint words included, each a step of its own, R49),
the micro-ops of a Kaolin sequence (R393), and the events that have no word. A field carries the name that the
table gives it and the bits it has in the word. An event carries nothing: what it happens to (a function, a context,
a launch, an access in flight, the value a host writes) stands in the machine's `Subject` while the step is taken. -/
namespace Sys2Proof

/-- One step of the part. The docstring of each constructor is the table's mnemonic, its rule and its effect. -/
inductive Instr where
  -- Hint words and instruction words (03 R39–R59).
  /-- XIMM (R47): A hint word carrying 24 immediate bits. -/
  | ximm (x : BitVec 24)
  /-- MOD (R51): A hint word carrying the guard and modifiers. -/
  | mod (g : BitVec 3) (s : Bool) (r : BitVec 3) (t u : Bool) (c : BitVec 3) (h : BitVec 2) (y x : BitVec 5)
  /-- SRC (R54): A hint word carrying a third source and KSEL. -/
  | src (v : Bool) (s : BitVec 7) (k : Bool) (q : BitVec 6)
  /-- SCHED (R54): A hint word carrying stall and yield advice. -/
  | sched (t : BitVec 4) (y : Bool)
  /-- IADD (R162): Integer add. -/
  | iadd (d a b : BitVec 7) (n : Bool)
  /-- ISUB (R162): Integer subtract. -/
  | isub (d a b : BitVec 7) (n : Bool)
  /-- IMUL (R162): Integer multiply, low half. -/
  | imul (d a b : BitVec 7) (n : Bool)
  /-- IMULH (R162): Integer multiply, high half. -/
  | imulh (d a b : BitVec 7) (n : Bool)
  /-- IMAD (R162): Integer multiply-add. -/
  | imad (d a b : BitVec 7) (n : Bool)
  /-- IABS (R162): Integer absolute value. -/
  | iabs (d a : BitVec 7) (n : Bool)
  /-- IMIN (R162): Integer minimum. -/
  | imin (d a b : BitVec 7) (n : Bool)
  /-- IMAX (R162): Integer maximum. -/
  | imax (d a b : BitVec 7) (n : Bool)
  /-- ISAD (R162): Integer sum of absolute difference. -/
  | isad (d a b : BitVec 7) (n : Bool)
  /-- LEA (R163): Forms a 64-bit address from a base and a scaled offset. -/
  | lea (d a b : BitVec 7) (n : Bool)
  /-- IADDI (R162): Integer add with an immediate. -/
  | iaddi (d a : BitVec 7) (i : BitVec 12)
  /-- AND (R164): Bitwise and. -/
  | and (d a b : BitVec 7) (n : Bool)
  /-- OR (R164): Bitwise or. -/
  | or (d a b : BitVec 7) (n : Bool)
  /-- XOR (R164): Bitwise xor. -/
  | xor (d a b : BitVec 7) (n : Bool)
  /-- ANDN (R164): Bitwise and with the complement of b. -/
  | andn (d a b : BitVec 7) (n : Bool)
  /-- SHL (R164): Shift left. -/
  | shl (d a b : BitVec 7) (n : Bool)
  /-- SHR (R164): Logical shift right. -/
  | shr (d a b : BitVec 7) (n : Bool)
  /-- SAR (R164): Arithmetic shift right. -/
  | sar (d a b : BitVec 7) (n : Bool)
  /-- ROT (R164): Rotate left. -/
  | rot (d a b : BitVec 7) (n : Bool)
  /-- FSHF (R165): Funnel shift. -/
  | fshf (d a b : BitVec 7) (n : Bool)
  /-- BFX (R165): Bit-field extract. -/
  | bfx (d a b : BitVec 7) (n : Bool)
  /-- BFI (R165): Bit-field insert. -/
  | bfi (d a b : BitVec 7) (n : Bool)
  /-- BPERM (R165): Byte permute. -/
  | bperm (d a b : BitVec 7) (n : Bool)
  /-- POPC (R166): Population count. -/
  | popc (d a : BitVec 7) (n : Bool)
  /-- CLZ (R166): Count leading zeros. -/
  | clz (d a : BitVec 7) (n : Bool)
  /-- CTZ (R166): Count trailing zeros. -/
  | ctz (d a : BitVec 7) (n : Bool)
  /-- BREV (R166): Bit reverse. -/
  | brev (d a : BitVec 7) (n : Bool)
  /-- PLOP (R168): Predicate logic through a 4-bit lookup table. -/
  | plop (p : BitVec 3) (l : BitVec 4) (q r : BitVec 3)
  /-- SEL (R169): Selects a or b on a predicate. -/
  | sel (d a b : BitVec 7) (n : Bool)
  /-- MOV (R169): Register move. -/
  | mov (d a : BitVec 7) (n : Bool)
  /-- MOVS (R170): Reads a special register. -/
  | movs (d s : BitVec 7) (n : Bool)
  /-- ISETP (R167): Integer compare setting a predicate. -/
  | isetp (p : BitVec 3) (a b : BitVec 7) (c : BitVec 4)
  /-- FADD (R190): FP32 add. -/
  | fadd (d a b : BitVec 7) (n : Bool)
  /-- FSUB (R190): FP32 subtract. -/
  | fsub (d a b : BitVec 7) (n : Bool)
  /-- FMUL (R190): FP32 multiply. -/
  | fmul (d a b : BitVec 7) (n : Bool)
  /-- FFMA (R190): FP32 fused multiply-add. -/
  | ffma (d a b : BitVec 7) (n : Bool)
  /-- FMIN (R191): FP32 minimum. -/
  | fmin (d a b : BitVec 7) (n : Bool)
  /-- FMAX (R191): FP32 maximum. -/
  | fmax (d a b : BitVec 7) (n : Bool)
  /-- FCLASS (R192): Classifies a floating-point value. -/
  | fclass (d a : BitVec 7) (n : Bool)
  /-- FSCALE (R190): Multiplies by a power of two. -/
  | fscale (d a b : BitVec 7) (n : Bool)
  /-- FRND (R193): Rounds to an integral value. -/
  | frnd (d a : BitVec 7) (n : Bool)
  /-- FDP2 (R190): Two-element 16-bit dot product with an FP32 addend. -/
  | fdp2 (d a b : BitVec 7) (n : Bool)
  /-- DP4A (R194): Four-byte integer dot product with accumulate. -/
  | dp4a (d a b : BitVec 7) (n : Bool)
  /-- HADD2 (R190): Packed 16-bit add. -/
  | hadd2 (d a b : BitVec 7) (n : Bool)
  /-- HMUL2 (R190): Packed 16-bit multiply. -/
  | hmul2 (d a b : BitVec 7) (n : Bool)
  /-- HFMA2 (R190): Packed 16-bit fused multiply-add. -/
  | hfma2 (d a b : BitVec 7) (n : Bool)
  /-- HMAX2 (R191): Packed 16-bit maximum. -/
  | hmax2 (d a b : BitVec 7) (n : Bool)
  /-- FSETP (R195): FP32 compare setting a predicate. -/
  | fsetp (p : BitVec 3) (a b : BitVec 7) (c : BitVec 4)
  /-- DADD (R190): FP64 add. -/
  | dadd (d a b : BitVec 7) (n : Bool)
  /-- DMUL (R190): FP64 multiply. -/
  | dmul (d a b : BitVec 7) (n : Bool)
  /-- DFMA (R190): FP64 fused multiply-add. -/
  | dfma (d a b : BitVec 7) (n : Bool)
  /-- DMIN (R191): FP64 minimum. -/
  | dmin (d a b : BitVec 7) (n : Bool)
  /-- DMAX (R191): FP64 maximum. -/
  | dmax (d a b : BitVec 7) (n : Bool)
  /-- DRCP (R196): FP64 reciprocal. -/
  | drcp (d a : BitVec 7) (n : Bool)
  /-- DRSQ (R196): FP64 reciprocal square root. -/
  | drsq (d a : BitVec 7) (n : Bool)
  /-- DSETP (R195): FP64 compare setting a predicate. -/
  | dsetp (p : BitVec 3) (a b : BitVec 7) (c : BitVec 4)
  /-- FRCP (R196): FP32 reciprocal. -/
  | frcp (d a : BitVec 7) (n : Bool)
  /-- FRSQ (R196): FP32 reciprocal square root. -/
  | frsq (d a : BitVec 7) (n : Bool)
  /-- FSQRT (R196): FP32 square root, correctly rounded. -/
  | fsqrt (d a : BitVec 7) (n : Bool)
  /-- FEX2 (R196): Base-2 exponential. -/
  | fex2 (d a : BitVec 7) (n : Bool)
  /-- FLG2 (R196): Base-2 logarithm. -/
  | flg2 (d a : BitVec 7) (n : Bool)
  /-- FSIN (R196): Sine. -/
  | fsin (d a : BitVec 7) (n : Bool)
  /-- FCOS (R196): Cosine. -/
  | fcos (d a : BitVec 7) (n : Bool)
  /-- FTANH (R196): Hyperbolic tangent. -/
  | ftanh (d a : BitVec 7) (n : Bool)
  /-- F2I (R197): Float-to-integer conversion. -/
  | f2i (d a : BitVec 7) (n : Bool)
  /-- I2F (R197): Integer-to-float conversion. -/
  | i2f (d a : BitVec 7) (n : Bool)
  /-- F2F (R197): Float-to-float conversion. -/
  | f2f (d a : BitVec 7) (n : Bool)
  /-- FPACK (R199): Packs values into MX elements, or computes a block scale with .SCALE. -/
  | fpack (d a b : BitVec 7) (n : Bool)
  /-- D2F (R197): FP64 narrowing conversion. -/
  | d2f (d a : BitVec 7) (n : Bool)
  /-- F2D (R197): Widening conversion to FP64. -/
  | f2d (d a : BitVec 7) (n : Bool)
  /-- LD (R230): Per-lane load from memory. -/
  | ld (d : BitVec 7) (k : BitVec 6) (o : BitVec 7) (i : BitVec 6)
  /-- ST (R233): Per-lane store to memory, all passing lanes together. -/
  | st (d : BitVec 7) (k : BitVec 6) (o : BitVec 7) (i : BitVec 6)
  /-- LDS (R240): Scratch load. -/
  | lds (d : BitVec 7) (k : BitVec 6) (o : BitVec 7) (i : BitVec 6)
  /-- STS (R240): Scratch store. -/
  | sts (d : BitVec 7) (k : BitVec 6) (o : BitVec 7) (i : BitVec 6)
  /-- LDK (R242): Uniform load into a k register. -/
  | ldk (d k i : BitVec 6)
  /-- PREF (R243): Prefetch into a cache level. -/
  | pref (k : BitVec 6) (o : BitVec 7) (i : BitVec 6)
  /-- CFLUSH (R244): Writes back and invalidates a line across the device. -/
  | cflush (k : BitVec 6) (o : BitVec 7) (i : BitVec 6)
  /-- CINV (R244): Writes back and removes a line from the cluster's L1 slices. -/
  | cinv (k : BitVec 6) (o : BitVec 7) (i : BitVec 6)
  /-- PERSIST (R245): Makes lines durable in the pool. -/
  | persist (k : BitVec 6) (o : BitVec 7) (i : BitVec 6)
  /-- ATOM (R295): Atomic read-modify-write with a returned value. -/
  | atom (d a b : BitVec 7) (o : BitVec 4)
  /-- RED (R295): Atomic reduction with no returned value. -/
  | red (a b : BitVec 7) (o : BitVec 4)
  /-- ATOMS (R295): Scratch atomic. -/
  | atoms (d a b : BitVec 7) (o : BitVec 4)
  /-- REDS (R295): Scratch reduction. -/
  | reds (a b : BitVec 7) (o : BitVec 4)
  /-- ATOMCAS (R295): Atomic compare-and-swap. -/
  | atomcas (d a b : BitVec 7)
  /-- ATOMSCAS (R295): Scratch compare-and-swap. -/
  | atomscas (d a b : BitVec 7)
  /-- WAITC (R307): Waits on a condition monitor over a memory word. -/
  | waitc (d a b : BitVec 7) (n : Bool)
  /-- WDECL (R317): Declares the expected signallers of an object. -/
  | wdecl (d a b : BitVec 7) (n : Bool)
  /-- FENCE (R289): Memory fence of kind FULL, ACQ or REL. -/
  | fence
  /-- BIND (R291): Binds a region to a synchronisation object. -/
  | bind (d a b : BitVec 7) (n : Bool)
  /-- UNBIND (R291): Removes bind entries. -/
  | unbind (d a b : BitVec 7) (n : Bool)
  /-- ACQ (R290): Acquire on an object. -/
  | acq (d a : BitVec 7) (n : Bool)
  /-- REL (R290): Release on an object. -/
  | rel (a b : BitVec 7)
  /-- BAR (R312): Team barrier arrival and wait. -/
  | bar (d a : BitVec 7) (n : Bool)
  /-- CBAR_ARV (R313): Cluster barrier arrival. -/
  | cbarArv (d : BitVec 7) (n : Bool)
  /-- CBAR_WAIT (R313): Cluster barrier wait. -/
  | cbarWait (d a : BitVec 7) (n : Bool)
  /-- CPY (R254): Contributes a slice to a linear copy. -/
  | cpy (a b : BitVec 7)
  /-- CPYG (R255): Contributes a slice to a gather copy. -/
  | cpyg (a b : BitVec 7)
  /-- CPYS (R254): Contributes a slice to a strided copy. -/
  | cpys (a b : BitVec 7)
  /-- CPYM (R254): Contributes a slice to a multicast copy into cluster scratch. -/
  | cpym (a b : BitVec 7)
  /-- TBAR_INIT (R268): Initialises a transaction barrier. -/
  | tbarInit (a b : BitVec 7)
  /-- TBAR_EXP (R268): Adds expected bytes to a barrier and arrives. -/
  | tbarExp (a b : BitVec 7)
  /-- TBAR_ACK (R268): Arrives at a barrier. -/
  | tbarAck (a : BitVec 7)
  /-- TBAR_WAIT (R269): Waits for a barrier phase. -/
  | tbarWait (d a b : BitVec 7) (n : Bool)
  /-- TCFG (R332): Configures the team's accumulator tiles. -/
  | tcfg (d a : BitVec 7) (n : Bool)
  /-- TZERO (R339): Zeroes a tile as a matrix request. -/
  | tzero (d a : BitVec 7) (n : Bool)
  /-- TLD (R340): Reads an accumulator element. -/
  | tld (d a b : BitVec 7) (n : Bool)
  /-- TST (R341): Writes an accumulator element. -/
  | tst (a b : BitVec 7)
  /-- MMA (R335): Matrix multiply-accumulate request. -/
  | mma (d a : BitVec 7) (n : Bool)
  /-- TACT (R337): Activation request converting a tile into fragments. -/
  | tact (d a : BitVec 7) (n : Bool)
  /-- TWAIT (R342): Waits for matrix requests up to a ticket. -/
  | twait (d a : BitVec 7) (n : Bool)
  /-- BXU (R362): Box union. -/
  | bxu (d a b : BitVec 7)
  /-- BSAH (R362): Surface-area heuristic of a box. -/
  | bsah (d a b : BitVec 7)
  /-- NPACK (R362): Quantises a child box, or computes a frame with .FRAME. -/
  | npack (d a b : BitVec 7)
  /-- TRACE (R355): Traces a ray through the scene. -/
  | trace (d a : BitVec 7)
  /-- BEAM (R359): Builds a visibility-buffer tile by beam traversal. -/
  | beam (d a : BitVec 7) (n : Bool)
  /-- COV (R360): Merges a leaf's triangles into a visibility tile. -/
  | cov (d a : BitVec 7) (n : Bool)
  /-- TEX (R373): Filtered texture sample. -/
  | tex (d a b : BitVec 7)
  /-- TEXG (R373): Texture gather of one component. -/
  | texg (d a b : BitVec 7)
  /-- TEXQ (R373): Texture query. -/
  | texq (d a b : BitVec 7)
  /-- QRC (R384): Radiance-cache query, optionally with a training sample. -/
  | qrc (d a : BitVec 7)
  /-- RCCFG_LOAD (R386): Loads a network into the radiance cache, taking ownership. -/
  | rccfgLoad (d a : BitVec 7) (n : Bool)
  /-- RCCFG_SAVE (R386): Saves the committed parameters to memory. -/
  | rccfgSave (d a : BitVec 7) (n : Bool)
  /-- RCCFG_RELEASE (R386): Releases ownership of the radiance cache. -/
  | rccfgRelease (d a : BitVec 7) (n : Bool)
  /-- RCGEN (R387): Requests a commit of a new generation, or reads status with .STAT. -/
  | rcgen (d : BitVec 7) (n : Bool)
  /-- BRA (R55): Conditional branch. -/
  | bra (p : BitVec 3) (s h : Bool) (o : BitVec 21)
  /-- BRA_D (R129): Branch that pushes a reconvergence entry. -/
  | braD (p : BitVec 3) (s h : Bool) (o : BitVec 21)
  /-- JOIN (R130): Reconvergence point. -/
  | join
  /-- CALL (R176): Call with a return address. -/
  | call (d a : BitVec 7) (n : Bool)
  /-- RET (R177): Return. -/
  | ret (a : BitVec 7)
  /-- EXIT (R179): Thread exit. -/
  | exit
  /-- EXIT_H (R140): The thread becomes a helper thread. -/
  | exitH
  /-- YIELD (R180): Yields issue priority and delays the thread. -/
  | yield (a : BitVec 7)
  /-- NOP (R181): No operation. -/
  | nop
  /-- BRX (R177): Indirect branch. -/
  | brx (a : BitVec 7)
  /-- TRAP (R430): User trap to the supervisor. -/
  | trap (d a b : BitVec 7) (n : Bool)
  /-- SVRET (R431): Supervisor returns trapped threads. -/
  | svret (d a b : BitVec 7) (n : Bool)
  /-- BPT (R430): Breakpoint trap. -/
  | bpt (b : BitVec 7)
  /-- LAUNCH (R433): Submits an LPB to a launch queue. -/
  | launch (d a : BitVec 7) (n : Bool)
  /-- SENDAM (R434): Sends an active message. -/
  | sendam (d a b : BitVec 7) (n : Bool)
  /-- CSRR (R435): Reads a CSR. -/
  | csrr (d a : BitVec 7)
  /-- CSRW (R435): Writes a CSR. -/
  | csrw (a b : BitVec 7)
  /-- RPLGET (R436): Gets the address of a request's replay set. -/
  | rplget (d a : BitVec 7)
  /-- RPLRUN (R437): Rechecks and arms a parked set. -/
  | rplrun (d a : BitVec 7) (n : Bool)
  /-- CSLOAD (R405): Loads a Kaolin image. -/
  | csload (d a : BitVec 7) (n : Bool)
  /-- CSLOAD_CLEAR (R405): Installs an empty Kaolin image. -/
  | csloadClear (d : BitVec 7) (n : Bool)
  /-- VOTE (R183): Group vote. -/
  | vote (d a : BitVec 7) (i : Bool) (v : BitVec 3) (n : Bool)
  /-- MATCH (R184): Group match. -/
  | matchVal (d a b : BitVec 7) (n : Bool)
  /-- SHFL (R185): Group shuffle. -/
  | shfl (d a b : BitVec 7) (n : Bool)
  /-- GRED (R186): Group reduction. -/
  | gred (d a b : BitVec 7) (n : Bool)
  /-- ELECT (R187): Elects one non-helper lane. -/
  | elect (d a : BitVec 7) (n : Bool)
  /-- XOP (R400): Runs a bound Kaolin micro-op sequence. -/
  | xop (j : BitVec 2) (d a b : BitVec 7) (n : Bool) (i : BitVec 4)
  /-- KMOV (R171): k register move. -/
  | kmov (d a : BitVec 7)
  /-- KADD (R171): k register add. -/
  | kadd (d a b : BitVec 7)
  /-- KADDI (R171): k register add immediate. -/
  | kaddi (d a i : BitVec 7)
  /-- KSHL (R171): k register shift left. -/
  | kshl (d a b : BitVec 7)
  /-- KAND (R171): k register and. -/
  | kand (d a b : BitVec 7)
  /-- KFROMV (R173): Moves a thread register value into a k register. -/
  | kfromv (d a : BitVec 7)
  -- Micro-ops of a Kaolin sequence (19 R393).
  /-- UADD (R394): Micro-op add. -/
  | uadd (d a b : BitVec 3)
  /-- USUB (R394): Micro-op subtract. -/
  | usub (d a b : BitVec 3)
  /-- UAND (R394): Micro-op and. -/
  | uand (d a b : BitVec 3)
  /-- UOR (R394): Micro-op or. -/
  | uor (d a b : BitVec 3)
  /-- UXOR (R394): Micro-op xor. -/
  | uxor (d a b : BitVec 3)
  /-- USHL (R394): Micro-op shift left. -/
  | ushl (d a b : BitVec 3)
  /-- USHR (R394): Micro-op logical shift right. -/
  | ushr (d a b : BitVec 3)
  /-- USAR (R394): Micro-op arithmetic shift right. -/
  | usar (d a b : BitVec 3)
  /-- UMUL (R394): Micro-op multiply. -/
  | umul (d a b : BitVec 3)
  /-- UADDI (R394): Micro-op add immediate. -/
  | uaddi (d a : BitVec 3) (i : BitVec 17)
  /-- UMOVI (R394): Micro-op move immediate. -/
  | umovi (d : BitVec 3) (i : BitVec 17)
  /-- UHI (R394): Micro-op shift in 17 immediate bits. -/
  | uhi (d a : BitVec 3) (i : BitVec 17)
  /-- UFADD (R394): Micro-op floating add. -/
  | ufadd (d a b : BitVec 3) (t : BitVec 4) (r : BitVec 3) (s : Bool)
  /-- UFSUB (R394): Micro-op floating subtract. -/
  | ufsub (d a b : BitVec 3) (t : BitVec 4) (r : BitVec 3) (s : Bool)
  /-- UFMUL (R394): Micro-op floating multiply. -/
  | ufmul (d a b : BitVec 3) (t : BitVec 4) (r : BitVec 3) (s : Bool)
  /-- UFMA (R394): Micro-op fused multiply-add. -/
  | ufma (d a b : BitVec 3) (t : BitVec 4) (r : BitVec 3) (s : Bool)
  /-- UFMIN (R394): Micro-op floating minimum. -/
  | ufmin (d a b : BitVec 3) (t : BitVec 4)
  /-- UFMAX (R394): Micro-op floating maximum. -/
  | ufmax (d a b : BitVec 3) (t : BitVec 4)
  /-- UCVT (R394): Micro-op conversion. -/
  | ucvt (d a : BitVec 3) (t : BitVec 4) (r : BitVec 3) (s : Bool) (u : BitVec 4)
  /-- UCMP (R394): Micro-op compare. -/
  | ucmp (d a b : BitVec 3) (t c : BitVec 4)
  /-- URDV (R395): Reads an XOP operand into a temporary. -/
  | urdv (h : BitVec 3) (s : BitVec 2) (o : BitVec 4) (w : BitVec 2)
  /-- UWRV (R395): Writes a temporary to the XOP destination. -/
  | uwrv (h : BitVec 3) (o : BitVec 4) (w : BitVec 2)
  /-- URDK (R395): Reads a k register into a temporary. -/
  | urdk (h : BitVec 3) (k : BitVec 6)
  /-- ULD (R397): Micro-op load. -/
  | uld (h a : BitVec 3) (z : BitVec 2) (i : BitVec 17)
  /-- UPROBE (R397): Micro-op probe translation as a write. -/
  | uprobe (a : BitVec 3) (z : BitVec 2) (i : BitVec 17)
  /-- UST (R397): Micro-op store. -/
  | ust (h a : BitVec 3) (z : BitVec 2) (i : BitVec 17)
  /-- UBR (R398): Micro-op branch. -/
  | ubr (a : BitVec 3) (c : BitVec 2) (o : BitVec 10)
  /-- ULOOP (R398): Micro-op counted loop. -/
  | uloop (a : BitVec 3) (m : BitVec 4) (l : BitVec 5)
  /-- UEND (R398): Ends the micro-op sequence. -/
  | uend
  /-- UTRAP (R398): Traps with USER and a code. -/
  | utrap (c : BitVec 16)
  -- Events: steps of the part that no word encodes.
  /-- MODULE_RESET (R18): A module reset returns every register to its reset value, clears every ready bit and starts the boot sequence. -/
  | moduleReset
  /-- FUNCTION_LEVEL_RESET (R24): A function-level reset ends the function's session and, for the physical function, the sessions and contexts of all its virtual functions. -/
  | functionLevelReset
  /-- FIRMWARE_CHECK_DONE (R16): The security core finishes its SHA-512 and RSA-4096 check of the flash image and either releases the scheduler cores or enters the recovery loader. -/
  | firmwareCheckDone
  /-- BLOCK_READY (R18): A block finishes its initialisation or training and sets its READY bit, which stays set until the next reset. -/
  | blockReady
  /-- COLUMN_READY (R20): All 12 cores of one mesh column finish initialising and the column's COL_READY bit sets. -/
  | columnReady
  /-- CXL_REQUEST_TIMEOUT (R19): A memory request held for an untrained CXL port for 100 ms completes with a poisoned response. -/
  | cxlRequestTimeout
  /-- BLOCK_FAILURE (R451): A block stops answering after its ready bit set, so ERR_STAT.BLOCK_FAIL sets and MSI-X vector 2 is signalled. -/
  | blockFailure
  /-- FEAT_COMMIT (R22): A write of 1 to FEAT_CTL.COMMIT checks the accepted word and either starts a session or reports the failure status. -/
  | featCommit
  /-- POP_ARM (R78): A write of 1 to POP_ARM arms the event queue for the next read of POP_DATA. -/
  | popArm
  /-- POP_DATA (R78): A read of POP_DATA returns and removes the head event record if the queue is armed, consuming the arm, and otherwise returns zero. -/
  | popData
  /-- CTX_LPAGE_WRITE (R119): A write of CTX_LPAGE sets the launch page and, when the value is nonzero and the arena is pinned, creates the CTX_HOME supervisor instance. -/
  | ctxLpageWrite
  /-- CTX_SVCODE_WRITE (R121): A write of CTX_SVCODE makes the device check the supervisor code again, at once for CTX_HOME while CTX_LPAGE is nonzero. -/
  | ctxSvcodeWrite
  /-- ARENA_PINNING_START (R107): A nonzero SIZE written to CTX_IMAGE_CTL while PINNED is 0 sets PINNING and starts translating and locking the image arena. -/
  | arenaPinningStart
  /-- ARENA_PINNING_END (R107): Pinning ends by clearing PINNING and setting either PINNED, with the frames locked, or PIN_ERR with ERR_CAUSE. -/
  | arenaPinningEnd
  /-- INV_RANGE (R212): INV_CTL.GO with OP 0 removes every translation of CTX that covers the given range. -/
  | invRange
  /-- INV_RANGE_RELEASE (R212): INV_CTL.GO with OP 1 invalidates the range and releases its HOME 0 and HOME 1 locations. -/
  | invRangeRelease
  /-- INV_CONTEXT (R212): INV_CTL.GO with OP 2 invalidates every translation of CTX. -/
  | invContext
  /-- INVALIDATION_DONE (R213): Once every access under a removed entry has completed or parked, and every location is released for OP 1, INV_CTL.BUSY clears with STATUS 1. -/
  | invalidationDone
  /-- BIAS_TO_DEVICE (R222): BIAS_CTL.GO with TO_DEVICE 1 starts a host-to-device bias flip of the page at BIAS_PA. -/
  | biasToDevice
  /-- BIAS_TO_HOST (R222): BIAS_CTL.GO with TO_DEVICE 0 starts a device-to-host bias flip of the page at BIAS_PA. -/
  | biasToHost
  /-- BIAS_FLIP_DONE (R223): After recalling or back-invalidating the page's copies, the flip changes the bias bit, releases the waiting accesses and clears BUSY with STATUS 1. -/
  | biasFlipDone
  /-- DEVMEM_CTL_WRITE (R215): A write of DEVMEM_CTL sets the carve-out size, clamped to 32 GiB, and is ignored while any session exists or DEVMEM is not offered. -/
  | devmemCtlWrite
  /-- CTX_FQ_CTL_WRITE (R409): A write of CTX_FQ_CTL enables or disables the fault queue, and an enable is refused while CTX_FQ_BASE lies outside the host range. -/
  | ctxFqCtlWrite
  /-- REGISTER_WRITE (R15): A write to a control register with no behaviour of its own stores its writable fields, or clears W1C bits, under the access code of R6. -/
  | registerWrite
  /-- START_STAMP_OBSERVED (R73): The start-stamp monitor sees the stamp reach START_VALUE and the queued launch becomes ELIGIBLE, with a full acquire at .SYS. -/
  | startStampObserved
  /-- PRIORITY_AGING (R89): After each 10 ms in which none of its clusters is placed, an eligible launch's effective priority rises by 1, up to 7. -/
  | priorityAging
  /-- PLACEMENT_ROUND (R90): The scheduler firmware places clusters by level and by deficit round-robin among contexts, and writes their bind records. -/
  | placementRound
  /-- LEVEL7_PREEMPTION (R91): A launch at effective level 7 that has waited a further 10 ms causes the pre-emption of the most recently bound lower-level clusters. -/
  | level7Preemption
  /-- DISPATCH_RUNNABLE (R95): Dispatch turns a cluster's BOUND records RUNNABLE, loads k0-k7 and starts the groups, unless a record is refused. -/
  | dispatchRunnable
  /-- REBIND_WRITEBACK_DONE (R118): The old core finishes writing back a migrating team's dirty lines, and the record on the new core may turn RUNNABLE. -/
  | rebindWritebackDone
  /-- AM_ARRIVAL (R99): An active message reaches its destination die's inbox or core, where it is queued for a handler or refused. -/
  | amArrival
  /-- HANDLER_START (R98): A queued message starts its handler as a one-group team, once the handler entry, a group slot and a context position are free. -/
  | handlerStart
  /-- AM_WAIT_PREEMPTION (R99): A message that has waited 20 µs for a slot or a context position causes the pre-emption of the core's most recently bound lowest-priority team. -/
  | amWaitPreemption
  /-- BUNDLE_FORMATION (R124): In each clk the PC table forms up to four bundles of ready threads in age order and issues them. -/
  | bundleFormation
  /-- INSTRUCTION_LINE_ARRIVAL (R127): A requested instruction line arrives in the buffer, and the threads waiting on it become ready. -/
  | instructionLineArrival
  /-- REGISTER_FILL (R111): A register-line fill from the image arrives and merges under the valid lanes, and the missing threads become ready. -/
  | registerFill
  /-- RECONVERGENCE_TIMEOUT (R130): 16,384 clk after its first waiting thread arrived, the top reconvergence entry is released. -/
  | reconvergenceTimeout
  /-- STALL_EXPIRY (R54): The STALL count of a SCHED hint elapses and the threads may issue again. -/
  | stallExpiry
  /-- YIELD_DELAY_END (R180): A YIELD delay ends, and the thread returns to RUN and becomes ready. -/
  | yieldDelayEnd
  /-- FETCH_SUSPENSION_END (R136): The last translation and permission check of a fault-capable instruction ends, sorting lanes into pass, trap and park, and the thread continues. -/
  | fetchSuspensionEnd
  /-- LOAD_DATA_RETURN (R232): The data of a load lane arrive and are written to the destination, releasing its locked line. -/
  | loadDataReturn
  /-- STORE_PERFORMED (R235): A store lane is performed at its scope, and its outstanding counter falls. -/
  | storePerformed
  /-- EXTERNAL_SNOOP (R221): A back-invalidate or host snoop recalls every device copy of the line and answers with any dirty data, then the monitors on the line are re-evaluated. -/
  | externalSnoop
  /-- HOST_CXL_MEM_ACCESS (R222): A host CXL.mem access to device memory is served, after device copies are recalled when the page is in device bias. -/
  | hostCxlMemAccess
  /-- MONITOR_POLL (R309): Every 2 µs, a wait with no monitor entry has its word read again and evaluated. -/
  | monitorPoll
  /-- ATOMIC_LANE_APPLIED (R301): An atomic lane is applied at its place, and its old value is returned to vd. -/
  | atomicLaneApplied
  /-- CACHE_MAINTENANCE_DONE (R244): Every lane's CFLUSH or CINV action completes and the issuing thread becomes ready. -/
  | cacheMaintenanceDone
  /-- PERSIST_DONE (R245): The pool reports every named line persistent, and the PERSIST thread becomes ready. -/
  | persistDone
  /-- COPY_START (R252): A copy whose slices have all arrived runs its start checks, allocates range-scoreboard entries, takes line ownership and begins moving data. -/
  | copyStart
  /-- COPY_SECTOR_LANDED (R262): A destination sector portion lands, and when BV is set its bytes are subtracted from the barrier's PENDING. -/
  | copySectorLanded
  /-- COPY_PARK (R263): A copy part whose check ends with a reason parks the whole copy and writes its COPY replay record. -/
  | copyPark
  /-- COPY_STAMP_WRITE (R260): After every payload byte is performed, the engine writes the stamp as a full release at .SYS. -/
  | copyStampWrite
  /-- COPY_RETIRE (R261): A copy retires when its stamp or last byte is performed, freeing its entries, its place and its line ownership. -/
  | copyRetire
  /-- WAIT_FOR_WALK (R319): Every 100 µs the scheduler walks the wait-for tables and, when it finds the same cycle twice in a row, completes the youngest wait of that cycle. -/
  | waitForWalk
  /-- CLUSTER_IDLE (R311): A cluster whose threads have all waited 50 µs becomes idle and eligible for pre-emption first. -/
  | clusterIdle
  /-- MATRIX_REQUEST_COMPLETE (R329): A matrix request makes its last accumulator and register write, DN rises and its locks are released. -/
  | matrixRequestComplete
  /-- TCFG_UNITS_GRANTED (R332): A pending TCFG obtains its accumulator units, applies the configuration, zeroes the units and writes vd. -/
  | tcfgUnitsGranted
  /-- WALK_END (R365): A TRACE, BEAM or COV walk ends and writes its hit record, or its entries and status. -/
  | walkEnd
  /-- TEXTURE_SAMPLE_END (R374): A texture lane's texels have been read, and the filtered result is written to vd. -/
  | textureSampleEnd
  /-- OPTIMISER_STEP (R382): A die's optimiser consumes B samples and performs one Adam step on the master parameters. -/
  | optimiserStep
  /-- RADIANCE_COMMIT (R388): Once both optimisers stop, the dies exchange and average master, m, v and s over Gyell. -/
  | radianceCommit
  /-- GENERATION_SWITCH (R388): A die rounds master into G and increments its generation in one step, after which the optimisers resume. -/
  | generationSwitch
  /-- CONTROL_STORE_BANK_FILL (R392): A core fills a Kaolin bank from the record of the context that takes that position. -/
  | controlStoreBankFill
  /-- LOESS_BATCH_POST (R419): 1 µs after its first entry, or at 14 demand entries, the batch is filled with predictions, written to the fault queue, CTX_FQ_TAIL is set and vector 1 is signalled. -/
  | loessBatchPost
  /-- BATCH_DONE_OBSERVED (R422): The monitor on DONE fires for a matching SEQ with nonzero STATUS, and Loess re-arms the batch's sets. -/
  | batchDoneObserved
  /-- PREEMPTION_ORDER (R439): A team is ordered to stop and its threads stop at boundaries within 2,048 clk. -/
  | preemptionOrder
  /-- TEAM_STOPPED (R441): Once all threads have stopped and the save block is written, the control fields are saved, lines are marked evictable and the entry becomes FREE. -/
  | teamStopped
  /-- REBIND_RESTORE (R441): A rebound team restores scratch, accumulators and state, reallocates copies, drains the quarantine and resumes. -/
  | rebindRestore
  /-- HALT (R444): CTX_RUNCTL.HALT starts stopping every thread of the context. -/
  | halt
  /-- HALT_DONE (R444): Once all threads are stopped, lines written back and copies suspended, HALTED sets with STATUS 1. -/
  | haltDone
  /-- RESUME (R445): CTX_RUNCTL.RESUME discards the lines, reloads the control fields, resumes copies and messages and makes the threads ready. -/
  | resume
  /-- TEARDOWN (R446): CTX_RUNCTL.TEARDOWN stops every thread without save and discards all state of the context. -/
  | teardown
  /-- TEARDOWN_DONE (R446): Nothing of the context remains, so BUSY clears with STATUS 1. -/
  | teardownDone
  /-- LINK_POISON_RESPONSE (R450): A poisoned response from a link poisons its sector, is logged as a lasting fault and signals vector 2. -/
  | linkPoisonResponse
  /-- LAUNCH_COMPLETE (R454): A complete launch drops its replicas, writes back L1, merges FPSTAT, writes the completion stamp and frees its entry. -/
  | launchComplete
  /-- POWER_LIMIT_WRITE (R485): A write of LIMIT_W clamps the value to 600-1,400 W and sets APPLYING. -/
  | powerLimitWrite
  /-- BUDGET_APPLIED (R485): The scheduler cores rewrite BUDGET on every core from the newest limit and clear APPLYING. -/
  | budgetApplied
  /-- THERMAL_THROTTLE (R486): At 105 °C the arithmetic clock drops by 100 MHz, to no less than 1.2 GHz. -/
  | thermalThrottle
  /-- THERMAL_UNTHROTTLE (R486): With both dies below 100 °C the clock rises by 100 MHz. -/
  | thermalUnthrottle
  /-- THERMAL_TRIP (R486): At 115 °C issue and the engines stop, TRIPPED sets and vector 2 is signalled. -/
  | thermalTrip
  /-- THERMAL_POWER_OFF (R486): At 125 °C the module removes its own power. -/
  | thermalPowerOff
  /-- MB_SPDM (R488): An SPDM 1.3 mailbox message is served by the security core and its response written. -/
  | mbSpdm
  /-- MB_IMAGE_CHUNK (R17): An IMAGE_CHUNK message appends bytes to the image being received, or starts a new image. -/
  | mbImageChunk
  /-- MB_IMAGE_COMMIT (R17): An IMAGE_COMMIT message checks the image and writes it to flash, setting BOOT_STATE. -/
  | mbImageCommit
  /-- MB_KEY_SET (R490): A KEY_SET message installs an AES-XTS-256 key at an index. -/
  | mbKeySet
  /-- MB_KEY_CLEAR (R490): A KEY_CLEAR message clears a key index. -/
  | mbKeyClear
  /-- LOSS_OF_POWER (R226): The module's supply is lost, and every sector of a PERSIST 1 page keeps its value from its last completed PERSIST or a later write, while everything held on the dies is lost. -/
  | lossOfPower
  deriving DecidableEq, Repr

/-- The hints a thread has executed since the first word of its run (03 R48): the 24-bit payload of each kind,
in the order SCHED, MOD, SRC, XIMM, XIMM. Absent hints are `none`. -/
structure Hints where
  sched : Option (BitVec 24) := none
  mod   : Option (BitVec 24) := none
  src   : Option (BitVec 24) := none
  x1    : Option (BitVec 24) := none
  x2    : Option (BitVec 24) := none
  /-- a hint broke the order or a limit of R48: the run traps at its hinted instruction (R58) -/
  bad   : Bool := false
  deriving DecidableEq, Repr

/-- What an event happens to: the operands of a step that has no word. The machine holds the one of the step in
hand, and the agenda holds one beside every step to come. -/
structure Subject where
  /-- the function that a register access reaches: 0 physical, 1–32 virtual -/
  f : Nat := 0
  /-- a context, 0–63 -/
  c : Nat := 0
  /-- the number of the object: a queue entry, a cluster, a core, a thread, an operation, a copy, a batch -/
  id : Nat := 0
  /-- a further number: an offset, a physical address, a sector, a temperature -/
  a : Nat := 0
  /-- a further number: a size, a column, a temperature -/
  b : Nat := 0
  /-- the value written -/
  v : BitVec 64 := 0
  /-- the access is a write -/
  w : Bool := false
  /-- the bytes that an access or a message from outside carries -/
  data : List (BitVec 8) := []
  deriving DecidableEq, Repr

/-- A run without hints. -/
def Hints.none : Hints := {}

end Sys2Proof
end

