-- ==== Sys2Proof/WellFormed.lean ====
section
/-! DEFINITION. What makes a step well formed: the part of decode check 2 of R58 that the word alone decides
(03 R40–R46, R51, R54, R60–R62; 09 R172; 12 R227, R242; 19 R393–R398). Register blocks, widths and everything a
hint changes are judged at issue (Machine/Operands.lean). A latch code passes here: check 3 judges it (R58). -/
namespace Sys2Proof

/-- Codes 120–123 name the latches y0–y3 (R41). -/
def isLatch (c : BitVec 7) : Bool := 120 ≤ c.toNat && c.toNat ≤ 123
/-- A destination and its NW bit in majors 0x00–0x1F (R43). -/
def dstLow (d : BitVec 7) (n : Bool) : Bool :=
  if d.toNat < 120 then !n else if isLatch d then n else d == 126#7 && n
/-- A destination and its NW bit in majors 0x20–0x3D, where a latch code is left to check 3 (R43, R58). -/
def dstHigh (d : BitVec 7) (n : Bool) : Bool :=
  if d.toNat < 120 then !n else isLatch d || (d == 126#7 && n)
/-- A destination of the WI form, which has no NW bit (R43). -/
def dstWi (d : BitVec 7) : Bool := d.toNat ≤ 123 || d == 126#7
/-- A field of majors 0x20–0x3D that takes registers alone (R45). -/
def regHigh (d : BitVec 7) : Bool := d.toNat ≤ 123
/-- The per-lane offset of a WM word: a register, k[KSEL] or zero (R45). -/
def voffOk (o : BitVec 7) : Bool := o.toNat ≤ 124 || o == 126#7
/-- The offset operand of the addressed instructions of majors 0x28–0x2B (R293). -/
def offOk (a : BitVec 7) : Bool := a.toNat ≤ 123 || a == 126#7
/-- A pair or a full k register (R176, R385, R428). -/
def pairK (a : BitVec 7) : Bool := a.toNat ≤ 124
/-- A k register, or a latch code left to check 3 (R46). -/
def kReg (d : BitVec 7) : Bool := d.toNat < 64 || isLatch d
/-- A source of major 0x3E (R46). -/
def kSrc (a : BitVec 7) : Bool := kReg a || 125 ≤ a.toNat
/-- Two fields name the same k register (R172). -/
def kSame (d a : BitVec 7) : Bool := d.toNat < 64 && d == a

/-- Decode check 2 of R58 as far as the word alone decides it. DESIGN CHOICE: SRC3 with S3V 0, and KSEL with KV 0, may hold
any value, of which R54 says nothing (log 87). -/
def Instr.wellFormed : Instr → Bool
  | .moduleReset => true
  | .functionLevelReset => true
  | .firmwareCheckDone => true
  | .blockReady => true
  | .columnReady => true
  | .cxlRequestTimeout => true
  | .blockFailure => true
  | .featCommit => true
  | .popArm => true
  | .popData => true
  | .ctxLpageWrite => true
  | .ctxSvcodeWrite => true
  | .arenaPinningStart => true
  | .arenaPinningEnd => true
  | .invRange => true
  | .invRangeRelease => true
  | .invContext => true
  | .invalidationDone => true
  | .biasToDevice => true
  | .biasToHost => true
  | .biasFlipDone => true
  | .devmemCtlWrite => true
  | .ctxFqCtlWrite => true
  | .registerWrite => true
  | .startStampObserved => true
  | .priorityAging => true
  | .placementRound => true
  | .level7Preemption => true
  | .dispatchRunnable => true
  | .rebindWritebackDone => true
  | .amArrival => true
  | .handlerStart => true
  | .amWaitPreemption => true
  | .bundleFormation => true
  | .instructionLineArrival => true
  | .registerFill => true
  | .reconvergenceTimeout => true
  | .stallExpiry => true
  | .yieldDelayEnd => true
  | .fetchSuspensionEnd => true
  | .loadDataReturn => true
  | .storePerformed => true
  | .externalSnoop => true
  | .hostCxlMemAccess => true
  | .monitorPoll => true
  | .atomicLaneApplied => true
  | .cacheMaintenanceDone => true
  | .persistDone => true
  | .copyStart => true
  | .copySectorLanded => true
  | .copyPark => true
  | .copyStampWrite => true
  | .copyRetire => true
  | .waitForWalk => true
  | .clusterIdle => true
  | .matrixRequestComplete => true
  | .tcfgUnitsGranted => true
  | .walkEnd => true
  | .textureSampleEnd => true
  | .optimiserStep => true
  | .radianceCommit => true
  | .generationSwitch => true
  | .controlStoreBankFill => true
  | .loessBatchPost => true
  | .batchDoneObserved => true
  | .preemptionOrder => true
  | .teamStopped => true
  | .rebindRestore => true
  | .halt => true
  | .haltDone => true
  | .resume => true
  | .teardown => true
  | .teardownDone => true
  | .linkPoisonResponse => true
  | .launchComplete => true
  | .powerLimitWrite => true
  | .budgetApplied => true
  | .thermalThrottle => true
  | .thermalUnthrottle => true
  | .thermalTrip => true
  | .thermalPowerOff => true
  | .mbSpdm => true
  | .mbImageChunk => true
  | .mbImageCommit => true
  | .mbKeySet => true
  | .mbKeyClear => true
  | .lossOfPower => true
  | .ximm _ => true
  | .mod g s r _ _ c h y _ => r.toNat ≤ 4 && !(g == 7#3 && s) && c.toNat ≤ 6 && h.toNat ≤ 1 && y.toNat ≤ 23
  | .src v _ k _ => v || k
  | .sched _ _ => true
  | .iadd d _ _ n => dstLow d n
  | .isub d _ _ n => dstLow d n
  | .imul d _ _ n => dstLow d n
  | .imulh d _ _ n => dstLow d n
  | .imad d _ _ n => dstLow d n
  | .iabs d _ n => dstLow d n
  | .imin d _ _ n => dstLow d n
  | .imax d _ _ n => dstLow d n
  | .isad d _ _ n => dstLow d n
  | .lea d _ _ n => dstLow d n
  | .iaddi d a _ => dstWi d && a != 125#7
  | .and d _ _ n => dstLow d n
  | .or d _ _ n => dstLow d n
  | .xor d _ _ n => dstLow d n
  | .andn d _ _ n => dstLow d n
  | .shl d _ _ n => dstLow d n
  | .shr d _ _ n => dstLow d n
  | .sar d _ _ n => dstLow d n
  | .rot d _ _ n => dstLow d n
  | .fshf d _ _ n => dstLow d n
  | .bfx d _ _ n => dstLow d n
  | .bfi d _ _ n => dstLow d n
  | .bperm d _ _ n => dstLow d n
  | .popc d _ n => dstLow d n
  | .clz d _ n => dstLow d n
  | .ctz d _ n => dstLow d n
  | .brev d _ n => dstLow d n
  | .plop p _ _ _ => p != 7#3
  | .sel d _ _ n => dstLow d n
  | .mov d _ n => dstLow d n
  | .movs d s n => dstLow d n && s.toNat ≤ 10
  | .isetp p _ _ c => p != 7#3 && c.toNat ≤ 5
  | .fadd d _ _ n => dstLow d n
  | .fsub d _ _ n => dstLow d n
  | .fmul d _ _ n => dstLow d n
  | .ffma d _ _ n => dstLow d n
  | .fmin d _ _ n => dstLow d n
  | .fmax d _ _ n => dstLow d n
  | .fclass d _ n => dstLow d n
  | .fscale d _ _ n => dstLow d n
  | .frnd d _ n => dstLow d n
  | .fdp2 d _ _ n => dstLow d n
  | .dp4a d _ _ n => dstLow d n
  | .hadd2 d _ _ n => dstLow d n
  | .hmul2 d _ _ n => dstLow d n
  | .hfma2 d _ _ n => dstLow d n
  | .hmax2 d _ _ n => dstLow d n
  | .fsetp p _ _ c => p != 7#3 && c.toNat ≤ 13
  | .dadd d _ _ n => dstLow d n
  | .dmul d _ _ n => dstLow d n
  | .dfma d _ _ n => dstLow d n
  | .dmin d _ _ n => dstLow d n
  | .dmax d _ _ n => dstLow d n
  | .drcp d _ n => dstLow d n
  | .drsq d _ n => dstLow d n
  | .dsetp p _ _ c => p != 7#3 && c.toNat ≤ 13
  | .frcp d _ n => dstLow d n
  | .frsq d _ n => dstLow d n
  | .fsqrt d _ n => dstLow d n
  | .fex2 d _ n => dstLow d n
  | .flg2 d _ n => dstLow d n
  | .fsin d _ n => dstLow d n
  | .fcos d _ n => dstLow d n
  | .ftanh d _ n => dstLow d n
  | .f2i d _ n => dstLow d n
  | .i2f d _ n => dstLow d n
  | .f2f d _ n => dstLow d n
  | .fpack d _ _ n => dstLow d n
  | .d2f d _ n => dstLow d n
  | .f2d d _ n => dstLow d n
  | .ld d _ o _ => regHigh d && voffOk o
  | .st d _ o _ => d != 125#7 && voffOk o
  | .lds d _ o _ => regHigh d && voffOk o
  | .sts d _ o _ => d != 125#7 && voffOk o
  | .ldk d k _ => d != k
  | .pref _ o _ => voffOk o
  | .cflush _ o _ => voffOk o
  | .cinv _ o _ => voffOk o
  | .persist _ o _ => voffOk o
  | .atom d a b o => regHigh d && offOk a && b != 125#7 && o.toNat ≤ 8
  | .red a b o => offOk a && b != 125#7 && o.toNat ≤ 8 && o != 6#4
  | .atoms d a b o => regHigh d && offOk a && b != 125#7 && o.toNat ≤ 8
  | .reds a b o => offOk a && b != 125#7 && o.toNat ≤ 8 && o != 6#4
  | .atomcas d a b => regHigh d && offOk a && b != 125#7
  | .atomscas d a b => regHigh d && offOk a && b != 125#7
  | .waitc d a b n => dstHigh d n && offOk a && b != 125#7
  | .wdecl d a b n => dstHigh d n && offOk a && b != 125#7
  | .fence => true
  | .bind d a b n => dstHigh d n && offOk a && regHigh b
  | .unbind d a b n => dstHigh d n && offOk a && (regHigh b || b == 126#7)
  | .acq d a n => dstHigh d n && offOk a
  | .rel a b => offOk a && (regHigh b || b == 126#7 || b == 127#7)
  | .bar d _ n => dstHigh d n
  | .cbarArv d n => dstHigh d n
  | .cbarWait d _ n => dstHigh d n
  | .cpy a b => regHigh a && regHigh b
  | .cpyg a b => regHigh a && regHigh b
  | .cpys a b => regHigh a && regHigh b
  | .cpym a b => regHigh a && regHigh b
  | .tbarInit a _ => a != 127#7
  | .tbarExp a b => a != 127#7 && b != 126#7 && b != 127#7
  | .tbarAck a => a != 127#7
  | .tbarWait d a _ n => dstHigh d n && a != 127#7
  | .tcfg d a n => dstHigh d n && a != 127#7
  | .tzero d _ n => dstHigh d n
  | .tld d a b n => dstHigh d n && a != 127#7 && b != 127#7
  | .tst a b => a != 127#7 && b != 127#7
  | .mma d a n => dstHigh d n && a != 127#7
  | .tact d a n => dstHigh d n && a != 127#7
  | .twait d _ n => dstHigh d n
  | .bxu d a b => regHigh d && regHigh a && regHigh b
  | .bsah d a _ => regHigh d && regHigh a
  | .npack d a b => regHigh d && regHigh a && regHigh b
  | .trace d a => regHigh d && regHigh a
  | .beam d a n => dstHigh d n && a != 127#7
  | .cov d a n => dstHigh d n && a != 127#7
  | .tex d a _ => regHigh d && regHigh a
  | .texg d a _ => regHigh d && regHigh a
  | .texq d a _ => regHigh d && regHigh a
  | .qrc d a => regHigh d && regHigh a
  | .rccfgLoad d a n => dstHigh d n && pairK a
  | .rccfgSave d a n => dstHigh d n && pairK a
  | .rccfgRelease d a n => dstHigh d n && (pairK a || a == 126#7)
  | .rcgen d n => dstHigh d n
  | .bra p s _ _ => !(p == 7#3 && s)
  | .braD p s _ _ => !(p == 7#3 && s)
  | .join => true
  | .call d a n => dstHigh d n && (pairK a || a == 125#7)
  | .ret a => pairK a
  | .exit => true
  | .exitH => true
  | .yield _ => true
  | .nop => true
  | .brx a => pairK a
  | .trap d a _ n => dstHigh d n && (a.toNat ≤ 112 || isLatch a || a == 126#7)
  | .svret d _ _ n => dstHigh d n
  | .bpt _ => true
  | .launch d a n => dstHigh d n && pairK a
  | .sendam d a b n => dstHigh d n && pairK a && (regHigh b || b == 126#7)
  | .csrr d _ => regHigh d
  | .csrw _ b => regHigh b || b == 124#7 || b == 126#7 || b == 127#7
  | .rplget d _ => regHigh d
  | .rplrun d a n => dstHigh d n && pairK a
  | .csload d a n => dstHigh d n && pairK a
  | .csloadClear d n => dstHigh d n
  | .vote d _ _ _ n => dstHigh d n
  | .matchVal d _ _ n => dstHigh d n
  | .shfl d _ _ n => dstHigh d n
  | .gred d _ _ n => dstHigh d n
  | .elect d _ n => dstHigh d n
  | .xop _ d _ _ n _ => dstHigh d n
  | .kmov d a => kReg d && kSrc a && !kSame d a
  | .kadd d a b => kReg d && kSrc a && kSrc b && !kSame d a && !kSame d b
  | .kaddi d a _ => kReg d && kSrc a && !kSame d a
  | .kshl d a b => kReg d && kSrc a && kSrc b && !kSame d a && !kSame d b
  | .kand d a b => kReg d && kSrc a && kSrc b && !kSame d a && !kSame d b
  | .kfromv d _ => kReg d
  | .uadd _ _ _ => true
  | .usub _ _ _ => true
  | .uand _ _ _ => true
  | .uor _ _ _ => true
  | .uxor _ _ _ => true
  | .ushl _ _ _ => true
  | .ushr _ _ _ => true
  | .usar _ _ _ => true
  | .umul _ _ _ => true
  | .uaddi _ _ _ => true
  | .umovi _ _ => true
  | .uhi _ _ _ => true
  | .ufadd _ _ _ t r _ => t.toNat ≤ 1 && r.toNat ≤ 4
  | .ufsub _ _ _ t r _ => t.toNat ≤ 1 && r.toNat ≤ 4
  | .ufmul _ _ _ t r _ => t.toNat ≤ 1 && r.toNat ≤ 4
  | .ufma _ _ _ t r _ => t.toNat ≤ 1 && r.toNat ≤ 4
  | .ufmin _ _ _ t => t.toNat ≤ 1
  | .ufmax _ _ _ t => t.toNat ≤ 1
  | .ucvt _ _ t r _ u => t.toNat ≤ 7 && u.toNat ≤ 7 && r.toNat ≤ 4
  | .ucmp _ _ _ t c => t.toNat ≤ 7 && c.toNat ≤ (if t.toNat ≤ 3 then 13 else 5)
  | .urdv _ _ _ w => w != 3#2
  | .uwrv _ _ w => w == 0#2 || w == 2#2
  | .urdk _ _ => true
  | .uld _ _ _ _ => true
  | .uprobe _ _ _ => true
  | .ust _ _ _ _ => true
  | .ubr a c o => c != 3#2 && o != 0#10 && (c != 0#2 || a == 0#3)
  | .uloop _ m l => m != 0#4 && l != 0#5
  | .uend => true
  | .utrap _ => true

end Sys2Proof
end

