-- ==== Sys2Proof/Decode.lean ====
section
/-! DEFINITION. The decoder and, after it, the encoder (03 R39–R62, 19 R393). Every field is cut out here, once.
A word that decodes to no well-formed step is refused by name: ILLEGAL, or LATCH where only a latch code in a
field that admits no register stands in the way (R56, R58). Rows that share a word (BRA and BRA_D, EXIT and EXIT_H,
CSLOAD and CSLOAD_CLEAR, the three RCCFG rows) are told apart by XMOD of the run's MOD hint (R55, R179, R385, R404). -/
namespace Sys2Proof

/-- Field of `len` bits whose lowest bit is bit `lo` (R1). -/
def fld (w : BitVec 32) (lo len : Nat) : BitVec len := w.extractLsb' lo len
/-- Bit `i` of a word. -/
def bitAt (w : BitVec 32) (i : Nat) : Bool := w.getLsbD i
/-- The MOD payload of a run: the default in every field when there is no MOD (R51). -/
def Hints.modWord (h : Hints) : BitVec 24 := h.mod.getD 0xE00000#24
/-- XMOD of the run (R51). -/
def Hints.xmod (h : Hints) : BitVec 5 := h.modWord.extractLsb' 0 5
/-- Bit `i` of XMOD. -/
def xmodBit (h : Hints) (i : Nat) : Bool := h.xmod.getLsbD i
/-- XMOD[1:0]. -/
def xmodLow2 (h : Hints) : BitVec 2 := h.xmod.extractLsb' 0 2

/-- Why a word is no step. -/
inductive Reject where
  /-- Check 2 of R58: the word traps with ILLEGAL. -/
  | illegal
  /-- Check 3 of R58: but for a latch code in its dst field the word would be `i`. -/
  | latch (i : Instr)
  deriving DecidableEq, Repr

/-- Words of major 0x00 (R59). -/
def shape00 (w : BitVec 32) : Option Instr :=
  if fld w 5 7 = 0 ∧ fld w 0 4 = 6 then some (.iabs (fld w 19 7) (fld w 12 7) (bitAt w 4))
  else if fld w 0 4 = 1 then some (.iadd (fld w 19 7) (fld w 12 7) (fld w 5 7) (bitAt w 4))
  else if fld w 0 4 = 2 then some (.isub (fld w 19 7) (fld w 12 7) (fld w 5 7) (bitAt w 4))
  else if fld w 0 4 = 3 then some (.imul (fld w 19 7) (fld w 12 7) (fld w 5 7) (bitAt w 4))
  else if fld w 0 4 = 4 then some (.imulh (fld w 19 7) (fld w 12 7) (fld w 5 7) (bitAt w 4))
  else if fld w 0 4 = 5 then some (.imad (fld w 19 7) (fld w 12 7) (fld w 5 7) (bitAt w 4))
  else if fld w 0 4 = 7 then some (.imin (fld w 19 7) (fld w 12 7) (fld w 5 7) (bitAt w 4))
  else if fld w 0 4 = 8 then some (.imax (fld w 19 7) (fld w 12 7) (fld w 5 7) (bitAt w 4))
  else if fld w 0 4 = 9 then some (.isad (fld w 19 7) (fld w 12 7) (fld w 5 7) (bitAt w 4))
  else if fld w 0 4 = 10 then some (.lea (fld w 19 7) (fld w 12 7) (fld w 5 7) (bitAt w 4))
  else none

/-- Words of major 0x01 (R59). -/
def shape01 (w : BitVec 32) : Option Instr :=
  some (.iaddi (fld w 19 7) (fld w 12 7) (fld w 0 12))

/-- Words of major 0x02 (R59). -/
def shape02 (w : BitVec 32) : Option Instr :=
  if fld w 0 4 = 0 then some (.and (fld w 19 7) (fld w 12 7) (fld w 5 7) (bitAt w 4))
  else if fld w 0 4 = 1 then some (.or (fld w 19 7) (fld w 12 7) (fld w 5 7) (bitAt w 4))
  else if fld w 0 4 = 2 then some (.xor (fld w 19 7) (fld w 12 7) (fld w 5 7) (bitAt w 4))
  else if fld w 0 4 = 3 then some (.andn (fld w 19 7) (fld w 12 7) (fld w 5 7) (bitAt w 4))
  else if fld w 0 4 = 4 then some (.shl (fld w 19 7) (fld w 12 7) (fld w 5 7) (bitAt w 4))
  else if fld w 0 4 = 5 then some (.shr (fld w 19 7) (fld w 12 7) (fld w 5 7) (bitAt w 4))
  else if fld w 0 4 = 6 then some (.sar (fld w 19 7) (fld w 12 7) (fld w 5 7) (bitAt w 4))
  else if fld w 0 4 = 7 then some (.rot (fld w 19 7) (fld w 12 7) (fld w 5 7) (bitAt w 4))
  else if fld w 0 4 = 8 then some (.fshf (fld w 19 7) (fld w 12 7) (fld w 5 7) (bitAt w 4))
  else if fld w 0 4 = 9 then some (.bfx (fld w 19 7) (fld w 12 7) (fld w 5 7) (bitAt w 4))
  else if fld w 0 4 = 10 then some (.bfi (fld w 19 7) (fld w 12 7) (fld w 5 7) (bitAt w 4))
  else if fld w 0 4 = 11 then some (.bperm (fld w 19 7) (fld w 12 7) (fld w 5 7) (bitAt w 4))
  else none

/-- Words of major 0x03 (R59). -/
def shape03 (w : BitVec 32) : Option Instr :=
  if fld w 5 7 = 0 ∧ fld w 0 4 = 0 then some (.popc (fld w 19 7) (fld w 12 7) (bitAt w 4))
  else if fld w 5 7 = 0 ∧ fld w 0 4 = 1 then some (.clz (fld w 19 7) (fld w 12 7) (bitAt w 4))
  else if fld w 5 7 = 0 ∧ fld w 0 4 = 2 then some (.ctz (fld w 19 7) (fld w 12 7) (bitAt w 4))
  else if fld w 5 7 = 0 ∧ fld w 0 4 = 3 then some (.brev (fld w 19 7) (fld w 12 7) (bitAt w 4))
  else none

/-- Words of major 0x04 (R59). -/
def shape04 (w : BitVec 32) : Option Instr :=
  if fld w 19 4 = 0 ∧ fld w 8 4 = 0 ∧ fld w 0 5 = 0 then some (.plop (fld w 23 3) (fld w 15 4) (fld w 12 3) (fld w 5 3))
  else if fld w 5 7 = 0 ∧ fld w 0 4 = 2 then some (.mov (fld w 19 7) (fld w 12 7) (bitAt w 4))
  else if fld w 5 7 = 0 ∧ fld w 0 4 = 3 then some (.movs (fld w 19 7) (fld w 12 7) (bitAt w 4))
  else if fld w 0 4 = 1 then some (.sel (fld w 19 7) (fld w 12 7) (fld w 5 7) (bitAt w 4))
  else none

/-- Words of major 0x05 (R59). -/
def shape05 (w : BitVec 32) : Option Instr :=
  if fld w 19 4 = 0 ∧ fld w 4 1 = 0 then some (.isetp (fld w 23 3) (fld w 12 7) (fld w 5 7) (fld w 0 4))
  else none

/-- Words of major 0x10 (R59). -/
def shape10 (w : BitVec 32) : Option Instr :=
  if fld w 5 7 = 0 ∧ fld w 0 4 = 6 then some (.fclass (fld w 19 7) (fld w 12 7) (bitAt w 4))
  else if fld w 5 7 = 0 ∧ fld w 0 4 = 8 then some (.frnd (fld w 19 7) (fld w 12 7) (bitAt w 4))
  else if fld w 0 4 = 0 then some (.fadd (fld w 19 7) (fld w 12 7) (fld w 5 7) (bitAt w 4))
  else if fld w 0 4 = 1 then some (.fsub (fld w 19 7) (fld w 12 7) (fld w 5 7) (bitAt w 4))
  else if fld w 0 4 = 2 then some (.fmul (fld w 19 7) (fld w 12 7) (fld w 5 7) (bitAt w 4))
  else if fld w 0 4 = 3 then some (.ffma (fld w 19 7) (fld w 12 7) (fld w 5 7) (bitAt w 4))
  else if fld w 0 4 = 4 then some (.fmin (fld w 19 7) (fld w 12 7) (fld w 5 7) (bitAt w 4))
  else if fld w 0 4 = 5 then some (.fmax (fld w 19 7) (fld w 12 7) (fld w 5 7) (bitAt w 4))
  else if fld w 0 4 = 7 then some (.fscale (fld w 19 7) (fld w 12 7) (fld w 5 7) (bitAt w 4))
  else if fld w 0 4 = 9 then some (.fdp2 (fld w 19 7) (fld w 12 7) (fld w 5 7) (bitAt w 4))
  else if fld w 0 4 = 10 then some (.dp4a (fld w 19 7) (fld w 12 7) (fld w 5 7) (bitAt w 4))
  else none

/-- Words of major 0x11 (R59). -/
def shape11 (w : BitVec 32) : Option Instr :=
  if fld w 0 4 = 0 then some (.hadd2 (fld w 19 7) (fld w 12 7) (fld w 5 7) (bitAt w 4))
  else if fld w 0 4 = 1 then some (.hmul2 (fld w 19 7) (fld w 12 7) (fld w 5 7) (bitAt w 4))
  else if fld w 0 4 = 2 then some (.hfma2 (fld w 19 7) (fld w 12 7) (fld w 5 7) (bitAt w 4))
  else if fld w 0 4 = 3 then some (.hmax2 (fld w 19 7) (fld w 12 7) (fld w 5 7) (bitAt w 4))
  else none

/-- Words of major 0x12 (R59). -/
def shape12 (w : BitVec 32) : Option Instr :=
  if fld w 19 4 = 0 ∧ fld w 4 1 = 0 then some (.fsetp (fld w 23 3) (fld w 12 7) (fld w 5 7) (fld w 0 4))
  else none

/-- Words of major 0x18 (R59). -/
def shape18 (w : BitVec 32) : Option Instr :=
  if fld w 5 7 = 0 ∧ fld w 0 4 = 5 then some (.drcp (fld w 19 7) (fld w 12 7) (bitAt w 4))
  else if fld w 5 7 = 0 ∧ fld w 0 4 = 6 then some (.drsq (fld w 19 7) (fld w 12 7) (bitAt w 4))
  else if fld w 0 4 = 0 then some (.dadd (fld w 19 7) (fld w 12 7) (fld w 5 7) (bitAt w 4))
  else if fld w 0 4 = 1 then some (.dmul (fld w 19 7) (fld w 12 7) (fld w 5 7) (bitAt w 4))
  else if fld w 0 4 = 2 then some (.dfma (fld w 19 7) (fld w 12 7) (fld w 5 7) (bitAt w 4))
  else if fld w 0 4 = 3 then some (.dmin (fld w 19 7) (fld w 12 7) (fld w 5 7) (bitAt w 4))
  else if fld w 0 4 = 4 then some (.dmax (fld w 19 7) (fld w 12 7) (fld w 5 7) (bitAt w 4))
  else none

/-- Words of major 0x19 (R59). -/
def shape19 (w : BitVec 32) : Option Instr :=
  if fld w 19 4 = 0 ∧ fld w 4 1 = 0 then some (.dsetp (fld w 23 3) (fld w 12 7) (fld w 5 7) (fld w 0 4))
  else none

/-- Words of major 0x1C (R59). -/
def shape1C (w : BitVec 32) : Option Instr :=
  if fld w 5 7 = 0 ∧ fld w 0 4 = 0 then some (.frcp (fld w 19 7) (fld w 12 7) (bitAt w 4))
  else if fld w 5 7 = 0 ∧ fld w 0 4 = 1 then some (.frsq (fld w 19 7) (fld w 12 7) (bitAt w 4))
  else if fld w 5 7 = 0 ∧ fld w 0 4 = 2 then some (.fsqrt (fld w 19 7) (fld w 12 7) (bitAt w 4))
  else if fld w 5 7 = 0 ∧ fld w 0 4 = 3 then some (.fex2 (fld w 19 7) (fld w 12 7) (bitAt w 4))
  else if fld w 5 7 = 0 ∧ fld w 0 4 = 4 then some (.flg2 (fld w 19 7) (fld w 12 7) (bitAt w 4))
  else if fld w 5 7 = 0 ∧ fld w 0 4 = 5 then some (.fsin (fld w 19 7) (fld w 12 7) (bitAt w 4))
  else if fld w 5 7 = 0 ∧ fld w 0 4 = 6 then some (.fcos (fld w 19 7) (fld w 12 7) (bitAt w 4))
  else if fld w 5 7 = 0 ∧ fld w 0 4 = 7 then some (.ftanh (fld w 19 7) (fld w 12 7) (bitAt w 4))
  else none

/-- Words of major 0x1D (R59). -/
def shape1D (w : BitVec 32) : Option Instr :=
  if fld w 5 7 = 0 ∧ fld w 0 4 = 0 then some (.f2i (fld w 19 7) (fld w 12 7) (bitAt w 4))
  else if fld w 5 7 = 0 ∧ fld w 0 4 = 1 then some (.i2f (fld w 19 7) (fld w 12 7) (bitAt w 4))
  else if fld w 5 7 = 0 ∧ fld w 0 4 = 2 then some (.f2f (fld w 19 7) (fld w 12 7) (bitAt w 4))
  else if fld w 5 7 = 0 ∧ fld w 0 4 = 4 then some (.d2f (fld w 19 7) (fld w 12 7) (bitAt w 4))
  else if fld w 5 7 = 0 ∧ fld w 0 4 = 5 then some (.f2d (fld w 19 7) (fld w 12 7) (bitAt w 4))
  else if fld w 0 4 = 3 then some (.fpack (fld w 19 7) (fld w 12 7) (fld w 5 7) (bitAt w 4))
  else none

/-- Words of major 0x20 (R59). -/
def shape20 (w : BitVec 32) : Option Instr :=
  some (.ld (fld w 19 7) (fld w 13 6) (fld w 6 7) (fld w 0 6))

/-- Words of major 0x21 (R59). -/
def shape21 (w : BitVec 32) : Option Instr :=
  some (.st (fld w 19 7) (fld w 13 6) (fld w 6 7) (fld w 0 6))

/-- Words of major 0x22 (R59). -/
def shape22 (w : BitVec 32) : Option Instr :=
  some (.lds (fld w 19 7) (fld w 13 6) (fld w 6 7) (fld w 0 6))

/-- Words of major 0x23 (R59). -/
def shape23 (w : BitVec 32) : Option Instr :=
  some (.sts (fld w 19 7) (fld w 13 6) (fld w 6 7) (fld w 0 6))

/-- Words of major 0x24 (R59). -/
def shape24 (w : BitVec 32) : Option Instr :=
  if fld w 25 1 = 0 ∧ fld w 6 7 = 126 then some (.ldk (fld w 19 6) (fld w 13 6) (fld w 0 6))
  else none

/-- Words of major 0x25 (R59). -/
def shape25 (w : BitVec 32) : Option Instr :=
  if fld w 19 7 = 126 then some (.pref (fld w 13 6) (fld w 6 7) (fld w 0 6))
  else none

/-- Words of major 0x26 (R59). -/
def shape26 (w : BitVec 32) : Option Instr :=
  if fld w 19 7 = 0 then some (.cflush (fld w 13 6) (fld w 6 7) (fld w 0 6))
  else if fld w 19 7 = 1 then some (.cinv (fld w 13 6) (fld w 6 7) (fld w 0 6))
  else if fld w 19 7 = 2 then some (.persist (fld w 13 6) (fld w 6 7) (fld w 0 6))
  else none

/-- Words of major 0x28 (R59). -/
def shape28 (w : BitVec 32) : Option Instr :=
  if fld w 19 7 = 126 ∧ fld w 4 1 = 1 then some (.red (fld w 12 7) (fld w 5 7) (fld w 0 4))
  else if fld w 4 1 = 0 then some (.atom (fld w 19 7) (fld w 12 7) (fld w 5 7) (fld w 0 4))
  else none

/-- Words of major 0x29 (R59). -/
def shape29 (w : BitVec 32) : Option Instr :=
  if fld w 19 7 = 126 ∧ fld w 4 1 = 1 then some (.reds (fld w 12 7) (fld w 5 7) (fld w 0 4))
  else if fld w 4 1 = 0 then some (.atoms (fld w 19 7) (fld w 12 7) (fld w 5 7) (fld w 0 4))
  else none

/-- Words of major 0x2A (R59). -/
def shape2A (w : BitVec 32) : Option Instr :=
  if fld w 0 5 = 0 then some (.atomcas (fld w 19 7) (fld w 12 7) (fld w 5 7))
  else if fld w 0 5 = 1 then some (.atomscas (fld w 19 7) (fld w 12 7) (fld w 5 7))
  else if fld w 0 4 = 2 then some (.waitc (fld w 19 7) (fld w 12 7) (fld w 5 7) (bitAt w 4))
  else if fld w 0 4 = 3 then some (.wdecl (fld w 19 7) (fld w 12 7) (fld w 5 7) (bitAt w 4))
  else none

/-- Words of major 0x2B (R59). -/
def shape2B (w : BitVec 32) : Option Instr :=
  if fld w 0 26 = 0 then some (.fence)
  else if fld w 5 14 = 0 ∧ fld w 0 4 = 6 then some (.cbarArv (fld w 19 7) (bitAt w 4))
  else if fld w 19 7 = 126 ∧ fld w 0 5 = 20 then some (.rel (fld w 12 7) (fld w 5 7))
  else if fld w 5 7 = 0 ∧ fld w 0 4 = 3 then some (.acq (fld w 19 7) (fld w 12 7) (bitAt w 4))
  else if fld w 5 7 = 0 ∧ fld w 0 4 = 5 then some (.bar (fld w 19 7) (fld w 12 7) (bitAt w 4))
  else if fld w 5 7 = 0 ∧ fld w 0 4 = 7 then some (.cbarWait (fld w 19 7) (fld w 12 7) (bitAt w 4))
  else if fld w 0 4 = 1 then some (.bind (fld w 19 7) (fld w 12 7) (fld w 5 7) (bitAt w 4))
  else if fld w 0 4 = 2 then some (.unbind (fld w 19 7) (fld w 12 7) (fld w 5 7) (bitAt w 4))
  else none

/-- Words of major 0x2C (R59). -/
def shape2C (w : BitVec 32) : Option Instr :=
  if fld w 19 7 = 126 ∧ fld w 0 5 = 16 then some (.cpy (fld w 12 7) (fld w 5 7))
  else if fld w 19 7 = 126 ∧ fld w 0 5 = 17 then some (.cpyg (fld w 12 7) (fld w 5 7))
  else if fld w 19 7 = 126 ∧ fld w 0 5 = 18 then some (.cpys (fld w 12 7) (fld w 5 7))
  else if fld w 19 7 = 126 ∧ fld w 0 5 = 19 then some (.cpym (fld w 12 7) (fld w 5 7))
  else none

/-- Words of major 0x2D (R59). -/
def shape2D (w : BitVec 32) : Option Instr :=
  if fld w 19 7 = 126 ∧ fld w 0 12 = 18 then some (.tbarAck (fld w 12 7))
  else if fld w 19 7 = 126 ∧ fld w 0 5 = 16 then some (.tbarInit (fld w 12 7) (fld w 5 7))
  else if fld w 19 7 = 126 ∧ fld w 0 5 = 17 then some (.tbarExp (fld w 12 7) (fld w 5 7))
  else if fld w 0 4 = 3 then some (.tbarWait (fld w 19 7) (fld w 12 7) (fld w 5 7) (bitAt w 4))
  else none

/-- Words of major 0x2E (R59). -/
def shape2E (w : BitVec 32) : Option Instr :=
  if fld w 19 7 = 126 ∧ fld w 0 5 = 19 then some (.tst (fld w 12 7) (fld w 5 7))
  else if fld w 5 7 = 0 ∧ fld w 0 4 = 0 then some (.tcfg (fld w 19 7) (fld w 12 7) (bitAt w 4))
  else if fld w 5 7 = 0 ∧ fld w 0 4 = 1 then some (.tzero (fld w 19 7) (fld w 12 7) (bitAt w 4))
  else if fld w 5 7 = 0 ∧ fld w 0 4 = 4 then some (.mma (fld w 19 7) (fld w 12 7) (bitAt w 4))
  else if fld w 5 7 = 0 ∧ fld w 0 4 = 5 then some (.tact (fld w 19 7) (fld w 12 7) (bitAt w 4))
  else if fld w 5 7 = 0 ∧ fld w 0 4 = 6 then some (.twait (fld w 19 7) (fld w 12 7) (bitAt w 4))
  else if fld w 0 4 = 2 then some (.tld (fld w 19 7) (fld w 12 7) (fld w 5 7) (bitAt w 4))
  else none

/-- Words of major 0x30 (R59). -/
def shape30 (w : BitVec 32) : Option Instr :=
  if fld w 0 5 = 0 then some (.bxu (fld w 19 7) (fld w 12 7) (fld w 5 7))
  else if fld w 0 5 = 1 then some (.bsah (fld w 19 7) (fld w 12 7) (fld w 5 7))
  else if fld w 0 5 = 2 then some (.npack (fld w 19 7) (fld w 12 7) (fld w 5 7))
  else none

/-- Words of major 0x31 (R59). -/
def shape31 (w : BitVec 32) : Option Instr :=
  if fld w 0 12 = 0 then some (.trace (fld w 19 7) (fld w 12 7))
  else if fld w 5 7 = 0 ∧ fld w 0 4 = 1 then some (.beam (fld w 19 7) (fld w 12 7) (bitAt w 4))
  else if fld w 5 7 = 0 ∧ fld w 0 4 = 2 then some (.cov (fld w 19 7) (fld w 12 7) (bitAt w 4))
  else none

/-- Words of major 0x32 (R59). -/
def shape32 (w : BitVec 32) : Option Instr :=
  if fld w 0 5 = 0 then some (.tex (fld w 19 7) (fld w 12 7) (fld w 5 7))
  else if fld w 0 5 = 1 then some (.texg (fld w 19 7) (fld w 12 7) (fld w 5 7))
  else if fld w 0 5 = 2 then some (.texq (fld w 19 7) (fld w 12 7) (fld w 5 7))
  else none

/-- Words of major 0x33 (R59). -/
def shape33 (h : Hints) (w : BitVec 32) : Option Instr :=
  if fld w 5 14 = 0 ∧ fld w 0 4 = 2 then some (.rcgen (fld w 19 7) (bitAt w 4))
  else if fld w 0 12 = 0 then some (.qrc (fld w 19 7) (fld w 12 7))
  else if fld w 5 7 = 0 ∧ fld w 0 4 = 1 ∧ xmodLow2 h = 0#2 then some (.rccfgLoad (fld w 19 7) (fld w 12 7) (bitAt w 4))
  else if fld w 5 7 = 0 ∧ fld w 0 4 = 1 ∧ xmodLow2 h = 1#2 then some (.rccfgSave (fld w 19 7) (fld w 12 7) (bitAt w 4))
  else if fld w 5 7 = 0 ∧ fld w 0 4 = 1 ∧ xmodLow2 h = 2#2 then some (.rccfgRelease (fld w 19 7) (fld w 12 7) (bitAt w 4))
  else none

/-- Words of major 0x34 (R59). -/
def shape34 (h : Hints) (w : BitVec 32) : Option Instr :=
  if !xmodBit h 0 then some (.bra (fld w 23 3) (bitAt w 22) (bitAt w 21) (fld w 0 21))
  else if xmodBit h 0 then some (.braD (fld w 23 3) (bitAt w 22) (bitAt w 21) (fld w 0 21))
  else none

/-- Words of major 0x35 (R59). -/
def shape35 (h : Hints) (w : BitVec 32) : Option Instr :=
  if fld w 0 26 = 0 then some (.join)
  else if fld w 0 26 = 3 ∧ !xmodBit h 0 then some (.exit)
  else if fld w 0 26 = 3 ∧ xmodBit h 0 then some (.exitH)
  else if fld w 0 26 = 5 then some (.nop)
  else if fld w 19 7 = 0 ∧ fld w 0 12 = 2 then some (.ret (fld w 12 7))
  else if fld w 19 7 = 0 ∧ fld w 0 12 = 4 then some (.yield (fld w 12 7))
  else if fld w 19 7 = 0 ∧ fld w 0 12 = 6 then some (.brx (fld w 12 7))
  else if fld w 5 7 = 0 ∧ fld w 0 4 = 1 then some (.call (fld w 19 7) (fld w 12 7) (bitAt w 4))
  else none

/-- Words of major 0x36 (R59). -/
def shape36 (h : Hints) (w : BitVec 32) : Option Instr :=
  if fld w 12 14 = 0 ∧ fld w 0 5 = 2 then some (.bpt (fld w 5 7))
  else if fld w 5 14 = 16128 ∧ fld w 0 4 = 9 ∧ xmodBit h 0 then some (.csloadClear (fld w 19 7) (bitAt w 4))
  else if fld w 0 12 = 5 then some (.csrr (fld w 19 7) (fld w 12 7))
  else if fld w 19 7 = 126 ∧ fld w 0 5 = 22 then some (.csrw (fld w 12 7) (fld w 5 7))
  else if fld w 0 12 = 7 then some (.rplget (fld w 19 7) (fld w 12 7))
  else if fld w 5 7 = 0 ∧ fld w 0 4 = 3 then some (.launch (fld w 19 7) (fld w 12 7) (bitAt w 4))
  else if fld w 5 7 = 0 ∧ fld w 0 4 = 8 then some (.rplrun (fld w 19 7) (fld w 12 7) (bitAt w 4))
  else if fld w 5 7 = 0 ∧ fld w 0 4 = 9 ∧ !xmodBit h 0 then some (.csload (fld w 19 7) (fld w 12 7) (bitAt w 4))
  else if fld w 0 4 = 0 then some (.trap (fld w 19 7) (fld w 12 7) (fld w 5 7) (bitAt w 4))
  else if fld w 0 4 = 1 then some (.svret (fld w 19 7) (fld w 12 7) (fld w 5 7) (bitAt w 4))
  else if fld w 0 4 = 4 then some (.sendam (fld w 19 7) (fld w 12 7) (fld w 5 7) (bitAt w 4))
  else none

/-- Words of major 0x37 (R59). -/
def shape37 (w : BitVec 32) : Option Instr :=
  if fld w 5 7 = 0 ∧ fld w 0 4 = 4 then some (.elect (fld w 19 7) (fld w 12 7) (bitAt w 4))
  else if fld w 9 3 = 0 ∧ fld w 0 4 = 0 then some (.vote (fld w 19 7) (fld w 12 7) (bitAt w 8) (fld w 5 3) (bitAt w 4))
  else if fld w 0 4 = 1 then some (.matchVal (fld w 19 7) (fld w 12 7) (fld w 5 7) (bitAt w 4))
  else if fld w 0 4 = 2 then some (.shfl (fld w 19 7) (fld w 12 7) (fld w 5 7) (bitAt w 4))
  else if fld w 0 4 = 3 then some (.gred (fld w 19 7) (fld w 12 7) (fld w 5 7) (bitAt w 4))
  else none

/-- Words of major 0x38, 0x39, 0x3A, 0x3B (R59). -/
def shape38 (w : BitVec 32) : Option Instr :=
  some (.xop (fld w 26 2) (fld w 19 7) (fld w 12 7) (fld w 5 7) (bitAt w 4) (fld w 0 4))

/-- Words of major 0x3E (R59). -/
def shape3E (w : BitVec 32) : Option Instr :=
  if fld w 0 12 = 0 then some (.kmov (fld w 19 7) (fld w 12 7))
  else if fld w 0 12 = 5 then some (.kfromv (fld w 19 7) (fld w 12 7))
  else if fld w 0 5 = 1 then some (.kadd (fld w 19 7) (fld w 12 7) (fld w 5 7))
  else if fld w 0 5 = 2 then some (.kaddi (fld w 19 7) (fld w 12 7) (fld w 5 7))
  else if fld w 0 5 = 3 then some (.kshl (fld w 19 7) (fld w 12 7) (fld w 5 7))
  else if fld w 0 5 = 4 then some (.kand (fld w 19 7) (fld w 12 7) (fld w 5 7))
  else none

/-- Words of major 0x3F (R59). -/
def shape3F (w : BitVec 32) : Option Instr :=
  if fld w 24 2 = 3 ∧ fld w 0 19 = 0 then some (.sched (fld w 20 4) (bitAt w 19))
  else if fld w 24 2 = 2 ∧ fld w 0 9 = 0 then some (.src (bitAt w 23) (fld w 16 7) (bitAt w 15) (fld w 9 6))
  else if fld w 24 2 = 0 then some (.ximm (fld w 0 24))
  else if fld w 24 2 = 1 then some (.mod (fld w 21 3) (bitAt w 20) (fld w 17 3) (bitAt w 16) (bitAt w 15) (fld w 12 3) (fld w 10 2) (fld w 5 5) (fld w 0 5))
  else none

/-- The bundle-issued step that a word of a given major stands for, fields cut out, before the well-formedness
check: the opcode map of R59, a major a line. -/
def decodeShape (h : Hints) (w : BitVec 32) : Option Instr :=
  match (fld w 26 6).toNat with
  | 0x00 => shape00 w
  | 0x01 => shape01 w
  | 0x02 => shape02 w
  | 0x03 => shape03 w
  | 0x04 => shape04 w
  | 0x05 => shape05 w
  | 0x10 => shape10 w
  | 0x11 => shape11 w
  | 0x12 => shape12 w
  | 0x18 => shape18 w
  | 0x19 => shape19 w
  | 0x1C => shape1C w
  | 0x1D => shape1D w
  | 0x20 => shape20 w
  | 0x21 => shape21 w
  | 0x22 => shape22 w
  | 0x23 => shape23 w
  | 0x24 => shape24 w
  | 0x25 => shape25 w
  | 0x26 => shape26 w
  | 0x28 => shape28 w
  | 0x29 => shape29 w
  | 0x2A => shape2A w
  | 0x2B => shape2B w
  | 0x2C => shape2C w
  | 0x2D => shape2D w
  | 0x2E => shape2E w
  | 0x30 => shape30 w
  | 0x31 => shape31 w
  | 0x32 => shape32 w
  | 0x33 => shape33 h w
  | 0x34 => shape34 h w
  | 0x35 => shape35 h w
  | 0x36 => shape36 h w
  | 0x37 => shape37 w
  | 0x38 | 0x39 | 0x3A | 0x3B => shape38 w
  | 0x3E => shape3E w
  | 0x3F => shape3F w
  | _ => none

/-- The step a word stands for, or none, without the rule for latch codes. -/
def decodePlain (h : Hints) (w : BitVec 32) : Option Instr :=
  match decodeShape h w with
  | some i => if i.wellFormed then some i else none
  | none => none

/-- `w` with its dst field and NW bit replaced (R43). -/
def withDst (w : BitVec 32) (d : BitVec 7) (n : Bool) : BitVec 32 :=
  fld w 26 6 ++ d ++ fld w 5 14 ++ BitVec.ofBool n ++ fld w 0 4

/-- `w` with a code that its row takes in place of a latch code: k0 in the data of LDK, the first selector of major 0x26
(R227), code 126 in the voff of LDK and in the srcA of CSLOAD.CLEAR. -/
def withFixed (w : BitVec 32) : BitVec 32 :=
  let data := if isLatch (fld w 19 7) then 0#7 else fld w 19 7
  if fld w 26 6 == 0x24#6 then
    0x24#6 ++ data ++ fld w 13 6 ++ (if isLatch (fld w 6 7) then 126#7 else fld w 6 7) ++ fld w 0 6
  else if fld w 26 6 == 0x26#6 then 0x26#6 ++ data ++ fld w 0 19
  else if fld w 26 6 == 0x36#6 && isLatch (fld w 12 7) then fld w 19 13 ++ 126#7 ++ fld w 0 12
  else w

/-- The decoder: total on every word, refusing by name. A word in which a latch code alone stands in the way, in a field
that admits no latch, is told apart (R56, R58). -/
def decode (h : Hints) (w : BitVec 32) : Except Reject Instr :=
  match decodePlain h w with
  | some i => .ok i
  | none =>
    let v := withFixed w
    let latch := isLatch (fld w 19 7) && (0x20 ≤ (fld w 26 6).toNat && (fld w 26 6).toNat ≤ 0x3E)
    match (if v != w then decodePlain h v else none), (if latch then decodePlain h (withDst v (fld w 19 7) false) else none),
        (if latch then decodePlain h (withDst v 126 true) else none) with
    | some i, _, _ => .error (.latch i)
    | none, some i, _ => .error (.latch i)
    | none, none, some i => .error (.latch i)
    | none, none, none => .error .illegal

/-- The micro-op that a control-store word stands for, fields cut out (19 R393). -/
def decodeMicroShape (w : BitVec 32) : Option Instr :=
  match (fld w 26 6).toNat with
  | 0x01 => if fld w 0 17 = 0 then some (.uadd (fld w 23 3) (fld w 20 3) (fld w 17 3)) else none
  | 0x02 => if fld w 0 17 = 0 then some (.usub (fld w 23 3) (fld w 20 3) (fld w 17 3)) else none
  | 0x03 => if fld w 0 17 = 0 then some (.uand (fld w 23 3) (fld w 20 3) (fld w 17 3)) else none
  | 0x04 => if fld w 0 17 = 0 then some (.uor (fld w 23 3) (fld w 20 3) (fld w 17 3)) else none
  | 0x05 => if fld w 0 17 = 0 then some (.uxor (fld w 23 3) (fld w 20 3) (fld w 17 3)) else none
  | 0x06 => if fld w 0 17 = 0 then some (.ushl (fld w 23 3) (fld w 20 3) (fld w 17 3)) else none
  | 0x07 => if fld w 0 17 = 0 then some (.ushr (fld w 23 3) (fld w 20 3) (fld w 17 3)) else none
  | 0x08 => if fld w 0 17 = 0 then some (.usar (fld w 23 3) (fld w 20 3) (fld w 17 3)) else none
  | 0x0C => if fld w 0 17 = 0 then some (.umul (fld w 23 3) (fld w 20 3) (fld w 17 3)) else none
  | 0x09 => if fld w 17 3 = 0 then some (.uaddi (fld w 23 3) (fld w 20 3) (fld w 0 17)) else none
  | 0x0A => if fld w 17 6 = 0 then some (.umovi (fld w 23 3) (fld w 0 17)) else none
  | 0x0B => if fld w 17 3 = 0 then some (.uhi (fld w 23 3) (fld w 20 3) (fld w 0 17)) else none
  | 0x10 => if fld w 0 9 = 0 then some (.ufadd (fld w 23 3) (fld w 20 3) (fld w 17 3) (fld w 13 4) (fld w 10 3) (bitAt w 9)) else none
  | 0x11 => if fld w 0 9 = 0 then some (.ufsub (fld w 23 3) (fld w 20 3) (fld w 17 3) (fld w 13 4) (fld w 10 3) (bitAt w 9)) else none
  | 0x12 => if fld w 0 9 = 0 then some (.ufmul (fld w 23 3) (fld w 20 3) (fld w 17 3) (fld w 13 4) (fld w 10 3) (bitAt w 9)) else none
  | 0x13 => if fld w 0 9 = 0 then some (.ufma (fld w 23 3) (fld w 20 3) (fld w 17 3) (fld w 13 4) (fld w 10 3) (bitAt w 9)) else none
  | 0x14 => if fld w 0 13 = 0 then some (.ufmin (fld w 23 3) (fld w 20 3) (fld w 17 3) (fld w 13 4)) else none
  | 0x15 => if fld w 0 13 = 0 then some (.ufmax (fld w 23 3) (fld w 20 3) (fld w 17 3) (fld w 13 4)) else none
  | 0x16 => if fld w 17 3 = 0 ∧ fld w 0 5 = 0 then some (.ucvt (fld w 23 3) (fld w 20 3) (fld w 13 4) (fld w 10 3) (bitAt w 9) (fld w 5 4)) else none
  | 0x18 => if fld w 0 9 = 0 then some (.ucmp (fld w 23 3) (fld w 20 3) (fld w 17 3) (fld w 13 4) (fld w 9 4)) else none
  | 0x20 => if fld w 0 15 = 0 then some (.urdv (fld w 23 3) (fld w 21 2) (fld w 17 4) (fld w 15 2)) else none
  | 0x21 => if fld w 21 2 = 0 ∧ fld w 0 15 = 0 then some (.uwrv (fld w 23 3) (fld w 17 4) (fld w 15 2)) else none
  | 0x22 => if fld w 0 17 = 0 then some (.urdk (fld w 23 3) (fld w 17 6)) else none
  | 0x28 => if fld w 17 1 = 0 then some (.uld (fld w 23 3) (fld w 20 3) (fld w 18 2) (fld w 0 17)) else none
  | 0x29 => if fld w 23 3 = 0 ∧ fld w 17 1 = 0 then some (.uprobe (fld w 20 3) (fld w 18 2) (fld w 0 17)) else none
  | 0x2A => if fld w 17 1 = 0 then some (.ust (fld w 23 3) (fld w 20 3) (fld w 18 2) (fld w 0 17)) else none
  | 0x30 => if fld w 23 3 = 0 ∧ fld w 10 8 = 0 then some (.ubr (fld w 20 3) (fld w 18 2) (fld w 0 10)) else none
  | 0x31 => if fld w 23 3 = 0 ∧ fld w 5 11 = 0 then some (.uloop (fld w 20 3) (fld w 16 4) (fld w 0 5)) else none
  | 0x32 => if fld w 0 26 = 0 then some (.uend) else none
  | 0x33 => if fld w 16 10 = 0 then some (.utrap (fld w 0 16)) else none
  | _ => none

/-- The micro-op decoder: none is what CSLOAD refuses with FORMAT (R393). -/
def decodeMicro (w : BitVec 32) : Option Instr :=
  match decodeMicroShape w with
  | some i => if i.wellFormed then some i else none
  | none => none

/-- The host's question: the instruction read from a table word. A row has one word of 32 bits, so a shorter word
has zeros above. The word is read as an instruction word without hints; where it is none, as a micro-op. -/
def decodeTableWord (nbits w : Nat) : Option Instr :=
  let v := BitVec.ofNat 32 (w % 2 ^ nbits)
  match decodePlain Hints.none v with
  | some i => some i
  | none => decodeMicro v

/-- The word of a step, from the same tables; events have none and give the all-zero word (R57). -/
def encode : Instr → BitVec 32
  | .moduleReset => 0
  | .functionLevelReset => 0
  | .firmwareCheckDone => 0
  | .blockReady => 0
  | .columnReady => 0
  | .cxlRequestTimeout => 0
  | .blockFailure => 0
  | .featCommit => 0
  | .popArm => 0
  | .popData => 0
  | .ctxLpageWrite => 0
  | .ctxSvcodeWrite => 0
  | .arenaPinningStart => 0
  | .arenaPinningEnd => 0
  | .invRange => 0
  | .invRangeRelease => 0
  | .invContext => 0
  | .invalidationDone => 0
  | .biasToDevice => 0
  | .biasToHost => 0
  | .biasFlipDone => 0
  | .devmemCtlWrite => 0
  | .ctxFqCtlWrite => 0
  | .registerWrite => 0
  | .startStampObserved => 0
  | .priorityAging => 0
  | .placementRound => 0
  | .level7Preemption => 0
  | .dispatchRunnable => 0
  | .rebindWritebackDone => 0
  | .amArrival => 0
  | .handlerStart => 0
  | .amWaitPreemption => 0
  | .bundleFormation => 0
  | .instructionLineArrival => 0
  | .registerFill => 0
  | .reconvergenceTimeout => 0
  | .stallExpiry => 0
  | .yieldDelayEnd => 0
  | .fetchSuspensionEnd => 0
  | .loadDataReturn => 0
  | .storePerformed => 0
  | .externalSnoop => 0
  | .hostCxlMemAccess => 0
  | .monitorPoll => 0
  | .atomicLaneApplied => 0
  | .cacheMaintenanceDone => 0
  | .persistDone => 0
  | .copyStart => 0
  | .copySectorLanded => 0
  | .copyPark => 0
  | .copyStampWrite => 0
  | .copyRetire => 0
  | .waitForWalk => 0
  | .clusterIdle => 0
  | .matrixRequestComplete => 0
  | .tcfgUnitsGranted => 0
  | .walkEnd => 0
  | .textureSampleEnd => 0
  | .optimiserStep => 0
  | .radianceCommit => 0
  | .generationSwitch => 0
  | .controlStoreBankFill => 0
  | .loessBatchPost => 0
  | .batchDoneObserved => 0
  | .preemptionOrder => 0
  | .teamStopped => 0
  | .rebindRestore => 0
  | .halt => 0
  | .haltDone => 0
  | .resume => 0
  | .teardown => 0
  | .teardownDone => 0
  | .linkPoisonResponse => 0
  | .launchComplete => 0
  | .powerLimitWrite => 0
  | .budgetApplied => 0
  | .thermalThrottle => 0
  | .thermalUnthrottle => 0
  | .thermalTrip => 0
  | .thermalPowerOff => 0
  | .mbSpdm => 0
  | .mbImageChunk => 0
  | .mbImageCommit => 0
  | .mbKeySet => 0
  | .mbKeyClear => 0
  | .lossOfPower => 0
  | .ximm x => 63#6 ++ 0#2 ++ x
  | .mod g s r t u c h y x => 63#6 ++ 1#2 ++ g ++ BitVec.ofBool s ++ r ++ BitVec.ofBool t ++ BitVec.ofBool u ++ c ++ h ++ y ++ x
  | .src v s k q => 63#6 ++ 2#2 ++ BitVec.ofBool v ++ s ++ BitVec.ofBool k ++ q ++ 0#9
  | .sched t y => 63#6 ++ 3#2 ++ t ++ BitVec.ofBool y ++ 0#19
  | .iadd d a b n => 0#6 ++ d ++ a ++ b ++ BitVec.ofBool n ++ 1#4
  | .isub d a b n => 0#6 ++ d ++ a ++ b ++ BitVec.ofBool n ++ 2#4
  | .imul d a b n => 0#6 ++ d ++ a ++ b ++ BitVec.ofBool n ++ 3#4
  | .imulh d a b n => 0#6 ++ d ++ a ++ b ++ BitVec.ofBool n ++ 4#4
  | .imad d a b n => 0#6 ++ d ++ a ++ b ++ BitVec.ofBool n ++ 5#4
  | .iabs d a n => 0#6 ++ d ++ a ++ 0#7 ++ BitVec.ofBool n ++ 6#4
  | .imin d a b n => 0#6 ++ d ++ a ++ b ++ BitVec.ofBool n ++ 7#4
  | .imax d a b n => 0#6 ++ d ++ a ++ b ++ BitVec.ofBool n ++ 8#4
  | .isad d a b n => 0#6 ++ d ++ a ++ b ++ BitVec.ofBool n ++ 9#4
  | .lea d a b n => 0#6 ++ d ++ a ++ b ++ BitVec.ofBool n ++ 10#4
  | .iaddi d a i => 1#6 ++ d ++ a ++ i
  | .and d a b n => 2#6 ++ d ++ a ++ b ++ BitVec.ofBool n ++ 0#4
  | .or d a b n => 2#6 ++ d ++ a ++ b ++ BitVec.ofBool n ++ 1#4
  | .xor d a b n => 2#6 ++ d ++ a ++ b ++ BitVec.ofBool n ++ 2#4
  | .andn d a b n => 2#6 ++ d ++ a ++ b ++ BitVec.ofBool n ++ 3#4
  | .shl d a b n => 2#6 ++ d ++ a ++ b ++ BitVec.ofBool n ++ 4#4
  | .shr d a b n => 2#6 ++ d ++ a ++ b ++ BitVec.ofBool n ++ 5#4
  | .sar d a b n => 2#6 ++ d ++ a ++ b ++ BitVec.ofBool n ++ 6#4
  | .rot d a b n => 2#6 ++ d ++ a ++ b ++ BitVec.ofBool n ++ 7#4
  | .fshf d a b n => 2#6 ++ d ++ a ++ b ++ BitVec.ofBool n ++ 8#4
  | .bfx d a b n => 2#6 ++ d ++ a ++ b ++ BitVec.ofBool n ++ 9#4
  | .bfi d a b n => 2#6 ++ d ++ a ++ b ++ BitVec.ofBool n ++ 10#4
  | .bperm d a b n => 2#6 ++ d ++ a ++ b ++ BitVec.ofBool n ++ 11#4
  | .popc d a n => 3#6 ++ d ++ a ++ 0#7 ++ BitVec.ofBool n ++ 0#4
  | .clz d a n => 3#6 ++ d ++ a ++ 0#7 ++ BitVec.ofBool n ++ 1#4
  | .ctz d a n => 3#6 ++ d ++ a ++ 0#7 ++ BitVec.ofBool n ++ 2#4
  | .brev d a n => 3#6 ++ d ++ a ++ 0#7 ++ BitVec.ofBool n ++ 3#4
  | .plop p l q r => 4#6 ++ p ++ 0#4 ++ l ++ q ++ 0#4 ++ r ++ 0#5
  | .sel d a b n => 4#6 ++ d ++ a ++ b ++ BitVec.ofBool n ++ 1#4
  | .mov d a n => 4#6 ++ d ++ a ++ 0#7 ++ BitVec.ofBool n ++ 2#4
  | .movs d s n => 4#6 ++ d ++ s ++ 0#7 ++ BitVec.ofBool n ++ 3#4
  | .isetp p a b c => 5#6 ++ p ++ 0#4 ++ a ++ b ++ 0#1 ++ c
  | .fadd d a b n => 16#6 ++ d ++ a ++ b ++ BitVec.ofBool n ++ 0#4
  | .fsub d a b n => 16#6 ++ d ++ a ++ b ++ BitVec.ofBool n ++ 1#4
  | .fmul d a b n => 16#6 ++ d ++ a ++ b ++ BitVec.ofBool n ++ 2#4
  | .ffma d a b n => 16#6 ++ d ++ a ++ b ++ BitVec.ofBool n ++ 3#4
  | .fmin d a b n => 16#6 ++ d ++ a ++ b ++ BitVec.ofBool n ++ 4#4
  | .fmax d a b n => 16#6 ++ d ++ a ++ b ++ BitVec.ofBool n ++ 5#4
  | .fclass d a n => 16#6 ++ d ++ a ++ 0#7 ++ BitVec.ofBool n ++ 6#4
  | .fscale d a b n => 16#6 ++ d ++ a ++ b ++ BitVec.ofBool n ++ 7#4
  | .frnd d a n => 16#6 ++ d ++ a ++ 0#7 ++ BitVec.ofBool n ++ 8#4
  | .fdp2 d a b n => 16#6 ++ d ++ a ++ b ++ BitVec.ofBool n ++ 9#4
  | .dp4a d a b n => 16#6 ++ d ++ a ++ b ++ BitVec.ofBool n ++ 10#4
  | .hadd2 d a b n => 17#6 ++ d ++ a ++ b ++ BitVec.ofBool n ++ 0#4
  | .hmul2 d a b n => 17#6 ++ d ++ a ++ b ++ BitVec.ofBool n ++ 1#4
  | .hfma2 d a b n => 17#6 ++ d ++ a ++ b ++ BitVec.ofBool n ++ 2#4
  | .hmax2 d a b n => 17#6 ++ d ++ a ++ b ++ BitVec.ofBool n ++ 3#4
  | .fsetp p a b c => 18#6 ++ p ++ 0#4 ++ a ++ b ++ 0#1 ++ c
  | .dadd d a b n => 24#6 ++ d ++ a ++ b ++ BitVec.ofBool n ++ 0#4
  | .dmul d a b n => 24#6 ++ d ++ a ++ b ++ BitVec.ofBool n ++ 1#4
  | .dfma d a b n => 24#6 ++ d ++ a ++ b ++ BitVec.ofBool n ++ 2#4
  | .dmin d a b n => 24#6 ++ d ++ a ++ b ++ BitVec.ofBool n ++ 3#4
  | .dmax d a b n => 24#6 ++ d ++ a ++ b ++ BitVec.ofBool n ++ 4#4
  | .drcp d a n => 24#6 ++ d ++ a ++ 0#7 ++ BitVec.ofBool n ++ 5#4
  | .drsq d a n => 24#6 ++ d ++ a ++ 0#7 ++ BitVec.ofBool n ++ 6#4
  | .dsetp p a b c => 25#6 ++ p ++ 0#4 ++ a ++ b ++ 0#1 ++ c
  | .frcp d a n => 28#6 ++ d ++ a ++ 0#7 ++ BitVec.ofBool n ++ 0#4
  | .frsq d a n => 28#6 ++ d ++ a ++ 0#7 ++ BitVec.ofBool n ++ 1#4
  | .fsqrt d a n => 28#6 ++ d ++ a ++ 0#7 ++ BitVec.ofBool n ++ 2#4
  | .fex2 d a n => 28#6 ++ d ++ a ++ 0#7 ++ BitVec.ofBool n ++ 3#4
  | .flg2 d a n => 28#6 ++ d ++ a ++ 0#7 ++ BitVec.ofBool n ++ 4#4
  | .fsin d a n => 28#6 ++ d ++ a ++ 0#7 ++ BitVec.ofBool n ++ 5#4
  | .fcos d a n => 28#6 ++ d ++ a ++ 0#7 ++ BitVec.ofBool n ++ 6#4
  | .ftanh d a n => 28#6 ++ d ++ a ++ 0#7 ++ BitVec.ofBool n ++ 7#4
  | .f2i d a n => 29#6 ++ d ++ a ++ 0#7 ++ BitVec.ofBool n ++ 0#4
  | .i2f d a n => 29#6 ++ d ++ a ++ 0#7 ++ BitVec.ofBool n ++ 1#4
  | .f2f d a n => 29#6 ++ d ++ a ++ 0#7 ++ BitVec.ofBool n ++ 2#4
  | .fpack d a b n => 29#6 ++ d ++ a ++ b ++ BitVec.ofBool n ++ 3#4
  | .d2f d a n => 29#6 ++ d ++ a ++ 0#7 ++ BitVec.ofBool n ++ 4#4
  | .f2d d a n => 29#6 ++ d ++ a ++ 0#7 ++ BitVec.ofBool n ++ 5#4
  | .ld d k o i => 32#6 ++ d ++ k ++ o ++ i
  | .st d k o i => 33#6 ++ d ++ k ++ o ++ i
  | .lds d k o i => 34#6 ++ d ++ k ++ o ++ i
  | .sts d k o i => 35#6 ++ d ++ k ++ o ++ i
  | .ldk d k i => 36#6 ++ 0#1 ++ d ++ k ++ 126#7 ++ i
  | .pref k o i => 37#6 ++ 126#7 ++ k ++ o ++ i
  | .cflush k o i => 38#6 ++ 0#7 ++ k ++ o ++ i
  | .cinv k o i => 38#6 ++ 1#7 ++ k ++ o ++ i
  | .persist k o i => 38#6 ++ 2#7 ++ k ++ o ++ i
  | .atom d a b o => 40#6 ++ d ++ a ++ b ++ 0#1 ++ o
  | .red a b o => 40#6 ++ 126#7 ++ a ++ b ++ 1#1 ++ o
  | .atoms d a b o => 41#6 ++ d ++ a ++ b ++ 0#1 ++ o
  | .reds a b o => 41#6 ++ 126#7 ++ a ++ b ++ 1#1 ++ o
  | .atomcas d a b => 42#6 ++ d ++ a ++ b ++ 0#5
  | .atomscas d a b => 42#6 ++ d ++ a ++ b ++ 1#5
  | .waitc d a b n => 42#6 ++ d ++ a ++ b ++ BitVec.ofBool n ++ 2#4
  | .wdecl d a b n => 42#6 ++ d ++ a ++ b ++ BitVec.ofBool n ++ 3#4
  | .fence => 43#6 ++ 0#26
  | .bind d a b n => 43#6 ++ d ++ a ++ b ++ BitVec.ofBool n ++ 1#4
  | .unbind d a b n => 43#6 ++ d ++ a ++ b ++ BitVec.ofBool n ++ 2#4
  | .acq d a n => 43#6 ++ d ++ a ++ 0#7 ++ BitVec.ofBool n ++ 3#4
  | .rel a b => 43#6 ++ 126#7 ++ a ++ b ++ 20#5
  | .bar d a n => 43#6 ++ d ++ a ++ 0#7 ++ BitVec.ofBool n ++ 5#4
  | .cbarArv d n => 43#6 ++ d ++ 0#14 ++ BitVec.ofBool n ++ 6#4
  | .cbarWait d a n => 43#6 ++ d ++ a ++ 0#7 ++ BitVec.ofBool n ++ 7#4
  | .cpy a b => 44#6 ++ 126#7 ++ a ++ b ++ 16#5
  | .cpyg a b => 44#6 ++ 126#7 ++ a ++ b ++ 17#5
  | .cpys a b => 44#6 ++ 126#7 ++ a ++ b ++ 18#5
  | .cpym a b => 44#6 ++ 126#7 ++ a ++ b ++ 19#5
  | .tbarInit a b => 45#6 ++ 126#7 ++ a ++ b ++ 16#5
  | .tbarExp a b => 45#6 ++ 126#7 ++ a ++ b ++ 17#5
  | .tbarAck a => 45#6 ++ 126#7 ++ a ++ 18#12
  | .tbarWait d a b n => 45#6 ++ d ++ a ++ b ++ BitVec.ofBool n ++ 3#4
  | .tcfg d a n => 46#6 ++ d ++ a ++ 0#7 ++ BitVec.ofBool n ++ 0#4
  | .tzero d a n => 46#6 ++ d ++ a ++ 0#7 ++ BitVec.ofBool n ++ 1#4
  | .tld d a b n => 46#6 ++ d ++ a ++ b ++ BitVec.ofBool n ++ 2#4
  | .tst a b => 46#6 ++ 126#7 ++ a ++ b ++ 19#5
  | .mma d a n => 46#6 ++ d ++ a ++ 0#7 ++ BitVec.ofBool n ++ 4#4
  | .tact d a n => 46#6 ++ d ++ a ++ 0#7 ++ BitVec.ofBool n ++ 5#4
  | .twait d a n => 46#6 ++ d ++ a ++ 0#7 ++ BitVec.ofBool n ++ 6#4
  | .bxu d a b => 48#6 ++ d ++ a ++ b ++ 0#5
  | .bsah d a b => 48#6 ++ d ++ a ++ b ++ 1#5
  | .npack d a b => 48#6 ++ d ++ a ++ b ++ 2#5
  | .trace d a => 49#6 ++ d ++ a ++ 0#12
  | .beam d a n => 49#6 ++ d ++ a ++ 0#7 ++ BitVec.ofBool n ++ 1#4
  | .cov d a n => 49#6 ++ d ++ a ++ 0#7 ++ BitVec.ofBool n ++ 2#4
  | .tex d a b => 50#6 ++ d ++ a ++ b ++ 0#5
  | .texg d a b => 50#6 ++ d ++ a ++ b ++ 1#5
  | .texq d a b => 50#6 ++ d ++ a ++ b ++ 2#5
  | .qrc d a => 51#6 ++ d ++ a ++ 0#12
  | .rccfgLoad d a n => 51#6 ++ d ++ a ++ 0#7 ++ BitVec.ofBool n ++ 1#4
  | .rccfgSave d a n => 51#6 ++ d ++ a ++ 0#7 ++ BitVec.ofBool n ++ 1#4
  | .rccfgRelease d a n => 51#6 ++ d ++ a ++ 0#7 ++ BitVec.ofBool n ++ 1#4
  | .rcgen d n => 51#6 ++ d ++ 0#14 ++ BitVec.ofBool n ++ 2#4
  | .bra p s h o => 52#6 ++ p ++ BitVec.ofBool s ++ BitVec.ofBool h ++ o
  | .braD p s h o => 52#6 ++ p ++ BitVec.ofBool s ++ BitVec.ofBool h ++ o
  | .join => 53#6 ++ 0#26
  | .call d a n => 53#6 ++ d ++ a ++ 0#7 ++ BitVec.ofBool n ++ 1#4
  | .ret a => 53#6 ++ 0#7 ++ a ++ 2#12
  | .exit => 53#6 ++ 3#26
  | .exitH => 53#6 ++ 3#26
  | .yield a => 53#6 ++ 0#7 ++ a ++ 4#12
  | .nop => 53#6 ++ 5#26
  | .brx a => 53#6 ++ 0#7 ++ a ++ 6#12
  | .trap d a b n => 54#6 ++ d ++ a ++ b ++ BitVec.ofBool n ++ 0#4
  | .svret d a b n => 54#6 ++ d ++ a ++ b ++ BitVec.ofBool n ++ 1#4
  | .bpt b => 54#6 ++ 0#14 ++ b ++ 2#5
  | .launch d a n => 54#6 ++ d ++ a ++ 0#7 ++ BitVec.ofBool n ++ 3#4
  | .sendam d a b n => 54#6 ++ d ++ a ++ b ++ BitVec.ofBool n ++ 4#4
  | .csrr d a => 54#6 ++ d ++ a ++ 5#12
  | .csrw a b => 54#6 ++ 126#7 ++ a ++ b ++ 22#5
  | .rplget d a => 54#6 ++ d ++ a ++ 7#12
  | .rplrun d a n => 54#6 ++ d ++ a ++ 0#7 ++ BitVec.ofBool n ++ 8#4
  | .csload d a n => 54#6 ++ d ++ a ++ 0#7 ++ BitVec.ofBool n ++ 9#4
  | .csloadClear d n => 54#6 ++ d ++ 16128#14 ++ BitVec.ofBool n ++ 9#4
  | .vote d a i v n => 55#6 ++ d ++ a ++ 0#3 ++ BitVec.ofBool i ++ v ++ BitVec.ofBool n ++ 0#4
  | .matchVal d a b n => 55#6 ++ d ++ a ++ b ++ BitVec.ofBool n ++ 1#4
  | .shfl d a b n => 55#6 ++ d ++ a ++ b ++ BitVec.ofBool n ++ 2#4
  | .gred d a b n => 55#6 ++ d ++ a ++ b ++ BitVec.ofBool n ++ 3#4
  | .elect d a n => 55#6 ++ d ++ a ++ 0#7 ++ BitVec.ofBool n ++ 4#4
  | .xop j d a b n i => 14#4 ++ j ++ d ++ a ++ b ++ BitVec.ofBool n ++ i
  | .kmov d a => 62#6 ++ d ++ a ++ 0#12
  | .kadd d a b => 62#6 ++ d ++ a ++ b ++ 1#5
  | .kaddi d a i => 62#6 ++ d ++ a ++ i ++ 2#5
  | .kshl d a b => 62#6 ++ d ++ a ++ b ++ 3#5
  | .kand d a b => 62#6 ++ d ++ a ++ b ++ 4#5
  | .kfromv d a => 62#6 ++ d ++ a ++ 5#12
  | .uadd d a b => 1#6 ++ d ++ a ++ b ++ 0#17
  | .usub d a b => 2#6 ++ d ++ a ++ b ++ 0#17
  | .uand d a b => 3#6 ++ d ++ a ++ b ++ 0#17
  | .uor d a b => 4#6 ++ d ++ a ++ b ++ 0#17
  | .uxor d a b => 5#6 ++ d ++ a ++ b ++ 0#17
  | .ushl d a b => 6#6 ++ d ++ a ++ b ++ 0#17
  | .ushr d a b => 7#6 ++ d ++ a ++ b ++ 0#17
  | .usar d a b => 8#6 ++ d ++ a ++ b ++ 0#17
  | .umul d a b => 12#6 ++ d ++ a ++ b ++ 0#17
  | .uaddi d a i => 9#6 ++ d ++ a ++ 0#3 ++ i
  | .umovi d i => 10#6 ++ d ++ 0#6 ++ i
  | .uhi d a i => 11#6 ++ d ++ a ++ 0#3 ++ i
  | .ufadd d a b t r s => 16#6 ++ d ++ a ++ b ++ t ++ r ++ BitVec.ofBool s ++ 0#9
  | .ufsub d a b t r s => 17#6 ++ d ++ a ++ b ++ t ++ r ++ BitVec.ofBool s ++ 0#9
  | .ufmul d a b t r s => 18#6 ++ d ++ a ++ b ++ t ++ r ++ BitVec.ofBool s ++ 0#9
  | .ufma d a b t r s => 19#6 ++ d ++ a ++ b ++ t ++ r ++ BitVec.ofBool s ++ 0#9
  | .ufmin d a b t => 20#6 ++ d ++ a ++ b ++ t ++ 0#13
  | .ufmax d a b t => 21#6 ++ d ++ a ++ b ++ t ++ 0#13
  | .ucvt d a t r s u => 22#6 ++ d ++ a ++ 0#3 ++ t ++ r ++ BitVec.ofBool s ++ u ++ 0#5
  | .ucmp d a b t c => 24#6 ++ d ++ a ++ b ++ t ++ c ++ 0#9
  | .urdv h s o w => 32#6 ++ h ++ s ++ o ++ w ++ 0#15
  | .uwrv h o w => 33#6 ++ h ++ 0#2 ++ o ++ w ++ 0#15
  | .urdk h k => 34#6 ++ h ++ k ++ 0#17
  | .uld h a z i => 40#6 ++ h ++ a ++ z ++ 0#1 ++ i
  | .uprobe a z i => 41#6 ++ 0#3 ++ a ++ z ++ 0#1 ++ i
  | .ust h a z i => 42#6 ++ h ++ a ++ z ++ 0#1 ++ i
  | .ubr a c o => 48#6 ++ 0#3 ++ a ++ c ++ 0#8 ++ o
  | .uloop a m l => 49#6 ++ 0#3 ++ a ++ m ++ 0#11 ++ l
  | .uend => 50#6 ++ 0#26
  | .utrap c => 51#6 ++ 0#10 ++ c

/-- The MOD payload that tells rows sharing one word apart (guard p7, everything else default). -/
def formMod : Instr → Option (BitVec 24)
  | .rccfgSave _ _ _ => some 0xE00001#24
  | .rccfgRelease _ _ _ => some 0xE00002#24
  | .braD _ _ _ _ => some 0xE00001#24
  | .exitH => some 0xE00001#24
  | .csloadClear _ _ => some 0xE00001#24
  | _ => none

/-- The hints under which `decode` reads `encode i` as `i`. -/
def formHints (i : Instr) : Hints := { mod := formMod i }

/-- Steps that a bundle issues from an instruction word. -/
def Instr.isWord : Instr → Bool
  | .ximm _
  | .mod _ _ _ _ _ _ _ _ _
  | .src _ _ _ _
  | .sched _ _
  | .iadd _ _ _ _
  | .isub _ _ _ _
  | .imul _ _ _ _
  | .imulh _ _ _ _
  | .imad _ _ _ _
  | .iabs _ _ _
  | .imin _ _ _ _
  | .imax _ _ _ _
  | .isad _ _ _ _
  | .lea _ _ _ _
  | .iaddi _ _ _
  | .and _ _ _ _
  | .or _ _ _ _
  | .xor _ _ _ _
  | .andn _ _ _ _
  | .shl _ _ _ _
  | .shr _ _ _ _
  | .sar _ _ _ _
  | .rot _ _ _ _
  | .fshf _ _ _ _
  | .bfx _ _ _ _
  | .bfi _ _ _ _
  | .bperm _ _ _ _
  | .popc _ _ _
  | .clz _ _ _
  | .ctz _ _ _
  | .brev _ _ _
  | .plop _ _ _ _
  | .sel _ _ _ _
  | .mov _ _ _
  | .movs _ _ _
  | .isetp _ _ _ _
  | .fadd _ _ _ _
  | .fsub _ _ _ _
  | .fmul _ _ _ _
  | .ffma _ _ _ _
  | .fmin _ _ _ _
  | .fmax _ _ _ _
  | .fclass _ _ _
  | .fscale _ _ _ _
  | .frnd _ _ _
  | .fdp2 _ _ _ _
  | .dp4a _ _ _ _
  | .hadd2 _ _ _ _
  | .hmul2 _ _ _ _
  | .hfma2 _ _ _ _
  | .hmax2 _ _ _ _
  | .fsetp _ _ _ _
  | .dadd _ _ _ _
  | .dmul _ _ _ _
  | .dfma _ _ _ _
  | .dmin _ _ _ _
  | .dmax _ _ _ _
  | .drcp _ _ _
  | .drsq _ _ _
  | .dsetp _ _ _ _
  | .frcp _ _ _
  | .frsq _ _ _
  | .fsqrt _ _ _
  | .fex2 _ _ _
  | .flg2 _ _ _
  | .fsin _ _ _
  | .fcos _ _ _
  | .ftanh _ _ _
  | .f2i _ _ _
  | .i2f _ _ _
  | .f2f _ _ _
  | .fpack _ _ _ _
  | .d2f _ _ _
  | .f2d _ _ _
  | .ld _ _ _ _
  | .st _ _ _ _
  | .lds _ _ _ _
  | .sts _ _ _ _
  | .ldk _ _ _
  | .pref _ _ _
  | .cflush _ _ _
  | .cinv _ _ _
  | .persist _ _ _
  | .atom _ _ _ _
  | .red _ _ _
  | .atoms _ _ _ _
  | .reds _ _ _
  | .atomcas _ _ _
  | .atomscas _ _ _
  | .waitc _ _ _ _
  | .wdecl _ _ _ _
  | .fence
  | .bind _ _ _ _
  | .unbind _ _ _ _
  | .acq _ _ _
  | .rel _ _
  | .bar _ _ _
  | .cbarArv _ _
  | .cbarWait _ _ _
  | .cpy _ _
  | .cpyg _ _
  | .cpys _ _
  | .cpym _ _
  | .tbarInit _ _
  | .tbarExp _ _
  | .tbarAck _
  | .tbarWait _ _ _ _
  | .tcfg _ _ _
  | .tzero _ _ _
  | .tld _ _ _ _
  | .tst _ _
  | .mma _ _ _
  | .tact _ _ _
  | .twait _ _ _
  | .bxu _ _ _
  | .bsah _ _ _
  | .npack _ _ _
  | .trace _ _
  | .beam _ _ _
  | .cov _ _ _
  | .tex _ _ _
  | .texg _ _ _
  | .texq _ _ _
  | .qrc _ _
  | .rccfgLoad _ _ _
  | .rccfgSave _ _ _
  | .rccfgRelease _ _ _
  | .rcgen _ _
  | .bra _ _ _ _
  | .braD _ _ _ _
  | .join
  | .call _ _ _
  | .ret _
  | .exit
  | .exitH
  | .yield _
  | .nop
  | .brx _
  | .trap _ _ _ _
  | .svret _ _ _ _
  | .bpt _
  | .launch _ _ _
  | .sendam _ _ _ _
  | .csrr _ _
  | .csrw _ _
  | .rplget _ _
  | .rplrun _ _ _
  | .csload _ _ _
  | .csloadClear _ _
  | .vote _ _ _ _ _
  | .matchVal _ _ _ _
  | .shfl _ _ _ _
  | .gred _ _ _ _
  | .elect _ _ _
  | .xop _ _ _ _ _ _
  | .kmov _ _
  | .kadd _ _ _
  | .kaddi _ _ _
  | .kshl _ _ _
  | .kand _ _ _
  | .kfromv _ _ => true
  | _ => false

/-- Micro-ops of a Kaolin sequence. -/
def Instr.isMicro : Instr → Bool
  | .uadd _ _ _
  | .usub _ _ _
  | .uand _ _ _
  | .uor _ _ _
  | .uxor _ _ _
  | .ushl _ _ _
  | .ushr _ _ _
  | .usar _ _ _
  | .umul _ _ _
  | .uaddi _ _ _
  | .umovi _ _
  | .uhi _ _ _
  | .ufadd _ _ _ _ _ _
  | .ufsub _ _ _ _ _ _
  | .ufmul _ _ _ _ _ _
  | .ufma _ _ _ _ _ _
  | .ufmin _ _ _ _
  | .ufmax _ _ _ _
  | .ucvt _ _ _ _ _ _
  | .ucmp _ _ _ _ _
  | .urdv _ _ _ _
  | .uwrv _ _ _
  | .urdk _ _
  | .uld _ _ _ _
  | .uprobe _ _ _
  | .ust _ _ _ _
  | .ubr _ _ _
  | .uloop _ _ _
  | .uend
  | .utrap _ => true
  | _ => false

end Sys2Proof
end

