-- ==== Sys2Proof/Config.lean ====
section
/-! DEFINITION. What the part fixes (01 R14, R21) and the free values: constants without a body, of which nothing can
be proved but their type. A statement that mentions one holds whatever it is. -/
namespace Sys2Proof

/-- Cores of the part; core c is on die c div 144 (R14). -/
def coreCount : Nat := 288
/-- Cores of one die (R14). -/
def coresPerDie : Nat := 144
/-- The die of a core (R14). -/
def dieOf (core : Nat) : Nat := core / coresPerDie
/-- Features offered by the physical function: bits 0–14, the offer of the example under R24 (log 7). -/
def featOffer : Nat := 0x7FFF
/-- Register lines of one core's register file (06 R110). -/
def lineCapacity : Nat := 6144
/-- Lines of the instruction buffer of a core (07 R124). -/
def ibufLines : Nat := 32
/-- Entries of a first-level TLB (11 R211). -/
def tlbEntries : Nat := 192
/-- Entries of a second-level TLB (11 R211). -/
def tlb2Entries : Nat := 16384
/-- Ways of a second-level TLB (11 R211). -/
def tlb2Ways : Nat := 8
/-- Stands where the number of a launch would, for work of none. -/
def noLaunch : Nat := 2 ^ 40
/-- Bytes of one die's L2 (R14). -/
def l2Bytes : Nat := 96 * 2 ^ 20
/-- Bytes of one core's L1 data slice (R14). -/
def l1Bytes : Nat := 128 * 2 ^ 10
/-- Wall-clock time is counted in units that every arithmetic clock of 26 R486 divides: one clk at k × 100 MHz is this
many units over k (R4). -/
def wallUnit : Nat := 144403552893600
/-- One microsecond of wall-clock time (R4): 3,600 clk at 3.6 GHz. -/
def oneUs : Nat := 100 * wallUnit

/-- The n-th free value: read with the counter of State where the spec states an effect and no value (log 3). -/
opaque freeValue : Nat → BitVec 64
/-- The verdict of the security core on an image: 0 passes, 2 digest mismatch, 3 signature invalid (01 R16; log 5). -/
opaque imageVerdict : List Byte → Nat
/-- The response of the security core to one SPDM message (26 R488, R489; log 5). The arguments are a number of the message,
afresh at each, the function, the three things measured (the running firmware image, the feature offer, DEVMEM_CTL), and the
message. -/
opaque spdmResponse : Nat → Nat → Option (List Byte) → BitVec 256 → Nat → List Byte → List Byte
/-- The bits a special function returns for an operand: kept only where R158 allows them (08 R158; log 13). -/
opaque specialValue : Nat → BitVec 64 → BitVec 64
/-- How far the optimiser's master parameter stands from the exact one: kept only within the bound of R383 (log 25).
The arguments are the die, the step count and the index of the parameter. -/
opaque optimiserChoice : Nat → Nat → Nat → BitVec 32
/-- Whether the host completes 32-bit and 64-bit AtomicOps for the device (15 R300): a fact of the host (log 5). -/
opaque hostAtomics : Bool
/-- AES-XTS-256 of one 32-byte data unit under a key and a tweak: what stands outside the package where the dies hold the
data in plain (11 R225; log 5). -/
opaque aesXts : BitVec 512 → BitVec 47 → BitVec 256 → BitVec 256
/-- The device's own 12-bit CXL routing ID, which the fabric assigns (05 R97; log 22). -/
opaque deviceId : BitVec 12

end Sys2Proof
end

