-- ==== Sys2Proof/Machine/Tab.lean ====
section
/-! DEFINITION. Sparse tables: lists of key and value in rising key order, the one shape in which State holds whatever
the spec numbers (cores, contexts, threads, registers). A key that is not listed reads as the default its user names. -/
namespace Sys2Proof.Machine

/-- A sparse table keyed by numbers. -/
abbrev Tab (α : Type) := List (Nat × α)

namespace Tab
variable {α : Type}

/-- The entry of key `k`, if listed. -/
def find (t : Tab α) (k : Nat) : Option α :=
  match t with
  | [] => none
  | (k', v) :: r => if k = k' then some v else find r k

/-- The entry of key `k`, or the default. -/
def at' (t : Tab α) (d : α) (k : Nat) : α := (find t k).getD d

/-- Writes the entry of key `k`, in its place. -/
def put (t : Tab α) (k : Nat) (v : α) : Tab α :=
  match t with
  | [] => [(k, v)]
  | (k', v') :: r =>
    if k = k' then (k, v) :: r else if k < k' then (k, v) :: (k', v') :: r else (k', v') :: put r k v

/-- Removes every entry of key `k`. -/
def del (t : Tab α) (k : Nat) : Tab α := t.filter (fun p => p.1 != k)

end Tab
end Sys2Proof.Machine
end

