-- ==== Sys2Proof/Machine/State.lean ====
section
/-! DEFINITION. The machine's state: everything the spec gives the part, as plain data (INVENTORY.md, ## State), the
reasons a step can stop, and the state right after a module reset. -/
namespace Sys2Proof.Machine

/-! ## Numbering

A core is numbered 0–287 (R14). A slot of a core is 0–127 for user groups and 128 + c for the supervisor instance of
context c, of which one at a time holds the hardware's slot 128 (R119). A team entry of a core is 0–63 for slot-table
entries, 64 for the handler entry (R93) and 128 + c for the supervisor instance of context c. -/

/-- Key of a team: core and entry. -/
def teamKey (core entry : Nat) : Nat := core * 192 + entry
/-- Key of a group: core and slot. -/
def groupKey (core slot : Nat) : Nat := core * 192 + slot
/-- Key of a thread: group and lane. -/
def threadKey (gid lane : Nat) : Nat := gid * 32 + lane

/-! ## Threads -/

/-- TSTATE of a thread (R109). -/
inductive TState where
  | run | wait | parked | exited
  deriving DecidableEq, Repr

/-- What a thread that is not ready waits for (07 R124, 21 R439). -/
inductive WaitFor where
  /-- nothing: it is ready as far as its own state goes -/
  | nothing
  /-- a register-line fill (R111) -/
  | lineFill
  /-- fetch suspension: the checks of an operation (R136) -/
  | check (op : Nat)
  /-- room in the replay area (R414), a mailbox slot (R426) or a place in an engine or a buffer (R251, R99) -/
  | hold
  /-- the end of a request it has issued (R290, R291, R386, R388, R405, R433, R244, R245) -/
  | result (id : Nat)
  /-- the release of a reconvergence entry (R130) -/
  | join
  /-- the other members of a group-wide rendezvous (R138) -/
  | rendezvous
  /-- the other members of a copy rendezvous (R248) -/
  | copySlice
  /-- the supervisor's SVRET (R408) -/
  | trap
  /-- a condition monitor (R307) -/
  | waitc (mon : Nat)
  /-- the transaction barrier at a scratch address, as formed, to leave phase `ph` (R269) -/
  | tbarWait (a : BitVec 32) (ph : Bool)
  /-- a team barrier (R312) -/
  | bar (i : Nat)
  /-- a cluster barrier phase (R313) -/
  | cbar (a : BitVec 32)
  /-- the end of a YIELD delay (R180) -/
  | yieldDelay (till : Nat)
  /-- a matrix ticket (R342) -/
  | ticket (a : BitVec 32)
  /-- accumulator units (R332) -/
  | tcfg
  /-- earlier accesses, at a FENCE (R289) -/
  | fence
  /-- its parked part (R408) -/
  | set (id : Nat)
  /-- the fill of a control-store bank (R392) -/
  | bankFill
  deriving DecidableEq, Repr

/-- A probe slot of an XOP sequence: the address and size it holds, and the location translated (R397). -/
structure Probe where
  va   : DWord
  size : Nat
  pa   : Nat
  leaf : DWord
  deriving DecidableEq, Repr

/-- The state of a thread inside an XOP sequence (R394, R398, R401). -/
structure Cont where
  /-- XOP index -/
  idx : Nat
  /-- the micro-op to run next -/
  i : Nat
  /-- h0–h7 -/
  h : Tab DWord
  /-- passes of the loop body still to run -/
  loops : Nat
  /-- first micro-op of the body and its length -/
  body : Nat
  bodyLen : Nat
  probes : List Probe
  /-- stopped: the thread has left its bundle and resumes from here (R401) -/
  stopped : Bool
  /-- registers that its operand fields name: their lines are locked until it ends (R112) -/
  regs : List Nat := []
  deriving DecidableEq, Repr

/-- Trap causes (R407). -/
inductive Cause where
  | illegal | latch | groupMember | misalign | permission | atomType | xopUnbound | xopLimit | priv | break_ | poison
  | tcfg | user | unresolved
  deriving DecidableEq, Repr

/-- A trap of an access whose thread has gone on: the cause and the address, and whether it was a write. -/
structure Late where
  cause : Cause
  va : DWord
  write : Bool
  deriving DecidableEq, Repr

/-- The control state of one thread (R122). -/
structure Thread where
  pc : VA
  /-- first word of the run in hand: where a stopped thread resumes (R49) -/
  runPc : VA
  /-- reconvergence entries it belongs to, 0–32 -/
  depth : Nat
  tstate : TState
  helper : Bool
  /-- p0–p6; p7 is true (R69) -/
  preds : BitVec 7
  /-- y0–y3 -/
  latch : Tab DWord
  /-- clk before which it does not issue (R54) -/
  stallTill : Nat
  /-- ranks last at its next formation (R54) -/
  yields : Bool
  /-- age stamp (R124) -/
  age : Nat
  waitFor : WaitFor
  /-- destination that the end of its wait writes a status to; 126 for none -/
  waitDst : BitVec 7
  /-- wall-clock time at which its wait was armed (R311, R318) -/
  armedAt : Nat
  /-- CBAR arrival count m_t (R313) -/
  mt : BitVec 32
  xop : Option Cont
  /-- replay set that lists it -/
  inSet : Option Nat
  /-- a trap that data of an access still in flight brought, taken when it next issues (R237, R299, R300) -/
  late : Option Late
  /-- registers that it has read since its lines were last marked evictable, with the clk of the last read (R113, R118) -/
  reads : Tab Nat
  deriving DecidableEq, Repr

/-- A thread of a slot that holds no team. -/
def Thread.reset : Thread :=
  { pc := 0, runPc := 0, depth := 0, tstate := .exited, helper := false, preds := 0, latch := [], stallTill := 0,
    yields := false, age := 0, waitFor := .nothing, waitDst := 126, armedAt := 0, mt := 0, xop := none, inSet := none,
    late := none, reads := [] }

/-! ## Groups -/

/-- What one thread brings to a rendezvous: its lane, mask and operand values (R138, R182, R248). -/
structure Arrival where
  lane : Nat
  mask : BitVec 32
  a : DWord
  b : DWord
  c : DWord
  /-- the k block of a copy (R247) -/
  k : List DWord
  deriving DecidableEq, Repr

/-- An open rendezvous of a group (R138, R248). -/
structure Rdv where
  pc : VA
  instr : Instr
  hints : Hints
  mask : BitVec 32
  arrivals : List Arrival
  openedAt : Nat
  deriving DecidableEq, Repr

/-- One resident group. -/
structure Group where
  live : Bool
  /-- key of its team -/
  team : Nat
  /-- %group -/
  index : Nat
  /-- known-zero mask of its register lines (R110) -/
  kzero : BitVec 120
  rdv : Option Rdv
  copyRdv : Option Rdv
  /-- rendezvous of the quads, lanes 4q to 4q + 3 (R369) -/
  quads : Tab Rdv
  /-- copy rendezvous completed (R249) -/
  copyCount : Nat
  deriving DecidableEq, Repr

/-- A slot without a group. -/
def Group.reset : Group :=
  { live := false, team := 0, index := 0, kzero := 0, rdv := none, copyRdv := none, quads := [], copyCount := 0 }

/-! ## Teams and the slot table -/

/-- STATE of a bind record (R94). -/
inductive SlotState where
  | free | bound | runnable | preempted
  deriving DecidableEq, Repr

/-- A bind record (R94). -/
structure Bind where
  state : SlotState
  ctx : Nat
  /-- queue entry: die × 1,024 + index -/
  launch : Nat
  team : Nat
  groups : Nat
  cls : Nat
  prio : Nat
  origin : Nat
  w : Nat
  h : Nat
  regs : Nat
  cx : Nat
  cy : Nat
  cz : Nat
  entryPc : DWord
  imageBase : DWord
  scratchBase : Nat
  scratchSize : Nat
  slots : BitVec 128
  deriving DecidableEq, Repr

/-- A FREE record. -/
def Bind.reset : Bind :=
  { state := .free, ctx := 0, launch := 0, team := 0, groups := 0, cls := 0, prio := 0, origin := 0, w := 0, h := 0,
    regs := 0, cx := 0, cy := 0, cz := 0, entryPc := 0, imageBase := 0, scratchBase := 0, scratchSize := 0, slots := 0 }

/-- What an entry holds: a team of a launch, a message handler (R98) or a supervisor instance (R119). -/
inductive TeamKind where
  | user | handler | supervisor
  deriving DecidableEq, Repr

/-- An entry of the reconvergence stack (R128), and the clk at which its first waiting thread arrived (R130). -/
structure RsEntry where
  join : Int
  pending : Nat
  since : Option Nat
  deriving DecidableEq, Repr

/-- A team barrier (R312): a phase is open once a thread has arrived in it. -/
structure BarState where
  n : Nat
  arr : Nat
  phaseOpen : Bool
  deriving DecidableEq, Repr

/-- A team: its bind record and the state it holds on its core. -/
structure Team where
  kind : TeamKind
  bind : Bind
  /-- CODE_ADDR of its launch or handler entry (R123) -/
  code : DWord
  /-- cluster it belongs to -/
  cluster : Nat
  /-- k0–k63 -/
  k : Tab DWord
  /-- reconvergence stack, entry 0 first; its length is RDEPTH (R128) -/
  rstack : List RsEntry
  bars : Tab BarState
  /-- tile configuration block, if configured (R322) -/
  tcb : Option (BitVec 512)
  /-- block that a TCFG waiting for its units has read (R331, R332) -/
  nextTcb : Option (BitVec 512)
  /-- accumulator units held, in order (R321) -/
  units : List Nat
  rq : BitVec 32
  dn : BitVec 32
  /-- ordered to stop (R439) -/
  stopping : Bool
  /-- message that started a handler: sent-launch entry and core, for MESSAGES (R452) -/
  sender : Option (Nat × Nat)
  deriving DecidableEq, Repr

/-- An entry without a team. -/
def Team.reset : Team :=
  { kind := .user, bind := Bind.reset, code := 0, cluster := 0, k := [], rstack := [], bars := [], tcb := none, nextTcb := none,
    units := [], rq := 0, dn := 0, stopping := false, sender := none }

/-! ## Bundles -/

/-- A bundle: the threads that issue together, the run they are in, and the latch counts (R123, R49, R132). -/
structure Bundle where
  core : Nat
  threads : List Nat
  runPc : VA
  pc : VA
  hints : Hints
  l0 : Nat
  l1 : Nat
  l2 : Nat
  l3 : Nat
  /-- inside an XOP sequence: the words issued are micro-ops (R400) -/
  inXop : Bool
  /-- the XOP word whose sequence it runs -/
  word : Word := 0
  deriving DecidableEq, Repr

/-! ## Register file, caches and memory metadata -/

/-- A register line (R110). The lanes listed in `vals` are its valid lanes. -/
structure RegLine where
  core : Nat
  ctx : Nat
  /-- address of the line in its image, a virtual address of the arena -/
  tag : Nat
  /-- register number -/
  n : Nat
  vals : Tab Word
  dirty : Bool
  evictable : Bool
  poison : BitVec 32
  /-- fill requested and not arrived (R111) -/
  filling : Bool
  used : Nat
  deriving DecidableEq, Repr

/-- A line of an instruction buffer: 16 words, or none while it is on its way (R124, R127). `ctx` is the context, or
64 more for a line fetched with its supervisor's rights, which no user thread runs from (R208). -/
structure ILine where
  ctx : Nat
  va : Nat
  words : Option (List Word)
  used : Nat
  deriving DecidableEq, Repr

/-- A TLB entry (R211): the page and its leaf. -/
structure TlbEntry where
  ctx : Nat
  /-- virtual address of the page over 4,096 -/
  vpn : Nat
  /-- pages of 4 KiB covered -/
  span : Nat
  /-- leaf of the first page -/
  leaf : DWord
  deriving DecidableEq, Repr

/-- A non-leaf entry that a die's walker caches (R211): the table entry of a context's address at a level. -/
structure WalkEntry where
  die : Nat
  ctx : Nat
  level : Nat
  /-- the virtual address over the range that one entry of the level covers -/
  tag : Nat
  next : Nat
  deriving DecidableEq, Repr

/-- State of a grain unit in an L2 (R218). -/
inductive DirState where
  | s | o | u
  deriving DecidableEq, Repr

/-- A grain unit that an L2 holds (R218, R219). -/
structure DirEntry where
  die : Nat
  base : Nat
  size : Nat
  st : DirState
  sharers : BitVec 290
  deriving DecidableEq, Repr

/-- A read-only replica of a line (R220). -/
structure Replica where
  line : Nat
  die : Nat
  slice : Nat
  launch : Nat
  deriving DecidableEq, Repr

/-- A partial value of an update-only copy (R304): the sharer bit of its holder, the element, operation and type. -/
structure UCopy where
  die : Nat
  sharer : Nat
  pa : Nat
  op : Nat
  ty : Nat
  val : DWord
  deriving DecidableEq, Repr

/-- A sector that a cluster's L1 slice still holds as it was before a write of another agent (R273, R278, R291): a weak load
there may be served from it until the reads of its cluster are bound to see the write (log 20). -/
structure Stale where
  /-- core of the L1 slice -/
  core : Nat
  sec : Nat
  data : BitVec 256
  /-- cores that have written since -/
  by_ : List Nat
  /-- context and virtual address of the write, and whether it was strong -/
  ctx : Nat
  va : Nat
  strong : Bool
  /-- cores whose releases, made at a scope that holds this slice, have published the write since (R275, R276) -/
  pubs : List Nat
  deriving DecidableEq, Repr

/-- A GDDR-7 frame (R214): block of 64 KiB, locks held by arenas, the 512-byte units filled and those dirty, last use. -/
structure Frame where
  block : Nat
  locks : Nat
  filled : List Nat
  dirty : List Nat
  used : Nat
  deriving DecidableEq, Repr

/-- Who claims a HOME 0 or HOME 1 location (R209). -/
structure Claim where
  loc : Nat
  ctx : Nat
  vpn : Nat
  deriving DecidableEq, Repr

/-- How an array fault shows (R447, R449). -/
inductive EccKind where
  | single | transient | lasting
  deriving DecidableEq, Repr

/-- A fault of a storage array that has not been met yet: the array of R451's LOG_UNIT and the sector. -/
structure Ecc where
  unit : Nat
  sector : Nat
  kind : EccKind
  deriving DecidableEq, Repr

/-! ## Contexts -/

/-- A bind-table entry (R280). -/
structure Region where
  base : Nat
  len : Nat
  obj : Nat
  deriving DecidableEq, Repr

/-- Use that a bound sequence makes of one operand field (R391). -/
structure FieldUse where
  reads : Bool
  writes : Bool
  /-- highest register offset reached, a pair counting its odd half -/
  top : Nat
  /-- parity that .W64 accesses require of the code -/
  parity : Option Nat
  /-- highest OFF of a read -/
  off : Nat
  deriving DecidableEq, Repr

/-- An unused field. -/
def FieldUse.reset : FieldUse := { reads := false, writes := false, top := 0, parity := none, off := 0 }

/-- A valid entry of a Kaolin binding table (R391). -/
structure KBind where
  start : Nat
  len : Nat
  d : FieldUse
  a : FieldUse
  b : FieldUse
  c : FieldUse
  deriving DecidableEq, Repr

/-- Operation of CTX_RUNCTL in progress (R443). -/
inductive RunOp where
  | halt | resume | teardown
  deriving DecidableEq, Repr

/-- A piece of an arena in use: offset and length (R108, R440). -/
structure Alloc where
  off : Nat
  len : Nat
  deriving DecidableEq, Repr

/-- One context: its registers (R80, R81, R106, R201, R204, R309, R409, R443) and what the device holds for it. -/
structure Ctx where
  lpage : DWord
  htab : DWord
  amGroup : BitVec 16
  weight : BitVec 8
  owner : BitVec 6
  launchUser : Bool
  amNack : BitVec 32
  image : DWord
  pinned : Bool
  pinErr : Bool
  errCause : BitVec 2
  pinning : Bool
  imageSize : BitVec 16
  home : BitVec 9
  svcode : DWord
  fpstat : BitVec 5
  monSpill : BitVec 16
  ptroot : DWord
  fqBase : DWord
  fqEnable : Bool
  fqSize : BitVec 4
  fqTail : BitVec 32
  rplUnits : BitVec 16
  runBusy : Bool
  runStatus : BitVec 3
  halted : Bool
  runOp : Option RunOp
  /-- a TEARDOWN taken when the operation in progress ends (R443) -/
  tearNext : Bool
  /-- page of the arena to leaf, fixed at pinning (R107) -/
  arena : Tab DWord
  spillInForce : Nat
  rplInForce : Nat
  allocs : List Alloc
  binds : List Region
  kImage : List Word
  kBinds : Tab KBind
  /-- SV_LOST of the instance on each core (R435) -/
  svLost : Tab DWord
  /-- cores whose instance waits for Loess to bring in a page of CTX_SVCODE, with that page (R121) -/
  svPending : Tab Nat
  /-- cores on which the check of R121 failed since CTX_SVCODE was last written -/
  svBad : List Nat
  /-- deficit credit of each level (R90) -/
  credit : Tab Nat
  deriving DecidableEq, Repr

/-- A context after reset: the values of R81, R106, R309, R409, R443; zero where the spec gives none (log 4). -/
def Ctx.reset : Ctx :=
  { lpage := 0, htab := 0, amGroup := 0, weight := 16, owner := 0, launchUser := false, amNack := 0, image := 0,
    pinned := false, pinErr := false, errCause := 0, pinning := false, imageSize := 0, home := 0, svcode := 0,
    fpstat := 0, monSpill := 0, ptroot := 0, fqBase := 0, fqEnable := false, fqSize := 0, fqTail := 0, rplUnits := 0,
    runBusy := false, runStatus := 0, halted := false, runOp := none, tearNext := false, arena := [],
    spillInForce := 0, rplInForce := 0, allocs := [], binds := [], kImage := [], kBinds := [], svLost := [],
    svPending := [], svBad := [], credit := [] }

/-! ## Functions and the device -/

/-- An invalidation in progress (R212, R213): its context and operation, the pages it covers, the accesses in flight that
it waits for, and the threads whose XOP sequences hold probe slots in the range. -/
structure InvJob where
  ctx : Nat
  op : Nat
  vpn : Nat
  n : Nat
  waits : List Nat
  seqs : List Nat
  deriving DecidableEq, Repr

/-- The registers of one function (R15, R21, R78, R212, R487). -/
structure Func where
  accept : BitVec 256
  session : Bool
  featStatus : BitVec 3
  events : List DWord
  lost : Bool
  armed : Bool
  invVa : DWord
  invPages : BitVec 32
  invStatus : BitVec 3
  invCtx : BitVec 6
  invOp : BitVec 2
  /-- BUSY of INV_CTL is 1 while there is one -/
  inv : Option InvJob
  mbBusy : Bool
  mbStatus : BitVec 3
  mbKind : BitVec 4
  mbLen : BitVec 11
  mbData : Tab Byte
  deriving DecidableEq, Repr

/-- A function after reset. -/
def Func.reset : Func :=
  { accept := 0, session := false, featStatus := 0, events := [], lost := false, armed := false, invVa := 0,
    invPages := 0, invStatus := 0, invCtx := 0, invOp := 0, inv := none, mbBusy := false,
    mbStatus := 0, mbKind := 0, mbLen := 0, mbData := [] }

/-- Firmware, flash, readiness (R16–R20) and the key store (R225, R488). -/
structure Boot where
  state : BitVec 4
  failCause : BitVec 4
  /-- the image in flash; none when absent -/
  flash : Option (List Byte)
  rxImage : List Byte
  ready : BitVec 32
  colReady : BitVec 32
  /-- 64 bytes of key for each index that is set -/
  keys : Tab (BitVec 512)
  deriving DecidableEq, Repr

/-- Registers of the physical function alone (R212, R215, R300, R451, R484, R486). -/
structure Dev where
  biasPa : DWord
  /-- the flip in progress, BUSY of BIAS_CTL: its page, by number, and whether it goes to device bias (R223) -/
  flip : Option (Nat × Bool)
  biasStatus : BitVec 3
  toDevice : Bool
  devmemGib : BitVec 6
  hostAop : Bool
  wftOvf0 : BitVec 16
  wftOvf1 : BitVec 16
  logUnit : BitVec 8
  blockFail : Bool
  poisoned : Bool
  lasting : Bool
  errCe : BitVec 32
  errTransient : BitVec 32
  errLasting : BitVec 32
  errLogPa : DWord
  limitW : BitVec 11
  applying : Bool
  powerNow : BitVec 11
  throttled : Bool
  tripped : Bool
  clk100 : BitVec 8
  temp0 : BitVec 8
  temp1 : BitVec 8
  deriving DecidableEq, Repr

/-- The device registers after reset. -/
def Dev.reset : Dev :=
  { biasPa := 0, flip := none, biasStatus := 0, toDevice := false, devmemGib := 0, hostAop := false, wftOvf0 := 0,
    wftOvf1 := 0, logUnit := 0, blockFail := false, poisoned := false, lasting := false, errCe := 0, errTransient := 0,
    errLasting := 0, errLogPa := 0, limitW := 1400, applying := false, powerNow := 0, throttled := false,
    tripped := false, clk100 := 36, temp0 := 0, temp1 := 0 }

/-! ## Launches, clusters, cores, messages -/

/-- State of a queue entry (R88). -/
inductive QState where
  | waiting | eligible | placing | placed
  deriving DecidableEq, Repr

/-- A held queue entry: the device's copy of the LPB and of the kernel table entry (R66, R68), and its progress. -/
structure Launch where
  state : QState
  ctx : Nat
  groups : Nat
  cls : Nat
  code : DWord
  gx : Nat
  gy : Nat
  gz : Nat
  w : Nat
  h : Nat
  order : Nat
  swizzle : Nat
  startAddr : DWord
  startValue : DWord
  doneAddr : DWord
  doneTag : BitVec 32
  dieSel : Nat
  prio : Nat
  kargs : List DWord
  entryPc : DWord
  regs : Nat
  scratch : Nat
  /-- clusters of the sequence placed so far (R70) -/
  next : Nat
  /-- clusters whose teams have all exited -/
  doneClusters : Nat
  /-- cores that have served its clusters (R454) -/
  served : List Nat
  /-- acceptance order -/
  seq : Nat
  /-- effective priority and the wall-clock time it counts from (R89) -/
  effPrio : Nat
  ageFrom : Nat
  /-- flags of R455 -/
  poison : Bool
  faulted : Bool
  copyErr : Bool
  deadlock : Bool
  /-- conditions raised and not merged yet (R201) -/
  conds : BitVec 5
  /-- batch that a stamp access waits on -/
  stampBatch : Option Nat
  /-- the start stamp has been read and its page is held by Loess (R73) -/
  stampFault : Bool
  deriving DecidableEq, Repr

/-- One team of a placed or pre-empted cluster. -/
structure Member where
  core : Nat
  entry : Nat
  imageBase : DWord
  scratchBase : Nat
  exited : Bool
  /-- what the core keeps of a stopped team beside its image and save block: the team and its threads, by
  %group × 32 + lane (R117, R311) -/
  savedTeam : Option Team
  savedThreads : Tab Thread
  savedCopyCount : Tab Nat
  /-- save block of a team that had exited when its cluster was pre-empted; 0 for none (R117) -/
  saveBase : DWord
  deriving DecidableEq, Repr

/-- Where a cluster stands. -/
inductive CState where
  | bound | runnable | stopping | preempted
  deriving DecidableEq, Repr

/-- A cluster that has been placed and has not finished (R65, R91, R117). -/
structure Cluster where
  launch : Nat
  x : Nat
  y : Nat
  z : Nat
  die : Nat
  /-- core number within the die of its top-left core -/
  origin : Nat
  state : CState
  /-- order of binding -/
  boundSeq : Nat
  /-- completed phases of the cluster barrier (R313) -/
  phases : BitVec 32
  members : List Member
  /-- rebound on other cores: the write-back of the old ones has not ended (R118) -/
  writeback : Bool
  /-- rebound: its teams restore before they run (R441) -/
  rebound : Bool
  /-- wall-clock time at which it was last pre-empted (R102, R318) -/
  since : Nat := 0
  /-- keys of its records that dispatch refused when it was last tried (R95) -/
  refused : List Nat := []
  deriving DecidableEq, Repr

/-- An active message (R97, R434). -/
structure Msg where
  /-- sender: device, context, its AM_GROUP (0 where its session has no ACTIVE_MSG), core -/
  dev : Nat
  ctx : Nat
  group : Nat
  core : Nat
  launch : Option Nat
  dstDev : Nat
  dstCore : Nat
  dstCtx : Nat
  handler : Nat
  len : Nat
  payload : List Word
  /-- wall-clock time from which a slot or a position for it has been lacking at its destination (R99) -/
  since : Option Nat
  /-- the batch that holds a page which its handler's table or code needs, the page, the reason of R101 if the page fails,
  and whether it has failed -/
  batch : Option Nat
  page : Nat
  reason : Nat
  failed : Bool
  deriving DecidableEq, Repr

/-- Scratch still held for an exited team (R104, R241). -/
structure Held where
  base : Nat
  size : Nat
  cluster : Nat
  team : Nat
  deriving DecidableEq, Repr

/-- One core: its slot-table header (R93) and what it holds beside its teams. -/
structure Core where
  budget : Nat
  bindErr : Nat
  /-- CTXS: four positions, 0xFF for an empty one -/
  ctxs : List Nat
  sramHeld : List Held
  /-- context whose supervisor instance holds slot 128 -/
  svCur : Option Nat
  /-- that instance has yielded or executed SVRET: the slot may change (R119) -/
  svYield : Bool
  outbound : List Msg
  ibuf : List ILine
  tlb : List TlbEntry
  /-- context whose Kaolin image each bank holds (R392) -/
  banks : Tab Nat
  /-- cluster that its L1 slice serves (R217) -/
  l1Cluster : Option Nat
  deriving DecidableEq, Repr

/-- A core after reset: BUDGET is 64 at the reset power limit (R105). -/
def Core.reset : Core :=
  { budget := 64, bindErr := 0xFF, ctxs := [0xFF, 0xFF, 0xFF, 0xFF], sramHeld := [], svCur := none, svYield := false, outbound := [],
    ibuf := [], tlb := [], banks := [], l1Cluster := none }

/-- The outstanding counters of a launch on a core (R452). -/
structure Outst where
  stores : Nat
  rscratch : Nat
  copies : Nat
  messages : Nat
  deriving DecidableEq, Repr

/-! ## Operations, accesses, copies -/

/-- A lane of an operation: its thread, address and data as formed at issue (R412). -/
structure Lane where
  tid : Nat
  addr : DWord
  x : DWord
  y : DWord
  deriving DecidableEq, Repr

/-- Why a lane parks (R408). -/
inductive Reason where
  | notPresent | format | homeBusy | bias
  deriving DecidableEq, Repr

/-- A counting hit of a walk (R353, R354): the records it lies in, t as an exact quotient, and what the hit record gives. -/
structure WHit where
  tri : Nat
  inst : Nat
  tn : Int
  td : Nat
  u : Word
  v : Word
  prim : Word
  instId : Word
  geom : Word
  back : Bool
  deriving DecidableEq, Repr

/-- A ray of a walk: the one of TRACE, or a pixel's (R365). -/
structure WRay where
  done : Bool
  best : Option WHit
  deriving DecidableEq, Repr

/-- An entry of a walk's node stack: the node as it was read, and its children still to be visited (R416). -/
structure WNode where
  addr : Nat
  left : Nat
  bottom : Bool
  words : List DWord
  deriving DecidableEq, Repr

/-- A walk of TRACE, BEAM or COV (R365, R416). -/
structure Walk where
  /-- ray registers or beam block as read -/
  block : Option (List DWord)
  vbChecked : Bool
  /-- scene record as read; for COV, the mark that its leaf has been walked -/
  scene : Option (List DWord)
  /-- instance record in hand: its address and words -/
  inst : Option (Nat × List DWord)
  /-- next record of the instance leaf in hand -/
  leafNext : Nat
  /-- top entry first -/
  stack : List WNode
  rays : List WRay
  deriving DecidableEq, Repr

/-- An operation under check (R136, R229): its instruction, hints and lanes. -/
structure Op where
  id : Nat
  instr : Instr
  hints : Hints
  word : Word
  core : Nat
  ctx : Nat
  runPc : VA
  /-- address of the hinted instruction word -/
  pc : VA
  /-- 0 until its first checks have ended; a texture operation is 1 from then on (R374) -/
  stage : Nat
  lanes : List Lane
  /-- the walk of a TRACE, BEAM or COV -/
  walk : Option Walk := none
  /-- words of a texture descriptor as read (R366, R374) -/
  desc : List DWord := []
  /-- the bind table as it stood when an ACQ or REL issued (R281) -/
  binds : List Region := []
  /-- registers that it names: their lines are locked until it ends (R112) -/
  regs : List Nat := []
  deriving DecidableEq, Repr

/-- What an access in flight does when it is performed. -/
inductive AccKind where
  | load | store | atomic | maintain | persist
  deriving DecidableEq, Repr

/-- An access in flight (R232, R235, R303): one lane of an operation whose checks have passed. -/
structure Access where
  id : Nat
  /-- operation it is a lane of -/
  op : Nat
  runPc : VA
  pc : VA
  kind : AccKind
  tid : Nat
  core : Nat
  ctx : Nat
  instr : Instr
  hints : Hints
  va : DWord
  pa : Nat
  size : Nat
  /-- data, new value, compare value -/
  x : DWord
  y : DWord
  strong : Bool
  scope : Nat
  acq : Bool
  rel : Bool
  /-- of a release or an acquire: full, or bound to the regions of the bind table as it stood at issue (R275, R281) -/
  full : Bool
  binds : List Region
  /-- accesses in flight that are performed before it (R234, R273, R275) -/
  after : List Nat
  launch : Option Nat
  remote : Bool
  /-- the leaf under which it was checked -/
  leaf : DWord
  /-- registers that it will write: their lines are locked until then (R112, R232) -/
  dst : List Nat := []
  /-- other threads of the team for which an LDK reads (R242) -/
  mates : List Nat := []
  deriving DecidableEq, Repr

/-- Where a copy stands (R249–R263, R442). -/
inductive CpState where
  | gathering | waiting | moving | parked | stamping | suspended
  deriving DecidableEq, Repr

/-- A group's slice of a copy (R248). -/
structure Slice where
  group : Nat
  minor : Nat
  a : DWord
  b : DWord
  c : BitVec 32
  k : List DWord
  deriving DecidableEq, Repr

/-- An entry of the range scoreboard (R252): bytes [lo, hi) of a core's SRAM. -/
structure SbEntry where
  core : Nat
  lo : Nat
  hi : Nat
  deriving DecidableEq, Repr

/-- A passed check: the leaf and the location (R208). -/
structure Passed where
  leaf : Nat
  loc : Nat
  deriving DecidableEq, Repr

/-- A sector that an engine has read and not landed (R258, R442): its number in its row, its bytes, whether they are
poisoned, and where they land, by receiver. -/
structure SectorBuf where
  n : Nat
  bytes : List Byte
  bad : Bool
  dests : List (Nat × Passed)
  deriving DecidableEq, Repr

/-- One copy of an engine, with its progress as R415 records it. -/
structure Copy where
  id : Nat
  core : Nat
  place : Nat
  /-- its team's key, while it gathers slices or is suspended -/
  team : Nat
  /-- the bind record of its team -/
  bind : Bind
  cluster : Nat
  ctx : Nat
  launch : Option Nat
  /-- number of the team's copy (R249) -/
  n : Nat
  state : CpState
  /-- what it goes on as, once it is suspended no more (R442) -/
  was : CpState
  slices : List Slice
  /-- accesses of its members that precede it (R253) -/
  after : List Nat
  status : Nat
  /-- COUNT of R255 -/
  count : Nat
  /-- slice, row or element, sectors of it landed in order, and which of the next 16 have landed (R415) -/
  slice : Nat
  row : Nat
  prog : Nat
  window : BitVec 16
  /-- index word held for the element in hand (R263), and whether its sector was poisoned (R257) -/
  index : Option DWord
  indexBad : Bool
  /-- sectors read and not landed, and the lines in progress for which the engine holds every byte (R258) -/
  buf : List SectorBuf
  held : List Nat
  /-- the acknowledgement barrier has been told of the last byte (R262) -/
  acked : Bool
  entries : List SbEntry
  poison : Bool
  deriving DecidableEq, Repr

/-- A sector that an engine had read and not landed when its copy was suspended (R442): the member of the cluster that
owns its destination scratch, the issuing team and place, the offset in that scratch, and the bytes that are valid. -/
structure QSector where
  cluster : Nat
  owner : Nat
  team : Nat
  place : Nat
  off : Nat
  mask : BitVec 32
  data : BitVec 256
  poison : Bool
  deriving DecidableEq, Repr

/-! ## Faults, monitors, waits -/

/-- UNIT of a record set (R410). -/
inductive UnitKind where
  | lane | store | atomic | copy | walk | texture | xop | fetch | whole
  deriving DecidableEq, Repr

/-- STATE of a record set (R411). -/
inductive SetState where
  | parked | armed | held
  deriving DecidableEq, Repr

/-- A thread's place in a set: the page and reason it parked on. -/
structure ParkPage where
  lane : Nat
  page : Nat
  reason : Reason
  write : Bool
  fetch : Bool
  deriving DecidableEq, Repr

/-- A record set: the device's own copy of the header and the parked state (R410, R418). -/
structure RSet where
  id : Nat
  ctx : Nat
  /-- virtual address of the header in the replay area -/
  addr : DWord
  nrec : Nat
  unit : UnitKind
  state : SetState
  reason : Reason
  batch : BitVec 32
  pc : VA
  /-- the word after the hinted instruction -/
  next : VA
  word : Word
  mask : BitVec 32
  held : BitVec 32
  gid : Nat
  core : Nat
  /-- OWNER: group slot and slot-table entry -/
  owner : Nat
  instr : Instr
  hints : Hints
  lanes : List Lane
  /-- parked state of a WALK or TEXTURE set: its payload in words of 8 bytes (R416, R417) -/
  data : List DWord
  pages : List ParkPage
  copy : Option Nat
  walk : Option Walk
  deriving DecidableEq, Repr

/-- A batch entry (R421). -/
structure BEntry where
  page : Nat
  reason : Reason
  pred : Bool
  write : Bool
  fetch : Bool
  deriving DecidableEq, Repr

/-- A batch of a context on a die, open or posted (R419). -/
structure Batch where
  id : Nat
  ctx : Nat
  die : Nat
  seq : BitVec 32
  posted : Bool
  /-- location of its record, once posted -/
  loc : Nat := 0
  openedAt : Nat
  entries : List BEntry
  /-- candidates for its predictions, nearest first (R420) -/
  cands : List Nat
  deriving DecidableEq, Repr

/-- A signal of MSI-X vector 0 of a function that waits for writes in flight (R77). -/
structure MsiWait where
  f : Nat
  waits : List Nat
  deriving DecidableEq, Repr

/-- The completion stamp of a launch that was rejected, while its page or port does not let it be written (R67, R454): the
batch that it waits for, if it waits for one. -/
structure RejStamp where
  id : Nat
  die : Nat
  ctx : Nat
  addr : Nat
  /-- DONE_TAG × 2^32 + status -/
  word : Nat
  batch : Option Nat
  deriving DecidableEq, Repr

/-- A mailbox request, or one still waiting for a slot (slot 0) (R424–R426). -/
structure Request where
  core : Nat
  ctx : Nat
  slot : Nat
  event : Bool
  cause : Nat
  gid : Nat
  lanes : BitVec 32
  hasSet : Option Nat
  pc : VA
  info0 : DWord
  info1 : DWord
  args : List Word
  /-- destination of a TRAP's result (R431) -/
  dst : BitVec 7
  /-- the word after the hinted instruction -/
  next : VA
  deriving DecidableEq, Repr

/-- Who waits on a monitor: a thread (R307), a thread of a team that is not resident, by its cluster, %team, %group and
lane (R311), a queued launch (R73), a batch (R422). -/
inductive MonWho where
  | thread (tid : Nat) | away (cl team g lane : Nat) | launch (q : Nat) | batch (b : Nat)
  deriving DecidableEq, Repr

/-- Where a monitor is held (R309). -/
inductive MonPlace where
  /-- one of the 256 entries of a slice, or an entry at an owning core -/
  | entry
  /-- a spill entry of the context's arena: bucket and index -/
  | spill (bucket i : Nat)
  /-- no monitor: the word is read every 2 µs -/
  | poll (next : Nat)
  deriving DecidableEq, Repr

/-- A condition monitor (R307). -/
structure Monitor where
  id : Nat
  who : MonWho
  ctx : Nat
  /-- slice: die × 48 + slice; or 96 + core for a HOME 0 page -/
  at_ : Nat
  pa : Nat
  size : Nat
  cc : Nat
  cmp : DWord
  acq : Bool
  scope : Nat
  dst : BitVec 7
  place : MonPlace
  /-- it has fired during a halt of its context (R445) -/
  hit : Bool
  deriving DecidableEq, Repr

/-- Kind of a tracked wait (R315), and the wait of a TCFG for units (R332). -/
inductive WKind where
  | waitc | tbarWait | bar | cbar | group | units
  deriving DecidableEq, Repr

/-- An entry of a wait-for table: a wait of a group on an object (R315). -/
structure WEntry where
  id : Nat
  die : Nat
  kind : WKind
  /-- the object: element's PA, barrier location, index, or rendezvous address -/
  obj : Nat
  gid : Nat
  tids : List Nat
  armedAt : Nat
  seq : Nat
  deriving DecidableEq, Repr

/-- A signaller code declared for an object (R317). -/
structure Decl where
  ctx : Nat
  die : Nat
  pa : Nat
  code : BitVec 32
  cluster : Nat
  launch : Nat
  deriving DecidableEq, Repr

/-! ## Matrix and Marl -/

/-- A matrix request (R326), with what it keeps from its issue. -/
structure MReq where
  id : Nat
  core : Nat
  ctx : Nat
  /-- key of its team; none once the team has exited (R321) -/
  team : Option Nat
  tid : Nat
  launch : Option Nat
  ticket : BitVec 32
  instr : Instr
  /-- parameter block; for TZERO the tile, or all ones for every tile -/
  block : BitVec 512
  /-- configuration and units of its team at issue (R323) -/
  tcb : BitVec 512
  units : List Nat
  /-- image of its team and its REGS: where its register lines have their tags (R109) -/
  base : Nat
  regs : Nat
  /-- lines that it locks, by %group and register (R328) -/
  lines : List (Nat × Nat)
  /-- what R152 mixes before the element, and the xor of its source words -/
  seed : Nat
  src : Nat
  /-- groups whose threads had all exited (R328) -/
  dead : BitVec 32
  deriving DecidableEq, Repr

/-- The loaded radiance network's configuration (R376). -/
structure Rnb where
  levels : Nat
  tlog2 : Nat
  hidden : Nat
  ringLog2 : Nat
  batchLog2 : Nat
  param : DWord
  lr : Word
  beta1 : Word
  beta2 : Word
  eps : Word
  res : List Nat
  deriving DecidableEq, Repr

/-- One die's radiance store and optimiser (R377, R381, R382, R390). -/
structure MarlDie where
  g : Tab (BitVec 16)
  master : Tab Word
  m : Tab Word
  v : Tab Word
  steps : Nat
  /-- steps since the last commit -/
  stepsNew : Nat
  gen : BitVec 32
  ring : List (List Word)
  appended : BitVec 32
  dropped : BitVec 32
  /-- generation of a commit that this die has still to switch to (R388 step 3) -/
  toSwitch : Bool
  deriving DecidableEq, Repr

/-- A store that nothing has loaded. -/
def MarlDie.reset : MarlDie :=
  { g := [], master := [], m := [], v := [], steps := 0, stepsNew := 0, gen := 0, ring := [], appended := 0,
    dropped := 0, toSwitch := false }

/-- A commit of the radiance cache: threads that asked for it before step 2, and those of the next one (R388). -/
structure Commit where
  /-- step 2 has been made -/
  exchanged : Bool
  waiters : List Nat
  later : List Nat
  folded : BitVec 32
  deriving DecidableEq, Repr

/-- The radiance cache (R375). -/
structure Marl where
  owner : Option Nat
  cfg : Option Rnb
  die0 : MarlDie
  die1 : MarlDie
  commit : Option Commit
  deriving DecidableEq, Repr

/-- The radiance cache after reset. -/
def Marl.reset : Marl := { owner := none, cfg := none, die0 := MarlDie.reset, die1 := MarlDie.reset, commit := none }

/-! ## The machine -/

/-- The whole machine. -/
structure State where
  clk : Nat
  /-- wall-clock time since the reset, in the units of `wallUnit` (R4) -/
  wall : Nat
  powered : Bool
  /-- the model's own: external stimuli and choices still to come (log 2) -/
  inputs : List (Instr × Subject)
  /-- what the event in hand happens to (log 2) -/
  subj : Subject
  /-- accesses and snoops of hosts that the device makes wait (R218, R223) -/
  waiting : List (Instr × Subject)
  issue : List Bundle
  held : List Bundle
  /-- the model's own: counter of the free values (log 3) -/
  freeCount : Nat
  /-- the model's own: counter that numbers operations, accesses, sets, batches, monitors and bindings (log 3) -/
  nextId : Nat
  /-- the model's own: what the last host read returned (log 4) -/
  hostData : DWord
  /-- MSI-X signals sent: function and vector -/
  msix : List (Nat × Nat)
  msiWait : List MsiWait
  boot : Boot
  funcs : Tab Func
  dev : Dev
  ctxs : Tab Ctx
  launches : Tab Launch
  outst : Tab Outst
  clusters : Tab Cluster
  cores : Tab Core
  teams : Tab Team
  groups : Tab Group
  threads : Tab Thread
  lines : List RegLine
  tlb2 : List (Nat × TlbEntry)
  /-- non-leaf entries cached by the walkers (R211) -/
  wcache : List WalkEntry
  inbox : List (Nat × Msg)
  mem : List Host.Cell
  claims : List Claim
  /-- device pages in device bias, by page number (R222) -/
  bias : List Nat
  dir : List DirEntry
  replicas : List Replica
  stale : List Stale
  ucopies : List UCopy
  frames : List Frame
  /-- poisoned sectors: physical address div 32 (R450) -/
  poison : List Nat
  /-- key index a sector was written with, where it is not 0 (R225) -/
  sectorKey : Tab Nat
  /-- contents that persistent sectors with newer bytes may come back with: the durable one, then those written since but
  the newest (R226) -/
  notDurable : Tab (List (BitVec 256))
  /-- sectors that memory requests to an untrained port are held for, with the wall-clock time of the first (R19) -/
  heldReqs : Tab Nat
  ecc : List Ecc
  ops : List Op
  accs : List Access
  copies : List Copy
  /-- sectors in the quarantine buffers (R442) -/
  quar : List QSector
  sets : List RSet
  batches : List Batch
  requests : List Request
  /-- stamps of rejected launches still to be written (R67) -/
  rejected : List RejStamp
  monitors : List Monitor
  wft : List WEntry
  decls : List Decl
  /-- clk and core of the last LAUNCH that each die's queue accepted (R87) -/
  accepted : Tab (Nat × Nat)
  /-- blocked agents that the last walk found in a cycle, and their waits: holder and expected signallers (R319) -/
  lastCycle : List Nat
  lastWaits : List (Nat × List Nat)
  nextWalk : Nat
  /-- accumulator elements: (core × 16 + unit) × 4,096 + element (R321) -/
  acc : Tab Word
  accPoison : List Nat
  mreqs : List MReq
  marl : Marl
  deriving DecidableEq, Repr

/-- Why a step stops. Each is a stop of the whole machine, and each is safe: the model goes on in no state that the
hardware would be in. -/
inductive Fault where
  /-- Raised by the step of a module that has removed its own power or lost it (R486, R226): nothing runs until power
  returns. Safe. -/
  | poweredOff
  /-- Raised by the meaning of an instruction word or micro-op when no bundle is being issued: an instruction is
  executed by the threads of a bundle alone (R39, R123). `step` never runs one so. Safe. -/
  | noBundle
  deriving DecidableEq, Repr

/-- Why the model gives a step no meaning. -/
inductive Refusal where
  /-- Raised by the dispatcher alone, for an instruction whose meaning is not written yet. Safe. -/
  | notModelled (mnemonic : String)
  deriving DecidableEq, Repr

/-- Outcome of a step of this machine. -/
abbrev Out := Host.Outcome State Fault Refusal

/-- The boot registers right after power-on (R6, R15–R20). What the flash holds is the model's choice: an image without a byte,
of which `imageVerdict` says whether it passes (log 5). -/
def Boot.reset : Boot :=
  { state := 1, failCause := 0, flash := some [], rxImage := [], ready := 1, colReady := 0, keys := [] }

/-- The machine right after a module reset. -/
def State.reset : State :=
  { clk := 0, wall := 0, powered := true, inputs := [], subj := {}, waiting := [], issue := [], held := [], freeCount := 0, nextId := 1,
    hostData := 0, msix := [], msiWait := [], boot := Boot.reset, funcs := [], dev := Dev.reset, ctxs := [], launches := [],
    outst := [], clusters := [], cores := [], teams := [], groups := [], threads := [], lines := [], tlb2 := [],
    wcache := [], inbox := [], mem := [], claims := [], bias := [], dir := [], replicas := [], stale := [], ucopies := [], frames := [],
    poison := [], sectorKey := [], notDurable := [], heldReqs := [], ecc := [], ops := [], accs := [], copies := [], quar := [],
    sets := [], batches := [], requests := [], rejected := [], monitors := [], wft := [], decls := [], accepted := [], lastCycle := [],
    lastWaits := [], nextWalk := 0, acc := [], accPoison := [], mreqs := [], marl := Marl.reset }

end Sys2Proof.Machine
end

