-- ==== Sys2Proof/Machine/Acc.lean ====
section
/-! DEFINITION. The accessors: every register, thread, team and table entry has one home in State and is read and
written here. An entry that is not listed reads as its reset record. -/
namespace Sys2Proof.Machine

/-! ## Records by number -/

/-- Thread `t` of the part. -/
def State.thread (s : State) (t : Nat) : Thread := s.threads.at' Thread.reset t
/-- Replaces a thread's control state. -/
def State.setThread (s : State) (t : Nat) (v : Thread) : State := { s with threads := s.threads.put t v }
/-- Changes a thread's control state. -/
def State.modThread (s : State) (t : Nat) (f : Thread → Thread) : State := s.setThread t (f (s.thread t))

/-- Group `g` of the part. -/
def State.group (s : State) (g : Nat) : Group := s.groups.at' Group.reset g
/-- Replaces a group. -/
def State.setGroup (s : State) (g : Nat) (v : Group) : State := { s with groups := s.groups.put g v }
/-- Changes a group. -/
def State.modGroup (s : State) (g : Nat) (f : Group → Group) : State := s.setGroup g (f (s.group g))

/-- Team `k` of the part. -/
def State.team (s : State) (k : Nat) : Team := s.teams.at' Team.reset k
/-- Replaces a team. -/
def State.setTeam (s : State) (k : Nat) (v : Team) : State := { s with teams := s.teams.put k v }
/-- Changes a team. -/
def State.modTeam (s : State) (k : Nat) (f : Team → Team) : State := s.setTeam k (f (s.team k))

/-- Core `c`. -/
def State.core (s : State) (c : Nat) : Core := s.cores.at' Core.reset c
/-- Replaces a core. -/
def State.setCore (s : State) (c : Nat) (v : Core) : State := { s with cores := s.cores.put c v }
/-- Changes a core. -/
def State.modCore (s : State) (c : Nat) (f : Core → Core) : State := s.setCore c (f (s.core c))

/-- Context `c`. -/
def State.ctx (s : State) (c : Nat) : Ctx := s.ctxs.at' Ctx.reset c
/-- Replaces a context. -/
def State.setCtx (s : State) (c : Nat) (v : Ctx) : State := { s with ctxs := s.ctxs.put c v }
/-- Changes a context. -/
def State.modCtx (s : State) (c : Nat) (f : Ctx → Ctx) : State := s.setCtx c (f (s.ctx c))

/-- Function `f`. -/
def State.func (s : State) (f : Nat) : Func := s.funcs.at' Func.reset f
/-- Replaces a function. -/
def State.setFunc (s : State) (f : Nat) (v : Func) : State := { s with funcs := s.funcs.put f v }
/-- Changes a function. -/
def State.modFunc (s : State) (f : Nat) (g : Func → Func) : State := s.setFunc f (g (s.func f))

/-- Changes the device registers. -/
def State.modDev (s : State) (f : Dev → Dev) : State := { s with dev := f s.dev }
/-- Changes the boot registers. -/
def State.modBoot (s : State) (f : Boot → Boot) : State := { s with boot := f s.boot }

/-- Changes a held queue entry; a free one stays free. -/
def State.modLaunch (s : State) (q : Nat) (f : Launch → Launch) : State :=
  match s.launches.find q with
  | some l => { s with launches := s.launches.put q (f l) }
  | none => s

/-- Changes a cluster in place. -/
def State.modCluster (s : State) (k : Nat) (f : Cluster → Cluster) : State :=
  match s.clusters.find k with
  | some c => { s with clusters := s.clusters.put k (f c) }
  | none => s

/-- One clk passes: the arithmetic clock counts it, and wall-clock time goes on by its period (R4, R486). -/
def State.nextClk (s : State) : State :=
  { s with clk := s.clk + 1, wall := s.wall + wallUnit / s.dev.clk100.toNat }

/-- A fresh number for an operation, access, set, batch or monitor. -/
def State.fresh (s : State) : Nat × State := (s.nextId, { s with nextId := s.nextId + 1 })

/-- A free value, and the state whose counter has advanced (log 3). -/
def State.free (s : State) : DWord × State := (freeValue s.freeCount, { s with freeCount := s.freeCount + 1 })

/-! ## Who is who -/

/-- Group of a thread. -/
def gidOf (t : Nat) : Nat := t / 32
/-- Lane of a thread (R122). -/
def laneOf (t : Nat) : Nat := t % 32
/-- Core of a group. -/
def coreOfGroup (g : Nat) : Nat := g / 192
/-- Slot of a group on its core. -/
def slotOfGroup (g : Nat) : Nat := g % 192
/-- Core of a thread. -/
def coreOf (t : Nat) : Nat := coreOfGroup (gidOf t)
/-- Core of a team. -/
def coreOfTeam (k : Nat) : Nat := k / 192
/-- Entry of a team on its core. -/
def entryOfTeam (k : Nat) : Nat := k % 192

/-- Key of the team of a thread. -/
def State.teamOf (s : State) (t : Nat) : Nat := (s.group (gidOf t)).team
/-- Context of a thread. -/
def State.ctxOf (s : State) (t : Nat) : Nat := (s.team (s.teamOf t)).bind.ctx
/-- A thread of a supervisor instance (R119). -/
def State.isSup (s : State) (t : Nat) : Bool := (s.team (s.teamOf t)).kind == .supervisor
/-- Queue entry of a thread's launch; none for a handler or a supervisor (R452). -/
def State.launchOf (s : State) (t : Nat) : Option Nat :=
  let m := s.team (s.teamOf t)
  if m.kind == .user then some m.bind.launch else none

/-- The slots 0–127 named by a mask, in rising order (R94). -/
def slotsOf (m : BitVec 128) : List Nat := (List.range 128).filter (fun i => m.getLsbD i)

/-- The groups of a team, by %group. -/
def State.groupsOf (s : State) (k : Nat) : List Nat :=
  let m := s.team k
  match m.kind with
  | .supervisor => [groupKey (coreOfTeam k) (entryOfTeam k)]
  | _ => (slotsOf m.bind.slots).map (groupKey (coreOfTeam k))

/-- The 32 threads of a group. -/
def threadsOfGroup (g : Nat) : List Nat := (List.range 32).map (threadKey g)
/-- Every thread of a team. -/
def State.threadsOf (s : State) (k : Nat) : List Nat := (s.groupsOf k).flatMap threadsOfGroup

/-- A thread that has not exited. -/
def State.alive (s : State) (t : Nat) : Bool := (s.thread t).tstate != .exited

/-- Keys of the teams that a core holds, its entries in rising order. -/
def State.teamsOn (s : State) (c : Nat) : List Nat :=
  ((s.teams.filter (fun p => coreOfTeam p.1 == c && p.2.bind.state != .free)).map (·.1))

/-- Predicate `n` of a thread; p7 is true (R69). -/
def Thread.pred (t : Thread) (n : Nat) : Bool := if n = 7 then true else t.preds.getLsbD n
/-- Writes predicate `n`, 0–6 (R44). -/
def Thread.setPred (t : Thread) (n : Nat) (v : Bool) : Thread :=
  if n < 7 then
    { t with preds := if v then t.preds ||| (1#7 <<< n) else t.preds &&& ~~~(1#7 <<< n) }
  else t

/-- k register `n` of a team (R8). -/
def Team.kreg (m : Team) (n : Nat) : DWord := m.k.at' 0 n
/-- k register `n` of a thread's team (R125). -/
def State.kreg (s : State) (t n : Nat) : DWord := (s.team (s.teamOf t)).kreg n
/-- Writes a k register of a team. -/
def State.setK (s : State) (k n : Nat) (v : DWord) : State := s.modTeam k (fun m => { m with k := m.k.put n v })

/-! ## Scheduling marks of a thread -/

/-- Makes a thread ready to run at `pc`. -/
def Thread.resume (t : Thread) (pc : VA) : Thread := { t with pc := pc, tstate := .run, waitFor := .nothing }

/-- Leaves a thread not ready, with TSTATE WAIT, waiting for `w` from clk `now` (R109). -/
def Thread.block (t : Thread) (w : WaitFor) (now : Nat) : Thread :=
  { t with tstate := .wait, waitFor := w, armedAt := now }

/-- Leaves a thread not ready, its TSTATE still RUN (fetch suspension, fills, holds). -/
def Thread.suspend (t : Thread) (w : WaitFor) : Thread := { t with waitFor := w }

end Sys2Proof.Machine
end

