-- ==== Sys2Proof/Machine/Bits.lean ====
section
/-! DEFINITION. Bit fields, byte order and small list helpers that the meanings share (00 R1, R7). -/
namespace Sys2Proof.Machine

/-- Field of a natural number: `len` bits from bit `lo` (R7, x[hi:lo]). -/
def bits (x lo len : Nat) : Nat := x / 2 ^ lo % 2 ^ len
/-- Bit `i` of a natural number. -/
def bit (x i : Nat) : Bool := x.testBit i
/-- 1 or 0. -/
def b2n (b : Bool) : Nat := if b then 1 else 0

/-- SExt(x, m) of the low `n` bits (R7). -/
def sext (n m x : Nat) : Nat := wrapInt m (signedOf n x)

/-- Number of 1 bits among the low `n`. -/
def popc (n x : Nat) : Nat := ((List.range n).filter (fun i => bit x i)).length

/-- Little-endian bytes of a number, `n` of them (R1). -/
def bytesOf (n x : Nat) : List Byte := (List.range n).map (fun i => BitVec.ofNat 8 (x / 2 ^ (8 * i)))

/-- The number that little-endian bytes stand for (R1). -/
def ofBytes : List Byte → Nat
  | [] => 0
  | b :: r => b.toNat + 256 * ofBytes r

/-- Position of the lowest set bit below `n`, if any. -/
def lowBit (n x : Nat) : Option Nat := (List.range n).find? (fun i => bit x i)
/-- Position of the highest set bit below `n`, if any. -/
def highBit (n x : Nat) : Option Nat := ((List.range n).reverse).find? (fun i => bit x i)

/-- Keeps the first element of every key. -/
def dedupBy {α : Type} (key : α → Nat) : List α → List α
  | [] => []
  | x :: r => x :: (dedupBy key r).filter (fun y => key y != key x)

/-- Inserts by rising rank, after equals. -/
def insertBy {α : Type} (le : α → α → Bool) (x : α) : List α → List α
  | [] => [x]
  | y :: r => if le y x then y :: insertBy le x r else x :: y :: r

/-- Sorts by a rank, keeping the order of equals. -/
def sortBy {α : Type} (le : α → α → Bool) (l : List α) : List α := l.foldl (fun acc x => insertBy le x acc) []

/-- The first element of least rank. -/
def minBy {α : Type} (rank : α → Nat) : List α → Option α
  | [] => none
  | x :: r =>
    match minBy rank r with
    | none => some x
    | some y => if rank y < rank x then some y else some x

/-- The first element of greatest rank. -/
def maxBy {α : Type} (rank : α → Nat) : List α → Option α
  | [] => none
  | x :: r =>
    match maxBy rank r with
    | none => some x
    | some y => if rank x < rank y then some y else some x

/-- Runs `f` from a state over a list. -/
def forEach {α : Type} (l : List α) (s : State) (f : α → State → State) : State := l.foldl (fun s x => f x s) s

/-- A 32-bit mask of lanes. -/
def maskOf (l : List Nat) : BitVec 32 := l.foldl (fun m i => m ||| (1#32 <<< i)) 0
/-- The lanes of a mask, rising. -/
def lanesOf (m : BitVec 32) : List Nat := (List.range 32).filter (fun i => m.getLsbD i)

end Sys2Proof.Machine
end

