-- ==== Sys2Proof/Machine/Num.lean ====
section
/-! DEFINITION. Numbers (08 R143–R158): exact values, the floating formats of R145, reading an encoding, and the one
rounding of R151 on which every floating result and conversion rests. -/
namespace Sys2Proof.Machine

/-! ## Exact values -/

/-- A value as the arithmetic sees it: a NaN (signalling or not), an infinity, or a finite number of a sign and a
magnitude `num / den`; a zero keeps its sign. -/
inductive Num where
  | nan (signalling : Bool)
  | inf (neg : Bool)
  | fin (neg : Bool) (num den : Nat)
  deriving DecidableEq, Repr

namespace Num

/-- A finite value from a signed numerator; a zero is positive. -/
def ofInt (n : Int) (d : Nat := 1) : Num := .fin (decide (n < 0)) n.natAbs d
/-- +0. -/
def zero : Num := .fin false 0 1
/-- It is a NaN. -/
def isNan : Num → Bool
  | .nan _ => true
  | _ => false
/-- It is a signalling NaN. -/
def isSnan : Num → Bool
  | .nan s => s
  | _ => false
/-- It is an infinity. -/
def isInf : Num → Bool
  | .inf _ => true
  | _ => false
/-- It is a zero. -/
def isZero : Num → Bool
  | .fin _ n _ => n == 0
  | _ => false
/-- Its sign. -/
def neg : Num → Bool
  | .nan _ => false
  | .inf s => s
  | .fin s _ _ => s
/-- The value with its sign turned. -/
def negate : Num → Num
  | .nan s => .nan s
  | .inf s => .inf (!s)
  | .fin s n d => .fin (!s) n d
/-- The magnitude. -/
def abs : Num → Num
  | .nan s => .nan s
  | .inf _ => .inf false
  | .fin _ n d => .fin false n d
/-- Signed numerator of a finite value. -/
def top : Num → Int
  | .fin s n _ => if s then -(n : Int) else n
  | _ => 0
/-- Denominator of a finite value. -/
def den : Num → Nat
  | .fin _ _ d => d
  | _ => 1
/-- Two finite values in order: a < b. -/
def ltFin (a b : Num) : Bool := decide (a.top * b.den < b.top * a.den)

/-- Exact sum (R190). A zero sum of operands that are not two negative zeros is +0, or −0 when rounding towards −∞
(R147); ∞ − ∞ is a NaN. -/
def add (down : Bool) (a b : Num) : Num :=
  match a, b with
  | .nan _, _ => .nan false
  | _, .nan _ => .nan false
  | .inf s, .inf t => if s == t then .inf s else .nan false
  | .inf s, _ => .inf s
  | _, .inf t => .inf t
  | .fin s n d, .fin t m e =>
    let x := (if s then -(n : Int) else n) * e + (if t then -(m : Int) else m) * d
    if x = 0 then .fin (if n = 0 && m = 0 && s == t then s else down) 0 1
    else ofInt x (d * e)

/-- Exact product; 0 × ∞ is a NaN (R190). -/
def mul (a b : Num) : Num :=
  match a, b with
  | .nan _, _ => .nan false
  | _, .nan _ => .nan false
  | .inf s, .inf t => .inf (s != t)
  | .inf s, .fin t n _ => if n = 0 then .nan false else .inf (s != t)
  | .fin s n _, .inf t => if n = 0 then .nan false else .inf (s != t)
  | .fin s n d, .fin t m e => .fin (s != t) (n * m) (d * e)

/-- Exact product by 2^b. -/
def scale (a : Num) (b : Int) : Num :=
  match a with
  | .fin s n d => if b ≥ 0 then .fin s (n * 2 ^ b.toNat) d else .fin s n (d * 2 ^ (-b).toNat)
  | x => x

/-- The order of GRED, FMIN and FMAX: −0 below +0 (R186, R191). Neither is a NaN. -/
def lt (a b : Num) : Bool :=
  match a, b with
  | .inf s, .inf t => s && !t
  | .inf s, _ => s
  | _, .inf t => !t
  | x, y => x.ltFin y || (x.isZero && y.isZero && x.neg && !y.neg)

/-- Numeric equality, +0 and −0 equal (R195). -/
def eq (a b : Num) : Bool :=
  match a, b with
  | .inf s, .inf t => s == t
  | .fin _ _ _, .fin _ _ _ => a.top * b.den == b.top * a.den
  | _, _ => false

/-- The floor of log2 of a magnitude n/d, n and d nonzero. -/
def log2Floor (n d : Nat) : Int :=
  let k : Int := (Nat.log2 n : Int) - (Nat.log2 d : Int)
  let below := if k ≥ 0 then decide (n < d * 2 ^ k.toNat) else decide (n * 2 ^ (-k).toNat < d)
  if below then k - 1 else k

/-- Floor of a signed quotient. -/
def floorDiv (n : Int) (d : Nat) : Int := n / (d : Int)
/-- Ceiling of a signed quotient. -/
def ceilDiv (n : Int) (d : Nat) : Int := -((-n) / (d : Int))

end Num

/-! ## Formats (R145, R146) -/

/-- How a format marks infinities and NaNs. -/
inductive Specials where
  | ieee | nanOnly | none
  deriving DecidableEq, Repr

/-- A floating format: widths of exponent and mantissa, and bias. -/
structure Fmt where
  e : Nat
  m : Nat
  bias : Nat
  sp : Specials
  deriving DecidableEq, Repr

/-- The format of a TYPE code (R52, R145). -/
def fmtOf : Nat → Fmt
  | 14 => { e := 11, m := 52, bias := 1023, sp := .ieee }
  | 15 => { e := 8, m := 23, bias := 127, sp := .ieee }
  | 16 => { e := 5, m := 10, bias := 15, sp := .ieee }
  | 17 => { e := 8, m := 7, bias := 127, sp := .ieee }
  | 18 => { e := 4, m := 3, bias := 7, sp := .nanOnly }
  | 19 => { e := 5, m := 2, bias := 15, sp := .ieee }
  | 20 => { e := 3, m := 2, bias := 3, sp := .none }
  | 21 => { e := 2, m := 3, bias := 1, sp := .none }
  | _ => { e := 2, m := 1, bias := 1, sp := .none }

namespace Fmt

/-- Position of the sign bit. -/
def signBit (f : Fmt) : Nat := f.e + f.m
/-- Magnitude code of the largest finite value (R145). -/
def maxCode (f : Fmt) : Nat :=
  match f.sp with
  | .ieee => (2 ^ f.e - 1) * 2 ^ f.m - 1
  | .nanOnly => 2 ^ (f.e + f.m) - 2
  | .none => 2 ^ (f.e + f.m) - 1
/-- Magnitude code of infinity. -/
def infCode (f : Fmt) : Nat := (2 ^ f.e - 1) * 2 ^ f.m
/-- The canonical NaN (R146); +0 where the format has none (R153). -/
def nanCode (f : Fmt) : Nat :=
  match f.sp with
  | .ieee => f.infCode + 2 ^ (f.m - 1)
  | .nanOnly => 2 ^ (f.e + f.m) - 1
  | .none => 0
/-- Applies a sign to a magnitude code. -/
def withSign (f : Fmt) (neg : Bool) (c : Nat) : Nat := if neg then c + 2 ^ f.signBit else c

/-- The value of an encoding (R145, R146). -/
def read (f : Fmt) (x : Nat) : Num :=
  let c := x % 2 ^ f.signBit
  let s := bit x f.signBit
  let ex := c / 2 ^ f.m
  let ma := c % 2 ^ f.m
  if f.sp == .ieee && ex == 2 ^ f.e - 1 then
    if ma = 0 then .inf s else .nan (!bit ma (f.m - 1))
  else if f.sp == .nanOnly && c == 2 ^ f.signBit - 1 then .nan false
  else
    let n := if ex = 0 then ma else 2 ^ f.m + ma
    let k : Int := (max ex 1 : Nat) - (f.bias : Int) - f.m
    if k ≥ 0 then .fin s (n * 2 ^ k.toNat) 1 else .fin s n (2 ^ (-k).toNat)

end Fmt

/-! ## Rounding (R151) -/

/-- What a rounding found: the magnitude code with the exponent unbounded above, and whether it differs from x. -/
structure Rounded where
  code : Nat
  inexact : Bool
  deriving DecidableEq, Repr

/-- Chooses between the integers below and above a magnitude `n + r/d`, 0 ≤ r < d, of a sign, under a mode of R51;
`draw` is the draw of R152. True when the upper magnitude is taken (R151). -/
def roundUp (mode : Nat) (draw : Nat) (neg : Bool) (n r d : Nat) : Bool :=
  if r = 0 then false
  else
    match mode with
    | 0 => decide (d < 2 * r) || (2 * r == d && n % 2 == 1)
    | 1 => false
    | 2 => neg
    | 3 => !neg
    | _ => if neg then !decide (draw < (d - r) * 2 ^ 32 / d) else decide (draw < r * 2 ^ 32 / d)

/-- Rounds a nonzero magnitude num/den to a format, exponent unbounded above (R151). -/
def roundMag (f : Fmt) (mode draw : Nat) (neg : Bool) (num den : Nat) : Rounded :=
  if num = 0 then { code := 0, inexact := false }
  else
    let emin : Int := 1 - (f.bias : Int)
    let q : Int := max (Num.log2Floor num den) emin - f.m
    let (a, b) := if q ≥ 0 then (num, den * 2 ^ q.toNat) else (num * 2 ^ (-q).toNat, den)
    let n := a / b
    let r := a % b
    let n' := if roundUp mode draw neg n r b then n + 1 else n
    { code := (((q + f.m + f.bias) * 2 ^ f.m : Int) + n' - 2 ^ f.m).toNat, inexact := r != 0 }

/-- A value rounded to an integer under a mode (R154, R193): its magnitude, and whether it changed. -/
def roundInt (mode draw : Nat) (neg : Bool) (num den : Nat) : Nat × Bool :=
  let n := num / den
  let r := num % den
  (if roundUp mode draw neg n r den then n + 1 else n, r != 0)

/-- The overflow result of a mode is the largest finite value, not an infinity ("Mode" of R153). -/
def overflowMax (mode : Nat) (neg : Bool) : Bool :=
  match mode with
  | 1 => true
  | 2 => !neg
  | 3 => neg
  | _ => false

/-! ## The draw of R152 -/

/-- mix of R152. -/
def srMix (z : Nat) : Nat :=
  let z := Nat.xor z (z / 2 ^ 16)
  let z := z * 0x7FEB352D % 2 ^ 32
  let z := Nat.xor z (z / 2 ^ 15)
  let z := z * 0x846CA68B % 2 ^ 32
  Nat.xor z (z / 2 ^ 16)

/-- h of R152 from G, DONE_TAG and the address of the word. -/
def srSeed (g tag a : Nat) : Nat :=
  srMix (Nat.xor (srMix (Nat.xor g (tag * 0x85EBCA6B % 2 ^ 32))) (a % 2 ^ 32))

/-- r of R152 from that, the element and the xor of the source words. -/
def srDraw (seed e s : Nat) : Nat := srMix (Nat.xor (srMix (Nat.xor seed (e % 2 ^ 32))) (s % 2 ^ 32))

/-- Xor of the 32-bit words of a number of `w` bits. -/
def xorWords (w x : Nat) : Nat :=
  (List.range ((w + 31) / 32)).foldl (fun acc i => Nat.xor acc (bits x (32 * i) 32)) 0

end Sys2Proof.Machine
end

