-- ==== Sys2Proof/Machine/Mem.lean ====
section
/-! DEFINITION. Memory by location (11 R203, R209; 12 R236, R240). A location is a number: a 52-bit physical address as
it stands; above them the SRAM of each core (scratch and HOME 0 pages) and the pinned regions of the L2 slices
(HOME 1 pages). Bytes stand in one canonical list: addresses rising, no zero byte listed, an unlisted byte reading
zero (log 1). Beside the bytes: poison, keys, durability, array faults, the directory and the frames. -/
namespace Sys2Proof.Machine

/-! ## The byte list -/

/-- The byte at a location: zero where nothing is listed (log 1). -/
def memGet (m : List Host.Cell) (a : Nat) : Byte :=
  match m with
  | [] => 0
  | (k, b) :: r => if a = k then b else if a < k then 0 else memGet r a

/-- Adds or replaces the entry of a location, in its place. -/
def memIns (m : List Host.Cell) (a : Nat) (b : Byte) : List Host.Cell :=
  match m with
  | [] => [(a, b)]
  | (k, v) :: r =>
    if a = k then (a, b) :: r else if a < k then (a, b) :: (k, v) :: r else (k, v) :: memIns r a b

/-- Removes the entry of a location. -/
def memDel (m : List Host.Cell) (a : Nat) : List Host.Cell :=
  match m with
  | [] => []
  | (k, v) :: r => if a = k then r else if a < k then (k, v) :: r else (k, v) :: memDel r a

/-- Writes the byte at a location, keeping the canonical form. -/
def memPut (m : List Host.Cell) (a : Nat) (b : Byte) : List Host.Cell :=
  if b = 0 then memDel m a else memIns m a b

/-- Every listed address is above `lo`, addresses rise, and no listed byte is zero. -/
def memOk (lo : Nat) : List Host.Cell → Bool
  | [] => true
  | (k, b) :: r => lo ≤ k && b != 0 && memOk (k + 1) r

/-- The canonical form of memory. -/
def Memory.wf (m : List Host.Cell) : Bool := memOk 0 m

/-- Memory with the bytes from `lo` to `hi − 1` as an unlisted address reads (log 1). -/
def memClear (m : List Host.Cell) (lo hi : Nat) : List Host.Cell := m.filter (fun c => decide (c.1 < lo ∨ hi ≤ c.1))

/-- The byte of the machine at a location. -/
def State.byte (s : State) (a : Nat) : Byte := memGet s.mem a
/-- Writes a byte of the machine. -/
def State.setByte (s : State) (a : Nat) (b : Byte) : State := { s with mem := memPut s.mem a b }

/-- `n` bytes from a location, lowest first. -/
def State.bytes (s : State) : Nat → Nat → List Byte
  | _, 0 => []
  | a, n + 1 => s.byte a :: State.bytes s (a + 1) n

/-- Writes bytes from a location up. -/
def State.setBytes (s : State) (a : Nat) : List Byte → State
  | [] => s
  | b :: r => (s.setByte a b).setBytes (a + 1) r

/-- Mem(a, n) read as a number (R1, R7). -/
def State.readN (s : State) (a n : Nat) : Nat := ofBytes (s.bytes a n)
/-- Mem(a, n) := x (R1, R7). -/
def State.writeN (s : State) (a n x : Nat) : State := s.setBytes a (bytesOf n x)

/-! ## Locations -/

/-- First location of core SRAM: 256 KiB a core (R14). -/
def sramBase : Nat := 2 ^ 52
/-- Byte `off` of a core's SRAM. -/
def sramLoc (core off : Nat) : Nat := sramBase + core * 2 ^ 18 + off
/-- First location of the pinned L2 regions: 1 MiB a slice (R209). -/
def pinBase : Nat := 2 ^ 53
/-- Byte `off` of slot `slot` of a slice. -/
def pinLoc (die slice slot off : Nat) : Nat := pinBase + ((die * 48 + slice) * 256 + slot) * 4096 + off
/-- Pool memory (R203). -/
def isPool (pa : Nat) : Bool := pa < 2 ^ 46
/-- Device memory range, carved out or not (R203). -/
def isDevmem (pa : Nat) : Bool := 2 ^ 46 ≤ pa && pa < 2 ^ 46 + 2 ^ 35
/-- Host memory (R203). -/
def isHostMem (pa : Nat) : Bool := 2 ^ 51 ≤ pa && pa < 2 ^ 52
/-- Reserved range (R203). -/
def isReservedPa (pa : Nat) : Bool := 2 ^ 46 + 2 ^ 35 ≤ pa && pa < 2 ^ 51
/-- The SRAM of some core. -/
def isSram (loc : Nat) : Bool := sramBase ≤ loc && loc < sramBase + 288 * 2 ^ 18
/-- Core of an SRAM location. -/
def sramCore (loc : Nat) : Nat := (loc - sramBase) / 2 ^ 18
/-- Carve-out in force, in bytes (R215). -/
def State.carveout (s : State) : Nat := s.dev.devmemGib.toNat * 2 ^ 30

/-! ## Home slices (R216, R217) -/

/-- The physical address that a location stands for: the page number of a HOME 0 or HOME 1 location is the one that its leaf
names it by (R209). -/
def physOf (loc : Nat) : Nat :=
  if loc < sramBase then loc
  else if isSram loc then (sramCore loc + bits loc 12 6 * 512) * 4096 + loc % 4096
  else
    let p := (loc - pinBase) / 4096
    (p / 256 / 48 + p / 256 % 48 * 2 + p % 256 * 128) * 4096 + loc % 4096

/-- h of a line of physical memory (R216). -/
def lineHash (pa : Nat) : Nat := Nat.xor (Nat.xor (bits pa 7 16) (bits pa 23 16)) (bits pa 39 13)
/-- h of a location's line (R216). -/
def homeHash (loc : Nat) : Nat := lineHash (physOf loc)
/-- Home die of a line: that of its hash, or of the slice that a HOME 1 page is pinned in. -/
def homeDie (loc : Nat) : Nat :=
  if pinBase ≤ loc then (loc - pinBase) / 2 ^ 20 / 48 else homeHash loc % 2
/-- Home slice of a line. -/
def homeSlice (pa : Nat) : Nat := homeHash pa / 2 % 48
/-- The slice that is the point of coherence of a location, numbered die × 48 + slice; the owning core of SRAM as
96 + core (R209, R307). -/
def pointOf (loc : Nat) : Nat :=
  if isSram loc then 96 + sramCore loc
  else if pinBase ≤ loc then (loc - pinBase) / 2 ^ 20
  else homeDie loc * 48 + homeSlice loc

/-! ## Poison, keys, durability -/

/-- Sector of a location. -/
def sectorOf (loc : Nat) : Nat := loc / 32

/-- A sector is poisoned (R450). -/
def State.isPoisoned (s : State) (sec : Nat) : Bool := s.poison.contains sec
/-- Poisons a sector. -/
def State.poisonSector (s : State) (sec : Nat) : State :=
  if s.poison.contains sec then s else { s with poison := insertBy (fun a b => decide (a ≤ b)) sec s.poison }
/-- The bytes of a range read as unlisted ones do, and carry no poison. -/
def State.clearRange (s : State) (lo n : Nat) : State :=
  { s with mem := memClear s.mem lo (lo + n), poison := s.poison.filter (fun x => decide (x * 32 < lo ∨ lo + n ≤ x * 32)) }
/-- Clears a sector's poison. -/
def State.cleanSector (s : State) (sec : Nat) : State := { s with poison := s.poison.filter (· != sec) }

/-- Adds 1 to a counter of 32 bits that saturates (R251). -/
def sat32 (x : BitVec 32) : BitVec 32 := if x = 0xFFFFFFFF#32 then x else x + 1

/-- Logs a lasting fault (R449, R450): the count, the unit, the sector and MSI-X vector 2. -/
def State.logLasting (s : State) (unit sec : Nat) (poisons : Bool) : State :=
  let s := s.modDev (fun d =>
    { d with errLasting := sat32 d.errLasting, lasting := true, poisoned := d.poisoned || poisons,
             logUnit := BitVec.ofNat 8 unit, errLogPa := BitVec.ofNat 64 (sec * 32) })
  { s with msix := s.msix ++ [(0, 2)] }

/-- The fault of an array, if any, that an access to a sector meets (R447). Those of the register file and of accumulator
memory are met by reads of their own. -/
def State.eccAt (s : State) (sec : Nat) : Option Ecc := s.ecc.find? (fun e => e.sector == sec && e.unit != 1 && e.unit != 6)

/-- An access meets the array fault of its sector (R447, R449): a single-bit error is corrected and counted, another is
retried once; a lasting one is logged, and poisons the sector unless a cache's clean copy can be dropped for the next
level (units 3 and 4 whose unit no agent owns). -/
def State.meetEcc (s : State) (sec : Nat) : State :=
  match s.eccAt sec with
  | none => s
  | some e =>
    let s := { s with ecc := s.ecc.erase e }
    match e.kind with
    | .single => s.modDev (fun d => { d with errCe := sat32 d.errCe })
    | .transient => s.modDev (fun d => { d with errTransient := sat32 d.errTransient })
    | .lasting =>
      let owned := s.dir.any (fun d => d.st == .o && d.base ≤ sec * 32 && sec * 32 < d.base + d.size)
      if (e.unit == 3 || e.unit == 4) && !owned then s.logLasting e.unit sec false
      else (s.logLasting e.unit sec true).poisonSector sec

/-- A translation whose key differs from the one a sector was written with (R225). -/
def State.keyMismatch (s : State) (sec key : Nat) : Bool :=
  match s.sectorKey.find sec with
  | some k => k != key
  | none => false

/-- A consumer's view of a sector (R237, R449): meets its array faults, and says whether the data may be used. -/
def State.consume (s : State) (loc key : Nat) : State × Bool :=
  let sec := sectorOf loc
  let s := s.meetEcc sec
  if s.isPoisoned sec then (s, false)
  else if s.keyMismatch sec key then ((s.logLasting 5 sec true).poisonSector sec, false)
  else (s, true)

/-- The frame that caches a location, if one does, has newer data than the memory behind it in one 512-byte unit (R214). -/
def State.dirtyFrame (s : State) (loc : Nat) : State :=
  { s with frames := s.frames.map (fun f =>
      if f.block == loc / 65536 && !f.dirty.contains (loc % 65536 / 512) then
        { f with dirty := f.dirty ++ [loc % 65536 / 512],
                 filled := if f.filled.contains (loc % 65536 / 512) then f.filled else f.filled ++ [loc % 65536 / 512] }
      else f) }

/-- Drops the replicas of a line: a write to it, or its flush (R220). -/
def State.dropReplicas (s : State) (pa : Nat) : State :=
  { s with replicas := s.replicas.filter (fun r => r.line != pa / 128) }

/-- The content of a persistent sector before a write joins those that it may come back with (R226). -/
def State.keepOld (s : State) (sec : Nat) : State :=
  let old := s.notDurable.at' [] sec
  { s with notDurable := s.notDurable.put sec (old ++ [BitVec.ofNat 256 (s.readN (sec * 32) 32)]) }

/-- A write of bytes under a leaf's key, persistence and HOME (R210, R220, R225, R226, R237, R450): what a persistent sector
held is kept aside until the sector is made durable; a whole sector loses its poison; a part of a sector written under
another key merges with data that fail their check, so the sector is poisoned; the line's replicas go; what is cached makes
its frame unit dirty. The bytes lie in one sector. -/
def State.storeBytes (s : State) (loc key : Nat) (persist cached : Bool) (bs : List Byte) : State :=
  let sec := sectorOf loc
  let whole := bs.length == 32
  let s := if persist then s.keepOld sec else s
  let s := s.dropReplicas loc
  let s := if whole then s.cleanSector sec else if s.keyMismatch sec key then s.poisonSector sec else s
  let s := if loc < 2 ^ 52 then { s with sectorKey := s.sectorKey.put sec key } else s
  let s := if persist || !cached then s else s.dirtyFrame loc
  s.setBytes loc bs

/-- A sector that one store is about to cover: its poison goes, and it is the store's key that it is written under (R237). -/
def State.freshSector (s : State) (loc key : Nat) : State :=
  let s := s.cleanSector (sectorOf loc)
  if loc < 2 ^ 52 then { s with sectorKey := s.sectorKey.put (sectorOf loc) key } else s

/-! ## Directory, frames, replicas (R214, R218–R220) -/

/-- Bytes of a grain unit (R206, R219). -/
def grainSize (g : Nat) : Nat := if g = 0 then 32 else if g = 1 then 128 else 512

/-- Two ranges of bytes overlap. -/
def overlaps (a n b m : Nat) : Bool := a < b + m && b < a + n

/-- Frames the page cache holds (R214). -/
def State.frameCapacity (s : State) : Nat := (143 - s.dev.devmemGib.toNat) * 16384

/-- A write that no cache keeps: the directory's entries and the replicas of its bytes go (R218, R220). -/
def State.dirDrop (s : State) (base n : Nat) : State :=
  { s with dir := s.dir.filter (fun d => !overlaps d.base d.size base n),
           replicas := s.replicas.filter (fun r => !overlaps (r.line * 128) 128 base n) }

/-- Takes every copy of a range of bytes out of the caches, what slices still held from before a write with them (R218). -/
def State.dirRecall (s : State) (base n : Nat) : State :=
  let s := s.dirDrop base n
  { s with stale := s.stale.filter (fun x => !overlaps (x.sec * 32) 32 base n) }

/-- A copy engine frees its line ownership (R261): the L2 alone holds the lines then. -/
def State.freeEngine (s : State) (core : Nat) : State :=
  { s with dir := s.dir.map (fun d =>
      if d.die == dieOf core && d.sharers.getLsbD (146 + core % coresPerDie) then
        { d with sharers := d.sharers &&& ~~~(1#290 <<< (146 + core % coresPerDie)), st := if d.st == .o then .s else d.st }
      else d) }

/-- A copy engine has a line of a range of bytes in progress: it holds what the line still needs, and a recall waits until
the line has landed (R218, R258). -/
def State.inProgress (s : State) (base n : Nat) : Bool :=
  s.copies.any (fun c => c.held.any (fun l => overlaps (l * 128) 128 base n))

/-- The unit of a frame that a location lies in is filled and used (R214). -/
def Frame.fill (f : Frame) (loc now : Nat) : Frame :=
  let u := loc % 65536 / 512
  { f with used := now, filled := if f.filled.contains u then f.filled else f.filled ++ [u] }

/-- Brings the unit of a pool or host location into its frame at an L2 miss (R214): a frame that is not there takes the place
of the least recently used one that is not locked when all are taken, whose lines are recalled and whose dirty units are
written back first. -/
def State.touchFrame (s : State) (pa : Nat) : State :=
  if !(isPool pa || isHostMem pa) then s
  else
    let blk := pa / 65536
    if s.frames.any (fun f => f.block == blk) then
      { s with frames := s.frames.map (fun f => if f.block == blk then f.fill pa s.clk else f) }
    else
      let new : Frame := { block := blk, locks := 0, filled := [pa % 65536 / 512], dirty := [], used := s.clk }
      if s.frames.length < s.frameCapacity then { s with frames := s.frames ++ [new] }
      else
        match minBy (fun f : Frame => f.used) (s.frames.filter (fun f => f.locks == 0 && !s.inProgress (f.block * 65536) 65536)) with
        | some v =>
          let s := s.dirRecall (v.block * 65536) 65536
          { s with frames := s.frames.filter (fun f => f.block != v.block) ++ [new] }
        | none => s

/-- Bytes of the units that a test selects. -/
def unitBytes (l : List DirEntry) : Nat := (l.map (·.size)).foldl (· + ·) 0

/-- A line that leaves a full L2 is recalled from every agent that its entry names (R14, R218); it is the one listed longest
(log 70). -/
def State.trimL2 (s : State) (die : Nat) : State :=
  let l := s.dir.filter (fun d => d.die == die)
  if unitBytes l ≤ l2Bytes then s
  else
    match l.find? (fun d => !s.inProgress d.base d.size) with
    | some d => { s with dir := s.dir.erase d, stale := s.stale.filter (fun x => !overlaps (x.sec * 32) 32 d.base d.size) }
    | none => s

/-- A unit leaves a full L1 slice (R14). -/
def State.trimL1 (s : State) (die sharer : Nat) : State :=
  let l := s.dir.filter (fun d => d.die == die && d.sharers.getLsbD sharer)
  if sharer ≥ coresPerDie || unitBytes l ≤ l1Bytes then s
  else
    match l with
    | d :: _ =>
      { s with dir := s.dir.map (fun e => if e == d then
          { e with sharers := e.sharers &&& ~~~(1#290 <<< sharer), st := if e.st == .o then .s else e.st } else e) }
    | [] => s

/-- The unit of a location on a die: that of the grain it was installed with, else that of the access's (R219). -/
def State.unitAt (s : State) (die pa grain : Nat) : Nat × Nat :=
  match s.dir.find? (fun d => d.die == die && d.base ≤ pa && pa < d.base + d.size) with
  | some d => (d.base, d.size)
  | none => (pa / grainSize grain * grainSize grain, grainSize grain)

/-- An agent of a die reads a grain unit: an owner's dirty data are merged, the unit is shared (R218). `sharer` none is the L2
alone. -/
def State.dirRead (s : State) (die : Nat) (sharer : Option Nat) (pa grain : Nat) : State :=
  let (base, n) := s.unitAt die pa grain
  let miss := !(s.dir.any (fun d => overlaps d.base d.size base n))
  let shared := s.dir.map (fun d => if overlaps d.base d.size base n && d.st == .o then { d with st := .s } else d)
  let bit : BitVec 290 := (sharer.map (fun i => 1#290 <<< i)).getD 0
  let dir := if shared.any (fun d => d.die == die && overlaps d.base d.size base n) then
      shared.map (fun d => if d.die == die && overlaps d.base d.size base n then { d with sharers := d.sharers ||| bit } else d)
    else shared ++ [{ die := die, base := base, size := n, st := .s, sharers := bit }]
  let s : State := { s with dir := dir }
  let s := if miss then s.touchFrame pa else s
  (s.trimL1 die (sharer.getD coresPerDie)).trimL2 die

/-- An agent of a die writes a grain unit: every other copy is invalidated, replicas first (R218, R220). A die that is not the
home holds its copy as the other die of the home slice's entry (R216, R218). -/
def State.dirWrite (s : State) (die sharer pa grain : Nat) : State :=
  let (base, n) := s.unitAt die pa grain
  let miss := !(s.dir.any (fun d => overlaps d.base d.size base n))
  let rest := s.dir.filter (fun d => !overlaps d.base d.size base n)
  let s := s.dropReplicas pa
  let own : DirEntry := { die := die, base := base, size := n, st := .o, sharers := 1#290 <<< sharer }
  let home := homeDie pa
  let at_ : DirEntry := { die := home, base := base, size := n, st := .o, sharers := 1#290 <<< 144 }
  let s : State := { s with dir := rest ++ (if home == die then [own] else [own, at_]) }
  let s := if miss then s.touchFrame pa else s
  (s.trimL1 die sharer).trimL2 die

/-! ## What clusters see (R217, R238, R273–R278) -/

/-- Regions bound to an object cover a byte range, whole lines at a time (R275, R280, R282). -/
def boundTo (binds : List Region) (obj va n : Nat) : Bool :=
  binds.any (fun r => r.obj == obj &&
    overlaps (r.base / 128 * 128) ((r.base + r.len + 127) / 128 * 128 - r.base / 128 * 128) va n)

/-- Core whose L1 slice serves a line for a core (R217). -/
def State.l1Core (s : State) (core loc : Nat) : Nat :=
  match ((s.core core).l1Cluster).bind s.clusters.find with
  | some c =>
    match c.members[homeHash loc % max 1 c.members.length]? with
    | some m => m.core
    | none => core
  | none => core

/-- Two cores share the L1 slices of one cluster (R217). -/
def State.sameL1 (s : State) (a b : Nat) : Bool :=
  a == b || ((s.core a).l1Cluster.isSome && (s.core a).l1Cluster == (s.core b).l1Cluster)

/-- An agent on core `b` is within a scope of one on core `a` (R12, R276). -/
def State.inScope (s : State) (scope a b : Nat) : Bool :=
  match scope with
  | 1 | 2 => a == b
  | 3 => s.sameL1 a b
  | 4 => dieOf a == dieOf b
  | _ => true

/-- What the L1 slices of other clusters hold of a sector that a core is about to write: each may go on serving weak loads
with it, as a free value says, until its cluster's reads are bound to see the write (R273, R278, R291). The engine of a core
writes beside the core's own slice (R258). -/
def State.keepStale (s : State) (core : Nat) (engine : Bool) (ctx va : Nat) (strong : Bool) (loc : Nat) : State :=
  let sec := sectorOf loc
  let old := BitVec.ofNat 256 (s.readN (sec * 32) 32)
  let holders := (List.range coreCount).filter (fun k => (engine || !s.sameL1 core k) &&
    s.dir.any (fun d => d.die == dieOf k && d.sharers.getLsbD (k % coresPerDie) && overlaps d.base d.size (sec * 32) 32))
  let s : State := { s with stale := (s.stale.filter (fun x => engine || !(x.sec == sec && s.sameL1 core x.core))).map (fun x =>
    if x.sec == sec then { x with strong := x.strong || strong, by_ := x.by_ ++ [core] } else x) }
  holders.foldl (fun s k =>
    if s.stale.any (fun x => x.core == k && x.sec == sec) then s
    else
      let (v, s) := s.free
      if v.getLsbD 0 then
        let x : Stale := { core := k, sec := sec, data := old, by_ := [core], ctx := ctx, va := va / 32 * 32, strong := strong, pubs := [] }
        { s with stale := s.stale ++ [x] }
      else s) s

/-- A core's cluster sees a sector as it stands from now on: after its own strong access or write of it (R273, R278). -/
def State.seeSector (s : State) (core loc : Nat) : State :=
  { s with stale := s.stale.filter (fun x => !(x.sec == sectorOf loc && s.sameL1 core x.core)) }

/-- A release by a core at a scope: what it publishes is published to the slices within the scope (R275, R276). A bound one
names the object and the bind table of its context. -/
def State.publish (s : State) (core ctx scope : Nat) (bound : Option (Nat × List Region)) : State :=
  { s with stale := s.stale.map (fun x =>
      let named := match bound with
        | none => true
        | some (obj, binds) => x.strong || x.ctx != ctx || boundTo binds obj x.va 32
      if named && s.inScope scope core x.core && !x.pubs.contains core then { x with pubs := x.pubs ++ [core] } else x) }

/-- An acquire by a core at a scope: what agents within the scope have published to its cluster is seen from now on, all of
it or the regions bound to the object (R275–R277). -/
def State.acquire (s : State) (core ctx scope : Nat) (bound : Option (Nat × List Region)) : State :=
  { s with stale := s.stale.filter (fun x =>
      let named := match bound with
        | none => true
        | some (obj, binds) => x.ctx != ctx || boundTo binds obj x.va 32
      !(named && s.sameL1 core x.core && x.pubs.any (s.inScope scope core))) }

/-- A FENCE.FULL: its thread's later accesses follow every write performed by agents within the scope (R273, R277). -/
def State.seeAll (s : State) (core scope : Nat) : State :=
  { s with stale := s.stale.filter (fun x => !(s.sameL1 core x.core && x.by_.any (s.inScope scope core))) }

/-- The sector that serves a weak load of a core in place of memory, where one may and a free value says so (R238, R291). -/
def State.staleFor (s : State) (core loc : Nat) : Option Stale × State :=
  match s.stale.find? (fun x => x.sec == sectorOf loc && x.core == s.l1Core core loc) with
  | none => (none, s)
  | some x =>
    let (v, s) := s.free
    (if v.getLsbD 0 then some x else none, s)

/-- A weak load of a core reads bytes of one sector at a location (R238, R291). -/
def State.readWeak (s : State) (core loc n : Nat) : State × Nat :=
  match s.staleFor core loc with
  | (none, s) => (s, s.readN loc n)
  | (some x, s) => (s, x.data.toNat / 2 ^ (8 * (loc % 32)) % 2 ^ (8 * n))

end Sys2Proof.Machine
end

