-- ==== Sys2Proof/Machine/Translate.lean ====
section
/-! DEFINITION. Translation and the checks of an access (11 R202–R213, R222; 06 R108; 01 R21–R24). -/
namespace Sys2Proof.Machine

/-! ## Sessions and features -/

/-- FEAT_OFFER of a function (R21, R24): the part's offer, or what the physical function has accepted. -/
def State.offer (s : State) (f : Nat) : BitVec 256 :=
  if f = 0 then BitVec.ofNat 256 featOffer
  else if (s.func 0).session then (s.func 0).accept else 0

/-- The function that owns a context (R81). -/
def State.ownerOf (s : State) (c : Nat) : Nat := (s.ctx c).owner.toNat

/-- A feature exists for a context: its function has a session whose accepted word holds it (R22, R23). -/
def State.feature (s : State) (c n : Nat) : Bool :=
  let f := s.func (s.ownerOf c)
  f.session && f.accept.getLsbD n

/-! ## Page-table entries -/

/-- PRESENT of an entry. -/
def pteP (e : Nat) : Bool := bit e 0
/-- LEAF of an entry. -/
def pteLeaf (e : Nat) : Bool := bit e 1
/-- W of a leaf. -/
def pteW (e : Nat) : Bool := bit e 2
/-- X of a leaf. -/
def pteX (e : Nat) : Bool := bit e 3
/-- SUP of a leaf. -/
def pteSup (e : Nat) : Bool := bit e 4
/-- HOME of a leaf. -/
def pteHome (e : Nat) : Nat := bits e 5 2
/-- GRAIN of a leaf. -/
def pteGrain (e : Nat) : Nat := bits e 7 2
/-- EFFECTS of a leaf. -/
def pteEffects (e : Nat) : Bool := bit e 9
/-- PERSIST of a leaf. -/
def ptePersist (e : Nat) : Bool := bit e 10
/-- BIAS of a leaf. -/
def pteBias (e : Nat) : Bool := bit e 11
/-- PA[51:12] of an entry, as an address. -/
def ptePa (e : Nat) : Nat := bits e 12 40 * 4096
/-- KEY of a leaf. -/
def pteKey (e : Nat) : Nat := bits e 52 8
/-- CONTIG of a leaf. -/
def pteContig (e : Nat) : Bool := bit e 60

/-- Index of a virtual address at a level (R204). -/
def vaIndex (va level : Nat) : Nat :=
  match level with
  | 5 => bits va 50 7
  | 4 => bits va 41 9
  | 3 => bits va 32 9
  | 2 => bits va 22 10
  | _ => bits va 12 10

/-- Pages of 4 KiB that a leaf of a level maps (R204). -/
def levelPages (level : Nat) : Nat := if level = 3 then 2 ^ 20 else if level = 2 then 2 ^ 10 else 1

/-- A leaf uses what the session of its context or the carve-out does not give it (R23, R215). -/
def State.leafUnheld (s : State) (c e : Nat) : Bool :=
  let pa := ptePa e
  (ptePersist e && !s.feature c 12) || (pteKey e != 0 && !s.feature c 14) ||
  (pteHome e ≥ 2 && isDevmem pa && (pa ≥ 2 ^ 46 + s.carveout || !s.feature c 11))

/-- A leaf at a level is malformed (R206, R209, R215, R23). -/
def State.leafBad (s : State) (c level e : Nat) : Bool :=
  let pa := ptePa e
  let home := pteHome e
  bits e 61 3 != 0 || pteGrain e == 3 || level ≥ 4 ||
  (level ≥ 2 && (pa % (levelPages level * 4096) != 0 || pteContig e || home ≤ 1)) ||
  (home ≤ 1 && (pteContig e || bits e 27 25 != 0)) ||
  (home == 0 && bits e 12 9 > 287) || (home == 1 && bits e 13 6 > 47) ||
  (pteEffects e && (home != 3 || pteX e)) ||
  (ptePersist e && (home != 2 || !isPool pa)) || (home ≥ 2 && isReservedPa pa) ||
  (pteBias e && !(home ≥ 2 && isDevmem pa)) || s.leafUnheld c e

/-- The outcome of a walk: a leaf with the first page and the pages it maps, a reason, a table sector that is poisoned, or
an entry behind a port that does not answer yet (R19, R205, R206, R449). -/
inductive Walked where
  | leaf (e vpn span : Nat)
  | stop (r : Reason)
  | poison
  | wait (loc : Nat)
  deriving DecidableEq, Repr

/-- Pages of 4 KiB that one entry of a level covers (R204). -/
def entryPages (level : Nat) : Nat :=
  match level with | 5 => 2 ^ 38 | 4 => 2 ^ 29 | 3 => 2 ^ 20 | 2 => 2 ^ 10 | _ => 1

/-- Which of the ranges that entries of a level cover holds a virtual address (R204). -/
def levelTag (va level : Nat) : Nat := va / 4096 / entryPages level

/-- The table that a die's walker has cached for a context's address at a level (R211). -/
def State.cachedNext (s : State) (die c level va : Nat) : Option Nat :=
  (s.wcache.find? (fun w => w.die == die && w.ctx == c && w.level == level && w.tag == levelTag va level)).map (·.next)

/-- A present non-leaf entry of a level is malformed (R205). -/
def nonLeafBad (level e : Nat) : Bool :=
  level == 1 || bits e 2 10 != 0 || bits e 52 12 != 0 || (decide (level ≤ 3) && bit e 12) || isReservedPa (ptePa e)

/-! ## Ports and flips (R19, R223) -/

/-- A request for a location is answered: one to the pool or the host needs a trained CXL port, or a poisoned response has
come for its sector (R19). Which port a request is routed to is not said: any that is trained answers (log 72). -/
def State.linkUp (s : State) (loc : Nat) : Bool :=
  !(isPool loc || isHostMem loc) || s.boot.ready.extractLsb' 6 4 != 0#4 || s.isPoisoned (sectorOf loc)

/-- A location lies on the page whose bias is being flipped: a new access waits (R223). -/
def State.flipping (s : State) (loc : Nat) : Bool :=
  match s.dev.flip with
  | some p => isDevmem loc && p.1 == loc / 4096
  | none => false

/-- A memory request goes out for a location now; one for a line that an engine has in progress waits until the line lands
(R258). -/
def State.answers (s : State) (loc : Nat) : Bool := s.linkUp loc && !s.flipping loc && !s.inProgress loc 1

/-- A request is held for a port that is not trained, from now on if it is the first for its sector (R19). -/
def State.holdFor (s : State) (loc : Nat) : State :=
  if s.linkUp loc || (s.heldReqs.find (sectorOf loc)).isSome then s
  else { s with heldReqs := s.heldReqs.put (sectorOf loc) s.wall }

/-! ## The walk (R204–R207) -/

/-- The 64 KiB entry that CONTIG allows (R207): every entry of the aligned group of 16 can be read and agrees, and the
addresses run on from a 64 KiB boundary. `ent` is the address of the level-1 entry of the page. -/
def State.contigOk (s : State) (ent e : Nat) : Bool :=
  let i := ent / 8 % 16
  let first := ent - 8 * i
  let base := ptePa e - 4096 * i
  base % 65536 == 0 && i * 4096 ≤ ptePa e && (List.range 4).all (fun j => !s.isPoisoned (sectorOf first + j)) &&
  (List.range 16).all (fun j =>
    let x := s.readN (first + 8 * j) 8
    pteP x && pteLeaf x && pteContig x && bits x 0 12 == bits e 0 12 && bits x 52 12 == bits e 52 12 &&
      ptePa x == base + 4096 * j)

/-- The leaf that a walk ends with at a level: alone, or the 64 KiB entry of its group (R204, R207). -/
def State.leafAt (s : State) (va l ent e : Nat) : Walked :=
  if l = 1 && pteContig e && s.contigOk ent e then
    .leaf (e - bits (ptePa e) 12 4 * 4096) (va / 65536 * 16) 16
  else .leaf e (va / 4096 / levelPages l * levelPages l) (levelPages l)

/-- A walk of a die's walker from a table at a level (R204–R206). -/
def State.walkFrom (s : State) (die c va : Nat) : Nat → Nat → Walked
  | 0, _ => .stop .format
  | level + 1, base =>
    match s.cachedNext die c (level + 1) va with
    | some n => s.walkFrom die c va level n
    | none =>
      let a := base + 8 * vaIndex va (level + 1)
      let e := s.readN a 8
      if !s.linkUp a then .wait a
      else if s.isPoisoned (sectorOf a) then .poison
      else if !pteP e then .stop .notPresent
      else if pteLeaf e then
        if s.leafBad c (level + 1) e then .stop .format else s.leafAt va (level + 1) a e
      else if nonLeafBad (level + 1) e then .stop .format
      else s.walkFrom die c va level (ptePa e)

/-- CTX_PTROOT names no table (R204). -/
def State.rootBad (s : State) (c : Nat) : Bool :=
  (s.ctx c).ptroot.toNat == 0 || isReservedPa (s.ctx c).ptroot.toNat

/-- The walk of a context for a virtual address (R204–R207). -/
def State.walk (s : State) (die c va : Nat) : Walked :=
  if s.rootBad c then .stop .format else s.walkFrom die c va 5 (s.ctx c).ptroot.toNat

/-- The entries that a walk from a table at a level reads: level and address. -/
def State.walkPath (s : State) (die c va : Nat) : Nat → Nat → List (Nat × Nat)
  | 0, _ => []
  | level + 1, base =>
    match s.cachedNext die c (level + 1) va with
    | some n => s.walkPath die c va level n
    | none =>
      let a := base + 8 * vaIndex va (level + 1)
      let e := s.readN a 8
      (level + 1, a) ::
        (if !pteP e || pteLeaf e || nonLeafBad (level + 1) e then [] else s.walkPath die c va level (ptePa e))

/-- An L2 reads a line for itself: a die that is not the home holds its copy as a sharer of the home slice (R204, R216). -/
def State.l2Read (s : State) (die pa : Nat) : State :=
  let s := s.dirRead die none pa 1
  if homeDie pa == die then s else s.dirRead (homeDie pa) (some 144) pa 1

/-- The reads of a walk: each entry through the die's L2, meeting its array faults (R204, R447); the present non-leaf entries
that are well formed stay in the walker's cache (R211). -/
def State.walkReads (s : State) (die c va : Nat) : State :=
  if s.rootBad c then s
  else
    (s.walkPath die c va 5 (s.ctx c).ptroot.toNat).foldl (fun s p =>
      let s := ((s.consume p.2 0).1).l2Read die p.2
      let e := s.readN p.2 8
      if !pteP e || pteLeaf e || nonLeafBad p.1 e || s.isPoisoned (sectorOf p.2) then s
      else
        let w : WalkEntry := { die := die, ctx := c, level := p.1, tag := levelTag va p.1, next := ptePa e }
        { s with wcache := s.wcache ++ [w] }) s

/-! ## TLBs (R211) -/

/-- An entry covers a page of a context. -/
def tlbHit (c vpn : Nat) (t : TlbEntry) : Bool := t.ctx == c && t.vpn ≤ vpn && vpn < t.vpn + t.span

/-- Adds an entry, dropping the oldest when the TLB is full. -/
def tlbAdd (cap : Nat) (l : List TlbEntry) (t : TlbEntry) : List TlbEntry :=
  (if l.length < cap then l else l.drop 1) ++ [t]

/-- Entries of one die's second-level TLB share a set of eight ways (R211; the index is the model's choice, log 71). -/
def sameSet (p q : Nat × TlbEntry) : Bool :=
  let set := fun (t : TlbEntry) => t.vpn / max 1 t.span % (tlb2Entries / tlb2Ways)
  p.1 == q.1 && set p.2 == set q.2

/-- Adds an entry to its die's second-level TLB, dropping the oldest of its set when the set is full (R211). -/
def tlb2Add (l : List (Nat × TlbEntry)) (p : Nat × TlbEntry) : List (Nat × TlbEntry) :=
  let set := l.filter (sameSet p)
  (if set.length < tlb2Ways then l
    else match set with
      | o :: _ => l.erase o
      | [] => l) ++ [p]

/-- Why no leaf stands for a page: a reason, a poisoned table sector, or a port that does not answer yet (R19, R206, R449). -/
inductive Missed where
  | reason (r : Reason)
  | poison
  | wait
  deriving DecidableEq, Repr

/-- The leaf that stands for a page: from the core's TLB, the die's, or a walk that fills both (R211). An entry that a session
which has ended left does not stand for a context that lacks its feature (R23). -/
def State.lookup (s : State) (core c va : Nat) : State × Except Missed (Nat × Nat) :=
  let vpn := va / 4096
  let hit := fun (t : TlbEntry) => tlbHit c vpn t && !s.leafUnheld c t.leaf.toNat
  match (s.core core).tlb.find? hit with
  | some t => (s, .ok (t.leaf.toNat, (vpn - t.vpn) * 4096))
  | none =>
    let put1 := fun (s : State) t => s.modCore core (fun k => { k with tlb := tlbAdd tlbEntries k.tlb t })
    match s.tlb2.find? (fun p => p.1 == dieOf core && hit p.2) with
    | some (_, t) => (put1 s t, .ok (t.leaf.toNat, (vpn - t.vpn) * 4096))
    | none =>
      match s.walk (dieOf core) c va with
      | .wait a => (s.holdFor a, .error .wait)
      | _ =>
        let s := s.walkReads (dieOf core) c va
        match s.walk (dieOf core) c va with
        | .stop r => (s, .error (.reason r))
        | .poison => (s, .error .poison)
        | .wait a => (s.holdFor a, .error .wait)
        | .leaf e b n =>
          let t : TlbEntry := { ctx := c, vpn := b, span := n, leaf := BitVec.ofNat 64 e }
          (put1 { s with tlb2 := tlb2Add s.tlb2 (dieOf core, t) } t, .ok (e, (vpn - b) * 4096))

/-- Removes every translation of a context that touches a range of pages (R213), and the instruction lines fetched under
one. -/
def State.tlbDrop (s : State) (c vpn n : Nat) : State :=
  let keep := fun (t : TlbEntry) => !(t.ctx == c && overlaps t.vpn t.span vpn n)
  let stays := fun (l : ILine) => !(l.ctx % 64 == c && overlaps (l.va / 64) 1 vpn n)
  { s with tlb2 := s.tlb2.filter (fun p => keep p.2),
           wcache := s.wcache.filter (fun w => !(w.ctx == c && overlaps (w.tag * entryPages w.level) (entryPages w.level) vpn n)),
           cores := s.cores.map (fun p => (p.1, { p.2 with tlb := p.2.tlb.filter keep, ibuf := p.2.ibuf.filter stays })) }

/-! ## The arena (R106–R108) -/

/-- A virtual address lies in a context's pinned arena. -/
def State.inArena (s : State) (c va : Nat) : Bool :=
  let x := s.ctx c
  x.pinned && x.image.toNat ≤ va && va < x.image.toNat + x.imageSize.toNat * 65536

/-- A location lies in the arena that some context other than `c` has pinned. -/
def State.inOtherArena (s : State) (c loc : Nat) : Bool :=
  s.ctxs.any (fun p => p.1 != c && p.2.pinned && p.2.arena.any (fun q => ptePa q.2.toNat / 4096 == loc / 4096))

/-- A location lies in the arena of context `c`, under whatever virtual address. -/
def State.inOwnArena (s : State) (c loc : Nat) : Bool :=
  (s.ctx c).arena.any (fun q => ptePa q.2.toNat / 4096 == loc / 4096)

/-- Location of a byte of a context's arena, through the translation fixed at pinning (R107). -/
def State.arenaLoc (s : State) (c va : Nat) : Nat :=
  match (s.ctx c).arena.find (va / 4096) with
  | some e => ptePa e.toNat + va % 4096
  | none => va % 2 ^ 46

/-- The leaf of an arena page (R107). -/
def State.arenaLeaf (s : State) (c va : Nat) : Nat := (((s.ctx c).arena.find (va / 4096)).getD 0).toNat

/-- Writes bytes of one sector under a leaf (R210, R225, R226). -/
def State.storeLeaf (s : State) (loc leaf : Nat) (bs : List Byte) : State :=
  s.storeBytes loc (pteKey leaf) (ptePersist leaf) (pteHome leaf == 2) bs

/-! ## Homes (R209) -/

/-- The location that a leaf and an offset within the page name. -/
def leafLoc (e off : Nat) : Nat :=
  match pteHome e with
  | 0 => sramLoc (bits e 12 9) (bits e 21 6 * 4096 + off % 4096)
  | 1 => pinLoc (bits e 12 1) (bits e 13 6) (bits e 19 8) (off % 4096)
  | _ => ptePa e + off

/-- Scratch allocations live on a core: teams' and those held for exited teams (R104, R241). -/
def State.scratchLive (s : State) (core : Nat) : List (Nat × Nat) :=
  (s.teamsOn core).map (fun k => ((s.team k).bind.scratchBase, (s.team k).bind.scratchSize)) ++
    (s.core core).sramHeld.map (fun h => (h.base, h.size))

/-- Discards the contents of a page of SRAM or of a pinned region. -/
def State.zeroPage (s : State) (base : Nat) : State :=
  { s with mem := s.mem.filter (fun p => !(base ≤ p.1 && p.1 < base + 4096)),
           poison := s.poison.filter (fun x => !(base / 32 ≤ x && x < base / 32 + 128)) }

/-- The home check (R209): claims a free location, whose page then reads as zero, or finds it busy. -/
def State.claim (s : State) (c vpn loc : Nat) : State × Bool :=
  let base := loc / 4096 * 4096
  match s.claims.find? (fun k => k.loc == base) with
  | some k => (s, k.ctx == c && k.vpn == vpn)
  | none =>
    if isSram base && (s.scratchLive (sramCore base)).any
        (fun r => overlaps r.1 r.2 ((base - sramBase) % 2 ^ 18) 4096) then (s, false)
    else
      let s := { s with claims := s.claims ++ [({ loc := base, ctx := c, vpn := vpn } : Claim)] }
      (s.zeroPage base, true)

/-- Releases the locations that a context claims for a range of pages (R209, R212). -/
def State.release (s : State) (c vpn n : Nat) : State :=
  let gone := s.claims.filter (fun k => k.ctx == c && vpn ≤ k.vpn && k.vpn < vpn + n)
  let s := gone.foldl (fun s k => s.zeroPage k.loc) s
  { s with claims := s.claims.filter (fun k => !gone.contains k) }

/-! ## The check of an access (R208) -/

/-- How an access is checked. -/
inductive Mode where
  | read | write | fetch
  deriving DecidableEq, Repr

/-- Why an access does not pass: a trap cause or a park reason (R229); or it is checked again later, since its walk meets a
port that does not answer or its page's bias is being flipped (R19, R223). -/
inductive Fail where
  | trap (c : Cause)
  | park (r : Reason)
  | wait
  deriving DecidableEq, Repr

/-- Bias-table bit of a device page (R222). -/
def State.deviceBias (s : State) (pa : Nat) : Bool := s.bias.contains (pa / 4096)

/-- The seven checks of R208 in their order, for a user or a supervisor access. A walk that consumes a poisoned sector
traps with POISON (R449). -/
def State.check (s : State) (core c : Nat) (sup : Bool) (mode : Mode) (va : Nat) : State × Except Fail Passed :=
  if 2 ^ 57 ≤ va then (s, .error (.trap .permission))
  else
    match s.lookup core c va with
    | (s, .error .poison) => (s, .error (.trap .poison))
    | (s, .error .wait) => (s, .error .wait)
    | (s, .error (.reason r)) => (s, .error (.park r))
    | (s, .ok (e, page)) =>
      let loc := leafLoc e (page + va % 4096)
      if pteSup e && !sup then (s, .error (.trap .permission))
      else if (mode == .write && !pteW e) || (mode == .fetch && !pteX e) then (s, .error (.trap .permission))
      else if mode != .fetch && ((!sup && (s.inArena c va || s.inOwnArena c loc)) || s.inOtherArena c loc) then
        (s, .error (.trap .permission))
      else
        let (s, ok) := if pteHome e ≤ 1 then s.claim c (va / 4096) loc else (s, true)
        if !ok then (s, .error (.park .homeBusy))
        else if pteHome e ≥ 2 && s.flipping loc then (s, .error .wait)
        else if pteHome e ≥ 2 && isDevmem loc && s.deviceBias loc != pteBias e then (s, .error (.park .bias))
        else (s, .ok { leaf := e, loc := loc })

end Sys2Proof.Machine
end

