-- ==== Sys2Proof/Machine/Regs.lean ====
section
/-! DEFINITION. The memory-backed register file (06 R109–R116). A lane of a register is the valid lane of its line when
the core holds one; else zero while the line is known-zero; else the word of the context image. -/
namespace Sys2Proof.Machine

/-! ## Where the image of a group lies (R109, R119) -/

/-- Group stride of a team image (R109). -/
def groupStride (regs : Nat) : Nat := 2048 + 128 * regs
/-- Bytes of a team image (R109). -/
def imageSize (groups regs : Nat) : Nat := 0x400 + groups * groupStride regs
/-- Start of a group block (R109). -/
def State.groupBlock (s : State) (g : Nat) : Nat :=
  let m := s.team (s.group g).team
  m.bind.imageBase.toNat + 0x400 + groupStride m.bind.regs * (s.group g).index
/-- Image address of a register line (R109, R110). -/
def State.lineAddr (s : State) (g n : Nat) : Nat := s.groupBlock g + 0x800 + 128 * n
/-- Context of a group. -/
def State.ctxOfGroup (s : State) (g : Nat) : Nat := (s.team (s.group g).team).bind.ctx
/-- Registers a thread of a group may name (R115). -/
def State.regsOf (s : State) (g : Nat) : Nat := (s.team (s.group g).team).bind.regs

/-! ## Lines -/

/-- The line of a tag on a core. -/
def State.line (s : State) (core ctx tag : Nat) : Option RegLine :=
  s.lines.find? (fun l => l.core == core && l.tag == tag && l.ctx == ctx)

/-- Changes a line in place. -/
def State.modLine (s : State) (core ctx tag : Nat) (f : RegLine → RegLine) : State :=
  { s with lines := s.lines.map (fun l => if l.core == core && l.tag == tag && l.ctx == ctx then f l else l) }

/-- Drops a line without write-back. -/
def State.dropLine (s : State) (core ctx tag : Nat) : State :=
  { s with lines := s.lines.filter (fun l => !(l.core == core && l.tag == tag && l.ctx == ctx)) }

/-- The line of register `n` of a group. -/
def State.lineOf (s : State) (g n : Nat) : Option RegLine := s.line (coreOfGroup g) (s.ctxOfGroup g) (s.lineAddr g n)

/-- Word of the image for a lane of a register line (R109). -/
def State.imageWord (s : State) (ctx tag lane : Nat) : Word :=
  BitVec.ofNat 32 (s.readN (s.arenaLoc ctx (tag + 4 * lane)) 4)

/-- The resident group, if any, to which a line belongs. -/
def State.groupOfLine (s : State) (l : RegLine) : Option Nat :=
  (s.groups.find? (fun p => p.2.live && s.ctxOfGroup p.1 == l.ctx && s.lineAddr p.1 l.n == l.tag)).map (·.1)

/-- KZERO bit of a line: in the core while its group is resident, else in the image (R109, R110). -/
def State.lineKzero (s : State) (l : RegLine) : Bool :=
  match s.groupOfLine l with
  | some g => (s.group g).kzero.getLsbD l.n
  | none => bit (s.readN (s.arenaLoc l.ctx (l.tag - 0x800 - 128 * l.n + 0x140 + l.n / 8)) 1) (l.n % 8)

/-- Clears the KZERO bit of a line, where it is held. -/
def State.clearKzero (s : State) (l : RegLine) : State :=
  match s.groupOfLine l with
  | some g => s.modGroup g (fun x => { x with kzero := x.kzero &&& ~~~(1#120 <<< l.n) })
  | none =>
    let a := s.arenaLoc l.ctx (l.tag - 0x800 - 128 * l.n + 0x140 + l.n / 8)
    s.setByte a (s.byte a &&& ~~~(1#8 <<< (l.n % 8)))

/-- Writes a lane word to the image, under the arena page's key (R113, R225). -/
def State.writeImageWord (s : State) (ctx tag lane : Nat) (v : Word) : State :=
  let va := tag + 4 * lane
  s.storeLeaf (s.arenaLoc ctx va) (s.arenaLeaf ctx va) (bytesOf 4 v.toNat)

/-- An array fault of the register file that a read of a lane of a line meets (R116, R449): a clean line is fetched again,
a dirty one that fails twice is poisoned in the lanes of the failing code word. -/
def State.meetLineEcc (s : State) (l : RegLine) (lane : Nat) : State :=
  let sec := sectorOf (s.arenaLoc l.ctx (l.tag + 4 * lane))
  match s.ecc.find? (fun e => e.unit == 1 && e.sector == sec) with
  | none => s
  | some e =>
    let s := { s with ecc := s.ecc.erase e }
    match e.kind with
    | .single => s.modDev (fun d => { d with errCe := sat32 d.errCe })
    | .transient => s.modDev (fun d => { d with errTransient := sat32 d.errTransient })
    | .lasting =>
      let s := s.logLasting 1 sec l.dirty
      if l.dirty then s.modLine l.core l.ctx l.tag (fun l => { l with poison := l.poison ||| (0xFF#32 <<< (lane / 8 * 8)) })
      else s.dropLine l.core l.ctx l.tag

/-- Writes a dirty line back (R113): its valid lanes, or all 32 when it is known-zero, and then it is no longer. The lanes
are read for it, with the faults of the file that they meet (R116). A poisoned lane poisons its sector of the image (R450). -/
def State.writeBack (s : State) (l : RegLine) : State :=
  let s := if s.ecc.isEmpty then s else (l.vals.map (·.1)).foldl (fun s i => s.meetLineEcc l i) s
  let l := (s.line l.core l.ctx l.tag).getD l
  let kz := s.lineKzero l
  let lanes := (List.range 32).filter (fun i => kz || (l.vals.find i).isSome)
  let s := lanes.foldl (fun s i => s.writeImageWord l.ctx l.tag i (l.vals.at' 0 i)) s
  let s := lanes.foldl
    (fun s i => if l.poison.getLsbD i then s.poisonSector (sectorOf (s.arenaLoc l.ctx (l.tag + 4 * i))) else s) s
  if kz then s.clearKzero l else s

/-! ## Locks and victims (R112, R113, R328) -/

/-- Tag of the line of register `n` of group `g` of a request's team (R109). -/
def MReq.tag (q : MReq) (g n : Nat) : Nat := q.base + 0x400 + groupStride q.regs * g + 0x800 + 128 * n

/-- A matrix request locks a line until it has completed (R328). -/
def MReq.locks (q : MReq) (l : RegLine) : Bool :=
  q.core == l.core && q.ctx == l.ctx && q.lines.any (fun p => q.tag p.1 p.2 == l.tag)

/-- A thread's own instruction holds register `n`: it waits for a status to be written to it, or runs a sequence whose
operand fields name it (R112). -/
def Thread.holds (x : Thread) (n : Nat) : Bool :=
  (x.waitFor != .nothing && x.waitDst.toNat == n) || (x.xop.map (fun k => !k.stopped && k.regs.contains n)).getD false

/-- A line is locked, and never evicted: it is the destination of an access in flight, a register of an instruction whose
checks or wait have not ended, or a line of a matrix request (R112, R328). -/
def State.lineLocked (s : State) (l : RegLine) : Bool :=
  s.mreqs.any (fun q => q.locks l) ||
  match s.groupOfLine l with
  | some g =>
    s.accs.any (fun a => gidOf a.tid == g && a.dst.contains l.n) ||
    s.ops.any (fun o => o.regs.contains l.n && o.lanes.any (fun x => gidOf x.tid == g)) ||
    (threadsOfGroup g).any (fun t => (s.thread t).holds l.n)
  | none => false

/-- The clks at which threads have last read a line since it was marked evictable (R113, R118). -/
def State.lineReads (s : State) (l : RegLine) : List Nat :=
  match s.groupOfLine l with
  | some g => (threadsOfGroup g).filterMap (fun t => (s.thread t).reads.find l.n)
  | none => []

/-- The clk of a line's last use (R113). -/
def State.lastUse (s : State) (l : RegLine) : Nat := (s.lineReads l).foldl max l.used

/-- A line is marked evictable, and has not been used since (R117–R119). -/
def State.isEvictable (s : State) (l : RegLine) : Bool := l.evictable && (s.lineReads l).isEmpty

/-- Class of a victim (R113): evictable lines first, then those of waiting or parked threads, clean before dirty. -/
def State.victimClass (s : State) (l : RegLine) : Nat :=
  if s.isEvictable l then b2n l.dirty
  else
    let idle : Bool := match s.groupOfLine l with
      | some g => (l.vals.map (·.1)).all (fun i =>
          let t := (s.thread (threadKey g i)).tstate
          t == .wait || t == .parked)
      | none => true
    (if idle then 2 else 4) + b2n l.dirty

/-- A line that no other may take the place of. -/
def State.linePinned (s : State) (l : RegLine) : Bool := l.filling || s.lineLocked l

/-- A third of a core's file is locked or being filled: until a part of it is free again no further thread is ready, so that
a line can always be placed within the file's 6,144 (R110, R112). -/
def State.fileTight (s : State) (core : Nat) : Bool :=
  decide (lineCapacity / 3 ≤ (s.lines.filter (fun l => l.core == core && s.linePinned l)).length)

/-- Makes room for a line on a core: of the first class that has one, the least recently used line goes (R113). -/
def State.makeRoom (s : State) (core : Nat) : State :=
  let mine := s.lines.filter (fun l => l.core == core)
  if mine.length < lineCapacity then s
  else
    match minBy (fun l => s.victimClass l) (sortBy (fun a b => decide (s.lastUse a ≤ s.lastUse b)) (mine.filter (fun l => !s.linePinned l))) with
    | none => s
    | some v => (if v.dirty then s.writeBack v else s).dropLine v.core v.ctx v.tag

/-! ## Registers of a lane -/

/-- Register `n` of a thread (R110–R112). -/
def State.readReg (s : State) (t n : Nat) : Word :=
  let g := gidOf t
  let image := if (s.group g).kzero.getLsbD n then 0 else s.imageWord (s.ctxOfGroup g) (s.lineAddr g n) (laneOf t)
  match s.lineOf g n with
  | some l => (l.vals.find (laneOf t)).getD image
  | none => image

/-- A lane of a register is poisoned (R116). -/
def State.regPoisoned (s : State) (t n : Nat) : Bool :=
  let g := gidOf t
  match s.lineOf g n with
  | some l => if (l.vals.find (laneOf t)).isSome then l.poison.getLsbD (laneOf t)
      else !(s.group g).kzero.getLsbD n &&
        s.isPoisoned (sectorOf (s.arenaLoc (s.ctxOfGroup g) (s.lineAddr g n + 4 * laneOf t)))
  | none => !(s.group g).kzero.getLsbD n &&
      s.isPoisoned (sectorOf (s.arenaLoc (s.ctxOfGroup g) (s.lineAddr g n + 4 * laneOf t)))

/-- The line placed for register `n` of a thread's group when it is absent: no lane of it is valid (R112). -/
def State.newLine (s : State) (t n : Nat) : RegLine :=
  { core := coreOf t, ctx := s.ctxOfGroup (gidOf t), tag := s.lineAddr (gidOf t) n, n := n, vals := [], dirty := false,
    evictable := false, poison := 0, filling := false, used := s.clk }

/-- Places the line of a register that is to be written, without a fill, unless it is there (R112, R113). -/
def State.placeLine (s : State) (t n : Nat) : State :=
  if (s.lineOf (gidOf t) n).isSome then s
  else { s.makeRoom (coreOf t) with lines := (s.makeRoom (coreOf t)).lines ++ [s.newLine t n] }

/-- A line after a lane of it has been written: the lane is valid, dirty and no longer poisoned (R112). -/
def State.wrote (s : State) (t : Nat) (v : Word) (l : RegLine) : RegLine :=
  { l with vals := l.vals.put (laneOf t) v, dirty := true, evictable := false, used := s.clk,
           poison := l.poison &&& ~~~(1#32 <<< laneOf t) }

/-- Writes register `n` of a thread: the lane becomes valid and dirty; an absent line is placed without a fill (R112). -/
def State.writeReg (s : State) (t n : Nat) (v : Word) : State :=
  (s.placeLine t n).modLine (coreOf t) (s.ctxOfGroup (gidOf t)) (s.lineAddr (gidOf t) n) (s.wrote t v)

/-- Poisons a lane of a register line that holds it (R116, R336). -/
def State.poisonReg (s : State) (t n : Nat) : State :=
  let g := gidOf t
  s.modLine (coreOfGroup g) (s.ctxOfGroup g) (s.lineAddr g n)
    (fun l => { l with poison := l.poison ||| (1#32 <<< laneOf t) })

/-- A pair (R42). -/
def State.readPair (s : State) (t n : Nat) : DWord := s.readReg t (n + 1) ++ s.readReg t n
/-- Writes a pair (R42). -/
def State.writePair (s : State) (t n : Nat) (v : DWord) : State :=
  (s.writeReg t n (v.extractLsb' 0 32)).writeReg t (n + 1) (v.extractLsb' 32 32)

/-- Writes consecutive registers. -/
def State.writeRegs (s : State) (t n : Nat) : List Word → State
  | [] => s
  | v :: r => (s.writeReg t n v).writeRegs t (n + 1) r

/-- Reads consecutive registers. -/
def State.readRegs (s : State) (t n : Nat) : Nat → List Word
  | 0 => []
  | c + 1 => s.readReg t n :: s.readRegs t (n + 1) c

/-- A line is one of a group's. -/
def State.ofGroup (s : State) (g : Nat) (l : RegLine) : Bool :=
  l.core == coreOfGroup g && l.ctx == s.ctxOfGroup g && s.groupBlock g ≤ l.tag &&
    decide (l.tag < s.groupBlock g + groupStride (s.regsOf g))

/-- Drops the lines of a group without write-back, those that a matrix request locks apart (R114, R328). -/
def State.dropGroupLines (s : State) (g : Nat) : State :=
  { s with lines := s.lines.filter (fun l => !s.ofGroup g l || s.mreqs.any (fun q => q.locks l)) }

/-- Marks every line of a group evictable: its next use counts anew (R117–R119). -/
def State.evictGroupLines (s : State) (g : Nat) : State :=
  let s : State := { s with lines := s.lines.map (fun l => if s.ofGroup g l then { l with evictable := true } else l) }
  (threadsOfGroup g).foldl (fun s t => s.modThread t (fun x => { x with reads := [] })) s

/-- An operand line is absent or lacks the lane (R111). -/
def State.regMissing (s : State) (t n : Nat) : Bool :=
  match s.lineOf (gidOf t) n with
  | some l => (l.vals.find (laneOf t)).isNone
  | none => true

/-- Requests the fill of a register line (R111). -/
def State.requestFill (s : State) (t n : Nat) : State :=
  let g := gidOf t
  let core := coreOfGroup g
  let ctx := s.ctxOfGroup g
  let tag := s.lineAddr g n
  match s.line core ctx tag with
  | some _ => s.modLine core ctx tag (fun l => { l with filling := true })
  | none =>
    let s := s.makeRoom core
    { s with lines := s.lines ++
        [({ core := core, ctx := ctx, tag := tag, n := n, vals := [], dirty := false, evictable := false, poison := 0,
            filling := true, used := s.clk } : RegLine)] }

/-- The team of a line has been ordered to stop: what arrives for it is evictable (R117). -/
def State.lineStops (s : State) (l : RegLine) : Bool :=
  match s.groupOfLine l with
  | some g => (s.team (s.group g).team).stopping
  | none => true

/-- A fill arrives and merges under the valid lanes (R110–R112, R116); that of a team which stops is evictable (R117). -/
def State.mergeFill (s : State) (l : RegLine) : State :=
  let kz := s.lineKzero l
  let miss := (List.range 32).filter (fun i => (l.vals.find i).isNone)
  let vals := miss.foldl (fun v i => v.put i (if kz then 0 else s.imageWord l.ctx l.tag i)) l.vals
  let bad := if kz then [] else miss.filter (fun i => s.isPoisoned (sectorOf (s.arenaLoc l.ctx (l.tag + 4 * i))))
  let stops := s.lineStops l
  s.modLine l.core l.ctx l.tag (fun l =>
    { l with vals := vals, filling := false, poison := l.poison ||| maskOf bad, evictable := l.evictable || stops })

/-- An array fault of the register file that a thread's read of a register meets (R116). -/
def State.meetRegEcc (s : State) (t n : Nat) : State :=
  match s.lineOf (gidOf t) n with
  | none => s
  | some l => s.meetLineEcc l (laneOf t)

end Sys2Proof.Machine
end

