-- ==== Sys2Proof/Machine/Ops.lean ====
section
/-! DEFINITION. The named operations that several steps share: events to the host, writes that other agents see,
monitors, taking a trap and returning from one, reconvergence release, barriers, and the end of a thread. -/
namespace Sys2Proof.Machine

/-! ## Events to the host (05 R77–R79) -/

/-- Sends the signals whose writes have completed (R77). -/
def State.settleMsi (s : State) : State :=
  let (go, stay) := s.msiWait.partition (fun m => !s.accs.any (fun a => m.waits.contains a.id))
  { s with msiWait := stay, msix := s.msix ++ go.map (fun m => (m.f, 0)) }

/-- Signals MSI-X vector 0 of a function, once the writes in flight have completed (R77). -/
def State.signalQueue (s : State) (f : Nat) : State :=
  let w : MsiWait := { f := f, waits := (s.accs.filter (fun a => a.kind == .store || a.kind == .atomic)).map (·.id) }
  State.settleMsi { s with msiWait := s.msiWait ++ [w] }

/-- Raises an event record at a function: discarded when the queue holds 256, and MSI-X vector 0 when it becomes not
empty (R77, R78). -/
def State.raiseEvent (s : State) (f kind c detail : Nat) : State :=
  let q := s.func f
  if q.events.length ≥ 256 then s.modFunc f (fun x => { x with lost := true })
  else
    let r := BitVec.ofNat 64 (kind % 2 ^ 7 * 2 ^ 56 + c % 64 * 2 ^ 50 + detail % 2 ^ 40)
    let s := s.modFunc f (fun x => { x with events := x.events ++ [r] })
    if q.events.isEmpty then s.signalQueue f else s

/-! ## Outstanding counters (22 R452) -/

/-- Key of a launch's counters on a core. -/
def outKey (q core : Nat) : Nat := q * 512 + core
/-- The counters of a launch on a core. -/
def State.outOf (s : State) (q core : Nat) : Outst :=
  s.outst.at' { stores := 0, rscratch := 0, copies := 0, messages := 0 } (outKey q core)
/-- Changes the counters of a launch on a core; work of no launch counts nowhere (R452). -/
def State.modOut (s : State) (q : Option Nat) (core : Nat) (f : Outst → Outst) : State :=
  match q with
  | none => s
  | some q => { s with outst := s.outst.put (outKey q core) (f (s.outOf q core)) }

/-! ## Monitors (15 R306–R308) -/

/-- The condition codes of WAITC on n-bit words (R306). -/
def ccHolds (cc n w b : Nat) : Bool :=
  match cc with
  | 0 => w == b
  | 1 => w != b
  | 2 => decide (b ≤ w)
  | 3 => decide (w < b)
  | 4 => decide (signedOf n b ≤ signedOf n w)
  | 5 => decide (signedOf n w < signedOf n b)
  | 6 => Nat.land w b != 0
  | _ => Nat.land w b == 0

/-- Removes wait-for entries of a thread's wait (R315). -/
def State.wftDrop (s : State) (t : Nat) : State :=
  { s with wft := (s.wft.map (fun e => { e with tids := e.tids.filter (· != t) })).filter (fun e => !e.tids.isEmpty) }

/-- Enters a wait of a thread in the wait-for table of its die: one entry for each group, object and kind; a wait that
finds the table full is untracked and counted (R315). -/
def State.wftAdd (s : State) (t : Nat) (kind : WKind) (obj : Nat) : State :=
  let die := dieOf (coreOf t)
  let g := gidOf t
  if s.wft.any (fun e => e.kind == kind && e.obj == obj && e.gid == g) then
    let w := s.wft.map (fun e =>
        if e.kind == kind && e.obj == obj && e.gid == g then
          { e with tids := e.tids ++ [t], armedAt := s.wall, seq := s.nextId } else e)
    { s with wft := w, nextId := s.nextId + 1 }
  else if (s.wft.filter (fun e => e.die == die)).length +
      (dedupBy (fun d : Decl => d.pa) (s.decls.filter (fun d => d.die == die))).length ≥ 8192 then
    let up := fun (x : BitVec 16) => if x = 0xFFFF#16 then x else x + 1
    s.modDev (fun d => if die = 0 then { d with wftOvf0 := up d.wftOvf0 } else { d with wftOvf1 := up d.wftOvf1 })
  else
    let e : WEntry :=
      { id := s.nextId, die := die, kind := kind, obj := obj, gid := g, tids := [t], armedAt := s.wall, seq := s.nextId }
    { s with wft := s.wft ++ [e], nextId := s.nextId + 1 }

/-- A wait of a resident thread ends with a status: dst written, the thread RUN (R307, R269, R312, R313, R320). -/
def State.endWait (s : State) (t : Nat) (status : Word) : State :=
  let x := s.thread t
  let s := s.wftDrop t
  let s := s.modThread t (fun x => { x with tstate := .run, waitFor := .nothing, waitDst := 126 })
  if x.waitDst.toNat < 120 then s.writeReg t x.waitDst.toNat status else s

/-! ## Teams that are not resident (R109, R311, R438) -/

/-- Group number that stands for a group of a team that is not resident: its cluster, %team and %group. -/
def awayGid (cl team g : Nat) : Nat := 2 ^ 40 + (cl * 16 + team) * 32 + g

/-- The member of its cluster to which an away group belongs. -/
def State.awayMember (s : State) (gid : Nat) : Option (Nat × Nat × Member) :=
  let n := gid - 2 ^ 40
  ((s.clusters.find (n / 512)).bind (fun c => c.members[n / 32 % 16]?)).map (fun m => (n / 512, n / 32 % 16, m))

/-- Context of a cluster's launch. -/
def State.ctxOfCluster (s : State) (cl : Nat) : Nat :=
  (((s.clusters.find cl).bind (fun c => s.launches.find c.launch)).map (·.ctx)).getD 0

/-- Code of a TSTATE (R109). -/
def TState.code : TState → Nat
  | .run => 0 | .wait => 1 | .parked => 2 | .exited => 3
/-- TSTATE of a code (R109). -/
def TState.ofCode (n : Nat) : TState :=
  match n with | 0 => .run | 1 => .wait | 2 => .parked | _ => .exited

/-- Writes a number of `n` bytes of an image, under the arena page's key (R107, R225). -/
def State.imageWrite (s : State) (c va n x : Nat) : State :=
  s.storeLeaf (s.arenaLoc c va) (s.arenaLeaf c va) (bytesOf n x)
/-- Reads a number of `n` bytes of an image. -/
def State.imageRead (s : State) (c va n : Nat) : Nat := s.readN (s.arenaLoc c va) n

/-- Writes the latch values of one thread into the group block at `b` of an image (R109). -/
def State.saveLatch (s : State) (c b lane : Nat) (t : Thread) : State :=
  (List.range 4).foldl (fun s j => s.imageWrite c (b + 0x200 + 256 * j + 8 * lane) 8 (t.latch.at' 0 j).toNat) s

/-- Writes the latch values of a resident thread into its image (R134). -/
def State.saveLatches (s : State) (t : Nat) : State :=
  s.saveLatch (s.ctxOf t) (s.groupBlock (gidOf t)) (laneOf t) (s.thread t)

/-- Writes the control fields of one thread into the group block at `b` of an image (R109, R122). -/
def State.saveThread (s : State) (c b lane : Nat) (t : Thread) : State :=
  let s := s.imageWrite c (b + 8 * lane) 8 (t.depth * 2 ^ 57 + t.pc.toNat)
  let s := (List.range 7).foldl (fun s n =>
    let a := b + 0x100 + 4 * n
    let w := BitVec.ofNat 32 (s.imageRead c a 4)
    let m : BitVec 32 := 1#32 <<< lane
    s.imageWrite c a 4 (if t.pred n then w ||| m else w &&& ~~~m).toNat) s
  let s := s.imageWrite c (b + 0x120 + lane) 1 (t.tstate.code + 4 * b2n t.helper)
  s.saveLatch c b lane t

/-- Control fields of one thread as the group block at `b` of an image holds them: a thread that the image makes RUN
waits for nothing, and a wait that has gone on meanwhile stays as it stands (R109, R118, R445). -/
def State.loadThread (s : State) (c b lane : Nat) (t : Thread) : Thread :=
  let w := s.imageRead c (b + 8 * lane) 8
  let st := s.imageRead c (b + 0x120 + lane) 1
  let is := TState.ofCode (st % 4)
  let ts := if is == .run || is == .exited || t.tstate == .exited then is else t.tstate
  { t with
    pc := BitVec.ofNat 57 w, runPc := BitVec.ofNat 57 w, depth := bits w 57 6, tstate := ts, helper := bit st 2,
    preds := (List.range 7).foldl (fun p n =>
      if bit (s.imageRead c (b + 0x100 + 4 * n) 4) lane then p ||| (1#7 <<< n) else p) 0,
    latch := (List.range 4).map (fun j => (j, BitVec.ofNat 64 (s.imageRead c (b + 0x200 + 256 * j + 8 * lane) 8))),
    waitFor := if ts == .run && t.tstate != .run then .nothing else t.waitFor }

/-- Group block of an away group in its image (R109). -/
def awayBlock (m : Member) (g : Nat) : Nat :=
  m.imageBase.toNat + 0x400 + groupStride ((m.savedTeam.map (·.bind.regs)).getD 0) * g

/-- A thread of a group, resident or away. -/
def State.threadAt (s : State) (gid lane : Nat) : Thread :=
  if gid < 2 ^ 40 then s.thread (threadKey gid lane)
  else ((s.awayMember gid).map (fun p => p.2.2.savedThreads.at' Thread.reset ((gid - 2 ^ 40) % 32 * 32 + lane))).getD Thread.reset

/-- Changes a thread of a group; of one that is away, in its team image (R438). -/
def State.modThreadOf (s : State) (gid lane : Nat) (f : Thread → Thread) : State :=
  if gid < 2 ^ 40 then s.modThread (threadKey gid lane) f
  else
    match s.awayMember gid with
    | none => s
    | some (cl, k, m) =>
      let g := (gid - 2 ^ 40) % 32
      let t := f (s.threadAt gid lane)
      let m' := { m with savedThreads := m.savedThreads.put (g * 32 + lane) t }
      let s := s.modCluster cl (fun c => { c with members := c.members.set k m' })
      s.saveThread (s.ctxOfCluster cl) (awayBlock m g) lane t

/-- Writes a register of a thread of a group; of one that is away, in the team image and in a line still present (R118,
R311). -/
def State.writeRegOf (s : State) (gid lane n : Nat) (v : Word) : State :=
  if gid < 2 ^ 40 then s.writeReg (threadKey gid lane) n v
  else
    match s.awayMember gid with
    | none => s
    | some (cl, _, m) =>
      let c := s.ctxOfCluster cl
      let tag := awayBlock m ((gid - 2 ^ 40) % 32) + 0x800 + 128 * n
      if s.lines.any (fun l => l.ctx == c && l.tag == tag) then
        { s with lines := s.lines.map (fun l =>
            if l.ctx == c && l.tag == tag then
              { l with vals := l.vals.put lane v, dirty := true, poison := l.poison &&& ~~~(1#32 <<< lane) } else l) }
      else
        let l : RegLine :=
          { core := m.core, ctx := c, tag := tag, n := n, vals := [(lane, v)], dirty := true, evictable := true, poison := 0,
            filling := false, used := s.clk }
        s.writeBack l

/-- A thread that has not exited, resident or away. -/
def State.aliveAt (s : State) (t : Nat) : Bool := (s.threadAt (gidOf t) (laneOf t)).tstate != .exited

/-- Writes a value of `w` bits to a destination of a thread that is away (R302). -/
def State.writeAway (s : State) (t : Nat) (d : BitVec 7) (w x : Nat) : State :=
  let n := if w ≤ 32 then 1 else w / 32
  let x := x % 2 ^ w
  if d.toNat < 120 then
    ((List.range n).foldl (fun s i => s.writeRegOf (gidOf t) (laneOf t) (d.toNat + i) (BitVec.ofNat 32 (x / 2 ^ (32 * i)))) s)
  else if d.toNat < 124 then
    s.modThreadOf (gidOf t) (laneOf t) (fun y => { y with latch := y.latch.put (d.toNat - 120) (BitVec.ofNat 64 x) })
  else s

/-- Poisons a register of a thread that is away: in the line still present, else in its sector of the image (R116). -/
def State.poisonRegOf (s : State) (gid lane n : Nat) : State :=
  match s.awayMember gid with
  | none => s
  | some (cl, _, m) =>
    let c := s.ctxOfCluster cl
    let tag := awayBlock m ((gid - 2 ^ 40) % 32) + 0x800 + 128 * n
    let s := s.writeRegOf gid lane n 0
    if s.lines.any (fun l => l.ctx == c && l.tag == tag) then
      { s with lines := s.lines.map (fun l =>
          if l.ctx == c && l.tag == tag then { l with poison := l.poison ||| (1#32 <<< lane) } else l) }
    else s.poisonSector (sectorOf (s.arenaLoc c (tag + 4 * lane)))

/-- A wait of a thread that is not resident ends: the status goes into the team image and the thread resumes RUN at
rebinding (R311). -/
def State.endWaitAway (s : State) (cl team g lane : Nat) (dst : BitVec 7) (status : Word) : State :=
  let s := s.wftDrop (threadKey (awayGid cl team g) lane)
  let s := s.modThreadOf (awayGid cl team g) lane (fun t => { t with tstate := .run, waitFor := .nothing })
  if dst.toNat < 120 then s.writeRegOf (awayGid cl team g) lane dst.toNat status else s

/-- A spill entry of a monitor that is gone reads as free (R310). -/
def State.freeSpill (s : State) (m : Monitor) : State :=
  match m.place with
  | .spill b i =>
    let x := s.ctx m.ctx
    let base := x.image.toNat + (x.imageSize.toNat - x.spillInForce) * 65536 + (b * 8 + i) * 32
    s.writeN (s.arenaLoc m.ctx base) 8 0
  | _ => s

/-- A monitor's condition has been observed true: its waiter goes on (R307, R73). Batches are re-armed by the step
that observes DONE (R422): here the batch is only marked, its monitor removed. -/
def State.fireMonitor (s : State) (m : Monitor) : State :=
  let s := { s with monitors := s.monitors.filter (fun x => x.id != m.id) }
  let s := s.freeSpill m
  match m.who with
  | .thread t => (if m.acq then s.acquire (coreOf t) m.ctx m.scope none else s).endWait t 0
  | .away cl team g lane => s.endWaitAway cl team g lane m.dst 0
  | .launch q => s.modLaunch q (fun l => if l.state == .waiting then { l with state := .eligible, ageFrom := s.wall } else l)
  | .batch _ => s

/-- The word a monitor watches satisfies its condition. -/
def State.monitorHolds (s : State) (m : Monitor) : Bool := ccHolds m.cc (8 * m.size) (s.readN m.pa m.size) m.cmp.toNat

/-- A monitor of a halted context that fires is noted, and its waiter goes on at release (R445). -/
def State.fireOrNote (s : State) (m : Monitor) : State :=
  let ofThread := match m.who with
    | .thread _ => true
    | .away .. => true
    | _ => false
  if ofThread && (s.ctx m.ctx).halted then
    { s with monitors := s.monitors.map (fun x => if x.id == m.id then { x with hit := true } else x) }
  else s.fireMonitor m

/-- Writes to [loc, loc + n) have been performed: the monitors on those bytes are evaluated (R307). A monitor that is
polled is not (R309). -/
def State.fireMonitors (s : State) (loc n : Nat) : State :=
  (s.monitors.filter (fun m => overlaps m.pa m.size loc n && (match m.place with | .poll _ => false | _ => true) &&
      (match m.who with | .batch _ => false | _ => true))).foldl
    (fun s m => if s.monitorHolds m then s.fireOrNote m else s) s

/-- A write of the device itself, performed at once: bytes, coherence, monitors (R307). -/
def State.deviceWrite (s : State) (loc leaf : Nat) (bs : List Byte) : State :=
  ((s.storeLeaf loc leaf bs).dirRecall loc bs.length).fireMonitors loc bs.length

/-- Writes a number of `n` bytes into a context's arena as the device (R107). -/
def State.arenaWrite (s : State) (c va n x : Nat) : State :=
  s.deviceWrite (s.arenaLoc c va) (s.arenaLeaf c va) (bytesOf n x)

/-- Reads a number of `n` bytes from a context's arena. -/
def State.arenaRead (s : State) (c va n : Nat) : Nat := s.readN (s.arenaLoc c va) n

/-! ## The supervisor mailbox (20 R424–R426) -/

/-- Virtual address of a mailbox header (R424). -/
def State.mailbox (s : State) (c core : Nat) : Nat := (s.ctx c).image.toNat + 20480 * core + 18432

/-- Code of a trap cause (R407). -/
def Cause.code : Cause → Nat
  | .illegal => 0x01 | .latch => 0x02 | .groupMember => 0x03 | .misalign => 0x04 | .permission => 0x05
  | .atomType => 0x06 | .xopUnbound => 0x07 | .xopLimit => 0x08 | .priv => 0x09 | .break_ => 0x0A | .poison => 0x0B
  | .tcfg => 0x0C | .user => 0x0D | .unresolved => 0x0E

/-- Code of a park reason (R408). -/
def Reason.code : Reason → Nat
  | .notPresent => 1 | .format => 2 | .homeBusy => 3 | .bias => 4

/-- Slots 1–31 of a mailbox that hold no request. -/
def State.freeSlots (s : State) (c core : Nat) : List Nat :=
  ((List.range 32).drop 1).filter (fun i => !s.requests.any (fun r => r.ctx == c && r.core == core && r.slot == i))

/-- FULL_MASK of a mailbox (R424). -/
def State.fullMask (s : State) (c core : Nat) : Nat :=
  ((s.requests.filter (fun r => r.ctx == c && r.core == core && r.slot != 0)).map (fun r => 2 ^ r.slot)).foldl (· + ·) 0

/-- OWNER of a group: its slot, and the slot-table entry of its team or 0xFF (R410, R425). A group that is away keeps
those that its set recorded. -/
def State.ownerOfGroup (s : State) (gid : Nat) (set : Option Nat) : Nat :=
  if gid < 2 ^ 40 then
    let entry := entryOfTeam (s.group gid).team
    min (slotOfGroup gid) 128 + 256 * (if entry < 64 then entry else 0xFF)
  else ((set.bind (fun id => s.sets.find? (fun x => x.id == id))).map (·.owner)).getD 0xFFFF

/-- Writes a request into its slot (R425), its FULL_MASK bit, and POSTED + 1, in that order (R424). -/
def State.writeRequest (s : State) (r : Request) : State :=
  let h := s.mailbox r.ctx r.core
  let a := h + 64 * r.slot
  let s := s.arenaWrite r.ctx a 1 ((if r.event then 2 else 1) + (if r.hasSet.isSome then 16 else 0))
  let s := s.arenaWrite r.ctx (a + 1) 1 r.cause
  let s := s.arenaWrite r.ctx (a + 2) 2 (if r.event && r.lanes == 0 then 0xFFFF else s.ownerOfGroup r.gid r.hasSet)
  let s := s.arenaWrite r.ctx (a + 4) 4 r.lanes.toNat
  let s := s.arenaWrite r.ctx (a + 8) 8 r.pc.toNat
  let s := s.arenaWrite r.ctx (a + 0x10) 8 r.info0.toNat
  let s := s.arenaWrite r.ctx (a + 0x18) 8 r.info1.toNat
  let s := ((List.range 8).zip (r.args ++ List.replicate 8 0)).foldl
    (fun s p => s.arenaWrite r.ctx (a + 0x20 + 4 * p.1) 4 p.2.toNat) s
  let s := s.arenaWrite r.ctx (h + 8) 4 (s.fullMask r.ctx r.core)
  s.arenaWrite r.ctx h 8 ((s.arenaRead r.ctx h 8 + 1) % 2 ^ 64)

/-- Posts a request in the lowest free slot; a trap that finds none waits for one, an event is discarded and counted
(R426). -/
def State.post (s : State) (r : Request) : State :=
  match s.freeSlots r.ctx r.core with
  | i :: _ =>
    let r := { r with slot := i }
    ({ s with requests := s.requests ++ [r] } : State).writeRequest r
  | [] =>
    if r.event then s.modCtx r.ctx (fun x =>
      let n := x.svLost.at' 0 r.core
      { x with svLost := x.svLost.put r.core (if n = 0xFFFFFFFFFFFFFFFF#64 then n else n + 1) })
    else { s with requests := s.requests ++ [{ r with slot := 0 }] }

/-- A slot has freed: the oldest trap that waits for one takes it (R426). -/
def State.postPending (s : State) (c core : Nat) : State :=
  match s.requests.find? (fun r => r.ctx == c && r.core == core && r.slot == 0), s.freeSlots c core with
  | some r, i :: _ =>
    let r' := { r with slot := i }
    let s : State := { s with requests := (s.requests.erase r) ++ [r'] }
    let s := (lanesOf r.lanes).foldl (fun s l => s.modThreadOf r.gid l (fun x =>
      { x with tstate := .wait, waitFor := .trap })) s
    s.writeRequest r'
  | _, _ => s

/-! ## Taking a trap (20 R407, R424–R426, R430) -/

/-- What a trap records beside its cause (R425). -/
structure TrapInfo where
  info0 : Nat := 0
  info1 : Nat := 0
  args : List Word := []
  dst : BitVec 7 := 126
  set : Option Nat := none
  deriving DecidableEq, Repr

/-- Completion flags that a trap sets on its launch (R455). -/
def State.flagTrap (s : State) (t : Nat) (cause : Cause) : State :=
  match s.launchOf t with
  | none => s
  | some q => s.modLaunch q (fun l =>
      match cause with
      | .poison => { l with poison := true }
      | .unresolved => { l with faulted := true }
      | _ => l)

/-- The one way a trap is taken: threads of one group stop at the first word of their run, TSTATE WAIT, and share one
request to the supervisor instance of their context on their core (R407, R408, R424–R426). `ts` are threads of one
group, `pc` the first word of the run, `next` the word after the hinted instruction. -/
def State.trapGroup (s : State) (ts : List Nat) (cause : Cause) (pc next : VA) (i : TrapInfo) : State :=
  match ts with
  | [] => s
  | t0 :: _ =>
    let g := gidOf t0
    let core := coreOfGroup g
    let c := s.ctxOf t0
    let full := (s.freeSlots c core).isEmpty
    let s := ts.foldl (fun s t =>
      let s := s.flagTrap t cause
      let s := s.wftDrop t
      s.modThread t (fun x =>
        { x with pc := pc, runPc := pc, tstate := if full then x.tstate else .wait, waitFor := if full then .hold else .trap,
                 waitDst := 126 })) s
    s.post { core := core, ctx := c, slot := 0, event := false, cause := cause.code, gid := g,
             lanes := maskOf (ts.map laneOf), hasSet := i.set, pc := pc, info0 := BitVec.ofNat 64 i.info0,
             info1 := BitVec.ofNat 64 i.info1, args := i.args, dst := i.dst, next := next }

/-- Traps threads of any groups: those of one group share a request, whose fields follow its lowest lane (R426). -/
def State.trap (s : State) (ts : List Nat) (cause : Cause) (pc next : VA) (info : Nat → TrapInfo) : State :=
  (dedupBy id (ts.map gidOf)).foldl (fun s g =>
    let mine := sortBy (fun a b => decide (a ≤ b)) (ts.filter (fun t => gidOf t == g))
    match mine with
    | [] => s
    | t0 :: _ => s.trapGroup mine cause pc next (info t0)) s

/-- Posts an event to the supervisor instance of a context on a core (R425). -/
def State.svEvent (s : State) (c core code gid : Nat) (lanes : BitVec 32) (info0 info1 : Nat) : State :=
  s.post { core := core, ctx := c, slot := 0, event := true, cause := code, gid := gid, lanes := lanes, hasSet := none,
           pc := 0, info0 := BitVec.ofNat 64 info0, info1 := BitVec.ofNat 64 info1, args := [], dst := 126, next := 0 }

end Sys2Proof.Machine
end

