-- ==== Sys2Proof/Machine/Sets.lean ====
section
/-! DEFINITION. Record sets in the replay area (20 R409–R418), their states (R411), and the batches that Loess gathers
faults in (R419). -/
namespace Sys2Proof.Machine

/-! ## The replay area (R409) -/

/-- Virtual address of a context's replay area: it ends where the spill area begins. -/
def State.rplBase (s : State) (c : Nat) : Nat :=
  let x := s.ctx c
  x.image.toNat + (x.imageSize.toNat - x.spillInForce - x.rplInForce) * 65536

/-- Slots of a context's replay area. -/
def State.rplSlots (s : State) (c : Nat) : Nat := (s.ctx c).rplInForce * 512

/-- First slot of a set. -/
def State.setSlot (s : State) (x : RSet) : Nat := (x.addr.toNat - s.rplBase x.ctx) / 128

/-- The lowest run of `n` free slots: it starts at 0 or where a set ends. -/
def State.freeRun (s : State) (c n : Nat) : Option Nat :=
  let mine := s.sets.filter (fun x => x.ctx == c)
  let starts := 0 :: mine.map (fun x => s.setSlot x + x.nrec)
  minBy id (starts.filter (fun i =>
    decide (i + n ≤ s.rplSlots c) && !mine.any (fun x => overlaps i n (s.setSlot x) x.nrec)))

/-! ## Codes and images (R410, R412) -/

/-- Code of a UNIT (R410). -/
def UnitKind.code : UnitKind → Nat
  | .lane => 1 | .store => 2 | .atomic => 3 | .copy => 4 | .walk => 5 | .texture => 6 | .xop => 7 | .fetch => 8 | .whole => 9
/-- Code of a STATE (R410). -/
def SetState.code : SetState → Nat
  | .parked => 1 | .armed => 2 | .held => 3

/-- UNIT of the sets of an instruction (R412, R416, R417). -/
def unitOf : Instr → UnitKind
  | .st .. | .sts .. | .rel .. => .store
  | .atom .. | .red .. | .atomcas .. | .atoms .. | .reds .. | .atomscas .. => .atomic
  | .trace .. | .beam .. | .cov .. => .walk
  | .tex .. | .texg .. | .texq .. => .texture
  | .launch .. | .rccfgLoad .. | .rccfgSave .. | .rccfgRelease .. | .csload .. => .whole
  | .cpy .. | .cpyg .. | .cpys .. | .cpym .. => .copy
  | .xop .. => .xop
  | _ => .lane

/-- Words of 8 bytes in an entry (R412); `wide` for elements of 16 bytes. -/
def entryWords (i : Instr) (wide : Bool) : Nat :=
  match i with
  | .st .. => if wide then 3 else 2
  | .rel .. | .atom .. | .red .. | .waitc .. | .wdecl .. | .unbind .. => 2
  | .atomcas .. | .bind .. => 3
  | _ => 1

/-- The run's TYPE makes elements of 16 bytes. -/
def wideRun (h : Hints) : Bool := h.modWord.extractLsb' 5 5 == 13#5

/-- Words of the entry of a lane. -/
def laneWords (n : Nat) (l : Lane) : List DWord := [l.addr, l.x, l.y].take n

/-- The header of a set as four words (R410). -/
def RSet.header (x : RSet) : List DWord :=
  [BitVec.ofNat 64 (x.unit.code + x.nrec * 2 ^ 8 + x.state.code * 2 ^ 16 + x.reason.code * 2 ^ 24 + x.batch.toNat * 2 ^ 32),
   BitVec.ofNat 64 x.pc.toNat,
   BitVec.ofNat 64 (x.word.toNat + x.mask.toNat * 2 ^ 32),
   BitVec.ofNat 64 (x.owner + x.core * 2 ^ 16 + x.held.toNat * 2 ^ 32)]

/-- Minor and XMOD of a texture operation (R417). -/
def texKind (i : Instr) (h : Hints) : DWord :=
  BitVec.ofNat 64 ((match i with | .tex .. => 0 | .texg .. => 1 | _ => 2) + h.modWord.toNat % 32 * 16)

/-- The payload of a set (R412, R415–R417). -/
def RSet.payload (x : RSet) : List DWord :=
  match x.unit with
  | .lane | .store | .atomic => x.lanes.flatMap (laneWords (entryWords x.instr (wideRun x.hints)))
  | .texture => [(x.lanes.head?.map (·.addr)).getD 0, texKind x.instr x.hints] ++ x.lanes.flatMap (fun l => [l.x, l.y])
  | _ => x.data

/-- Writes words of 8 bytes from an address of a context's arena. -/
def State.arenaWords (s : State) (c va : Nat) : List DWord → State
  | [] => s
  | w :: r => (s.arenaWrite c va 8 w.toNat).arenaWords c (va + 8) r

/-- Writes the whole image of a set. -/
def State.writeSet (s : State) (x : RSet) : State :=
  s.arenaWords x.ctx x.addr.toNat (x.header ++ x.payload)

/-- Rewrites the header of a set after a change of it. What the supervisor has cleared of the MASK of a HELD set stays
cleared (R418). -/
def State.writeHeader (s : State) (x : RSet) : State :=
  let a := x.addr.toNat
  let mask := if x.state == .held then Nat.land (s.arenaRead x.ctx (a + 0x14) 4) x.mask.toNat else x.mask.toNat
  let s := s.arenaWrite x.ctx a 8 ((x.header.headD 0).toNat)
  let s := s.arenaWrite x.ctx (a + 0x14) 4 mask
  s.arenaWrite x.ctx (a + 0x1C) 4 x.held.toNat

/-- The set of a number. -/
def State.setOf (s : State) (id : Nat) : Option RSet := s.sets.find? (fun x => x.id == id)

/-- Changes a set in place, and its header in the replay area. -/
def State.modSet (s : State) (id : Nat) (f : RSet → RSet) : State :=
  match s.setOf id with
  | none => s
  | some x => ({ s with sets := s.sets.map (fun y => if y.id == id then f y else y) } : State).writeHeader (f x)

/-! ## Held threads (R414, R251, R99) -/

/-- A thread waits for a free mailbox slot (R426). -/
def State.inMailboxQueue (s : State) (t : Nat) : Bool :=
  s.requests.any (fun r => r.slot == 0 && r.gid == gidOf t && r.lanes.getLsbD (laneOf t))

/-- Lets the threads of a context that were held at their checks execute their runs again, and its copies that found no
room for a record go on (R414). -/
def State.wakeHeld (s : State) (c : Nat) : State :=
  let threads := s.threads.map (fun p =>
      if p.2.waitFor == .hold && s.ctxOf p.1 == c && !s.inMailboxQueue p.1 then (p.1, { p.2 with waitFor := .nothing })
      else p)
  let copies := s.copies.map (fun k =>
      if k.ctx == c && k.state == .parked && !s.sets.any (fun x => x.copy == some k.id) then { k with state := .moving }
      else k)
  { s with threads := threads, copies := copies }

/-! ## States of a set (R411) -/

/-- Frees a set. -/
def State.freeSet (s : State) (x : RSet) : State :=
  ({ s with sets := s.sets.filter (fun y => y.id != x.id) } : State).wakeHeld x.ctx

/-- Makes the threads of a set ready that wait for it and are not held (R413). -/
def State.readySet (s : State) (x : RSet) : State :=
  (lanesOf (x.mask &&& ~~~x.held)).foldl (fun s l => s.modThreadOf x.gid l (fun t =>
    if t.waitFor == .set x.id then { t with tstate := .run, waitFor := .nothing, pc := x.pc, runPc := x.pc } else t)) s

/-- Arms a PARKED set: its threads are ready to replay, a copy's part moves again (R411, R413, R415, R422). -/
def State.armSet (s : State) (id : Nat) : State :=
  match s.setOf id with
  | none => s
  | some x =>
    if x.unit == .copy then
      ({ s with copies := s.copies.map (fun c =>
          if some c.id == x.copy && c.state == .parked then { c with state := .moving }
          else if some c.id == x.copy && c.was == .parked then { c with was := .moving } else c) } : State).freeSet x
    else
      (s.modSet id (fun y => { y with state := if y.held = 0 then .armed else .held })).readySet x

/-- Numbers of a list taken `n` at a time. -/
def chunks {α : Type} (n : Nat) : Nat → List α → List (List α)
  | 0, _ => []
  | k + 1, l => l.take n :: chunks n k (l.drop n)

/-- A set with what the supervisor wrote while it was HELD (R418): the addresses and data of its entries. -/
def State.reread (s : State) (x : RSet) : RSet :=
  match x.unit with
  | .lane | .store | .atomic =>
    let n := entryWords x.instr (wideRun x.hints)
    let ws := (List.range (n * x.lanes.length)).map (fun i =>
      BitVec.ofNat 64 (s.arenaRead x.ctx (x.addr.toNat + 0x20 + 8 * i) 8))
    let ls := (x.lanes.zip (chunks n x.lanes.length ws)).map (fun p =>
      ({ p.1 with addr := p.2.getD 0 p.1.addr, x := p.2.getD 1 p.1.x, y := p.2.getD 2 p.1.y } : Lane))
    { x with lanes := ls }
  | _ => x

/-- h0–h7 of an XOP set as the supervisor left them (R418). -/
def State.rereadTemps (s : State) (x : RSet) : State :=
  if x.unit != .xop then s
  else
    let h : Tab DWord := (List.range 8).map (fun i =>
      (i, BitVec.ofNat 64 (s.arenaRead x.ctx (x.addr.toNat + 0x30 + 8 * i) 8)))
    (lanesOf x.mask).foldl (fun s l => s.modThreadOf x.gid l (fun t =>
      { t with xop := t.xop.map (fun k => { k with h := h }) })) s

/-- Frees a set whose MASK is empty, and re-arms a HELD one of which no thread is held any more, with the changes of
the supervisor: a thread whose MASK bit it cleared continues as after .NEXT (R411, R418, R432). -/
def State.settle (s : State) (id : Nat) : State :=
  match s.setOf id with
  | none => s
  | some x =>
    if x.mask = 0 then s.freeSet x
    else if x.held = 0 && x.state == .held then
      let keep := BitVec.ofNat 32 (s.arenaRead x.ctx (x.addr.toNat + 0x14) 4) &&& x.mask
      let x' := s.reread x
      let s := s.rereadTemps x
      let s := (lanesOf (x.mask &&& ~~~keep)).foldl (fun s l => s.modThreadOf x.gid l (fun t =>
        { t with inSet := none, xop := none, tstate := .run, waitFor := .nothing, pc := x.next, runPc := x.next })) s
      let x' : RSet :=
        { x' with state := .armed, mask := keep, lanes := x'.lanes.filter (fun l => keep.getLsbD (laneOf l.tid)) }
      if keep = 0 then s.freeSet x else (s.modSet id (fun _ => x')).readySet x'
    else s

/-- A thread of a group leaves its set (R413, R418, R431). -/
def State.leaveSetOf (s : State) (gid lane : Nat) : State :=
  match (s.threadAt gid lane).inSet with
  | none => s
  | some id =>
    let b := ~~~(1#32 <<< lane)
    let s := s.modThreadOf gid lane (fun x => { x with inSet := none })
    (s.modSet id (fun y => { y with mask := y.mask &&& b, held := y.held &&& b })).settle id

/-- A resident thread leaves its set. -/
def State.leaveSet (s : State) (t : Nat) : State := s.leaveSetOf (gidOf t) (laneOf t)

/-- Traps threads at the first word of a run; one that a set lists stays in it, held (R411, R413, R426). -/
def State.trapIn (s : State) (ts : List Nat) (cause : Cause) (pc next : VA) (info : Nat → TrapInfo) : State :=
  let set := fun t => (s.thread t).inSet
  let s' := ts.foldl (fun s t => match (s.thread t).inSet with
    | some id => s.modSet id (fun x => { x with held := x.held ||| (1#32 <<< laneOf t), state := .held })
    | none => s) s
  s'.trap ts cause pc next (fun t => { info t with set := set t })

/-! ## Loess (R419) -/

/-- SEQ after `n`: it skips 0 (R421). -/
def seqNext (n : BitVec 32) : BitVec 32 := if n = 0xFFFFFFFF#32 then 1 else n + 1

/-- SEQ of the next batch of a context: after the last one posted and every one that is open (R421). -/
def State.nextSeq (s : State) (c : Nat) : BitVec 32 :=
  (s.batches.filter (fun b => b.ctx == c && !b.posted)).foldl (fun n _ => seqNext n) (seqNext (s.ctx c).fqTail)

/-- Loess of a die takes a reason for a page of a context (R419): the SEQ of the batch that names the page. -/
def State.loess (s : State) (die c page : Nat) (r : Reason) (write fetch : Bool) : State × BitVec 32 :=
  let e : BEntry := { page := page, reason := r, pred := false, write := write, fetch := fetch }
  match s.batches.find? (fun b => b.ctx == c && b.entries.any (fun e => e.page == page)) with
  | some b => (s, b.seq)
  | none =>
    match s.batches.find? (fun b => b.ctx == c && b.die == die && !b.posted && decide (b.entries.length < 14)) with
    | some b =>
      ({ s with batches := s.batches.map (fun x => if x.id == b.id then { x with entries := x.entries ++ [e] } else x) },
        b.seq)
    | none =>
      let q := s.nextSeq c
      ({ s with nextId := s.nextId + 1, batches := s.batches ++
          [({ id := s.nextId, ctx := c, die := die, seq := q, posted := false, openedAt := s.wall, entries := [e], cands := [] } : Batch)] },
        q)

/-- What parks: the shape of a new set. -/
structure Park where
  ctx : Nat
  core : Nat
  gid : Nat
  unit : UnitKind
  instr : Instr
  hints : Hints
  word : Word
  pc : VA
  next : VA
  lanes : List Lane
  data : List DWord
  pages : List ParkPage
  copy : Option Nat
  walk : Option Walk := none
  /-- candidates for predictions (R420) -/
  cands : List Nat := []
  deriving DecidableEq, Repr

/-- Slots that a parked part needs (R412, R416, R417). -/
def Park.slots (p : Park) : Nat :=
  let n := match p.unit with
    | .lane | .store | .atomic => p.lanes.length * entryWords p.instr (wideRun p.hints)
    | .fetch | .whole => 0
    | .texture => 2 + 2 * p.lanes.length
    | _ => p.data.length
  (32 + 8 * n + 127) / 128

/-- Loess takes every page of a parked part; the SEQ of the first (R410, R419). -/
def State.reportPages (s : State) (core c : Nat) : List ParkPage → State × BitVec 32
  | [] => (s, 0)
  | p :: r =>
    let (s, q) := s.loess (dieOf core) c p.page p.reason p.write p.fetch
    ((s.reportPages core c r).1, q)

/-- Candidates for predictions join the batch that took the fault (R420). -/
def State.predict (s : State) (c : Nat) (q : BitVec 32) (cands : List Nat) : State :=
  if cands.isEmpty then s
  else { s with batches := s.batches.map (fun b => if b.ctx == c && b.seq == q && !b.posted then
      { b with cands := b.cands ++ cands } else b) }

/-- A page posted to Loess as a prediction alone (R371): it joins the open batch of the context on the die, which it
opens when there is none and the page is not present. -/
def State.predictPage (s : State) (die c page : Nat) : State :=
  match s.batches.find? (fun b => b.ctx == c && b.die == die && !b.posted) with
  | some b => { s with batches := s.batches.map (fun x => if x.id == b.id then { x with cands := x.cands ++ [page] } else x) }
  | none =>
    if s.walk die c page != .stop .notPresent then s
    else { s with nextId := s.nextId + 1, batches := s.batches ++
        [({ id := s.nextId, ctx := c, die := die, seq := s.nextSeq c, posted := false, openedAt := s.wall, entries := [],
            cands := [page] } : Batch)] }

/-- Writes a new set at a slot, PARKED, with its threads parked (R408, R410). -/
def State.openSet (s : State) (p : Park) (slot : Nat) (q : BitVec 32) : State :=
  let id := s.nextId
  let mask := maskOf (p.lanes.map (fun l => laneOf l.tid))
  let x : RSet :=
    { id := id, ctx := p.ctx, addr := BitVec.ofNat 64 (s.rplBase p.ctx + 128 * slot), nrec := p.slots, unit := p.unit,
      state := .parked, reason := ((p.pages.head?).map (·.reason)).getD .notPresent, batch := q, pc := p.pc, next := p.next,
      word := p.word, mask := if p.unit == .copy then 0 else mask, held := 0, gid := p.gid, core := p.core,
      owner := if p.unit == .copy then s.ownerOfGroup p.gid none / 256 * 256 else s.ownerOfGroup p.gid none,
      instr := p.instr, hints := p.hints, lanes := p.lanes, data := p.data, pages := p.pages, copy := p.copy, walk := p.walk }
  let s := ({ s with nextId := id + 1, sets := s.sets ++ [x] } : State).writeSet x
  if p.unit == .copy then s
  else
    p.lanes.foldl (fun s l => s.modThread l.tid (fun t =>
      { t with tstate := .parked, waitFor := .set id, pc := p.pc, runPc := p.pc, inSet := some id })) s

/-- Parks threads again in the set they replay (R411): the same slots, with the parts that parked. -/
def State.repark (s : State) (id : Nat) (p : Park) (q : BitVec 32) : State :=
  let s := s.modSet id (fun x =>
    { x with state := if x.held = 0 then .parked else .held, batch := q,
             reason := ((p.pages.head?).map (·.reason)).getD x.reason, pages := p.pages,
             lanes := x.lanes.filter (fun l => x.mask.getLsbD (laneOf l.tid)), data := p.data,
             walk := p.walk })
  let s := match s.setOf id with
    | some x => s.writeSet x
    | none => s
  p.lanes.foldl (fun s l => s.modThread l.tid (fun t =>
    { t with tstate := .parked, waitFor := .set id, pc := p.pc, runPc := p.pc })) s

/-- Threads held at their checks for want of room: none of their part is applied (R414). -/
def State.holdAll (s : State) (p : Park) : State :=
  p.lanes.foldl (fun s l => s.modThread l.tid (fun t =>
    { t with tstate := .run, waitFor := .hold, pc := p.pc, runPc := p.pc })) s

/-- Parks a part that a group or thread has not been able to make: in the set it replays, in a new set, or held when
the replay area lacks room (R411, R414). Loess receives the fault in each case. -/
def State.park (s : State) (p : Park) : State :=
  let (s, q) := s.reportPages p.core p.ctx p.pages
  let s := s.predict p.ctx q p.cands
  match (p.lanes.head?).bind (fun l => (s.thread l.tid).inSet) with
  | some id => s.repark id p q
  | none =>
    match s.freeRun p.ctx p.slots with
    | some slot => s.openSet p slot q
    | none => s.holdAll p

end Sys2Proof.Machine
end

