-- ==== Sys2Proof/Machine/Barriers.lean ====
section
/-! DEFINITION. Scratch addresses (12 R240) and transaction barriers (13 R265–R269): the object, its completion step and
the release of its waiters. -/
namespace Sys2Proof.Machine

/-! ## Scratch addresses (R240) -/

/-- Where the scratch of a member of a cluster lies, core and base, for a team of it on a core; `m` is the MEMBER
field. -/
def State.memberScratch (s : State) (b : Bind) (core cl m : Nat) : Option (Nat × Nat) :=
  if m = 15 then some (core, b.scratchBase)
  else if m < b.w * b.h then ((s.clusters.find cl).bind (fun c => c.members[m]?)).map (fun y => (y.core, y.scratchBase))
  else none

/-- The location of `size` bytes at a scratch address for a team with a bind record, or none where R240 traps with
PERMISSION. -/
def State.scratchAt (s : State) (b : Bind) (core cl a size : Nat) : Option Nat :=
  let x := a % 2 ^ 32
  let off := bits x 0 18
  if bits x 18 10 ≠ 0 || off + size > b.scratchSize then none
  else (s.memberScratch b core cl (bits x 28 4)).map (fun p => sramLoc p.1 (p.2 + off))

/-- The location of `size` bytes at a scratch address for a resident team. -/
def State.scratchLoc (s : State) (k a size : Nat) : Option Nat :=
  s.scratchAt (s.team k).bind (coreOfTeam k) (s.team k).cluster a size

/-- A location of scratch that is not the thread's own (R235). -/
def State.remoteLoc (s : State) (t loc : Nat) : Bool :=
  let b := (s.team (s.teamOf t)).bind
  isSram loc && !(sramCore loc == coreOf t && b.scratchBase ≤ (loc - sramBase) % 2 ^ 18 &&
    (loc - sramBase) % 2 ^ 18 < b.scratchBase + b.scratchSize)

/-! ## Transaction barriers (R265, R266) -/

/-- The object at a location (R265). -/
structure Tbar where
  pending : Nat
  init : Nat
  pend : Nat
  phase : Bool
  err : Bool
  deriving DecidableEq, Repr

/-- The barrier object at a location. Bits [63:34] of its second word are not looked at and are zero after the next
operation that writes the object: the spec gives no status for a barrier with a nonzero reserved bit (R5, R265; log 73). -/
def State.tbar (s : State) (loc : Nat) : Tbar :=
  let w := s.readN (loc + 8) 8
  { pending := s.readN loc 8, init := bits w 0 16, pend := bits w 16 16, phase := bit w 32, err := bit w 33 }

/-- Word 1 of a barrier (R265). -/
def Tbar.word1 (b : Tbar) : Nat := b.init + b.pend * 2 ^ 16 + b2n b.phase * 2 ^ 32 + b2n b.err * 2 ^ 33

/-- The completion step (R266). -/
def Tbar.step (b : Tbar) : Tbar :=
  if !b.err && b.pend = 0 && b.pending = 0 then { b with phase := !b.phase, pend := b.init } else b

/-- A wait for phase `ph` ends with a status: 2 on ERR, 0 when PHASE has changed (R268, R269). -/
def Tbar.waitStatus (b : Tbar) (ph : Bool) : Option Word :=
  if b.err then some 2 else if b.phase != ph then some 0 else none

/-- The threads that wait on barriers overlapping [loc, loc + n) are released as their phases allow (R269). -/
def State.tbarWake (s : State) (loc n : Nat) : State :=
  let ws := s.threads.filterMap (fun p =>
    match p.2.waitFor with
    | .tbarWait a ph =>
      match s.scratchLoc (s.teamOf p.1) a.toNat 16 with
      | some b => if overlaps b 16 loc n then (s.tbar b).waitStatus ph |>.map (fun v => (p.1, v)) else none
      | none => none
    | _ => none)
  ws.foldl (fun s p => (if p.2 == 0 then s.acquire (coreOf p.1) (s.ctxOf p.1) 3 none else s).endWait p.1 p.2) s

/-- A write to [loc, loc + n) has been performed: monitors and barrier waits on those bytes are evaluated (R269, R307). -/
def State.notice (s : State) (loc n : Nat) : State :=
  let s := s.fireMonitors loc n
  if isSram loc then s.tbarWake loc n else s

/-- Replaces the barrier object at a location, in one atomic step (R265, R269). -/
def State.setTbar (s : State) (loc : Nat) (b : Tbar) : State :=
  ((s.storeBytes loc 0 false false (bytesOf 8 b.pending)).storeBytes (loc + 8) 0 false false (bytesOf 8 b.word1)).notice loc 16

/-- Adds to PENDING, with the completion step (R262, R266). -/
def State.tbarAdd (s : State) (loc : Nat) (x : Int) : State :=
  let b := s.tbar loc
  s.setTbar loc ({ b with pending := wrapInt 64 ((b.pending : Int) + x) } : Tbar).step

/-- Adds to PENDING alone: what an acknowledgement barrier awaits is raised without a completion step (R262, R266). -/
def State.tbarRaise (s : State) (loc x : Nat) : State :=
  let b := s.tbar loc
  s.setTbar loc { b with pending := (b.pending + x) % 2 ^ 64 }

/-- Sets ERR (R264). -/
def State.tbarErr (s : State) (loc : Nat) : State := s.setTbar loc { s.tbar loc with err := true }

end Sys2Proof.Machine
end

