-- ==== Sys2Proof/Machine/CopyForm.lean ====
section
/-! DEFINITION. The description of a copy (13 R246–R255): the fields of its k block, the checks made at its start in
their order (R264), and its parts: slices, rows or elements, and destination sectors. -/
namespace Sys2Proof.Machine

/-! ## The k block (R247) -/

/-- Word `i` of a slice's k block. -/
def Slice.kw (x : Slice) (i : Nat) : Nat := ((x.k.getD i 0).toNat)
/-- SEQ of the control word. -/
def Slice.seq (x : Slice) : Nat := bits (x.kw 0) 32 32
/-- MASK of the control word. -/
def Slice.mask (x : Slice) : Nat := bits (x.kw 0) 20 12
/-- Element size of a gather. -/
def Slice.esize (x : Slice) : Nat := 2 ^ bits (x.kw 0) 16 4
/-- Bytes of an index word. -/
def Slice.idxBytes (x : Slice) : Nat := if bit (x.kw 0) 2 then 8 else 4
/-- The source is scratch. -/
def Slice.ss (x : Slice) : Bool := bit (x.kw 0) 1
/-- The destination is scratch. -/
def Slice.sd (x : Slice) : Bool := bit (x.kw 0) 0
/-- Stamp address, 0 for none. -/
def Slice.stamp (x : Slice) : Nat := x.kw 1
/-- Scratch address of the destination barrier, if BV. -/
def Slice.bar (x : Slice) : Option Nat := if bit (x.kw 2) 63 then some (bits (x.kw 2) 0 32) else none
/-- Scratch address of the acknowledgement barrier, if AV. -/
def Slice.ack (x : Slice) : Option Nat := if x.minor = 3 && bit (x.kw 3) 63 then some (bits (x.kw 3) 0 32) else none

/-- The slice whose block every slice carries: the first. -/
def Copy.block (c : Copy) : Slice :=
  match sortBy (fun a b => decide (a.group ≤ b.group)) c.slices with
  | x :: _ => x
  | [] => { group := 0, minor := 0, a := 0, b := 0, c := 0, k := [] }

/-- The slice of a number; an absent one is empty (R249). -/
def Copy.sliceAt (c : Copy) (g : Nat) : Option Slice := c.slices.find? (fun x => x.group == g)

/-! ## Rows (R254) -/

/-- Rows or elements of a slice. -/
def Slice.rows (x : Slice) : Nat := if x.minor = 0 || x.minor = 3 then 1 else x.c.toNat
/-- Bytes of a row or element. -/
def Slice.rowLen (x : Slice) : Nat :=
  match x.minor with
  | 1 => x.esize
  | 2 => bits (x.kw 3) 0 32
  | _ => x.c.toNat
/-- Destination address of row `r`. -/
def Slice.dstRow (x : Slice) (r : Nat) : Nat :=
  let d := x.b.toNat
  let a := match x.minor with
    | 1 => d + r * x.esize
    | 2 => wrapInt 64 ((d : Int) + r * signedOf 32 (bits (x.kw 4) 32 32))
    | _ => d
  if x.sd then a % 2 ^ 32 else a % 2 ^ 64
/-- Source address of row `r`; of element `r` whose index word is `i` in a gather. -/
def Slice.srcRow (x : Slice) (r i : Nat) : Nat :=
  let a := match x.minor with
    | 1 => x.kw 3 + i * x.esize
    | 2 => wrapInt 64 ((x.a.toNat : Int) + r * signedOf 32 (bits (x.kw 4) 0 32))
    | _ => x.a.toNat
  if x.ss then a % 2 ^ 32 else a % 2 ^ 64
/-- Sectors that `n` bytes from `a` touch. -/
def sectorSpan (a n : Nat) : Nat := if n = 0 then 0 else (a % 32 + n + 31) / 32

/-! ## Progress (R263, R415) -/

/-- Slices of the copy's team: it is done when its slice number reaches this. -/
def Copy.top (c : Copy) : Nat := max 1 c.bind.groups

/-- Passes over slices and rows without bytes: `n` bounds the slices. -/
def Copy.skip (c : Copy) : Nat → Copy
  | 0 => c
  | n + 1 =>
    if c.slice ≥ c.top then c
    else
      match c.sliceAt c.slice with
      | some x =>
        if c.row < x.rows && x.rowLen > 0 then c
        else ({ c with slice := c.slice + 1, row := 0, prog := 0, window := 0, index := none } : Copy).skip n
      | none => ({ c with slice := c.slice + 1, row := 0, prog := 0, window := 0, index := none } : Copy).skip n

/-- Every byte of the copy has landed. -/
def Copy.done (c : Copy) : Bool := decide (c.slice ≥ c.top)

/-- Moves PROGRESS over the sectors that have landed in order; `n` bounds the sectors of the window. -/
def Copy.slide (c : Copy) (span : Nat) : Nat → Copy
  | 0 => c
  | n + 1 =>
    if c.window.getLsbD 0 && c.prog < span then
      ({ c with prog := c.prog + 1, window := c.window >>> 1 } : Copy).slide span n
    else c

/-- A copy with sector `i` after PROGRESS landed (R263). -/
def Copy.landed (c : Copy) (x : Slice) (i : Nat) : Copy :=
  let span := sectorSpan (x.dstRow c.row) x.rowLen
  let c := ({ c with window := c.window ||| (1#16 <<< i) } : Copy).slide span 17
  if c.prog < span then c
  else ({ c with row := c.row + 1, prog := 0, window := 0, index := none } : Copy).skip 34

/-! ## The part in hand (R254, R256) -/

/-- A sector portion to land: offset in its row, destination address, bytes. -/
structure Part where
  slice : Slice
  off : Nat
  dst : Nat
  n : Nat
  deriving DecidableEq, Repr

/-- The portion `i` sectors after PROGRESS, unless it lies past the row or has landed. Of the first 16 alone can one land out of
order (R415). -/
def Copy.part (c : Copy) (i : Nat) : Option Part :=
  match c.sliceAt c.slice with
  | none => none
  | some x =>
    let d := x.dstRow c.row
    let lo := max d (d / 32 * 32 + 32 * (c.prog + i))
    let hi := min (d + x.rowLen) (d / 32 * 32 + 32 * (c.prog + i + 1))
    if c.done || c.window.getLsbD i || lo ≥ hi then none
    else some { slice := x, off := lo - d, dst := lo, n := hi - lo }

/-- Numbers, counted from PROGRESS, of the sectors of a part's line. -/
def Part.line (p : Part) (i : Nat) : List Nat :=
  (List.range 4).filterMap (fun j =>
    let n := i + p.dst / 128 * 4 + j
    if n < p.dst / 32 then none else some (n - p.dst / 32))

/-- A sector of the row in hand has been read and not landed. -/
def Copy.buffered (c : Copy) (i : Nat) : Bool := c.buf.any (fun b => b.n == c.prog + i)

/-- The engine holds what the row in hand still has to write in a part's line: the line is in progress (R258). -/
def Copy.lineHeld (c : Copy) (p : Part) (i : Nat) : Bool :=
  (p.line i).all (fun j => (c.part j).isNone || c.buffered j)

/-- Lines of destinations that the engine holds as a caching agent (R258). -/
def linesOf (ds : List (Nat × Passed)) : List Nat :=
  dedupBy id ((ds.filter (fun d => pteHome d.2.leaf == 2)).map (fun d => d.2.loc / 128))

/-- A sector leaves the buffer: its line is in progress while others of it stay. -/
def Copy.unbuffer (c : Copy) (n : Nat) : Copy :=
  let buf := c.buf.filter (fun b => b.n != n)
  { c with buf := buf, held := c.held.filter (fun l => buf.any (fun b => (linesOf b.dests).contains l)) }

/-! ## Checks at start (R264) -/

/-- Receivers of a CPYM, by %team. -/
def Slice.receivers (x : Slice) : List Nat := (List.range 12).filter (fun m => bit x.mask m)

/-- FORMAT of a block for a cluster of `n` teams (R264). -/
def Slice.formatBad (x : Slice) (n : Nat) : Bool :=
  bits (x.kw 0) 3 13 != 0 || bits (x.kw 0) 16 4 > 6 || x.stamp % 8 != 0 || bits (x.kw 2) 32 31 != 0 ||
  (x.minor != 1 && (bits (x.kw 0) 16 4 != 0 || bit (x.kw 0) 2)) || (x.minor != 3 && x.mask != 0) ||
  (x.minor == 2 && bits (x.kw 3) 32 32 != 0) ||
  (x.minor == 3 && (x.mask == 0 || x.mask ≥ 2 ^ n || !x.sd || bits (x.kw 3) 32 31 != 0))

/-- The location of bytes at a scratch address for a copy's team. -/
def State.copyScratch (s : State) (c : Copy) (a n : Nat) : Option Nat := s.scratchAt c.bind c.core c.cluster a n

/-- A scratch address or range of a slice fails R240 (R264). -/
def State.scratchBad (s : State) (c : Copy) (x : Slice) : Bool :=
  let bad := fun (a n : Nat) => (s.copyScratch c a n).isNone
  let rows := List.range x.rows
  let size := c.bind.scratchSize
  (x.ss && match x.minor with
    | 1 => bad (x.kw 3 % 2 ^ 32) (x.kw 4 * x.esize)
    | _ => (x.rows == 0 && bad (x.srcRow 0 0) 0) || rows.any (fun r => bad (x.srcRow r 0) x.rowLen)) ||
  (x.sd && match x.minor with
    | 3 => bits (x.b.toNat) 18 10 != 0 || bits (x.b.toNat) 0 18 + x.c.toNat > size
    | _ => (x.rows == 0 && bad (x.dstRow 0) 0) || rows.any (fun r => bad (x.dstRow r) x.rowLen)) ||
  (match x.bar with
    | some a => bad a 16
    | none => false) ||
  (match x.ack with
    | some a => bad a 16
    | none => false)

/-- ALIGN of a slice (R264). -/
def Slice.alignBad (x : Slice) : Bool :=
  (x.minor == 1 && (x.kw 3 % x.esize != 0 || x.b.toNat % x.esize != 0 || x.a.toNat % x.idxBytes != 0)) ||
  (match x.bar with
    | some a => a % 16 != 0
    | none => false) ||
  (match x.ack with
    | some a => a % 16 != 0
    | none => false)

/-- The status that the checks made at start give: 0 when all pass (R264). -/
def State.startStatus (s : State) (c : Copy) : Nat :=
  let b := c.block
  if c.slices.any (fun x => x.minor != b.minor || x.k != b.k) then 2
  else if b.formatBad (c.bind.w * c.bind.h) then 1
  else if c.slices.any (s.scratchBad c) then 3
  else if c.slices.any Slice.alignBad then 4
  else 0

/-- AV: the acknowledgement barrier awaits one unit for each receiver, whatever the checks at start will find (R262). -/
def State.ackRaise (s : State) (c : Copy) : State :=
  match c.block.ack with
  | some a =>
    match s.copyScratch c a 16 with
    | some loc => s.tbarRaise loc (popc 12 c.block.mask)
    | none => s
  | none => s

end Sys2Proof.Machine
end

