-- ==== Sys2Proof/Machine/Threads.lean ====
section
/-! DEFINITION. What the threads of a team hold in common: the reconvergence stack (07 R128–R131), the rendezvous of a
group (R138), the barriers (15 R312–R313), the copies that gather (13 R249), the end of a thread (09 R179) and the
return of a trapped thread (20 R431). -/
namespace Sys2Proof.Machine

/-! ## Reconvergence (R128–R131) -/

/-- Address of the join point of an entry (R128). -/
def joinAddr (m : Team) (e : RsEntry) : Int := (m.bind.entryPc.toNat : Int) + 4 * e.join

/-- Releases the top entry of a team (R130): it is popped, every deeper DEPTH falls to RDEPTH, and its waiting threads
run on after the JOIN. -/
def State.releaseTop (s : State) (k : Nat) : State :=
  let m := s.team k
  match m.rstack.getLast? with
  | none => s
  | some e =>
    let d := m.rstack.length - 1
    let j := joinAddr m e
    let s := s.modTeam k (fun m => { m with rstack := m.rstack.dropLast })
    (s.threadsOf k).foldl (fun s t =>
      let x := s.thread t
      let waits := x.waitFor == .join && x.depth == d + 1 && (x.pc.toNat : Int) == j
      if waits then s.setThread t { (x.resume (x.pc + 4)) with depth := d }
      else if x.depth > d && x.tstate != .exited then s.setThread t { x with depth := d } else s) s

/-- Releases entries from the top while the top one has no pending member (R130, R131); `n` bounds the pops. -/
def State.releaseDone (s : State) (k : Nat) : Nat → State
  | 0 => s
  | n + 1 =>
    match (s.team k).rstack.getLast? with
    | some e => if e.pending = 0 then (s.releaseTop k).releaseDone k n else s
    | none => s

/-- A thread that exits is no member of its entries any more (R131). -/
def State.leaveEntries (s : State) (t : Nat) : State :=
  let k := s.teamOf t
  let d := (s.thread t).depth
  let s := s.modTeam k (fun m =>
    { m with rstack := m.rstack.mapIdx (fun i e => if i < d then { e with pending := e.pending - 1 } else e) })
  s.releaseDone k 33

/-! ## Team barriers (R312) -/

/-- Barrier `i` of a team. -/
def Team.bar (m : Team) (i : Nat) : BarState := m.bars.at' { n := 0, arr := 0, phaseOpen := false } i

/-- Threads of a team that have not exited. -/
def State.liveThreads (s : State) (k : Nat) : List Nat := (s.threadsOf k).filter s.alive

/-- Completes barrier `i` when enough threads have arrived (R312). -/
def State.barCheck (s : State) (k i : Nat) : State :=
  let b := (s.team k).bar i
  let want := if b.n = 0 then (s.liveThreads k).length else b.n
  if b.phaseOpen && b.arr ≥ want then
    let s := s.modTeam k (fun m => { m with bars := m.bars.put i { b with arr := 0, phaseOpen := false } })
    ((s.threadsOf k).filter (fun t => (s.thread t).waitFor == .bar i)).foldl (fun s t => s.endWait t 0) s
  else s

/-! ## Cluster barriers (R313) -/

/-- A value lies in [1, 2^31) modulo 2^32. -/
def ahead (x : BitVec 32) : Bool := 1 ≤ x.toNat && x.toNat < 2 ^ 31

/-- Keys of the resident teams of a cluster, in %team order. -/
def State.clusterTeams (s : State) (cl : Nat) : List Nat :=
  match s.clusters.find cl with
  | some c => c.members.map (fun m => teamKey m.core m.entry)
  | none => []

/-- A team has arrived at phase `p`: every thread of it that has not exited is ahead of it; an exited team has. -/
def State.arrivedAt (s : State) (k : Nat) (p : BitVec 32) : Bool :=
  (s.liveThreads k).all (fun t => ahead ((s.thread t).mt - p))

/-- A member of a cluster has arrived at phase `p`: resident, by its threads; away, by those it keeps; an exited team
has arrived at every phase. -/
def State.memberArrived (s : State) (m : Member) (p : BitVec 32) : Bool :=
  if m.exited then true
  else
    match m.savedTeam with
    | some _ => m.savedThreads.all (fun q => q.2.tstate == .exited || ahead (q.2.mt - p))
    | none => s.arrivedAt (teamKey m.core m.entry) p

/-- A thread waits for a phase that is complete once `c` phases are. -/
def phaseOver (c : BitVec 32) (t : Thread) : Bool :=
  match t.waitFor with
  | .cbar a => ahead (c - a)
  | _ => false

/-- Ends the waits of a member's threads on the cluster barrier whose phases are complete (R313, R311). -/
def State.releasePhase (s : State) (cl i : Nat) (m : Member) (c : BitVec 32) : State :=
  match m.savedTeam with
  | some _ =>
    (m.savedThreads.filter (fun q => phaseOver c q.2)).foldl (fun s q =>
      s.endWaitAway cl i (q.1 / 32) (q.1 % 32) q.2.waitDst 0) s
  | none =>
    if m.exited then s
    else ((s.threadsOf (teamKey m.core m.entry)).filter (fun t => phaseOver c (s.thread t))).foldl (fun s t => s.endWait t 0) s

/-- Completes phases of a cluster barrier and releases the threads whose phase is complete (R313); `n` bounds the
phases completed in one step. -/
def State.cbarLoop (s : State) (cl : Nat) : Nat → State
  | 0 => s
  | n + 1 =>
    match s.clusters.find cl with
    | none => s
    | some c =>
      if !c.members.all (·.exited) && c.members.all (fun m => s.memberArrived m c.phases) then
        let s := s.modCluster cl (fun c => { c with phases := c.phases + 1 })
        let s := c.members.zipIdx.foldl (fun s p => s.releasePhase cl p.2 p.1 (c.phases + 1)) s
        s.cbarLoop cl n
      else s

/-- Arrival counts of a member's threads that have not exited. -/
def State.memberCounts (s : State) (m : Member) : List (BitVec 32) :=
  match m.savedTeam with
  | some _ => (m.savedThreads.filter (fun q => q.2.tstate != .exited)).map (fun q => q.2.mt)
  | none => if m.exited then [] else (s.liveThreads (teamKey m.core m.entry)).map (fun t => (s.thread t).mt)

/-- Phases of a cluster barrier that some thread has arrived at and that are not complete: no more can complete. -/
def State.phasesAhead (s : State) (c : Cluster) : Nat :=
  ((c.members.flatMap s.memberCounts).map (fun m => if ahead (m - c.phases) then (m - c.phases).toNat else 0)).foldl max 0

/-- Completes the phases of a cluster barrier that are complete (R313). -/
def State.cbarCheck (s : State) (cl : Nat) : State :=
  match s.clusters.find cl with
  | none => s
  | some c => s.cbarLoop cl (s.phasesAhead c)

/-! ## Rendezvous of a group (R138) -/

/-- Makes the threads ready that wait for an open rendezvous of their group to end (R138). -/
def State.freeRdvWaiters (s : State) (g : Nat) : State :=
  (threadsOfGroup g).foldl (fun s t =>
    if (s.thread t).waitFor == .rendezvous then s.modThread t (fun x => { x with waitFor := .nothing }) else s) s

/-- Traps with GROUP_MEMBER every thread at a rendezvous that has been taken from its group, and the threads `more` that
broke it, each at the first word of its run (R138). Threads of one run share a request. -/
def State.failMembers (s : State) (g : Nat) (r : Rdv) (more : List Nat) (next : VA) : State :=
  let here := r.arrivals.map (fun a => threadKey g a.lane)
  let all := sortBy (fun a b => decide (a ≤ b)) (dedupBy id (here ++ more))
  let pcs := dedupBy (fun p : VA => p.toNat) (all.map (fun t => (s.thread t).runPc))
  pcs.foldl (fun s pc =>
    let ts := all.filter (fun t => (s.thread t).runPc == pc && ((s.thread t).waitFor != .trap && (s.thread t).waitFor != .hold))
    let first := ts.headD 0
    let m := ((r.arrivals.find? (fun a => a.lane == laneOf first)).map (·.mask)).getD r.mask
    s.trapGroup ts .groupMember pc (if ts.any (fun t => here.contains t) then r.pc + 4 else next) { info0 := m.toNat }) s

/-- Fails the open rendezvous of a group (R138). -/
def State.failRdv (s : State) (g : Nat) (more : List Nat) (next : VA) : State :=
  match (s.group g).rdv with
  | none => s
  | some r =>
    let s := s.modGroup g (fun x => { x with rdv := none })
    (s.failMembers g r more next).freeRdvWaiters g

/-- Fails the rendezvous of a quad (R138, R369). -/
def State.failQuad (s : State) (g q : Nat) (more : List Nat) (next : VA) : State :=
  match (s.group g).quads.find q with
  | none => s
  | some r => ({ s with groups := s.groups.put g { s.group g with quads := (s.group g).quads.del q } } : State).failMembers
      g r more next

/-- Fails the open copy rendezvous of a group (R248). -/
def State.failCopyRdv (s : State) (g : Nat) (more : List Nat) (next : VA) : State :=
  match (s.group g).copyRdv with
  | none => s
  | some r => (s.modGroup g (fun x => { x with copyRdv := none })).failMembers g r more next

/-! ## Copies that gather (R248, R249) -/

/-- Every group of a copy's team has supplied its slice; a group whose threads have all exited supplies an empty one
(R249). -/
def State.copyFull (s : State) (c : Copy) : Bool :=
  (s.groupsOf c.team).all (fun g =>
    c.slices.any (fun x => x.group == (s.group g).index) || (threadsOfGroup g).all (fun t => !s.alive t))

/-- Moves the copies of a team whose slices have all arrived on to their start; one with an acknowledgement barrier
raises its PENDING at that moment, and each counts as outstanding (R249, R262, R452). -/
def State.copyGather (s : State) (k : Nat) : State :=
  let full := s.copies.filter (fun c => c.team == k && c.state == .gathering && s.copyFull c)
  let s : State := { s with copies := s.copies.map (fun c => if full.any (fun x => x.id == c.id) then { c with state := .waiting } else c) }
  full.foldl (fun s c =>
    (s.modOut c.launch c.core (fun n => { n with copies := n.copies + 1 })).ackRaise c) s

/-- Forms the slice of a group whose copy rendezvous is complete, and lets its members continue (R248–R251). With all
16 places taken by other copies it stays open (R251). -/
def State.copyRdvCheck (s : State) (g : Nat) : State :=
  match (s.group g).copyRdv with
  | none => s
  | some r =>
    let live := (threadsOfGroup g).filter s.alive
    let here := fun t => r.arrivals.any (fun a => a.lane == laneOf t)
    if live.isEmpty then s.modGroup g (fun x => { x with copyRdv := none })
    else if !(live.all here) then s
    else
      let k := (s.group g).team
      let n := (s.group g).copyCount
      let core := coreOfGroup g
      let mine := s.copies.filter (fun c => c.core == core && c.state != .suspended)
      match minBy (fun a : Arrival => a.lane) r.arrivals with
      | none => s
      | some a =>
        let minor := match r.instr with
          | .cpy _ _ => 0 | .cpyg _ _ => 1 | .cpys _ _ => 2 | _ => 3
        let sl : Slice :=
          { group := (s.group g).index, minor := minor, a := a.a, b := a.b, c := a.c.extractLsb' 0 32, k := a.k }
        let before := (s.accs.filter (fun e => live.contains e.tid)).map (·.id)
        let go := fun (s : State) =>
          let s := s.modGroup g (fun x => { x with copyRdv := none, copyCount := n + 1 })
          let s := live.foldl (fun s t => (s.wftDrop t).modThread t (fun x =>
            { x with pc := r.pc + 4, runPc := r.pc + 4, waitFor := .nothing, tstate := .run })) s
          s.copyGather k
        match s.copies.find? (fun c => c.team == k && c.n == n && c.state == .gathering) with
        | some c =>
          go { s with copies := s.copies.map (fun x => if x.id == c.id then { x with slices := x.slices ++ [sl], after := x.after ++ before } else x) }
        | none =>
          if mine.length ≥ 16 then s
          else
            let place := ((List.range 16).find? (fun p => !mine.any (fun c => c.place == p))).getD 0
            let cl := (s.team k).cluster
            let c : Copy :=
              { id := s.nextId, core := core, place := place, team := k, bind := (s.team k).bind, cluster := cl, ctx := (s.team k).bind.ctx,
                launch := if (s.team k).kind == .user then some (s.team k).bind.launch else none, n := n,
                state := .gathering, was := .gathering, slices := [sl], after := before, status := 0, count := 0, slice := 0, row := 0,
                prog := 0, window := 0, index := none, entries := [], poison := false, indexBad := false,
                buf := [], held := [], acked := false }
            go { s with copies := s.copies ++ [c], nextId := s.nextId + 1 }

/-! ## The end of a team (R114, R117, R241, R453) -/

/-- A place of an engine has been freed: groups of its core that wait for one go on (R251). -/
def State.placesFreed (s : State) (core : Nat) : State :=
  ((s.groups.filter (fun p => coreOfGroup p.1 == core && p.2.copyRdv.isSome)).map (·.1)).foldl (fun s g => s.copyRdvCheck g) s

/-- Removes what a thread's wait left in monitors and tables. -/
def State.forgetWaits (s : State) (t : Nat) : State :=
  let s := s.wftDrop t
  let gone := s.monitors.filter (fun m => m.who == .thread t)
  let s := gone.foldl (fun s m => s.freeSpill m) s
  { s with monitors := s.monitors.filter (fun m => m.who != .thread t) }

/-- Frees the image of a team: its piece of the arena (R114). -/
def State.freeImage (s : State) (ctx : Nat) (base : DWord) : State :=
  let off := base.toNat - (s.ctx ctx).image.toNat
  s.modCtx ctx (fun x => { x with allocs := x.allocs.filter (fun a => a.off != off) })

/-- A copy of a cluster has not retired, or a scratch write to one of its teams is in flight (R241). -/
def State.scratchBusy (s : State) (cl : Nat) (c : Cluster) : Bool :=
  s.copies.any (fun x => x.cluster == cl) ||
  s.accs.any (fun a => a.remote && c.members.any (fun m => isSram a.pa && sramCore a.pa == m.core))

/-- A cluster whose teams have all exited is over: its scratch is freed and its launch counts it (R241, R453). -/
def State.endCluster (s : State) (cl : Nat) : State :=
  match s.clusters.find cl with
  | none => s
  | some c =>
    if c.members.all (·.exited) && !s.scratchBusy cl c then
      let s := s.modLaunch c.launch (fun l => { l with doneClusters := l.doneClusters + 1 })
      let cores := s.cores.map (fun p => (p.1, { p.2 with sramHeld := p.2.sramHeld.filter (fun h => h.cluster != cl) }))
      { s with clusters := s.clusters.del cl, cores := cores }
    else s

/-- A core's CTXS position of a context empties when no team or handler of the context is left on it (R93). -/
def State.leaveCore (s : State) (core c : Nat) : State :=
  if (s.teamsOn core).any (fun j => entryOfTeam j < 128 && (s.team j).bind.ctx == c) then s
  else s.modCore core (fun x => { x with ctxs := x.ctxs.map (fun y => if y == c then 0xFF else y) })

/-- The fill of a line that a matrix request locks and that is absent, or lacks lanes: what the array reads. -/
def State.lockLine (s : State) (g n : Nat) : State :=
  let core := coreOfGroup g
  let c := s.ctxOfGroup g
  let tag := s.lineAddr g n
  let s := if (s.line core c tag).isSome then s
    else { s.makeRoom core with lines := (s.makeRoom core).lines ++
      [({ core := core, ctx := c, tag := tag, n := n, vals := [], dirty := false, evictable := false, poison := 0, filling := false,
          used := s.clk } : RegLine)] }
  match s.line core c tag with
  | some l => s.mergeFill l
  | none => s

/-- The matrix requests of a team that has exited go on without it: they keep its units, and the lines that they lock, under
tags that are no image's (R321, R328). -/
def State.detachRequests (s : State) (k : Nat) : State :=
  let mine := s.mreqs.filter (fun q => q.team == some k)
  if mine.isEmpty then s
  else
    let gs := s.groupsOf k
    let s := mine.foldl (fun s q => q.lines.foldl (fun s p => match gs[p.1]? with
      | some g => if q.dead.getLsbD p.1 then s else s.lockLine g p.2
      | none => s) s) s
    let up := 2 ^ 60 * s.nextId
    { s with nextId := s.nextId + 1,
             lines := s.lines.map (fun l => if mine.any (fun q => q.locks l) then { l with tag := l.tag + up } else l),
             mreqs := s.mreqs.map (fun q => if q.team == some k then { q with team := none, base := q.base + up } else q) }

/-- A team whose threads have all exited frees its entry and image, and its units with its last request; its scratch is held
until its cluster is over (R114, R241, R321). A handler frees its entry alone. An instance
of the supervisor keeps its state until its context is torn down (R119). -/
def State.endTeam (s : State) (k : Nat) : State :=
  let m := s.team k
  let core := coreOfTeam k
  let gs := s.groupsOf k
  let s := gs.foldl (fun s g => s.dropGroupLines g) s
  if m.kind == .supervisor then s else
  let s := s.detachRequests k
  let s := { s with groups := gs.foldl (fun t g => t.del g) s.groups,
                    threads := (gs.flatMap threadsOfGroup).foldl (fun t x => t.del x) s.threads }
  let s := s.freeImage m.bind.ctx m.bind.imageBase
  let s := { s with teams := s.teams.del k }
  match m.kind with
  | .user =>
    let s := s.modCore core (fun c => { c with sramHeld := c.sramHeld ++
      [({ base := m.bind.scratchBase, size := m.bind.scratchSize, cluster := m.cluster, team := m.bind.team } : Held)] })
    let s := s.modCluster m.cluster (fun c => { c with members := c.members.map (fun x =>
      if x.core == core && x.entry == entryOfTeam k then { x with exited := true } else x) })
    let s := s.cbarCheck m.cluster
    let s := s.endCluster m.cluster
    s.leaveCore core m.bind.ctx
  | _ => ({ s with clusters := s.clusters.del m.cluster } : State).leaveCore core m.bind.ctx

/-- The accesses of a thread that has left go on without it: their results are discarded (R235, R446). An LDK reads on for
another thread of its team, whose k register it writes (R242). -/
def State.orphan (s : State) (t : Nat) : State :=
  if s.accs.any (fun a => a.tid == t || a.mates.contains t) then
    let heir := fun (a : Access) => match a.instr with
      | .ldk .. => (s.threadsOf (s.teamOf t)).find? (fun u => u != t && s.alive u)
      | _ => none
    { s with nextId := s.nextId + 1,
             accs := s.accs.map (fun a =>
               { a with tid := if a.tid == t then (heir a).getD ((2 ^ 51 + s.nextId) * 32 + laneOf t) else a.tid,
                        mates := a.mates.filter (· != t) }) }
  else s

/-- A trapped thread that has exited by itself is named by no request any more (R140). -/
def State.leaveRequest (s : State) (t : Nat) : State :=
  let mine := fun (r : Request) => !r.event && r.gid == gidOf t && r.lanes.getLsbD (laneOf t)
  { s with requests := (s.requests.map (fun r => if mine r then { r with lanes := r.lanes &&& ~~~(1#32 <<< laneOf t) } else r)).filter
                         (fun r => r.event || r.slot != 0 || r.lanes != 0) }

/-- Marks a thread exited and lets everything that counted on it go on: its entries, the rendezvous that name it, the
copies and barriers of its team (R131, R138, R179, R248, R249, R312, R313). -/
def State.retireThread (s : State) (t : Nat) : State :=
  let k := s.teamOf t
  let g := gidOf t
  let s := s.leaveEntries t
  let s := s.forgetWaits t
  let s := (s.leaveSet t).orphan t
  let s := s.modThread t (fun x =>
    { x with tstate := .exited, waitFor := .nothing, waitDst := 126, xop := none, inSet := none, depth := 0 })
  let s := match (s.group g).rdv with
    | some r => if r.mask.getLsbD (laneOf t) then s.failRdv g [] 0 else s
    | none => s
  let s := match (s.group g).quads.find (laneOf t / 4) with
    | some r => if r.mask.getLsbD (laneOf t) then s.failQuad g (laneOf t / 4) [] 0 else s
    | none => s
  let s := s.copyRdvCheck g
  let s := s.copyGather k
  let s := (List.range 4).foldl (fun s i => if ((s.team k).bar i).n = 0 then s.barCheck k i else s) s
  s.cbarCheck (s.team k).cluster

/-- Exit of a thread (R179), with the exit of a group's helpers when only they are left (R140), the end of its group and
of its team (R114). -/
def State.exitThread (s : State) (t : Nat) : State :=
  if !(s.alive t) then s
  else
    let g := gidOf t
    let k := s.teamOf t
    let s := s.retireThread t
    let rest := (threadsOfGroup g).filter s.alive
    let s := if !rest.isEmpty && rest.all (fun u => (s.thread u).helper) then rest.foldl (fun s u => (s.retireThread u).leaveRequest u) s
      else s
    if !(threadsOfGroup g).any s.alive then
      let s := s.dropGroupLines g
      if (s.threadsOf k).any s.alive then s else s.endTeam k
    else s

/-! ## Returning a trapped thread (R431) -/

/-- The actions of SVRET (R431). -/
inductive SvAct where
  | next | retry | exit | goto_
  deriving DecidableEq, Repr

/-- Returns one thread of a request: the way back from a trap (R431). `val` is written to a TRAP's destination by .NEXT,
`target` is the PC of .GOTO. A thread that is away exits when its team is rebound: TSTATE EXITED with a trap still noted
marks it. -/
def State.returnThread (s : State) (r : Request) (lane : Nat) (act : SvAct) (val : Word) (target : VA) : State :=
  let run := fun (s : State) (pc : VA) => s.modThreadOf r.gid lane (fun x =>
    { x with pc := pc, runPc := pc, tstate := .run, waitFor := .nothing })
  match act with
  | .next =>
    let s := (s.leaveSetOf r.gid lane).modThreadOf r.gid lane (fun x => { x with xop := none })
    let s := if r.cause == Cause.user.code && r.dst.toNat < 120 then s.writeRegOf r.gid lane r.dst.toNat val else s
    run s r.next
  | .retry =>
    match (s.threadAt r.gid lane).inSet with
    | some id =>
      let s := (run s r.pc).modThreadOf r.gid lane (fun x => { x with tstate := .parked, waitFor := .set id })
      (s.modSet id (fun y => { y with held := y.held &&& ~~~(1#32 <<< lane) })).settle id
    | none => run s r.pc
  | .exit =>
    let s := s.leaveSetOf r.gid lane
    if r.gid < 2 ^ 40 then s.exitThread (threadKey r.gid lane)
    else s.modThreadOf r.gid lane (fun x => { x with tstate := .exited, waitFor := .trap, xop := none })
  | .goto_ => run ((s.leaveSetOf r.gid lane).modThreadOf r.gid lane (fun x => { x with xop := none })) target

end Sys2Proof.Machine
end

