-- ==== Sys2Proof/Machine/Operands.lean ====
section
/-! DEFINITION. Operands and modifiers (03 R40–R54): the fields of the hint payloads, the immediates of R47, the table
of what every instruction word accepts (its operand codes, types, modifier values, hints and features), the decode
check that reads that table, and the value of an operand. -/
namespace Sys2Proof.Machine

/-! ## Fields of the hints (R47, R51, R54) -/

/-- GPRED of the run. -/
def hGpred (h : Hints) : Nat := (fld24 h 21 3).toNat
where fld24 (h : Hints) (lo len : Nat) : BitVec len := h.modWord.extractLsb' lo len
/-- GSENSE of the run. -/
def hGsense (h : Hints) : Bool := h.modWord.getLsbD 20
/-- ROUND of the run. -/
def hRound (h : Hints) : Nat := (h.modWord.extractLsb' 17 3).toNat
/-- SAT of the run. -/
def hSat (h : Hints) : Bool := h.modWord.getLsbD 16
/-- STRONG of the run. -/
def hStrong (h : Hints) : Bool := h.modWord.getLsbD 15
/-- SCOPE of the run. -/
def hScope (h : Hints) : Nat := (h.modWord.extractLsb' 12 3).toNat
/-- CACHE of the run. -/
def hCache (h : Hints) : Nat := (h.modWord.extractLsb' 10 2).toNat
/-- TYPE of the run. -/
def hType (h : Hints) : Nat := (h.modWord.extractLsb' 5 5).toNat
/-- XMOD of the run as a number. -/
def hXmod (h : Hints) : Nat := h.xmod.toNat
/-- The operating type: TYPE, or the default (R52). -/
def hTy (h : Hints) (dflt : Nat) : Nat := if hType h = 0 then dflt else hType h
/-- The scope a strong access has: SCOPE 0 means .DEV (R12). -/
def hScopeOr (h : Hints) : Nat := if hScope h = 0 then 5 else hScope h
/-- S3V of the run. -/
def hS3v (h : Hints) : Bool := (h.src.getD 0).getLsbD 23
/-- SRC3 of the run. -/
def hSrc3 (h : Hints) : BitVec 7 := (h.src.getD 0).extractLsb' 16 7
/-- KV of the run. -/
def hKv (h : Hints) : Bool := (h.src.getD 0).getLsbD 15
/-- KSEL of the run. -/
def hKsel (h : Hints) : Nat := ((h.src.getD 0).extractLsb' 9 6).toNat
/-- STALL of the run. -/
def hStall (h : Hints) : Nat := ((h.sched.getD 0).extractLsb' 20 4).toNat
/-- The yield advice of the run. -/
def hYield (h : Hints) : Bool := (h.sched.getD 0).getLsbD 19
/-- XIMM words of the run. -/
def hXimms (h : Hints) : Nat := b2n h.x1.isSome + b2n h.x2.isSome
/-- X1, or cat(X1, X2). -/
def hXcat (h : Hints) : Nat :=
  match h.x1, h.x2 with
  | some a, some b => a.toNat * 2 ^ 24 + b.toNat
  | some a, none => a.toNat
  | none, _ => 0

/-- An immediate field of `n` bits that XIMM extends, as 64 bits (R47). -/
def immField (h : Hints) (n f : Nat) : Nat := sext (24 * hXimms h + n) 64 (hXcat h * 2 ^ n + f)
/-- The displacement of an addressed instruction of majors 0x28–0x2B (R47). -/
def immDisp (h : Hints) : Nat := if hXimms h = 0 then 0 else sext (24 * hXimms h) 64 (hXcat h)

/-- How the value of code 125 is formed (R47). -/
inductive Imm where
  | int | f32 | f64 | packed
  deriving DecidableEq, Repr

/-- The value of a code-125 operand of `w` bits, or none where it traps with ILLEGAL (R47). DESIGN CHOICE: each
such operand is formed by its own row (log 85). -/
def imm125 (h : Hints) (k : Imm) (w : Nat) : Option Nat :=
  match hXimms h, k with
  | 0, _ => none
  | 1, .int => some (sext 24 w (hXcat h))
  | 1, .f32 => some (hXcat h * 2 ^ 8)
  | 1, .f64 => some (hXcat h * 2 ^ 40)
  | 1, .packed => if hXcat h < 2 ^ 16 then some (hXcat h * 2 ^ 16 + hXcat h) else none
  | _, .int => some (sext 48 w (hXcat h))
  | _, .f32 => if hXcat h < 2 ^ 32 then some (hXcat h) else none
  | _, .f64 => some (hXcat h * 2 ^ 16)
  | _, .packed => none

/-! ## Types (R52) -/

/-- Width in bits of a TYPE code (R10). -/
def tyWidth : Nat → Nat
  | 1 | 5 | 9 | 18 | 19 | 23 => 8
  | 2 | 6 | 10 | 16 | 17 => 16
  | 3 | 7 | 11 | 15 => 32
  | 4 | 8 | 12 | 14 => 64
  | 13 => 128
  | 20 | 21 => 6
  | 22 => 4
  | _ => 32
/-- A signed integer type. -/
def tySigned (t : Nat) : Bool := 1 ≤ t && t ≤ 4
/-- A floating-point type. -/
def tyFloat (t : Nat) : Bool := 14 ≤ t
/-- How a code-125 operand of a type is formed. -/
def tyImm (t : Nat) : Imm := if t = 15 then .f32 else if t = 14 then .f64 else .int

/-! ## What an instruction accepts -/

/-- The use of one operand-code field. -/
structure Use where
  code : BitVec 7
  /-- bits of its value -/
  width : Nat := 32
  /-- registers that a register code names, and the multiple its code must be -/
  regs : Nat := 1
  align : Nat := 1
  /-- codes 124–127 it takes -/
  extra : List Nat := [124, 125, 126, 127]
  imm : Imm := .int
  deriving DecidableEq, Repr

/-- An operand of a width: one register up to 32 bits, a pair, a quad (R42). -/
def useW (c : BitVec 7) (w : Nat) (k : Imm := .int) : Use :=
  let n := if w ≤ 32 then 1 else w / 32
  { code := c, width := w, regs := n, align := n, imm := k }
/-- A block of registers, with no other code. -/
def useBlock (c : BitVec 7) (n a : Nat) : Use := { code := c, width := 32 * n, regs := n, align := a, extra := [] }
/-- An operand of a width that takes the codes listed beside registers. -/
def useX (c : BitVec 7) (w : Nat) (x : List Nat) : Use := { useW c w with extra := x }

/-- What becomes of XIMM words (R48). -/
inductive Xuse where
  /-- they form code 125 -/
  | operand
  /-- they extend a field or a displacement -/
  | field
  /-- exactly one, the join offset -/
  | join
  | none
  deriving DecidableEq, Repr

/-- Which STRONG and SCOPE an instruction takes (R12). -/
inductive OrdUse where
  | none | access | nature
  deriving DecidableEq, Repr

/-- What an instruction word accepts. -/
structure Form where
  uses : List Use := []
  /-- third source: the use of SRC3, its code still to be filled in -/
  third : Option Use := Option.none
  dst : Option Use := Option.none
  /-- TYPE codes beside 0 -/
  types : List Nat := []
  /-- 0 no ROUND, 4 without .SR, 5 with it -/
  round : Nat := 0
  sat : Bool := false
  ord : OrdUse := .none
  cache : Bool := false
  xmods : List Nat := [0]
  /-- it takes a MOD at all, and a guard in it -/
  mod : Bool := true
  guard : Bool := true
  /-- it takes a base from KSEL -/
  base : Bool := false
  ximm : Xuse := .operand
  /-- features it needs, and a set of which it needs one -/
  feats : List Nat := []
  anyOf : List Nat := []
  /-- latch codes may stand in it (R56) -/
  latches : Bool := false
  /-- supervisor-only -/
  sup : Bool := false
  /-- ILLEGAL for a reason of its own -/
  bad : Bool := false
  /-- LATCH for a reason of its own -/
  latchBad : Bool := false
  deriving DecidableEq, Repr

/-- .I32 .N32 .I64 .N64. -/
def tInt : List Nat := [3, 7, 4, 8]
/-- .B32 .B64. -/
def tBits : List Nat := [11, 12]
/-- FP64 where a type is .F64 (R188). -/
def f64Feat (ts : List Nat) : List Nat := if ts.contains 14 then [1] else []
/-- Every XMOD whose bits lie in a mask. -/
def xmask (m : Nat) : List Nat := (List.range 32).filter (fun x => Nat.land x m == x)

/-- An integer row of R161 whose operands have the type's width. -/
def intRow (h : Hints) (ts : List Nat) (sat : Bool) (d : BitVec 7) (as : List (BitVec 7)) : Form :=
  let w := tyWidth (hTy h (ts.headD 3))
  { uses := as.map (useW · w), dst := some (useW d w), types := ts, sat := sat, latches := true }
/-- A shift row of R161: its count has 32 bits. -/
def shiftRow (h : Hints) (d a b : BitVec 7) : Form :=
  let w := tyWidth (hTy h 11)
  { uses := [useW a w, useW b 32], dst := some (useW d w), types := tBits, latches := true }
/-- A scalar floating row of R189 of one type. -/
def floatRow (t : Nat) (round : Nat) (sat : Bool) (d : BitVec 7) (as : List (BitVec 7)) : Form :=
  { uses := as.map (useW · (tyWidth t) (tyImm t)), dst := some (useW d (tyWidth t)), types := [t], round := round,
    sat := sat, latches := true, feats := f64Feat [t] }
/-- A packed row of R189. -/
def packedRow (round : Nat) (sat : Bool) (d a b : BitVec 7) : Form :=
  { uses := [useW a 32 .packed, useW b 32 .packed], dst := some (useW d 32), types := [16, 17], round := round, sat := sat,
    latches := true }
/-- A conversion of R197: `tgt` and `src` are the codes accepted, the default first. -/
def convRow (h : Hints) (tgt src : List Nat) (round : Nat) (sat : Bool) (d a : BitVec 7) : Form :=
  let t := hTy h (tgt.headD 15)
  let f := if hXmod h = 0 then src.headD 15 else hXmod h
  { uses := [useW a (tyWidth f) (tyImm f)], dst := some (useW d (tyWidth t)), types := tgt, xmods := 0 :: src,
    round := round, sat := sat, latches := true, feats := f64Feat [t, f] }

/-- Types of LD and ST (R227). -/
def tMem : List Nat := [7, 1, 5, 9, 18, 19, 23, 2, 6, 10, 16, 17, 3, 11, 15, 4, 8, 12, 14, 13]
/-- A WM row of R227: a load (`store` false) or a store. -/
def memRow (h : Hints) (store scratch : Bool) (data voff : BitVec 7) : Form :=
  let w := tyWidth (hTy h 7)
  let x := if w = 128 then [126, 127] else [124, 126, 127]
  let vo := useX voff 32 [124, 126]
  { uses := if store then [vo, useX data w x] else [vo], dst := if store then none else some (useW data w),
    types := tMem, ord := .access, cache := !store && !scratch, xmods := if scratch then [0] else [0, 1], ximm := .field }
/-- PREF and the maintenance instructions (R227). -/
def lineRow (voff : BitVec 7) (xs : List Nat) (fs : List Nat) : Form :=
  { uses := [useX voff 32 [124, 126]], xmods := xs, ximm := .field, feats := fs }

/-- Types of an atomic operation (R293). -/
def atomTypes (o : Nat) : List Nat :=
  if o ≤ 2 then [7, 3, 8, 4, 15, 14] else if o ≤ 5 then [7, 8, 11, 12] else if o = 6 then [7, 8, 11, 12, 15, 14] else [7, 8]
/-- XMOD values of an atomic: .SX, ORDER, and .FACQ for a compare-and-swap; an order needs STRONG (R293). -/
def atomXmods (h : Hints) (red cas : Bool) : List Nat :=
  (xmask (if cas then 15 else 7)).filter (fun x =>
    let o := bits x 0 2
    (hStrong h || (o == 0 && !bit x 3)) && !(red && (o == 1 || o == 3)))
/-- An atomic row of R293. -/
def atomRow (h : Hints) (d : Option (BitVec 7)) (a b : BitVec 7) (o : Nat) (cas : Bool) : Form :=
  let t := hTy h 7
  let w := tyWidth t
  let v := [124, 126, 127]
  { uses := [useX a 32 [126], useX b w v], third := if cas then some (useX 0 w v) else none,
    dst := d.map (useW · w), types := if cas then [7, 8, 11, 12] else atomTypes o, ord := .access,
    xmods := atomXmods h d.isNone cas, base := true, ximm := .field, feats := f64Feat [t] }
/-- A synchronisation row of R287. -/
def syncRow (d : Option Use) (us : List Use) (third : Option Use) (xs : List Nat) : Form :=
  { uses := us, third := third, dst := d, ord := .nature, xmods := xs, base := true, ximm := .field }
/-- A copy row of R246: `n` words of k block. -/
def copyRow (h : Hints) (a b : BitVec 7) (n : Nat) : Form :=
  { uses := [useBlock a 2 2, useBlock b 2 2], third := some (useX 0 32 [125, 126, 127]), guard := false, base := true,
    bad := hKsel h + n > 64 }
/-- A matrix row of R330. -/
def matrixRow (d : Option (BitVec 7)) (us : List Use) : Form :=
  { uses := us, dst := d.map (useW · 32), anyOf := [2, 3, 4] }
/-- A texture row of R372. -/
def texRow (d a b : BitVec 7) (n : Nat) (k : Imm) (third : Option Use) (xs : List Nat) : Form :=
  { uses := [useBlock a 2 2, useW b 32 k], third := third, dst := some (useBlock d n n), xmods := xs, base := true,
    feats := [7] }
/-- A system row of R428. -/
def sysRow (d : Option Use) (us : List Use) (sup : Bool) : Form := { uses := us, dst := d, sup := sup }
/-- The address operand of LAUNCH, SENDAM, RPLRUN, CSLOAD and RCCFG. -/
def useAddr (a : BitVec 7) : Use := useX a 64 [124]
/-- A status destination. -/
def dstStatus (d : BitVec 7) : Option Use := some (useW d 32)
/-- A pair destination. -/
def dstPair (d : BitVec 7) : Option Use := some (useW d 64)

/-- A source of major 0x3E: codes 0–63 name k registers, and are no operand code (R46). -/
def useK (a : BitVec 7) : List Use := if a.toNat < 64 then [] else [useX a 64 [125, 126, 127]]

/-- What each instruction word accepts, by the tables of its chapter. A step that is no instruction word accepts
nothing. -/
def formOf (h : Hints) : Instr → Form
  | .iadd d a b _ | .isub d a b _ | .imul d a b _ => intRow h tInt true d [a, b]
  | .imulh d a b _ | .imin d a b _ | .imax d a b _ => intRow h tInt false d [a, b]
  | .imad d a b _ =>
    if xmodBit h 0 then
      { uses := [useW a 32, useW b 32], third := some (useW 0 64), dst := some (useW d 64), types := [3, 7], sat := true,
        xmods := [1], latches := true }
    else { intRow h tInt true d [a, b] with third := some (useW 0 (tyWidth (hTy h 3))) }
  | .iabs d a _ => intRow h [3, 4] true d [a]
  | .isad d a b _ => { intRow h tInt true d [a, b] with third := some (useW 0 (tyWidth (hTy h 3))) }
  | .lea d a b _ =>
    { uses := [useW a 64, useW b 32], dst := some (useW d 64), types := [8], xmods := xmask 15, latches := true }
  | .iaddi d a _ =>
    let w := tyWidth (hTy h 3)
    { uses := [{ useW a w with extra := [124, 126, 127] }], dst := some (useW d w), types := tInt, sat := true,
      ximm := .field, latches := true }
  | .and d a b _ | .or d a b _ | .xor d a b _ | .andn d a b _ => intRow h tBits false d [a, b]
  | .shl d a b _ | .shr d a b _ | .sar d a b _ | .rot d a b _ => shiftRow h d a b
  | .fshf d a b _ => { intRow h [11] false d [a, b] with third := some (useW 0 32), xmods := [0, 1] }
  | .bfx d a b _ => intRow h [7, 3] false d [a, b]
  | .bfi d a b _ | .bperm d a b _ => { intRow h [11] false d [a, b] with third := some (useW 0 32) }
  | .popc d a _ | .clz d a _ | .ctz d a _ =>
    { uses := [useW a (tyWidth (hTy h 11))], dst := some (useW d 32), types := tBits, latches := true }
  | .brev d a _ => intRow h tBits false d [a]
  | .plop _ _ _ _ => { latches := true }
  | .sel d a b _ => { intRow h tBits false d [a, b] with xmods := xmask 15 }
  | .mov d a _ => intRow h [11, 12, 13] false d [a]
  | .movs d _ _ => intRow h tBits false d []
  | .isetp _ a b _ => { intRow h tInt false 126 [a, b] with dst := none }
  | .fadd d a b _ | .fsub d a b _ | .fmul d a b _ => floatRow 15 4 true d [a, b]
  | .ffma d a b _ => { floatRow 15 4 true d [a, b] with third := some (useW 0 32 .f32) }
  | .fmin d a b _ | .fmax d a b _ => floatRow 15 0 false d [a, b]
  | .fclass d a _ =>
    let t := hTy h 15
    { uses := [useW a (tyWidth t) (tyImm t)], dst := some (useW d 32), types := [15, 14, 16, 17], latches := true,
      feats := f64Feat [t] }
  | .fscale d a b _ =>
    { uses := [useW a 32 .f32, useW b 32], dst := some (useW d 32), types := [15], round := 4, sat := true, latches := true }
  | .frnd d a _ =>
    let t := hTy h 15
    { uses := [useW a (tyWidth t) (tyImm t)], dst := some (useW d (tyWidth t)), types := [15, 14], round := 4,
      latches := true, feats := f64Feat [t] }
  | .fdp2 d a b _ => { packedRow 4 true d a b with third := some (useW 0 32 .f32) }
  | .dp4a d a b _ =>
    { uses := [useW a 32, useW b 32], third := some (useW 0 32), dst := some (useW d 32), types := [3], sat := true,
      xmods := xmask 3, latches := true }
  | .hadd2 d a b _ | .hmul2 d a b _ => packedRow 4 true d a b
  | .hfma2 d a b _ => { packedRow 4 true d a b with third := some (useW 0 32 .packed) }
  | .hmax2 d a b _ => packedRow 0 false d a b
  | .fsetp _ a b _ => { floatRow 15 0 false 126 [a, b] with dst := none }
  | .dadd d a b _ | .dmul d a b _ => floatRow 14 4 true d [a, b]
  | .dfma d a b _ => { floatRow 14 4 true d [a, b] with third := some (useW 0 64 .f64) }
  | .dmin d a b _ | .dmax d a b _ => floatRow 14 0 false d [a, b]
  | .drcp d a _ | .drsq d a _ => floatRow 14 0 false d [a]
  | .dsetp _ a b _ => { floatRow 14 0 false 126 [a, b] with dst := none }
  | .fsqrt d a _ => floatRow 15 4 false d [a]
  | .frcp d a _ | .frsq d a _ | .fex2 d a _ | .flg2 d a _ | .fsin d a _ | .fcos d a _ | .ftanh d a _ =>
    floatRow 15 0 false d [a]
  | .f2i d a _ => convRow h [3, 1, 2, 4, 5, 6, 7, 8] [15, 16, 17, 14] 4 true d a
  | .i2f d a _ => convRow h [15, 16, 17, 14] [3, 1, 2, 4, 5, 6, 7, 8] 5 true d a
  | .f2f d a _ =>
    convRow h [15, 16, 17, 19, 18, 20, 21, 22, 23] [15, 16, 17, 19, 18, 20, 21, 22, 23] 5 true d a
  | .fpack d a b _ =>
    let base : Form := { dst := some (useW d 32), types := [18, 19, 20, 21, 22], round := 5, sat := true, xmods := [0, 1],
                         latches := true }
    if xmodBit h 0 then { base with uses := [useW a 32 .f32], bad := hType h == 0 || b != 0 }
    else { base with uses := [useW a 32 .f32, useW b 32 .f32], third := some (useW 0 32), bad := hType h == 0 }
  | .d2f d a _ => { convRow h [15, 16, 17] [14] 5 true d a with feats := [1] }
  | .f2d d a _ => { convRow h [14] [15, 16, 17, 19, 18, 20, 21, 22, 23] 0 false d a with feats := [1] }
  | .ld d _ o _ => memRow h false false d o
  | .st d _ o _ => memRow h true false d o
  | .lds d _ o _ => memRow h false true d o
  | .sts d _ o _ => memRow h true true d o
  | .ldk _ _ _ => { types := [12, 7, 3], ord := .access, cache := true, ximm := .field }
  | .pref _ o _ => lineRow o [0, 1, 2] []
  | .cflush _ o _ | .cinv _ o _ => lineRow o [0] []
  | .persist _ o _ => lineRow o [0] [12]
  | .atom d a b o | .atoms d a b o => atomRow h (some d) a b o.toNat false
  | .red a b o | .reds a b o => atomRow h none a b o.toNat false
  | .atomcas d a b | .atomscas d a b => atomRow h (some d) a b 0 true
  | .waitc d a b _ =>
    { uses := [useX a 32 [126], useX b (tyWidth (hTy h 7)) [124, 126, 127]], dst := dstStatus d, types := [7, 8],
      ord := .nature, xmods := xmask 31, base := true, ximm := .field }
  | .wdecl d a b _ =>
    { uses := [useX a 32 [126], useX b 32 [124, 126, 127]], dst := dstStatus d, xmods := [0, 4], base := true,
      ximm := .field }
  | .fence => { ord := .nature, xmods := [0, 1, 2], ximm := .none }
  | .bind d a b _ =>
    syncRow (dstStatus d) [useX a 32 [126], useBlock b 2 2] (some (useX 0 32 [126, 127])) [0]
  | .unbind d a b _ => syncRow (dstStatus d) [useX a 32 [126], { useBlock b 2 2 with extra := [126] }] none [0]
  | .acq d a _ => syncRow (dstPair d) [useX a 32 [126]] none [0, 1]
  | .rel a b => syncRow none [useX a 32 [126], { useBlock b 2 2 with extra := [126, 127] }] none [0, 1]
  | .bar d a _ => { uses := [useW a 32], dst := dstStatus d, xmods := [0, 1, 2, 3] }
  | .cbarArv d _ => { dst := dstStatus d, ximm := .none }
  | .cbarWait d a _ => { uses := [useW a 32], dst := dstStatus d }
  | .cpy a b => copyRow h a b 3
  | .cpyg a b | .cpys a b => copyRow h a b 5
  | .cpym a b => copyRow h a b 4
  | .tbarInit a b => { uses := [useX a 32 [124, 125, 126], useW b 32] }
  | .tbarExp a b => { uses := [useX a 32 [124, 125, 126], useX b 64 [124, 125]], xmods := [0, 1] }
  | .tbarAck a => { uses := [useX a 32 [124, 125, 126]] }
  | .tbarWait d a b _ => { uses := [useX a 32 [124, 125, 126], useW b 32], dst := dstStatus d }
  | .tcfg d a _ | .mma d a _ | .tact d a _ => matrixRow (some d) [useX a 32 [124, 125, 126]]
  | .tzero d a _ | .twait d a _ => matrixRow (some d) [useW a 32]
  | .tld d a b _ =>
    { matrixRow (some d) [useX a 32 [124, 125, 126], useX b 32 [124, 125, 126]] with
      types := [11, 16, 17], round := 5, sat := true }
  | .tst a b =>
    { matrixRow none [useX a 32 [124, 125, 126], useX b 32 [124, 125, 126]] with third := some (useW 0 32) }
  | .bxu d a b =>
    { uses := [useBlock a 6 2, if xmodBit h 0 then useBlock b 3 1 else useBlock b 6 2], dst := some (useBlock d 6 2),
      xmods := [0, 1], feats := [5] }
  | .bsah d a b => { uses := [useBlock a 6 2, useW b 32], dst := some (useBlock d 1 1), feats := [5] }
  | .npack d a b =>
    if xmodBit h 0 then { uses := [useBlock a 6 2], dst := some (useBlock d 1 1), xmods := [1], feats := [5], bad := b != 0 }
    else { uses := [useBlock a 6 2, useBlock b 4 4], dst := some (useBlock d 2 2), feats := [5] }
  | .trace d a => { uses := [useBlock a 12 2], dst := some (useBlock d 8 2), base := true, ximm := .none, feats := [5] }
  | .beam d a _ | .cov d a _ => { uses := [useX a 32 [124, 125, 126]], dst := dstStatus d, feats := [6] }
  | .tex d a b =>
    texRow d a b 4 .f32 (if bits (hXmod h) 0 2 = 2 then some (useBlock 0 4 4) else none) [0, 1, 2, 4, 5, 6]
  | .texg d a b => texRow d a b 4 .int none (xmask 7)
  | .texq d a b => texRow d a b 2 (if hXmod h = 1 then .f32 else .int) none [0, 1, 2]
  | .qrc d a =>
    { uses := [useBlock a 10 2], third := if xmodBit h 0 then some (useBlock 0 3 1) else none,
      dst := some (useBlock d 4 4), xmods := [0, 1], ximm := .none, feats := [8] }
  | .rccfgLoad d a _ => { uses := [useAddr a], dst := dstStatus d, xmods := [0], feats := [8] }
  | .rccfgSave d a _ => { uses := [useAddr a], dst := dstStatus d, xmods := [1], feats := [8] }
  | .rccfgRelease d a _ => { uses := [useX a 64 [124, 126]], dst := dstStatus d, xmods := [2], feats := [8] }
  | .rcgen d _ => { dst := dstPair d, xmods := [0, 1], ximm := .none, feats := [8] }
  | .bra _ _ _ _ => { guard := false, ximm := .none }
  | .braD _ _ _ _ => { guard := false, xmods := [1], ximm := .join }
  | .join => { mod := false, ximm := .none }
  | .call d a _ =>
    { uses := [if xmodBit h 0 then useX a 64 [125] else useAddr a], dst := dstPair d, xmods := [0, 1],
      bad := xmodBit h 0 && a != 125#7 }
  | .ret a | .brx a => { uses := [useAddr a], ximm := .none }
  | .exit => { ximm := .none }
  | .exitH => { xmods := [1], ximm := .none }
  | .yield a => { uses := [useW a 32] }
  | .nop => { ximm := .none }
  | .trap d a b _ => sysRow (dstStatus d) [{ useBlock a 8 1 with extra := [126] }, useW b 32] false
  | .svret d a b _ =>
    { sysRow (dstStatus d) [useW a 32, useW b 32] true with
      third := if hXmod h = 3 then some (useW 0 64) else none, xmods := xmask 3 }
  | .bpt b => sysRow none [useW b 32] false
  | .launch d a _ => sysRow (dstStatus d) [useAddr a] false
  | .sendam d a b _ =>
    { sysRow (dstStatus d) [useAddr a, { useBlock b 16 4 with extra := [126] }] false with feats := [10] }
  | .csrr d a => sysRow (dstPair d) [useW a 32] false
  | .csrw a b => sysRow none [useW a 32, useX b 64 [124, 126, 127]] false
  | .rplget d a => sysRow (dstPair d) [useW a 32] true
  | .rplrun d a _ => sysRow (dstStatus d) [useAddr a] true
  | .csload d a _ => { sysRow (dstStatus d) [useAddr a] true with feats := [9] }
  | .csloadClear d _ => { sysRow (dstStatus d) [] true with xmods := [1], feats := [9] }
  | .vote d a _ _ _ => { uses := [useW a 32], dst := dstStatus d, xmods := xmask 3 }
  | .matchVal d a b _ =>
    { uses := [useW a 32, useW b (tyWidth (hTy h 11))], dst := dstStatus d, types := tBits, xmods := [0, 1] }
  | .shfl d a b _ =>
    let w := tyWidth (hTy h 11)
    { uses := [useW a 32, useW b w], third := some (useW 0 32), dst := some (useW d w), types := tBits, xmods := xmask 3 }
  | .gred d a b _ =>
    let arith := hXmod h ≤ 2
    let t := hTy h (if arith then 3 else 11)
    { uses := [useW a 32, useW b (tyWidth t) (tyImm t)], dst := some (useW d (tyWidth t)),
      types := if arith then [3, 7, 4, 8, 15, 14] else tBits, xmods := [0, 1, 2, 3, 4, 5], feats := f64Feat [t] }
  | .elect d a _ => { uses := [useW a 32], dst := dstStatus d }
  | .xop _ _ _ _ _ _ => { feats := [9] }
  | .kmov d a => { uses := useK a, latchBad := isLatch d }
  | .kadd d a b | .kshl d a b | .kand d a b => { uses := useK a ++ useK b, latchBad := isLatch d }
  | .kaddi d a _ => { uses := useK a, ximm := .field, latchBad := isLatch d }
  | .kfromv d a =>
    let t := hTy h 7
    { uses := [useW a (tyWidth t)], types := [7, 3, 12], latches := true,
      bad := a == 124#7 && d.toNat == hKsel h, latchBad := isLatch d }
  | _ => {}

/-! ## The decode check over the table (R48, R51–R54, R58) -/

/-- The uses of a run: those of the word and the third source. -/
def usesOf (h : Hints) (f : Form) : List Use :=
  match f.third with
  | some u => f.uses ++ [{ u with code := hSrc3 h }]
  | none => f.uses

/-- An operand code is admitted: check 2 passes over a latch code (R58), except where a latch holds too little (R42). -/
def useOk (h : Hints) (regs : Nat) (latches : Bool) (u : Use) : Bool :=
  if u.code.toNat < 120 then u.code.toNat % u.align == 0 && u.code.toNat + u.regs ≤ regs
  else if isLatch u.code then !latches || u.regs ≤ 2
  else u.extra.contains u.code.toNat && (u.code != 125#7 || (imm125 h u.imm u.width).isSome)

/-- A destination is admitted; code 126 writes nothing (R43). -/
def dstOk (regs : Nat) (latches : Bool) (u : Use) : Bool :=
  if u.code.toNat < 120 then u.code.toNat % u.align == 0 && u.code.toNat + u.regs ≤ regs
  else if isLatch u.code then !latches || u.regs ≤ 2
  else true

/-- The MOD of a run is one that its instruction takes (R51, R52); .REPL goes with weak accesses alone (R239). -/
def modOk (h : Hints) (f : Form) : Bool :=
  !h.bad &&
  (h.mod.isNone ||
    (f.mod && (f.guard || (hGpred h == 7 && !hGsense h)) &&
      (hRound h == 0 || (hRound h ≤ 3 && f.round ≥ 4) || (hRound h == 4 && f.round == 5)) &&
      (!hSat h || f.sat) && (hCache h == 0 || (f.cache && !hStrong h)) &&
      (match f.ord with
        | .none => !hStrong h && hScope h == 0
        | .access => hStrong h || hScope h == 0
        | .nature => !hStrong h) &&
      (hType h == 0 || f.types.contains (hType h)))) && f.xmods.contains (hXmod h)

/-- The hints of a run that its instruction takes (R48, R51, R52, R54). -/
def hintsOk (h : Hints) (f : Form) : Bool :=
  let us := usesOf h f
  let reads124 := us.any (fun u => u.code == 124#7)
  let reads125 := us.any (fun u => u.code == 125#7)
  modOk h f &&
  -- SRC
  (hS3v h == f.third.isSome) && (hKv h == (f.base || reads124)) &&
  -- XIMM
  (match f.ximm with
    | .operand => decide (hXimms h > 0) == reads125
    | .field => true
    | .join => hXimms h == 1
    | .none => hXimms h == 0)

/-- Features a run needs exist in the context's session (R23). -/
def State.featsOk (s : State) (c : Nat) (h : Hints) (f : Form) : Bool :=
  f.feats.all (s.feature c) && (f.anyOf.isEmpty || f.anyOf.any (s.feature c)) &&
    (hRound h != 4 || s.feature c 13)

/-- Checks 1 and 2 of R58 for a thread whose team has `regs` registers. -/
def State.formOk (s : State) (c regs : Nat) (h : Hints) (f : Form) : Bool :=
  !f.bad && hintsOk h f && s.featsOk c h f && (usesOf h f).all (useOk h regs f.latches) &&
    (match f.dst with
      | some d => dstOk regs f.latches d
      | none => true)

/-- A latch code stands where R56 forbids it: check 3 of R58. -/
def formLatch (h : Hints) (f : Form) : Bool :=
  f.latchBad || !f.latches && ((usesOf h f).any (fun u => isLatch u.code) || (match f.dst with
    | some d => isLatch d.code
    | none => false))

/-! ## Operand values (R41, R42) -/

/-- Latch `j` of a thread. -/
def Thread.latchVal (t : Thread) (j : Nat) : DWord := t.latch.at' 0 j

/-- The value of an operand for thread `t`, as a number of `u.width` bits (R41, R42). DESIGN CHOICE: code 124
zero-extends at 128 bits (log 86). -/
def State.operand (s : State) (h : Hints) (t : Nat) (u : Use) : Nat :=
  let n := u.code.toNat
  let v := if n < 120 then
      (((s.readRegs t n u.regs).mapIdx (fun i w => w.toNat * 2 ^ (32 * i))).foldl (· + ·) 0)
    else if n < 124 then ((s.thread t).latchVal (n - 120)).toNat
    else if n = 124 then (s.kreg t (hKsel h)).toNat
    else if n = 125 then (imm125 h u.imm u.width).getD 0
    else if n = 126 then 0
    else 2 ^ u.width - 1
  v % 2 ^ u.width

/-- Values of every use of a run for thread `t`, in order, the third source last. -/
def State.operands (s : State) (h : Hints) (t : Nat) (f : Form) : List Nat := (usesOf h f).map (s.operand h t)

/-- Registers a run reads. -/
def regsRead (h : Hints) (f : Form) : List Nat :=
  (usesOf h f).flatMap (fun u => if u.code.toNat < 120 then (List.range u.regs).map (u.code.toNat + ·) else [])

/-- Registers a run writes. -/
def regsWritten (f : Form) : List Nat :=
  match f.dst with
  | some u => if u.code.toNat < 120 then (List.range u.regs).map (u.code.toNat + ·) else []
  | none => []

/-- Words of a number, lowest first. -/
def wordsOf (n x : Nat) : List Word := (List.range n).map (fun i => BitVec.ofNat 32 (x / 2 ^ (32 * i)))

/-- Writes a result of `w` bits to a destination: registers, a latch, whose upper half a narrow result zeroes, or
nothing (R42, R43). -/
def State.writeDst (s : State) (t : Nat) (d : BitVec 7) (w x : Nat) : State :=
  let n := if w ≤ 32 then 1 else w / 32
  let x := x % 2 ^ w
  if 2 ^ 40 ≤ gidOf t then s.writeAway t d w x
  else if d.toNat < 120 then s.writeRegs t d.toNat (wordsOf n x)
  else if isLatch d then s.modThread t (fun y => { y with latch := y.latch.put (d.toNat - 120) (BitVec.ofNat 64 x) })
  else s

end Sys2Proof.Machine
end

