-- ==== Sys2Proof/Machine/Flags.lean ====
section
/-! DEFINITION. The conditions of floating-point (10 R200, R201) and every delivery that raises them: rounding to a
format with overflow and saturation (08 R151, R153), integers (R154), block scales (R155), comparisons (03 R61). -/
namespace Sys2Proof.Machine

/-- IV, DZ, OF, UF, NX in the bits of CTX_FPSTAT (R201). -/
def cIV : BitVec 5 := 16
/-- Division by zero. -/
def cDZ : BitVec 5 := 8
/-- Overflow. -/
def cOF : BitVec 5 := 4
/-- Underflow. -/
def cUF : BitVec 5 := 2
/-- Inexact. -/
def cNX : BitVec 5 := 1
/-- A condition, when it arises. -/
def cIf (b : Bool) (c : BitVec 5) : BitVec 5 := if b then c else 0

/-- Conditions that a thread raises reach its launch, whose completion merges them, or its context at once when it has
no launch (R201). -/
def State.record (s : State) (t : Nat) (c : BitVec 5) : State :=
  if c = 0 then s
  else
    match s.launchOf t with
    | some q => s.modLaunch q (fun l => { l with conds := l.conds ||| c })
    | none => s.modCtx (s.ctxOf t) (fun x => { x with fpstat := x.fpstat ||| c })

/-- Conditions that a unit raises for a launch, or for a context where there is none (R201). -/
def State.recordFor (s : State) (q : Option Nat) (ctx : Nat) (c : BitVec 5) : State :=
  if c = 0 then s
  else
    match q with
    | some q => s.modLaunch q (fun l => { l with conds := l.conds ||| c })
    | none => s.modCtx ctx (fun x => { x with fpstat := x.fpstat ||| c })

/-- How a result is delivered: rounding mode, saturation, draw. -/
structure Deliver where
  mode : Nat := 0
  sat : Bool := false
  draw : Nat := 0
  deriving DecidableEq, Repr

/-- Delivers an exact value in a format (R151, R153) with the conditions of R200. `conv` says that x is the source of a
conversion, for the IV that a target without an encoding raises; a NaN that arises from operands is recorded by its
instruction. -/
def deliver (f : Fmt) (d : Deliver) (conv : Bool) (x : Num) : Nat × BitVec 5 :=
  match x with
  | .nan _ => (f.nanCode, cIf (conv && f.sp == .none) cIV)
  | .inf s =>
    match f.sp with
    | .ieee => (f.withSign s (if d.sat then f.maxCode else f.infCode), 0)
    | .nanOnly => (if d.sat then f.withSign s f.maxCode else f.nanCode, cIf conv cIV)
    | .none => (f.withSign s f.maxCode, cIf conv cIV)
  | .fin s n e =>
    let r := roundMag f d.mode d.draw s n e
    if r.code > f.maxCode then
      let max := d.sat || f.sp == .none || overflowMax d.mode s
      if max then (f.withSign s f.maxCode, cOF ||| cNX)
      else if f.sp == .ieee then (f.withSign s f.infCode, cOF ||| cNX)
      else (f.nanCode, cOF ||| cIV)
    else
      let small := decide (n * 2 ^ (f.bias - 1) < e)
      (f.withSign s r.code, cIf r.inexact cNX ||| cIf (small && r.inexact) cUF)

/-- A signalling NaN among the operands (R200). -/
def sigNan (l : List Num) : BitVec 5 := cIf (l.any (·.isSnan)) cIV

/-- The result of an arithmetic operation (R190): the exact value `x` of operands `l`, delivered; a NaN that arises
from operands that are none records IV. -/
def arith (f : Fmt) (d : Deliver) (l : List Num) (x : Num) : Nat × BitVec 5 :=
  let fresh := x.isNan && !l.any (·.isNan)
  let (c, k) := deliver f d false x
  (c, k ||| sigNan l ||| cIf fresh cIV)

/-- FMIN and FMAX over two encodings (R191): an operand unchanged, or the canonical NaN. -/
def minMax (f : Fmt) (max : Bool) (a b : Nat) : Nat × BitVec 5 :=
  let x := f.read a
  let y := f.read b
  let c := if x.isNan && y.isNan then f.nanCode
    else if x.isNan then b else if y.isNan then a
    else if max then (if x.lt y then b else a) else (if y.lt x then b else a)
  (c, sigNan [x, y])

/-- A floating condition (R61, R195). -/
def fcond (cc : Nat) (a b : Num) : Bool :=
  let un := a.isNan || b.isNan
  let lt := a.lt b && !a.eq b
  let gt := b.lt a && !a.eq b
  let eq := a.eq b
  match cc with
  | 0 => !un && eq
  | 1 => !un && !eq
  | 2 => !un && lt
  | 3 => !un && (lt || eq)
  | 4 => !un && gt
  | 5 => !un && (gt || eq)
  | 6 => un || eq
  | 7 => un || !eq
  | 8 => un || lt
  | 9 => un || lt || eq
  | 10 => un || gt
  | 11 => un || gt || eq
  | 12 => !un
  | _ => un

/-- An integer condition (R61, R167). -/
def icond (cc : Nat) (a b : Int) : Bool :=
  match cc with
  | 0 => decide (a = b)
  | 1 => decide (a ≠ b)
  | 2 => decide (a < b)
  | 3 => decide (a ≤ b)
  | 4 => decide (b < a)
  | _ => decide (b ≤ a)

/-! ## Integers (R143, R144, R154) -/

/-- The value of `n` bits under an integer type (R143, R160). -/
def intVal (ty n x : Nat) : Int := if tySigned ty then signedOf n x else (x % 2 ^ n : Nat)
/-- Least value of an integer type. -/
def intMin (ty n : Nat) : Int := if tySigned ty then -(2 ^ (n - 1) : Nat) else 0
/-- Greatest value of an integer type. -/
def intMax (ty n : Nat) : Int := if tySigned ty then (2 ^ (n - 1) : Nat) - 1 else (2 ^ n : Nat) - 1
/-- A value clamped to an integer type. -/
def clampInt (ty n : Nat) (x : Int) : Int := max (intMin ty n) (min (intMax ty n) x)
/-- Result(x) (R144, R162). -/
def intResult (ty n : Nat) (sat : Bool) (x : Int) : Nat := wrapInt n (if sat then clampInt ty n x else x)

/-- Conversion of a value to an integer type, with the draw that .SR takes (R151, R153, R154, R200). -/
def toInt (ty mode draw : Nat) (x : Num) : Nat × BitVec 5 :=
  let n := tyWidth ty
  match x with
  | .nan _ => (0, cIV)
  | .inf s => (wrapInt n (if s then intMin ty n else intMax ty n), cIV)
  | .fin s a d =>
    let (m, inexact) := roundInt mode draw s a d
    let v : Int := if s then -(m : Int) else m
    let c := clampInt ty n v
    (wrapInt n c, if c = v then cIf inexact cNX else cIV)

/-! ## Block scales (R149, R155) -/

/-- The value of an .E8M0 byte (R149). -/
def readE8m0 (x : Nat) : Num :=
  let e := x % 256
  if e = 255 then .nan false
  else if e ≥ 127 then .fin false (2 ^ (e - 127)) 1 else .fin false 1 (2 ^ (127 - e))

/-- Conversion to .E8M0 (R155, R200). -/
def toE8m0 (d : Deliver) (x : Num) : Nat × BitVec 5 :=
  match x with
  | .nan _ => (255, cIV)
  | .inf _ => (255, cIV)
  | .fin s n e =>
    if s || n = 0 then (255, cIV)
    else if n * 2 ^ 127 < e then (0, cUF ||| cNX)
    else
      let k := Num.log2Floor n e
      let (a, b) := if k ≥ 0 then (n, e * 2 ^ k.toNat) else (n * 2 ^ (-k).toNat, e)
      let code := (k + 127).toNat
      let r := a - b
      let up := if r = 0 then false
        else match d.mode with
          | 0 => decide (b < 2 * r) || (2 * r == b && code % 2 == 1)
          | 3 => true
          | 4 => decide (d.draw < r * 2 ^ 32 / b)
          | _ => false
      let c := if up then code + 1 else code
      if c > 254 then (if d.sat then (254, cOF ||| cNX) else (255, cOF ||| cIV))
      else (c, cIf (r != 0) cNX)

end Sys2Proof.Machine
end

