-- ==== Sys2Proof/Machine/Issue.lean ====
section
/-! DEFINITION. Issuing a word (03 R48–R58; 07 R123–R137; 20 R413): the frame that every instruction's meaning is run
in. It makes the decode checks for the bundle in hand, traps the threads that fail them, evaluates the guard, advances
the bundle, runs the instruction for the threads that execute it, and keeps the latch counts. -/
namespace Sys2Proof.Machine

/-! ## The word in hand -/

/-- Word of a core's instruction buffer at a virtual address of a fetch context, if its line is there (R124). -/
def State.ibufWord (s : State) (core c va : Nat) : Option Word :=
  match (s.core core).ibuf.find? (fun l => l.ctx == c && l.va == va / 64) with
  | some l => l.words.bind (fun ws => ws[va / 4 % 16]?)
  | none => none

/-- Context of a bundle. -/
def State.bundleCtx (s : State) (b : Bundle) : Nat :=
  match b.threads with
  | t :: _ => s.ctxOf t
  | [] => 0

/-- Fetch context of a thread: its context, and 64 more with a supervisor's rights (R208). -/
def State.fetchCtx (s : State) (t : Nat) : Nat := if s.isSup t then s.ctxOf t + 64 else s.ctxOf t

/-- Fetch context of a bundle. -/
def State.bundleFetch (s : State) (b : Bundle) : Nat :=
  match b.threads with
  | t :: _ => s.fetchCtx t
  | [] => 0

/-- The word that a bundle comes to, if its line is in the buffer. -/
def State.wordAt (s : State) (b : Bundle) : Option Word := s.ibufWord b.core (s.bundleFetch b) b.pc.toNat

/-- The instruction word of a bundle, zero when its line has left the buffer. -/
def State.bundleWord (s : State) (b : Bundle) : Word := (s.wordAt b).getD 0

/-- Major opcode of an instruction (R39). -/
def majorOf (i : Instr) : Nat := ((encode i).extractLsb' 26 6).toNat

/-! ## The binding of an XOP (R391, R396) -/

/-- Index of an XOP word (R400). -/
def xopIndex (i : Instr) : Option Nat :=
  match i with
  | .xop j _ _ _ _ m => some (16 * j.toNat + m.toNat)
  | _ => none

/-- An operand field of a bound XOP (R396). -/
def xopUse (c : BitVec 7) (u : FieldUse) : Use :=
  { code := c, width := 64, regs := u.top + 1, align := 1, extra := if u.off > 0 then [] else [124, 125, 126, 127] }
/-- The parity that .W64 accesses ask of a register code. -/
def parityBad (c : BitVec 7) (u : FieldUse) : Bool :=
  match u.parity with
  | some p => decide (c.toNat < 120) && c.toNat % 2 != p
  | none => false
/-- What a bound XOP accepts (R396). -/
def xopForm (h : Hints) (k : KBind) (d a b : BitVec 7) : Form :=
  let used := fun (u : FieldUse) => u.reads || u.writes
  let idle := fun (u : FieldUse) (c : BitVec 7) => !used u && !isLatch c
  { uses := (if idle k.a a then [] else [xopUse a k.a]) ++ (if idle k.b b then [] else [xopUse b k.b]) ++
      (if k.d.reads then [{ xopUse d k.d with extra := [126] }] else []),
    third := if k.c.reads then some (xopUse 0 k.c) else none,
    dst := if idle k.d d then none else some { xopUse d k.d with extra := [] }, feats := [9],
    bad := (idle k.d d && d != 0) || (idle k.a a && a != 0) || (idle k.b b && b != 0) || parityBad d k.d ||
      parityBad a k.a || parityBad b k.b || parityBad (hSrc3 h) k.c || (k.d.off > 0 && d == 126#7) }

/-- What an XOP without a binding is judged by before XOP_UNBOUND: its hints against the codes in its fields, and latch
codes (R56, R58). It reads nothing. -/
def xopUnbound (h : Hints) (d a b : BitVec 7) : Form :=
  let u := fun (c : BitVec 7) => ({ code := c, width := 64, regs := 0 } : Use)
  { uses := [u a, u b], third := if hS3v h then some (u 0) else none, dst := some (u d), feats := [9] }

/-- What the word of a bundle accepts, XOP by its binding. -/
def State.formAt (s : State) (c : Nat) (h : Hints) (i : Instr) : Form :=
  match i with
  | .xop _ d a b _ _ =>
    match (s.ctx c).kBinds.find ((xopIndex i).getD 0) with
    | some k => xopForm h k d a b
    | none => xopUnbound h d a b
  | _ => formOf h i

/-! ## Decode checks (R58) -/

/-- Latches that a run reads. -/
def latchReads (h : Hints) (f : Form) : List Nat :=
  (usesOf h f).filterMap (fun u => if isLatch u.code then some (u.code.toNat - 120) else none)
/-- Latch that a run writes. -/
def latchWrite (f : Form) : Option Nat :=
  match f.dst with
  | some u => if isLatch u.code then some (u.code.toNat - 120) else none
  | none => none
/-- Latch count of a bundle. -/
def Bundle.l (b : Bundle) (j : Nat) : Nat := if j = 0 then b.l0 else if j = 1 then b.l1 else if j = 2 then b.l2 else b.l3

/-- The set that thread `t` replays: a thread that issues and that a set lists has been re-armed (R413). -/
def State.replaying (s : State) (t : Nat) : Option RSet := (s.thread t).inSet.bind s.setOf

/-- A thread that replays from its record, and reads no source register (R413); a WHOLE set's reads them afresh
(R417). -/
def State.frozen (s : State) (t : Nat) : Bool :=
  match s.replaying t with
  | some x => x.unit != .whole
  | none => false

/-- The first decode check of R58 that an instruction fails for a thread, and R413's check of the recorded word. -/
def State.decodeFail (s : State) (b : Bundle) (i : Instr) (t : Nat) : Option Cause :=
  let c := s.ctxOf t
  let f := s.formAt c b.hints i
  let unbound := match xopIndex i with
    | some n => ((s.ctx c).kBinds.find n).isNone
    | none => false
  let hintBad := if unbound then !hintsOk b.hints f || !s.featsOk c b.hints f else !s.formOk c (s.regsOf (gidOf t)) b.hints f
  let other := match s.replaying t with
    | some x => x.word != s.bundleWord b
    | none => false
  if hintBad || other then some .illegal
  else if formLatch b.hints f || (latchReads b.hints f).any (fun j => b.l j == 0) then some .latch
  else if f.sup && !s.isSup t then some .priv
  else if unbound then some .xopUnbound
  else none

/-! ## Traps of threads that may stand in a set -/

/-- Threads that trap inside a latch window leave it with their latch values written to the image (R134). -/
def State.leaveWindow (s : State) (b : Bundle) (ts : List Nat) : State :=
  if b.l0 = 0 && b.l1 = 0 && b.l2 = 0 && b.l3 = 0 then s else ts.foldl (fun s t => s.saveLatches t) s

/-- Traps threads at the first word of the run in hand; one that a set lists stays in it, held (R411, R413). -/
def State.trapAt (s : State) (b : Bundle) (ts : List Nat) (cause : Cause) (info : Nat → TrapInfo) : State :=
  (s.leaveWindow b ts).trapIn ts cause b.runPc (b.pc + 4) info

/-- Takes the decode traps of a word: threads of one cause share their requests (R426). -/
def State.decodeTraps (s : State) (b : Bundle) (fails : List (Nat × Cause)) : State :=
  [Cause.illegal, .latch, .priv, .xopUnbound].foldl (fun s c =>
    s.trapAt b ((fails.filter (fun p => p.2 == c)).map (·.1)) c (fun _ => { info0 := (s.bundleWord b).toNat })) s

/-! ## The guard, and the end of an issue -/

/-- The guard of a run for a thread (R53); a replaying thread's is not evaluated again (R413). -/
def State.guardOn (s : State) (h : Hints) (t : Nat) : Bool :=
  (s.replaying t).isSome || (((s.thread t).pred (hGpred h)) != hGsense h)

/-- Threads of a bundle that have issued stand at the word after the instruction, with their stamp and the advice of
SCHED (R54, R124). -/
def State.advance (s : State) (b : Bundle) (ts : List Nat) : State :=
  ts.foldl (fun s t => s.modThread t (fun x =>
    { x with pc := b.pc + 4, runPc := b.pc + 4, age := s.clk, stallTill := if hStall b.hints = 0 then 0 else s.clk + hStall b.hints,
             yields := hYield b.hints })) s

/-- Puts issued threads back at their run's first word, under suspension (R136, R137). -/
def State.suspendAt (s : State) (b : Bundle) (t : Nat) (w : WaitFor) : State :=
  s.modThread t (fun x => { x with pc := b.runPc, runPc := b.runPc, waitFor := w })

/-- Latch counts after an issue (R132), and the bundle held while one is not zero (R134). -/
def State.keepLatches (s : State) (b : Bundle) (i : Instr) (f : Form) (ts : List Nat) : State :=
  let clear := decide (0x20 ≤ majorOf i) && decide (majorOf i ≤ 0x3D)
  let w := latchWrite f
  let n := fun j => if clear then 0 else if w = some j then 3 else b.l j - 1
  if (n 0 = 0 && n 1 = 0 && n 2 = 0 && n 3 = 0) || ts.isEmpty then s
  else
    { s with held := s.held ++ [{ b with threads := ts, runPc := b.pc + 4, pc := b.pc + 4, hints := Hints.none,
                                         l0 := n 0, l1 := n 1, l2 := n 2, l3 := n 3 }] }

/-- Instructions that are suppressed for a helper (R141). -/
def suppressedInHelpers : Instr → Bool
  | .st .. | .sts .. | .atom .. | .atomcas .. | .red .. | .atoms .. | .atomscas .. | .reds .. | .persist .. | .trace .. | .beam ..
  | .cov .. | .tcfg .. | .tzero .. | .tld .. | .tst .. | .mma .. | .tact .. | .launch .. | .sendam .. => true
  | _ => false

/-- Threads of a list that read a poisoned register at this word (R116); a replaying thread reads none (R413), and a helper
for which the instruction is suppressed takes no trap but a decode trap (R141). -/
def State.poisonedReaders (s : State) (b : Bundle) (i : Instr) (f : Form) (ts : List Nat) : List Nat :=
  ts.filter (fun t => !s.frozen t && !(suppressedInHelpers i && (s.thread t).helper) && (regsRead b.hints f).any (s.regPoisoned t))

/-- Threads of a list use the lines of the registers that they read (R113, R118). -/
def State.noteReads (s : State) (rs : List Nat) (ts : List Nat) : State :=
  ts.foldl (fun s t => s.modThread t (fun x => { x with reads := rs.foldl (fun l n => l.put n s.clk) x.reads })) s

/-- Array faults that the reads of a run meet (R116, R449). -/
def State.meetReads (s : State) (b : Bundle) (f : Form) (ts : List Nat) : State :=
  if s.ecc.isEmpty then s
  else ts.foldl (fun s t => (regsRead b.hints f).foldl (fun s n => s.meetRegEcc t n) s) s

/-- What an instruction does to the threads that execute it: the bundle with the threads that issued, those of them
whose guard is true, and the state with every thread advanced. -/
abbrev Effect := Bundle → List Nat → State → State

/-- Issues the word `i` to the bundle in hand (R53, R58, R116, R124, R132, R137). An XOP reads its operands in its
micro-ops (R395). -/
def State.issueTo (s : State) (b : Bundle) (i : Instr) (eff : Effect) : State :=
  let f := s.formAt (s.bundleCtx b) b.hints i
  let fails := b.threads.filterMap (fun t => (s.decodeFail b i t).map (fun c => (t, c)))
  let ok := b.threads.filter (fun t => !fails.any (fun p => p.1 == t))
  let s := s.decodeTraps b fails
  let guarded := ok.filter (s.guardOn b.hints)
  let rf := if (xopIndex i).isSome then {} else f
  let s := s.meetReads b rf guarded
  let bad := s.poisonedReaders b i rf guarded
  let s := s.trapAt b bad .poison (fun _ => {})
  let ok := ok.filter (fun t => !bad.contains t)
  let act := guarded.filter (fun t => !bad.contains t)
  let s := (s.noteReads (regsRead b.hints f) act).advance b ok
  let s := eff { b with threads := ok } act s
  s.keepLatches b i f ok

/-- The meaning of an instruction word: its effect on the bundle in hand. -/
def State.issueWord (s : State) (i : Instr) (eff : Effect) : Out :=
  match s.issue with
  | [] => .fault .noBundle
  | b :: rest => .next ({ s with issue := rest }.issueTo b i eff)

/-! ## The shapes that most meanings have -/

/-- Every thread that executes writes a result computed from its operands, with the conditions it raises. -/
def State.compute (s : State) (h : Hints) (f : Form) (ts : List Nat) (g : State → Nat → List Nat → Nat × BitVec 5) : State :=
  ts.foldl (fun s t =>
    let (v, c) := g s t (s.operands h t f)
    match f.dst with
    | some d => (s.writeDst t d.code d.width v).record t c
    | none => s.record t c) s

/-- An instruction that computes a result from operands alone. -/
def State.aluOut (s : State) (i : Instr) (g : Hints → List Nat → Nat) : Out :=
  s.issueWord i (fun b act s => s.compute b.hints (formOf b.hints i) act (fun _ _ l => (g b.hints l, 0)))

/-- An instruction that computes a result and conditions. -/
def State.fpOut (s : State) (i : Instr) (g : Bundle → State → Nat → List Nat → Nat × BitVec 5) : Out :=
  s.issueWord i (fun b act s => s.compute b.hints (formOf b.hints i) act (g b))

/-- An instruction that computes a predicate and conditions (R44). -/
def State.predOut (s : State) (i : Instr) (p : BitVec 3) (g : Hints → State → Nat → List Nat → Bool × BitVec 5) : Out :=
  s.issueWord i (fun b act s => act.foldl (fun s t =>
    let (v, c) := g b.hints s t (s.operands b.hints t (formOf b.hints i))
    (s.modThread t (fun x => x.setPred p.toNat v)).record t c) s)

/-- Helpers among the threads that execute: the instruction writes zero to their destination and does nothing else for
them (R141). The others are left. -/
def State.suppress (s : State) (i : Instr) (h : Hints) (ts : List Nat) : State × List Nat :=
  let (hs, rest) := ts.partition (fun t => (s.thread t).helper)
  (hs.foldl (fun s t => match (formOf h i).dst with
    | some d => s.writeDst t d.code (32 * d.regs) 0
    | none => s) s, rest)

end Sys2Proof.Machine
end

