-- ==== Sys2Proof/Machine/Integer.lean ====
section
/-! DEFINITION. Majors 0x00–0x05: integer, logic, address and predicate instructions (09 R160–R170). -/
namespace Sys2Proof.Machine

/-- Operand `k` of a list of operand values. -/
def arg (l : List Nat) (k : Nat) : Nat := l.getD k 0
/-- Width of the operating type, .I32 by default. -/
def wI (h : Hints) : Nat := tyWidth (hTy h 3)
/-- Operand `k` under the integer operating type (R160). -/
def argI (h : Hints) (l : List Nat) (k : Nat) : Int := intVal (hTy h 3) (wI h) (arg l k)
/-- Result(x) under the integer operating type (R162). -/
def resI (h : Hints) (x : Int) : Nat := intResult (hTy h 3) (wI h) (hSat h) x

/-- IADD (R162). -/
def execIadd (d a b : BitVec 7) (n : Bool) (s : State) : Out :=
  s.aluOut (.iadd d a b n) (fun h l => resI h (argI h l 0 + argI h l 1))
/-- ISUB (R162). -/
def execIsub (d a b : BitVec 7) (n : Bool) (s : State) : Out :=
  s.aluOut (.isub d a b n) (fun h l => resI h (argI h l 0 - argI h l 1))
/-- IMUL (R162). -/
def execImul (d a b : BitVec 7) (n : Bool) (s : State) : Out :=
  s.aluOut (.imul d a b n) (fun h l => resI h (argI h l 0 * argI h l 1))
/-- IMULH (R162). -/
def execImulh (d a b : BitVec 7) (n : Bool) (s : State) : Out :=
  s.aluOut (.imulh d a b n) (fun h l => wrapInt (wI h) (argI h l 0 * argI h l 1 / (2 ^ wI h : Nat)))
/-- IMAD, and IMAD.WIDE, whose third source and result have 64 bits (R162). -/
def execImad (d a b : BitVec 7) (n : Bool) (s : State) : Out :=
  s.aluOut (.imad d a b n) (fun h l =>
    if xmodBit h 0 then
      intResult (if tySigned (hTy h 3) then 4 else 8) 64 (hSat h) (argI h l 0 * argI h l 1 + intVal (hTy h 3) 64 (arg l 2))
    else resI h (argI h l 0 * argI h l 1 + argI h l 2))
/-- IABS (R162). -/
def execIabs (d a : BitVec 7) (n : Bool) (s : State) : Out :=
  s.aluOut (.iabs d a n) (fun h l => resI h (argI h l 0).natAbs)
/-- IMIN (R162). -/
def execImin (d a b : BitVec 7) (n : Bool) (s : State) : Out :=
  s.aluOut (.imin d a b n) (fun h l => resI h (min (argI h l 0) (argI h l 1)))
/-- IMAX (R162). -/
def execImax (d a b : BitVec 7) (n : Bool) (s : State) : Out :=
  s.aluOut (.imax d a b n) (fun h l => resI h (max (argI h l 0) (argI h l 1)))
/-- ISAD (R162). -/
def execIsad (d a b : BitVec 7) (n : Bool) (s : State) : Out :=
  s.aluOut (.isad d a b n) (fun h l => resI h ((argI h l 0 - argI h l 1).natAbs + argI h l 2))
/-- LEA (R163). -/
def execLea (d a b : BitVec 7) (n : Bool) (s : State) : Out :=
  s.aluOut (.lea d a b n) (fun h l =>
    let off := if xmodBit h 3 then arg l 1 else sext 32 64 (arg l 1)
    (arg l 0 + off * 2 ^ (hXmod h % 8)) % 2 ^ 64)
/-- IADDI: the immediate, formed under R47, is truncated to the type's width and is a signed number whatever the type
(R162, log 40). -/
def execIaddi (d a : BitVec 7) (i : BitVec 12) (s : State) : Out :=
  s.aluOut (.iaddi d a i) (fun h l => resI h (argI h l 0 + signedOf (wI h) (immField h 12 i.toNat)))

/-- AND (R164). -/
def execAnd (d a b : BitVec 7) (n : Bool) (s : State) : Out :=
  s.aluOut (.and d a b n) (fun _ l => Nat.land (arg l 0) (arg l 1))
/-- OR (R164). -/
def execOr (d a b : BitVec 7) (n : Bool) (s : State) : Out :=
  s.aluOut (.or d a b n) (fun _ l => Nat.lor (arg l 0) (arg l 1))
/-- XOR (R164). -/
def execXor (d a b : BitVec 7) (n : Bool) (s : State) : Out :=
  s.aluOut (.xor d a b n) (fun _ l => Nat.xor (arg l 0) (arg l 1))
/-- Complement of the low `n` bits. -/
def notN (n x : Nat) : Nat := 2 ^ n - 1 - x % 2 ^ n
/-- ANDN (R164). -/
def execAndn (d a b : BitVec 7) (n : Bool) (s : State) : Out :=
  s.aluOut (.andn d a b n) (fun h l => Nat.land (arg l 0) (notN (tyWidth (hTy h 11)) (arg l 1)))
/-- Width of the operating type, .B32 by default. -/
def wB (h : Hints) : Nat := tyWidth (hTy h 11)
/-- SHL (R164). -/
def execShl (d a b : BitVec 7) (n : Bool) (s : State) : Out :=
  s.aluOut (.shl d a b n) (fun h l => if arg l 1 ≥ wB h then 0 else arg l 0 * 2 ^ arg l 1 % 2 ^ wB h)
/-- SHR (R164). -/
def execShr (d a b : BitVec 7) (n : Bool) (s : State) : Out :=
  s.aluOut (.shr d a b n) (fun h l => if arg l 1 ≥ wB h then 0 else arg l 0 / 2 ^ arg l 1)
/-- Arithmetic right shift of `n` bits (R164, R394). -/
def sarN (n x c : Nat) : Nat := wrapInt n (signedOf n x / (2 ^ min c (n - 1) : Nat))
/-- SAR (R164). -/
def execSar (d a b : BitVec 7) (n : Bool) (s : State) : Out :=
  s.aluOut (.sar d a b n) (fun h l => sarN (wB h) (arg l 0) (arg l 1))
/-- ROT (R164). -/
def execRot (d a b : BitVec 7) (n : Bool) (s : State) : Out :=
  s.aluOut (.rot d a b n) (fun h l =>
    let w := wB h
    let c := arg l 1 % w
    (arg l 0 * 2 ^ c + arg l 0 / 2 ^ (w - c)) % 2 ^ w)
/-- FSHF (R165). -/
def execFshf (d a b : BitVec 7) (n : Bool) (s : State) : Out :=
  s.aluOut (.fshf d a b n) (fun h l =>
    let m := arg l 2 % 32
    let x := arg l 0 * 2 ^ 32 + arg l 1
    if xmodBit h 0 then x / 2 ^ m % 2 ^ 32 else x * 2 ^ m % 2 ^ 64 / 2 ^ 32)
/-- Position and length that an operand word of BFX and BFI gives (R165). -/
def fieldOf (w : Nat) : Nat × Nat :=
  let p := min (w % 256) 32
  (p, min (bits w 8 8) (32 - p))
/-- BFX (R165). -/
def execBfx (d a b : BitVec 7) (n : Bool) (s : State) : Out :=
  s.aluOut (.bfx d a b n) (fun h l =>
    let (p, k) := fieldOf (arg l 1)
    let f := arg l 0 / 2 ^ p % 2 ^ k
    if hTy h 7 = 3 && k ≥ 1 then sext k 32 f else f)
/-- BFI (R165). -/
def execBfi (d a b : BitVec 7) (n : Bool) (s : State) : Out :=
  s.aluOut (.bfi d a b n) (fun _ l =>
    let (p, k) := fieldOf (arg l 2)
    let field := (2 ^ k - 1) * 2 ^ p % 2 ^ 32
    Nat.lor (Nat.land (arg l 0) (notN 32 field)) (Nat.land (arg l 1 * 2 ^ p % 2 ^ 32) field))
/-- BPERM (R165). -/
def execBperm (d a b : BitVec 7) (n : Bool) (s : State) : Out :=
  s.aluOut (.bperm d a b n) (fun _ l =>
    let pool := arg l 1 * 2 ^ 32 + arg l 0
    ((List.range 4).map (fun i =>
      let g := bits (arg l 2) (4 * i) 4
      let y := bits pool (8 * (g % 8)) 8
      (if g < 8 then y else if y ≥ 128 then 255 else 0) * 2 ^ (8 * i))).foldl (· + ·) 0)

/-- POPC (R166). -/
def execPopc (d a : BitVec 7) (n : Bool) (s : State) : Out :=
  s.aluOut (.popc d a n) (fun h l => popc (wB h) (arg l 0))
/-- CLZ (R166). -/
def execClz (d a : BitVec 7) (n : Bool) (s : State) : Out :=
  s.aluOut (.clz d a n) (fun h l => if arg l 0 = 0 then wB h else wB h - 1 - Nat.log2 (arg l 0))
/-- CTZ (R166). -/
def execCtz (d a : BitVec 7) (n : Bool) (s : State) : Out :=
  s.aluOut (.ctz d a n) (fun h l => (lowBit (wB h) (arg l 0)).getD (wB h))
/-- The low `n` bits of a number in the opposite order. -/
def revBits (n x : Nat) : Nat := ((List.range n).map (fun i => if bit x i then 2 ^ (n - 1 - i) else 0)).foldl (· + ·) 0
/-- BREV (R166). -/
def execBrev (d a : BitVec 7) (n : Bool) (s : State) : Out :=
  s.aluOut (.brev d a n) (fun h l => revBits (wB h) (arg l 0))

/-- PLOP (R168). -/
def execPlop (p : BitVec 3) (t : BitVec 4) (q r : BitVec 3) (s : State) : Out :=
  s.predOut (.plop p t q r) p (fun _ s t' _ =>
    (t.getLsbD (2 * b2n ((s.thread t').pred q.toNat) + b2n ((s.thread t').pred r.toNat)), 0))
/-- SEL (R169). -/
def execSel (d a b : BitVec 7) (n : Bool) (s : State) : Out :=
  s.fpOut (.sel d a b n) (fun x s t l =>
    (if (s.thread t).pred (hXmod x.hints % 8) != xmodBit x.hints 3 then arg l 0 else arg l 1, 0))
/-- MOV (R169). -/
def execMov (d a : BitVec 7) (n : Bool) (s : State) : Out := s.aluOut (.mov d a n) (fun _ l => arg l 0)

/-- The generation that a thread's die holds for its context, or all ones when the context does not own the radiance
cache (R170, R387, R389). -/
def State.genOf (s : State) (t : Nat) : Word :=
  if s.marl.owner == some (s.ctxOf t) then
    (if dieOf (coreOf t) = 0 then s.marl.die0.gen else s.marl.die1.gen)
  else 0xFFFFFFFF#32

/-- A special register of a thread (R62, R170). -/
def State.special (s : State) (t n : Nat) : Nat :=
  let m := s.team (s.teamOf t)
  let own := m.kind == .user
  match n with
  | 0 => laneOf t
  | 1 => (s.group (gidOf t)).index
  | 2 => if own then m.bind.team else 0
  | 3 => if own then m.bind.cx else 0
  | 4 => if own then m.bind.cy else 0
  | 5 => if own then m.bind.cz else 0
  | 6 => coreOf t
  | 7 => dieOf (coreOf t)
  | 8 => s.clk % 2 ^ 64
  | 9 => s.ctxOf t
  | _ => (s.genOf t).toNat
/-- MOVS (R170). -/
def execMovs (d r : BitVec 7) (n : Bool) (s : State) : Out :=
  s.fpOut (.movs d r n) (fun _ s t _ => (s.special t r.toNat, 0))
/-- ISETP (R167). -/
def execIsetp (p : BitVec 3) (a b : BitVec 7) (c : BitVec 4) (s : State) : Out :=
  s.predOut (.isetp p a b c) p (fun h _ _ l => (icond c.toNat (argI h l 0) (argI h l 1), 0))

end Sys2Proof.Machine
end

