-- ==== Sys2Proof/Machine/MemOps.lean ====
section
/-! DEFINITION. Operations of the fault-capable instructions (07 R136; 12 R228–R241; 20 R412–R414): how one is formed
at issue, how each lane is checked, how lanes trap, park and are held, and the accesses that passing lanes leave in
flight. -/
namespace Sys2Proof.Machine

/-! ## The accesses of an instruction (R227, R288, R294) -/

/-- Bytes of the element of each lane: the multiple its address must be. -/
def elemSize (i : Instr) (h : Hints) : Nat :=
  match i with
  | .ld .. | .st .. | .lds .. | .sts .. | .atom .. | .red .. | .atoms .. | .reds .. | .atomcas .. | .atomscas ..
  | .waitc .. => tyWidth (hTy h 7) / 8
  | .ldk .. => tyWidth (hTy h 12) / 8
  | .acq .. | .rel .. | .bind .. | .unbind .. | .wdecl .. => 8
  | .tbarInit .. | .tbarExp .. | .tbarAck .. | .tbarWait .. => 16
  | _ => 1

/-- The barrier instructions of R267, each an atomic read-modify-write (R265). -/
def isTbarOp : Instr → Bool
  | .tbarInit .. | .tbarExp .. | .tbarAck .. | .tbarWait .. => true
  | _ => false

/-- Scratch instructions (R240, R267, R294). -/
def isScratchOp (i : Instr) : Bool :=
  isTbarOp i || match i with
    | .lds .. | .sts .. | .atoms .. | .reds .. | .atomscas .. => true
    | _ => false

/-- The atomics of R292. -/
def isAtomicOp : Instr → Bool
  | .atom .. | .red .. | .atoms .. | .reds .. | .atomcas .. | .atomscas .. => true
  | _ => false

/-- Instructions whose lanes are checked as writes (R208, R288, R299). -/
def isWriteOp (i : Instr) : Bool :=
  isAtomicOp i || isTbarOp i || match i with
    | .st .. | .sts .. | .rel .. => true
    | _ => false

/-- Instructions of which every passing lane writes or none does (R233, R288). -/
def isStoreOp (i : Instr) : Bool := unitOf i == .store

/-- The instructions that act on the regions bound to an object (R275, R281). -/
def usesBinds : Instr → Bool
  | .acq .. | .rel .. => true
  | _ => false

/-- The operation of an atomic: its minor; 16 for a compare-and-swap (R293). -/
def atomCode : Instr → Nat
  | .atom _ _ _ o | .atoms _ _ _ o => o.toNat
  | .red _ _ o | .reds _ _ o => o.toNat
  | _ => 16

/-- A × 2^64 wrapped sum of a base, a scaled offset and a displacement (R228, R288, R294). -/
def effAddr (base off : Nat) (sx : Bool) (scale disp : Nat) : Nat :=
  (base + (if sx then sext 32 64 off else off) * scale + disp) % 2 ^ 64

/-- Address of a thread for the WM form (R228); `sx` is the .SX bit of LD and ST. -/
def State.wmAddr (s : State) (h : Hints) (sx : Bool) (t : Nat) (kb : BitVec 6) (voff : BitVec 7) (imm : BitVec 6) (scale : Nat) :
    Nat :=
  effAddr (s.kreg t kb.toNat).toNat (s.operand h t (useX voff 32 [124, 126])) sx scale (immField h 6 imm.toNat)

/-- Address of a thread for majors 0x28–0x2B: base k[KSEL] (R288, R294); `sx` is the .SX bit. -/
def State.kAddr (s : State) (h : Hints) (t off : Nat) (sx : Bool) (scale : Nat) : Nat :=
  effAddr (s.kreg t (hKsel h)).toNat off sx scale (immDisp h)

/-! ## Issue: fetch suspension begins (R136, R229, R412, R413) -/

/-- Adds an operation under check, with its walk if it has one, and suspends its threads. -/
def State.suspendOp (s : State) (b : Bundle) (i : Instr) (core : Nat) (lanes : List Lane) (walk : Option Walk := none) :
    State :=
  match lanes with
  | [] => s
  | l0 :: _ =>
    let id := s.nextId
    let o : Op :=
      { id := id, instr := i, hints := b.hints, word := s.bundleWord b, core := core, ctx := s.ctxOf l0.tid,
        runPc := b.runPc, pc := b.pc, stage := 0, lanes := lanes, walk := walk,
        binds := if usesBinds i then (s.ctx (s.ctxOf l0.tid)).binds else [],
        regs := regsRead b.hints (formOf b.hints i) ++ regsWritten (formOf b.hints i) }
    let s : State := { s with nextId := id + 1, ops := s.ops ++ [o] }
    lanes.foldl (fun s l => s.suspendAt b l.tid (.check id)) s

/-- An instruction's operation for the threads that execute it: those that replay form one operation for each set with
the values of its entries, a STORE set's all together; the others form one with the values `mk` gives. -/
def State.beginOp (s : State) (b : Bundle) (i : Instr) (ts : List Nat) (mk : State → Nat → Lane) : State :=
  let (old, new) := ts.partition s.frozen
  let sets := dedupBy id (old.filterMap (fun t => (s.thread t).inSet))
  let s' := s.suspendOp b i b.core ((sortBy (fun a b => decide (laneOf a ≤ laneOf b)) new).map (mk s))
  sets.foldl (fun s' id => match s.setOf id with
    | none => s'
    | some x => s'.suspendOp b i b.core (x.lanes.filter (fun l =>
        x.mask.getLsbD (laneOf l.tid) && (x.unit == .store || old.contains l.tid)))) s'

/-- A memory instruction at issue; `supp` for one that is suppressed in helpers (R141). -/
def State.memOut (s : State) (i : Instr) (supp : Bool) (mk : State → Bundle → Nat → Lane) : Out :=
  s.issueWord i (fun b act s =>
    let (s, ts) := if supp then s.suppress i b.hints act else (s, act)
    s.beginOp b i ts (fun s t => mk s b t))

/-! ## Checks (R208, R229, R237, R245, R288, R298, R299) -/

/-- The place of an atomic supports it (R298). -/
def State.atomPlace (s : State) (i : Instr) (h : Hints) (p : Passed) : Bool :=
  if isScratchOp i || pteHome p.leaf ≤ 2 || isDevmem p.loc then true
  else isHostMem p.loc && s.dev.hostAop && [0, 6, 16].contains (atomCode i) && [7, 3, 8, 4, 11, 12].contains (hTy h 7)

/-- The checks that an instruction adds to those of R208. -/
def State.extraCheck (s : State) (i : Instr) (h : Hints) (p : Passed) : Option Cause :=
  let io := pteEffects p.leaf || pteHome p.leaf == 3
  match i with
  | .persist .. => if ptePersist p.leaf then none else some .permission
  | .acq .. | .rel .. | .bind .. | .unbind .. => if io then some .permission else none
  | .waitc .. => if pteHome p.leaf == 3 then some .atomType else none
  | _ => if isAtomicOp i && !s.atomPlace i h p then some .atomType else none

/-- Instructions that use the data they read (R237, R299). -/
def consumes (i : Instr) : Bool :=
  isAtomicOp i || isTbarOp i || match i with
    | .ld .. | .lds .. | .ldk .. | .acq .. | .waitc .. => true
    | _ => false

/-- The checks of one lane, in their order (R208, R228, R229). -/
def State.checkLane (s : State) (o : Op) (l : Lane) : State × Except Fail Passed :=
  let a := l.addr.toNat
  let n := elemSize o.instr o.hints
  if a % n ≠ 0 then (s, .error (.trap .misalign))
  else
    let r : State × Except Fail Passed :=
      if isScratchOp o.instr then
        (s, match s.scratchLoc (s.teamOf l.tid) a n with
          | some loc => .ok { leaf := 0, loc := loc }
          | none => .error (.trap .permission))
      else s.check o.core o.ctx (s.isSup l.tid) (if isWriteOp o.instr then .write else .read) a
    match r with
    | (s, .error e) => (s, .error e)
    | (s, .ok p) =>
      match s.extraCheck o.instr o.hints p with
      | some c => (s, .error (.trap c))
      | none =>
        if consumes o.instr && s.linkUp p.loc then
          match s.consume p.loc (pteKey p.leaf) with
          | (s, true) => (s, .ok p)
          | (s, false) => (s, .error (.trap .poison))
        else (s, .ok p)

/-- The checks of every lane, in lane order. -/
def State.checkLanes (s : State) (o : Op) : List Lane → State × List (Lane × Except Fail Passed)
  | [] => (s, [])
  | l :: r =>
    let (s, x) := s.checkLane o l
    let (s, xs) := s.checkLanes o r
    (s, (l, x) :: xs)

/-! ## What follows the checks (R229, R231, R233, R301, R414) -/

/-- Traps the lanes that failed with a cause, one request for each group and cause (R425, R426). -/
def State.trapLanes (s : State) (o : Op) (write : Bool) (fs : List (Lane × Cause)) : State :=
  [Cause.misalign, .permission, .atomType, .tcfg, .poison].foldl (fun s c =>
    let mine := (fs.filter (fun p => p.2 == c)).map (·.1)
    s.trapIn (mine.map (·.tid)) c o.runPc (o.pc + 4) (fun t =>
      let l := (mine.find? (fun l => l.tid == t)).map (·.addr)
      let unit := if (s.thread t).inSet.isSome then (unitOf o.instr).code * 256 else 0
      { info0 := (l.getD 0).toNat, info1 := b2n write + unit })) s

/-- The part of one group that parks. -/
def parkOf (o : Op) (g : Nat) (lanes : List Lane) (why : List (Lane × Reason)) : Park :=
  { ctx := o.ctx, core := o.core, gid := g, unit := unitOf o.instr, instr := o.instr, hints := o.hints, word := o.word,
    pc := o.runPc, next := o.pc + 4, lanes := lanes, data := [], copy := none,
    pages := why.map (fun p =>
      ({ lane := laneOf p.1.tid, page := p.1.addr.toNat / 4096 * 4096, reason := p.2, write := isWriteOp o.instr,
         fetch := false } : ParkPage)) }

/-- Every part of a STORE operation fits the replay area (R414). -/
def State.roomFor (s : State) : List Park → Bool
  | [] => true
  | p :: r =>
    match (p.lanes.head?).bind (fun l => (s.thread l.tid).inSet) with
    | some _ => s.roomFor r
    | none =>
      match s.freeRun p.ctx p.slots with
      | some slot => (s.openSet p slot 0).roomFor r
      | none => false

/-- Parks what an operation could not translate; the lanes that may go on are left (R231, R233, R301, R414). -/
def State.parkLanes (s : State) (o : Op) (ok : List (Lane × Passed)) (why : List (Lane × Reason)) :
    State × List (Lane × Passed) :=
  if why.isEmpty then (s, ok)
  else
    let gs := fun (ls : List Lane) => dedupBy id (ls.map (fun l => gidOf l.tid))
    let byLane := fun (a b : Lane) => decide (a.tid ≤ b.tid)
    if isStoreOp o.instr then
      let all := sortBy byLane (ok.map (·.1) ++ why.map (·.1))
      let parks := (gs all).map (fun g =>
        parkOf o g (all.filter (fun l => gidOf l.tid == g)) (why.filter (fun p => gidOf p.1.tid == g)))
      let first := why.map (fun p => ({ lane := laneOf p.1.tid, page := p.1.addr.toNat / 4096 * 4096, reason := p.2,
                                        write := true, fetch := false } : ParkPage))
      let parks := parks.map (fun p => if p.pages.isEmpty then { p with pages := first.take 1 } else p)
      if s.roomFor parks then (parks.foldl (fun s p => s.park p) s, [])
      else (parks.foldl (fun s p => ((s.reportPages p.core p.ctx p.pages).1).holdAll p) s, [])
    else
      let go := fun (q : State × List (Lane × Passed)) (g : Nat) =>
        let (s, ok) := q
        let bad := sortBy byLane ((why.map (·.1)).filter (fun l => gidOf l.tid == g))
        let p := parkOf o g bad (why.filter (fun p => gidOf p.1.tid == g))
        let replay := bad.any (fun l => (s.thread l.tid).inSet.isSome)
        if !replay && (s.freeRun o.ctx p.slots).isNone then
          let mine := ok.filter (fun x => gidOf x.1.tid == g)
          (((s.reportPages p.core p.ctx p.pages).1).holdAll { p with lanes := bad ++ mine.map (·.1) },
            ok.filter (fun x => gidOf x.1.tid != g))
        else (s.park p, ok)
      (gs (why.map (·.1))).foldl go (s, ok)

/-- A thread whose checks have passed leaves fetch suspension, and its set if it replays (R136, R413). -/
def State.passThread (s : State) (o : Op) (t : Nat) : State :=
  (s.modThread t (fun x => { x with pc := o.pc + 4, runPc := o.pc + 4, waitFor := .nothing, tstate := .run })).leaveSet t

/-! ## Accesses in flight (R232, R235, R273) -/

/-- What a passing lane's access is. -/
structure Acc where
  kind : AccKind
  size : Nat
  x : DWord := 0
  y : DWord := 0
  strong : Bool := false
  acq : Bool := false
  /-- a release: full, or bound to the object at the access's address -/
  rel : Bool := false
  full : Bool := true
  binds : List Region := []
  deriving DecidableEq, Repr

/-- An earlier access `e` of one thread is ordered before its access `a` (R224, R273, R275); scratch bytes are bound to no
object (R279). How far a release or an acquire reaches is said where it is performed (R276, `State.publish`). -/
def orders (e : Access) (a : Acc) (va loc : Nat) (leaf : Nat) : Bool :=
  let same := overlaps e.pa e.size loc a.size
  (same && !(e.kind == .load && a.kind == .load && !e.strong && !a.strong)) ||
  (e.strong && a.strong && !(e.kind == .store && a.kind == .load && !same)) ||
  e.acq || (a.rel && (a.full || e.strong || (!isScratchOp e.instr && boundTo a.binds va e.va.toNat e.size))) ||
  (pteEffects leaf && pteEffects e.leaf.toNat)

/-- The outstanding counter of an access (R452). -/
inductive Counter where
  | none | stores | rscratch
  deriving DecidableEq, Repr

/-- Which counter an access counts in (R235, R303, R452). -/
def counterOf (k : AccKind) (i : Instr) (h : Hints) (remote : Bool) : Counter :=
  if (k == .store || k == .atomic) && !isTbarOp i then
    if remote then .rscratch else if k == .store || (formOf h i).dst.isNone then .stores else .none
  else .none

/-- An access is one of a thread's: its own, or an LDK's that reads for it (R242). -/
def Access.isOf (a : Access) (t : Nat) : Bool := a.tid == t || a.mates.contains t

/-- Puts the access of a passing lane in flight; `mates` are threads for which it reads beside the lane's own (R242). -/
def State.addAccess (s : State) (o : Op) (l : Lane) (p : Passed) (a : Acc) (mates : List Nat := []) : State :=
  let id := s.nextId
  let own := s.accs.filter (fun e => (l.tid :: mates).any e.isOf && orders e a l.addr.toNat p.loc p.leaf)
  let lower := s.accs.filter (fun e => e.op == o.id && e.tid != l.tid && overlaps e.pa e.size p.loc a.size)
  let remote := isScratchOp o.instr && s.remoteLoc l.tid p.loc
  let q := s.launchOf l.tid
  let x : Access :=
    { id := id, op := o.id, runPc := o.runPc, pc := o.pc, kind := a.kind, tid := l.tid, core := coreOf l.tid, ctx := o.ctx,
      instr := o.instr, hints := o.hints, va := l.addr, pa := p.loc, size := a.size, x := a.x, y := a.y, strong := a.strong,
      scope := hScopeOr o.hints, acq := a.acq, rel := a.rel, full := a.full,
      binds := a.binds, after := (own ++ lower).map (·.id), launch := q,
      remote := remote, leaf := BitVec.ofNat 64 p.leaf, dst := regsWritten (formOf o.hints o.instr), mates := mates }
  let s := State.holdFor { s with nextId := id + 1, accs := s.accs ++ [x] } p.loc
  match counterOf a.kind o.instr o.hints remote with
  | .none => s
  | .stores => s.modOut q (coreOf l.tid) (fun n => { n with stores := n.stores + 1 })
  | .rscratch => s.modOut q (coreOf l.tid) (fun n => { n with rscratch := n.rscratch + 1 })

/-- A range of core SRAM is covered by the scoreboard entry of a copy that has not retired (R252). -/
def State.scoreboarded (s : State) (loc n : Nat) : Bool :=
  isSram loc && s.copies.any (fun c => c.entries.any (fun e => overlaps (sramLoc e.core e.lo) (e.hi - e.lo) loc n))

/-- An access in flight may be performed now: what it follows has been (R234, R273), no copy holds its range (R252),
no engine has its line in progress (R258) and its port answers (R19). One that has passed its check before a flip began is served under the old bias (R223). -/
def State.mayPerform (s : State) (a : Access) : Bool :=
  !s.accs.any (fun e => a.after.contains e.id) && !s.scoreboarded a.pa a.size && s.linkUp a.pa && !s.inProgress a.pa a.size

/-- The access of a number. -/
def State.accOf (s : State) (id : Nat) : Option Access := s.accs.find? (fun a => a.id == id)

/-! ## Directory, replicas and older copies of an access (R217, R218, R220, R238) -/

/-- The directory after a read of bytes at a location (R218): HOME 2 and HOME 1 pages are held in caches (R209, R217). -/
def State.noteRead (s : State) (core leaf loc : Nat) : State :=
  if pteHome leaf == 2 || pteHome leaf == 1 then
    let k := s.l1Core core loc
    let s := s.dirRead (dieOf k) (some (k % coresPerDie)) loc (pteGrain leaf)
    if homeDie loc == dieOf k then s else s.dirRead (homeDie loc) (some 144) loc (pteGrain leaf)
  else s

/-- The directory after a write of bytes at a location by a thread of a core, and what other clusters may still read there
(R218, R220). -/
def State.noteWrite (s : State) (core ctx va : Nat) (strong : Bool) (leaf loc : Nat) : State :=
  if pteHome leaf == 2 || pteHome leaf == 1 then
    let s := s.keepStale core false ctx va strong loc
    let k := s.l1Core core loc
    s.dirWrite (dieOf k) (k % coresPerDie) loc (pteGrain leaf)
  else s

/-- The dirty lines that the slices of a core's cluster hold are written back: the L2 has them clean (R290, R453). -/
def State.writeBackL1 (s : State) (core : Nat) : State :=
  let mine := (List.range coreCount).filter (s.sameL1 core)
  { s with dir := s.dir.map (fun d =>
      if d.st == .o && mine.any (fun k => d.die == dieOf k && d.sharers.getLsbD (k % coresPerDie)) then { d with st := .s } else d) }

/-- A read-only replica made by a .REPL load (R220); `noLaunch` for a thread of no launch. -/
def State.noteReplica (s : State) (a : Access) : State :=
  let leaf := a.leaf.toNat
  let i := a.core % coresPerDie / 12
  let j := a.core % 12
  if hCache a.hints == 1 && pteHome leaf == 2 && !pteW leaf then
    let r : Replica := { line := a.pa / 128, die := dieOf a.core, slice := 4 * i + j / 3, launch := a.launch.getD noLaunch }
    if s.replicas.contains r then s else { s with replicas := s.replicas ++ [r] }
  else s

/-! ## Update-only copies (R218, R304, R305) -/

/-- Applies an operation of R295 that combines, as an element of a type. -/
def combine (op ty old v : Nat) : Nat :=
  let w := tyWidth ty
  if tyFloat ty then
    let f := fmtOf ty
    match op with
    | 0 => let x := f.read old; let y := f.read v; (arith f {} [x, y] (Num.add false x y)).1
    | _ => (minMax f (op == 2) old v).1
  else
    match op with
    | 0 => (old + v) % 2 ^ w
    | 1 => if intVal ty w old ≤ intVal ty w v then old else v
    | 2 => if intVal ty w old ≤ intVal ty w v then v else old
    | 3 => Nat.land old v
    | 4 => Nat.lor old v
    | _ => Nat.xor old v

/-- Combines one update-only copy into the home's value; a poisoned sector stays as it is (R299, R304). -/
def State.combineCopy (s : State) (u : UCopy) : State :=
  let n := tyWidth u.ty / 8
  if s.isPoisoned (sectorOf u.pa) then s
  else
    let key := s.sectorKey.at' 0 (sectorOf u.pa)
    let bs := bytesOf n (combine u.op u.ty (s.readN u.pa n) u.val.toNat)
    (s.storeBytes u.pa key false true bs).notice u.pa n

/-- The sharer bit at the home that a copy combines under: the cores of the home's die come first, the other die after them
(R218, R304). -/
def UCopy.rank (u : UCopy) : Nat := if u.die == homeDie u.pa then u.sharer else 144 + u.sharer

/-- Combines the update-only copies that a test selects, in ascending order of sharer bits; their lines leave the U state
(R218, R304). -/
def State.combineWhere (s : State) (p : UCopy → Bool) : State :=
  if s.ucopies.isEmpty then s
  else
    let (go, stay) := s.ucopies.partition p
    let dir := s.dir.filter (fun d => !(d.st == .u && go.any (fun u => overlaps d.base d.size u.pa 8)))
    (sortBy (fun a b => decide (a.rank ≤ b.rank)) go).foldl (fun s u => s.combineCopy u) { s with ucopies := stay, dir := dir }

/-- Combines every update-only copy: what any step but a reduction does before it reads memory (R304). -/
def State.settleU (s : State) : State := s.combineWhere (fun _ => true)

end Sys2Proof.Machine
end

