-- ==== Sys2Proof/Machine/Memory.lean ====
section
/-! DEFINITION. Majors 0x20–0x26: loads, stores, prefetch and cache maintenance (12 R227–R245), and the moment each of
their accesses is performed. -/
namespace Sys2Proof.Machine

/-! ## Instructions at issue -/

/-- A lane that only addresses (R412). -/
def addrLane (t a : Nat) : Lane := { tid := t, addr := BitVec.ofNat 64 a, x := 0, y := 0 }
/-- A lane with data (R412). -/
def dataLane (t a x y : Nat) : Lane :=
  { tid := t, addr := BitVec.ofNat 64 a, x := BitVec.ofNat 64 x, y := BitVec.ofNat 64 y }

/-- The lane of a load (R228). -/
def State.loadLane (s : State) (b : Bundle) (sx : Bool) (t : Nat) (k : BitVec 6) (o : BitVec 7) (i : BitVec 6) (n : Nat) : Lane :=
  addrLane t (s.wmAddr b.hints sx t k o i n)
/-- The lane of a store: its data as read at issue (R228, R233). -/
def State.storeLane (s : State) (b : Bundle) (sx : Bool) (t : Nat) (d : BitVec 7) (k : BitVec 6) (o : BitVec 7) (i : BitVec 6)
    (w : Nat) : Lane :=
  let v := s.operand b.hints t (useX d w [124, 126, 127])
  dataLane t (s.wmAddr b.hints sx t k o i (w / 8)) v (v / 2 ^ 64)

/-- LD (R230). -/
def execLd (d : BitVec 7) (k : BitVec 6) (o : BitVec 7) (i : BitVec 6) (s : State) : Out :=
  s.memOut (.ld d k o i) false (fun s b t => s.loadLane b (xmodBit b.hints 0) t k o i (tyWidth (hTy b.hints 7) / 8))
/-- ST (R233). -/
def execSt (d : BitVec 7) (k : BitVec 6) (o : BitVec 7) (i : BitVec 6) (s : State) : Out :=
  s.memOut (.st d k o i) true (fun s b t => s.storeLane b (xmodBit b.hints 0) t d k o i (tyWidth (hTy b.hints 7)))
/-- LDS (R230, R240). -/
def execLds (d : BitVec 7) (k : BitVec 6) (o : BitVec 7) (i : BitVec 6) (s : State) : Out :=
  s.memOut (.lds d k o i) false (fun s b t => s.loadLane b false t k o i (tyWidth (hTy b.hints 7) / 8))
/-- STS (R233, R240). -/
def execSts (d : BitVec 7) (k : BitVec 6) (o : BitVec 7) (i : BitVec 6) (s : State) : Out :=
  s.memOut (.sts d k o i) true (fun s b t => s.storeLane b false t d k o i (tyWidth (hTy b.hints 7)))
/-- LDK (R242). -/
def execLdk (d k i : BitVec 6) (s : State) : Out :=
  s.memOut (.ldk d k i) false (fun s b t => s.loadLane b false t k 126 i 1)
/-- PREF (R243). -/
def execPref (k : BitVec 6) (o : BitVec 7) (i : BitVec 6) (s : State) : Out :=
  s.memOut (.pref k o i) false (fun s b t => s.loadLane b false t k o i 1)
/-- CFLUSH (R244). -/
def execCflush (k : BitVec 6) (o : BitVec 7) (i : BitVec 6) (s : State) : Out :=
  s.memOut (.cflush k o i) false (fun s b t => s.loadLane b false t k o i 1)
/-- CINV (R244). -/
def execCinv (k : BitVec 6) (o : BitVec 7) (i : BitVec 6) (s : State) : Out :=
  s.memOut (.cinv k o i) false (fun s b t => s.loadLane b false t k o i 1)
/-- PERSIST (R245). -/
def execPersist (k : BitVec 6) (o : BitVec 7) (i : BitVec 6) (s : State) : Out :=
  s.memOut (.persist k o i) true (fun s b t => s.loadLane b false t k o i 1)

/-! ## Prefetch (R243) -/

/-- PREF of a lane: dropped when its checks fail, on pages that are not HOME 2, and for .FRAME on the carve-out. -/
def State.prefetch (s : State) (o : Op) (l : Lane) : State :=
  let (s', r) := s.check o.core o.ctx (s.isSup l.tid) .read l.addr.toNat
  match r with
  | .error _ => s
  | .ok p =>
    if pteHome p.leaf != 2 || pteEffects p.leaf || !s.answers p.loc then s
    else
      match hXmod o.hints with
      | 0 => s'.noteRead o.core p.leaf p.loc
      | 1 => s'.dirRead (homeDie p.loc) none p.loc (pteGrain p.leaf)
      | _ => s'.touchFrame p.loc

/-! ## Passing lanes -/

/-- Lanes whose checks have passed leave fetch suspension and put their accesses in flight (R230–R235, R244, R245). -/
def State.passMem (s : State) (o : Op) (ok : List (Lane × Passed)) : State :=
  let n := elemSize o.instr o.hints
  let line := fun (p : Passed) => { p with loc := p.loc / 128 * 128 }
  match o.instr with
  | .ld .. | .lds .. =>
    ok.foldl (fun s q => (s.addAccess o q.1 q.2 { kind := .load, size := n, strong := hStrong o.hints }).passThread o q.1.tid) s
  | .st .. | .sts .. =>
    ok.foldl (fun s q => (s.addAccess o q.1 q.2
      { kind := .store, size := n, x := q.1.x, y := q.1.y, strong := hStrong o.hints }).passThread o q.1.tid) s
  | .ldk .. =>
    let teams := dedupBy id (ok.map (fun q => s.teamOf q.1.tid))
    teams.foldl (fun s k =>
      let mine := ok.filter (fun q => s.teamOf q.1.tid == k)
      match mine with
      | [] => s
      | q :: r =>
        let s := s.addAccess o q.1 q.2 { kind := .load, size := n, strong := hStrong o.hints } (r.map (fun q => q.1.tid))
        mine.foldl (fun s q => s.passThread o q.1.tid) s) s
  | .cflush .. | .cinv .. | .persist .. =>
    let kind : AccKind := match o.instr with | .persist .. => .persist | _ => .maintain
    ok.foldl (fun s q => ((s.addAccess o q.1 (line q.2) { kind := kind, size := 128 }).passThread o q.1.tid).modThread
      q.1.tid (fun x => { x with waitFor := .result o.id })) s
  | _ => s

/-! ## Accesses that are performed -/

/-- Wakes the threads that wait for an access or an operation to end. -/
def State.wakeResult (s : State) (id : Nat) : State :=
  { s with threads := s.threads.map (fun p => if p.2.waitFor == .result id then (p.1, { p.2 with waitFor := .nothing }) else p) }

/-- An access has been performed: it is in flight no more, its counter falls (R452), and a thread at a fence looks
again (R289). -/
def State.dropAcc (s : State) (a : Access) : State :=
  let s := State.settleMsi { s with accs := s.accs.filter (fun e => e.id != a.id) }
  let s := match counterOf a.kind a.instr a.hints a.remote with
    | .none => s
    | .stores => s.modOut a.launch a.core (fun n => { n with stores := n.stores - 1 })
    | .rscratch => s.modOut a.launch a.core (fun n => { n with rscratch := n.rscratch - 1 })
  let s := (a.tid :: a.mates).foldl (fun s t =>
    if (s.thread t).waitFor == .fence then s.modThread t (fun x => { x with waitFor := .nothing }) else s) s
  if !a.remote then s else s.clusters.foldl (fun s p => if p.2.members.all (·.exited) then s.endCluster p.1 else s) s

/-- The threads of an access in flight are to trap with a cause, its destination unchanged: each takes the trap when it next
issues, at the instruction it has come to (R237, R242, R299, R300; log 74). -/
def State.lateTrap (s : State) (a : Access) (c : Cause) : State :=
  ((a.tid :: a.mates).filter s.aliveAt).foldl (fun s t => s.modThreadOf (gidOf t) (laneOf t) (fun x =>
    { x with late := x.late.or (some { cause := c, va := a.va, write := isWriteOp a.instr }) })) s

/-- The value that LD and LDS write: the element under R230. -/
def loadValue (ty x : Nat) : Nat := if ty = 1 || ty = 2 then sext (tyWidth ty) 32 x else x

/-- LD and LDS write their destination (R230, R232). -/
def State.loadWrite (s : State) (a : Access) (d : BitVec 7) (x : Nat) : State :=
  if !s.aliveAt a.tid then s
  else
    let ty := hTy a.hints 7
    s.writeDst a.tid d (max 32 (tyWidth ty)) (loadValue ty x)

/-- The value that LDK writes to its k register (R242). -/
def ldkValue (ty x : Nat) : Nat := if ty = 3 then sext 32 64 x else x

/-- The access's own release or acquire: of its scope, full or bound to the object at its address (R275, R276). -/
def Access.named (a : Access) : Option (Nat × List Region) := if a.full then none else some (a.va.toNat, a.binds)

/-- The data of an access are read at its place; none when the sector is poisoned (R237). A weak load may be served by the
copy that its cluster still holds from before another agent's write; a strong one never is, and no read after it (R238,
R273, R278). -/
def State.readAcc (s : State) (a : Access) : State × Option Nat :=
  let (s, ok) := s.settleU.consume a.pa (pteKey a.leaf.toNat)
  let s := (s.noteRead a.core a.leaf.toNat a.pa).noteReplica a
  if !ok then (s, none)
  else if a.strong then
    let s := s.seeSector a.core a.pa
    (s, some (s.readN a.pa a.size))
  else
    let (s, v) := s.readWeak a.core a.pa a.size
    (s, some v)

/-- The bytes of a store access are written at their place (R233–R238, R307); a release publishes what it follows, whose
dirty lines its cluster has written back at .DEV and .SYS (R275, R290). -/
def State.writeAcc (s : State) (a : Access) : State :=
  let s := s.settleU
  let leaf := a.leaf.toNat
  let s := s.noteWrite a.core a.ctx a.va.toNat a.strong leaf a.pa
  let s := if a.rel then
      let s := s.publish a.core a.ctx a.scope a.named
      if a.full && (a.scope == 0 || a.scope ≥ 5) then s.writeBackL1 a.core else s
    else s
  let s := s.storeLeaf a.pa leaf (bytesOf a.size (a.x.toNat + a.y.toNat * 2 ^ 64))
  s.notice a.pa a.size

/-- A store lane is performed at its scope (R233–R238, R307). -/
def State.performStore (s : State) (a : Access) : State := (s.writeAcc a).dropAcc a

/-- Accesses of one operation that may all be performed now, those among them that follow one another apart, in lane order;
none when some may not. -/
def State.readyTogether (s : State) (l : List Access) : List Access :=
  let ids := l.map (·.id)
  if l.all (fun e => s.mayPerform { e with after := e.after.filter (fun i => !ids.contains i) }) then
    sortBy (fun x y => decide (laneOf x.tid ≤ laneOf y.tid)) l
  else []

/-- Store lanes of the operation of `a` in its sector. -/
def State.sectorStores (s : State) (a : Access) : List Access :=
  s.accs.filter (fun e => e.op == a.op && e.kind == .store && sectorOf e.pa == sectorOf a.pa)

/-- Lanes cover a whole sector of a page whose accesses are not made lane by lane (R236, R237). -/
def coverSector (l : List Access) (a : Access) : Bool :=
  let base := a.pa / 32 * 32
  !pteEffects a.leaf.toNat && pteHome a.leaf.toNat != 3 &&
  (List.range 32).all (fun i => l.any (fun e => decide (e.pa ≤ base + i && base + i < e.pa + e.size)))

/-- Half of a .B128 access goes on alone: the other half has been made (R236). -/
def State.keepHalf (s : State) (a : Access) (half : Nat) (x : DWord) : State :=
  { s with accs := s.accs.map (fun e => if e.id == a.id then { e with pa := a.pa + 8 * half, size := 8, x := x, y := 0 } else e) }

/-- Which half of a .B128 access is made alone in this step, if any: a free value says, and on pages with EFFECTS or HOME 3
the lower comes first (R236). -/
def State.splitHalf (s : State) (a : Access) : Option Nat × State :=
  if a.size ≠ 16 then (none, s)
  else
    let (v, s) := s.free
    let low := pteEffects a.leaf.toNat || pteHome a.leaf.toNat == 3
    (if v.getLsbD 0 then some (if low then 0 else b2n (v.getLsbD 1)) else none, s)

/-- STORE_PERFORMED: the access that the subject names, once it may be (R235). Lanes of its operation that store to its
element are performed with it, the highest last (R234); so are those that cover its sector with it, whose poison goes
(R237). A .B128 element may be written in halves (R236). -/
def execStorePerformed (s : State) : Out :=
  .next (match s.accOf s.subj.id with
    | some a =>
      if a.kind != .store then s
      else
        let all := s.sectorStores a
        match (if coverSector all a then s.readyTogether all else []) with
        | e :: es => (e :: es).foldl (fun s e => s.performStore e) (s.freshSector a.pa (pteKey a.leaf.toNat))
        | [] =>
          match s.readyTogether (all.filter (fun e => overlaps e.pa e.size a.pa a.size)) with
          | [e] =>
            match s.splitHalf e with
            | (none, s) => s.performStore e
            | (some h, s) =>
              (s.writeAcc { e with pa := e.pa + 8 * h, size := 8, x := if h = 0 then e.x else e.y, y := 0 }).keepHalf e (1 - h)
                (if h = 0 then e.y else e.x)
          | es => es.foldl (fun s e => s.performStore e) s
    | none => s)

/-- CFLUSH of a line: dirty data of every cache and of its frame unit go to the memory behind it, and no copy is left
(R244). -/
def State.flushLine (s : State) (line : Nat) : State :=
  let s := s.dirRecall line 128
  { s with frames := s.frames.map (fun f => if f.block == line / 65536 then
      { f with dirty := f.dirty.filter (· != line % 65536 / 512) } else f) }

/-- CINV of a line: it leaves the L1 slices of a core's cluster, and its replicas are dropped (R244). -/
def State.dropL1 (s : State) (core line : Nat) : State :=
  let k := s.l1Core core line
  let s := s.dropReplicas line
  let dir := s.dir.map (fun d =>
    if d.die == dieOf k && d.sharers.getLsbD (k % coresPerDie) && overlaps d.base d.size line 128 then
      { d with sharers := d.sharers &&& ~~~(1#290 <<< (k % coresPerDie)), st := if d.st == .o then .s else d.st } else d)
  { s with dir := dir, stale := s.stale.filter (fun x => !(x.core == k && overlaps (x.sec * 32) 32 line 128)) }

/-- What a maintenance access does to its line: nothing on HOME 0, HOME 1, HOME 3 and EFFECTS pages (R244). -/
def State.maintainLine (s : State) (a : Access) : State :=
  let leaf := a.leaf.toNat
  if pteHome leaf != 2 || pteEffects leaf then s
  else
    match a.instr with
    | .cflush .. => s.flushLine a.pa
    | _ => s.dropL1 a.core a.pa

/-- A line of a PERSIST page becomes durable as it stands (R226, R245). -/
def State.persistLine (s : State) (line : Nat) : State :=
  { s with notDurable := s.notDurable.filter (fun p => !(line / 32 ≤ p.1 && p.1 < line / 32 + 4)) }

/-- The accesses of a maintenance operation, when all of them may be made. -/
def State.lineAccs (s : State) (op : Nat) (k : AccKind) : Option (List Access) :=
  let mine := s.accs.filter (fun a => a.op == op && a.kind == k)
  let ids := mine.map (·.id)
  let ready := fun (a : Access) => s.mayPerform { a with after := a.after.filter (fun i => !ids.contains i) }
  if !mine.isEmpty && mine.all ready then some mine else none

/-- CACHE_MAINTENANCE_DONE of the operation that the subject names (R244). -/
def execCacheMaintenanceDone (s : State) : Out :=
  .next (match s.lineAccs s.subj.id .maintain with
    | some mine => (mine.foldl (fun s a => (s.maintainLine a).dropAcc a) s.settleU).wakeResult s.subj.id
    | none => s)

/-- PERSIST_DONE of the operation that the subject names (R245). -/
def execPersistDone (s : State) : Out :=
  .next (match s.lineAccs s.subj.id .persist with
    | some mine => (mine.foldl (fun s a => (s.persistLine a.pa).dropAcc a) s.settleU).wakeResult s.subj.id
    | none => s)

end Sys2Proof.Machine
end

