-- ==== Sys2Proof/Machine/Atomics.lean ====
section
/-! DEFINITION. Majors 0x28 and 0x29 and the compare-and-swaps of 0x2A (15 R292–R305). -/
namespace Sys2Proof.Machine

/-! ## Instructions at issue (R292–R294) -/

/-- The lane of an atomic: address, and operands b, or n and c (R294, R412). -/
def State.atomLane (s : State) (b : Bundle) (i : Instr) (t : Nat) : Lane :=
  let l := s.operands b.hints t (formOf b.hints i)
  let n := tyWidth (hTy b.hints 7) / 8
  dataLane t (s.kAddr b.hints t (arg l 0) (bit (hXmod b.hints) 2) n) (arg l 1) (arg l 2)

/-- ATOM (R295). -/
def execAtom (d a b : BitVec 7) (o : BitVec 4) (s : State) : Out :=
  s.memOut (.atom d a b o) true (fun s bd t => s.atomLane bd (.atom d a b o) t)
/-- RED (R295, R304). -/
def execRed (a b : BitVec 7) (o : BitVec 4) (s : State) : Out :=
  s.memOut (.red a b o) true (fun s bd t => s.atomLane bd (.red a b o) t)
/-- ATOMS (R295). -/
def execAtoms (d a b : BitVec 7) (o : BitVec 4) (s : State) : Out :=
  s.memOut (.atoms d a b o) true (fun s bd t => s.atomLane bd (.atoms d a b o) t)
/-- REDS (R295). -/
def execReds (a b : BitVec 7) (o : BitVec 4) (s : State) : Out :=
  s.memOut (.reds a b o) true (fun s bd t => s.atomLane bd (.reds a b o) t)
/-- ATOMCAS (R285, R295). -/
def execAtomcas (d a b : BitVec 7) (s : State) : Out :=
  s.memOut (.atomcas d a b) true (fun s bd t => s.atomLane bd (.atomcas d a b) t)
/-- ATOMSCAS (R285, R295). -/
def execAtomscas (d a b : BitVec 7) (s : State) : Out :=
  s.memOut (.atomscas d a b) true (fun s bd t => s.atomLane bd (.atomscas d a b) t)

/-- Passing lanes of an atomic go to their places (R301, R303). -/
def State.passAtomic (s : State) (o : Op) (ok : List (Lane × Passed)) : State :=
  let n := elemSize o.instr o.hints
  let order := bits (hXmod o.hints) 0 2
  ok.foldl (fun s q => (s.addAccess o q.1 q.2
    { kind := .atomic, size := n, x := q.1.x, y := q.1.y, strong := hStrong o.hints,
      acq := order == 1 || order == 3 || bit (hXmod o.hints) 3, rel := order == 2 || order == 3 }).passThread o q.1.tid) s

/-! ## The operation (R295, R296) -/

/-- The new value of an element, or none for a compare-and-swap that fails: `b` and `c` are the operands (R295). -/
def atomNew (op ty old b c : Nat) : Option Nat :=
  match op with
  | 6 => some b
  | 7 => some (if old ≥ b then 0 else old + 1)
  | 8 => some (if old = 0 || old > b then b else old - 1)
  | 16 => if old = c then some b else none
  | _ => some (combine op ty old b)

/-! ## The update-only state (R304) -/

/-- The identity that an update-only element starts at (R304). -/
def uIdentity (op ty : Nat) : Nat :=
  let w := tyWidth ty
  if tyFloat ty then
    let inf := if ty = 14 then 0x7FF0000000000000 else 0x7F800000
    match op with
    | 1 => inf
    | 2 => inf + 2 ^ (w - 1)
    | _ => 0
  else
    match op with
    | 1 => if tySigned ty then 2 ^ (w - 1) - 1 else 2 ^ w - 1
    | 2 => if tySigned ty then 2 ^ (w - 1) else 0
    | 3 => 2 ^ w - 1
    | _ => 0

/-- A reduction may be folded into an update-only copy (R299, R304); a sector of a PERSIST page, or one under another
key, is taken to its home, and so is a MIN or MAX of floats, whose result R304 makes independent of grouping (log 41). -/
def State.uAllowed (s : State) (a : Access) : Bool :=
  let leaf := a.leaf.toNat
  let k := s.l1Core a.core a.pa
  let sec := sectorOf a.pa
  (formOf a.hints a.instr).dst.isNone && !a.strong && !a.acq && !a.rel && atomCode a.instr ≤ 5 && !isScratchOp a.instr &&
    !(tyFloat (hTy a.hints 7) && (atomCode a.instr == 1 || atomCode a.instr == 2)) && pteHome leaf == 2 &&
    !ptePersist leaf && (List.range 4).all (fun i => !s.isPoisoned (sec / 4 * 4 + i)) && (pteKey leaf == 0 || s.sectorKey.find sec == some (pteKey leaf)) &&
    !s.keyMismatch sec (pteKey leaf) && !s.monitors.any (fun m => m.pa / 128 == a.pa / 128) &&
    !s.dir.any (fun d => d.st == .o && overlaps d.base d.size (a.pa / 128 * 128) 128 &&
      !(d.die == dieOf k && d.sharers.getLsbD (k % coresPerDie)))

/-- Whether a reduction is folded: where it may be, a free value says (R304). -/
def State.uChoice (s : State) (a : Access) : Bool × State :=
  if s.uAllowed a then
    let (v, s) := s.free
    (v.getLsbD 0, s)
  else (false, s)

/-- A cluster's slice obtains a line in the update-only state: the slices that hold it so are its sharers, and no other copy of
it is left (R218, R304). -/
def State.grantU (s : State) (k loc : Nat) : State :=
  let base := loc / 128 * 128
  let has := fun (die : Nat) => s.dir.any (fun d => d.st == .u && d.die == die && d.base == base)
  let add := fun (dir : List DirEntry) (die bit : Nat) =>
    if has die then dir.map (fun d => if d.st == .u && d.die == die && d.base == base then
        { d with sharers := d.sharers ||| (1#290 <<< bit) } else d)
    else dir ++ [{ die := die, base := base, size := 128, st := .u, sharers := 1#290 <<< bit }]
  let rest := s.dir.filter (fun d => d.st == .u || !overlaps d.base d.size base 128)
  let dir := add rest (dieOf k) (k % coresPerDie)
  { s with dir := if homeDie loc == dieOf k then dir else add dir (homeDie loc) 144,
           replicas := s.replicas.filter (fun r => r.line != base / 128),
           stale := s.stale.filter (fun x => !overlaps (x.sec * 32) 32 base 128) }

/-- Folds a reduction into its cluster's update-only copy (R304, R305). Copies of the line under another operation or
type are combined first. -/
def State.foldU (s : State) (a : Access) : State :=
  let k := s.l1Core a.core a.pa
  let op := atomCode a.instr
  let ty := hTy a.hints 7
  let s := (s.combineWhere (fun u => u.pa / 128 == a.pa / 128 && (u.op != op || u.ty != ty))).grantU k a.pa
  let mine := fun (u : UCopy) => u.die == dieOf k && u.sharer == k % coresPerDie && u.pa == a.pa
  let s := if s.ucopies.any mine then
      { s with ucopies := s.ucopies.map (fun u =>
          if mine u then { u with val := BitVec.ofNat 64 (combine op ty u.val.toNat a.x.toNat) } else u) }
    else
      let u : UCopy := { die := dieOf k, sharer := k % coresPerDie, pa := a.pa, op := op, ty := ty,
                         val := BitVec.ofNat 64 (combine op ty (uIdentity op ty) a.x.toNat) }
      { s with ucopies := s.ucopies ++ [u] }
  s.dropAcc a

/-! ## A lane at its place (R295, R297, R299) -/

/-- An access to host memory that its home does not complete as an AtomicOp (R298, R300). -/
def unsupported (a : Access) : Bool :=
  !isScratchOp a.instr && pteHome a.leaf.toNat == 3 && isHostMem a.pa && !hostAtomics

/-- What an atomic lane orders once its outcome is known: a write by its ORDER; a compare that fails only loads, and
acquires only with .FACQ (R285, R303). -/
def State.orderAtomic (s : State) (a : Access) (wrote : Bool) : State :=
  let order := bits (hXmod a.hints) 0 2
  let acq := if wrote then order == 1 || order == 3 else bit (hXmod a.hints) 3
  let s := if a.rel && wrote then s.publish a.core a.ctx a.scope none else s
  let s := if a.strong || acq then s.seeSector a.core a.pa else s
  if acq then s.acquire a.core a.ctx a.scope none else s

/-- Applies one lane at its place: one read and one write in one step; vd receives what was there before. A lane at a
poisoned element, or one that the host answers with an Unsupported Request, applies nothing, and its thread traps (R299,
R300). -/
def State.applyAtomic (s : State) (a : Access) : State :=
  let leaf := a.leaf.toNat
  let f := formOf a.hints a.instr
  let (s, ok) := s.consume a.pa (pteKey leaf)
  let s := s.dropAcc a
  if !ok then s.lateTrap a .poison
  else if unsupported a then s.lateTrap a .atomType
  else
    let old := s.readN a.pa a.size
    let s := match atomNew (atomCode a.instr) (hTy a.hints 7) old a.x.toNat a.y.toNat with
      | some v =>
        (((s.noteWrite a.core a.ctx a.va.toNat a.strong leaf a.pa).orderAtomic a true).storeLeaf a.pa leaf
          (bytesOf a.size v)).notice a.pa a.size
      | none => (s.noteRead a.core leaf a.pa).orderAtomic a false
    match f.dst with
    | some d => if s.aliveAt a.tid then s.writeDst a.tid d.code d.width old else s
    | none => s

/-- Lanes of one operation on one element, in ascending lane order, when every one may be applied (R297). -/
def State.sameElement (s : State) (a : Access) : List Access :=
  let mine := s.accs.filter (fun e => e.op == a.op && e.pa == a.pa && e.kind == .atomic)
  let ids := mine.map (·.id)
  let ready := fun (e : Access) => s.mayPerform { e with after := e.after.filter (fun i => !ids.contains i) }
  if mine.all ready then sortBy (fun x y => decide (laneOf x.tid ≤ laneOf y.tid)) mine else []

end Sys2Proof.Machine
end

