-- ==== Sys2Proof/Machine/Reads.lean ====
section
/-! DEFINITION. Weak loads that a unit makes for a thread or a context in aligned words of 8 bytes: walks, descriptors,
blocks, code objects (12 R236; 17 R349; 20 R433). -/
namespace Sys2Proof.Machine

/-- Why a unit's read does not go on. -/
inductive WStop where
  /-- an access fails its checks: address, and whether it was a write -/
  | fail (f : Fail) (a : Nat) (write : Bool)
  /-- status FORMAT (R350) -/
  | format
  /-- a port does not answer yet (R19) -/
  | wait
  deriving DecidableEq, Repr

/-- A unit's weak load waits for an earlier access of the threads it reads for: a write of its bytes, and on EFFECTS pages any
(R224, R235, R273). -/
def State.readsBehind (s : State) (own : List Nat) (leaf loc : Nat) : Bool :=
  s.accs.any (fun e => own.contains e.tid &&
    ((e.kind != .load && overlaps e.pa e.size loc 8) || (pteEffects leaf && pteEffects e.leaf.toNat)))

/-- Reads `n` words of 8 bytes from an address for a context, with supervisor or user rights; `bvh` for a structure of a
scene, which stands on no EFFECTS or HOME 3 page (R349); `own` are the threads whose loads they are. Update-only copies are
combined first (R284, R304). A port that does not answer, or a flip of the page, makes the read wait (R19, R223). -/
def State.readWords (s : State) (core c : Nat) (sup bvh : Bool) (own : List Nat) : Nat → Nat → State × Except WStop (List DWord)
  | 0, _ => (s, .ok [])
  | n + 1, a =>
    let a := a % 2 ^ 64
    match s.check core c sup .read a with
    | (s, .error .wait) => (s, .error .wait)
    | (s, .error f) => (s, .error (.fail f a false))
    | (s, .ok p) =>
      if bvh && (pteEffects p.leaf || pteHome p.leaf == 3) then (s, .error (.fail (.trap .permission) a false))
      else if !s.answers p.loc || s.readsBehind own p.leaf p.loc then (s.holdFor p.loc, .error .wait)
      else
        match s.settleU.consume p.loc (pteKey p.leaf) with
        | (s, false) => (s, .error (.fail (.trap .poison) a false))
        | (s, true) =>
          let (s, v) := (s.noteRead core p.leaf p.loc).readWeak core p.loc 8
          match s.readWords core c sup bvh own n (a + 8) with
          | (s, .ok r) => (s, .ok (BitVec.ofNat 64 v :: r))
          | e => e

/-- Reads `n` words of 8 bytes as weak loads of a thread of an operation. -/
def State.walkRead (s : State) (o : Op) (t : Nat) (bvh : Bool) (n a : Nat) : State × Except WStop (List DWord) :=
  s.readWords o.core o.ctx (s.isSup t) bvh [t] n a

/-- Reads `n` bytes from any address for a context, as a number. -/
def State.readSpan (s : State) (core c : Nat) (sup : Bool) (a n : Nat) : State × Except WStop Nat :=
  match s.readWords core c sup false [] ((a % 8 + n + 7) / 8) (a / 8 * 8) with
  | (s, .error e) => (s, .error e)
  | (s, .ok ws) =>
    (s, .ok ((ws.mapIdx (fun i w => w.toNat * 2 ^ (64 * i))).foldl (· + ·) 0 / 2 ^ (8 * (a % 8)) % 2 ^ (8 * n)))

/-- A thread's earlier acquires have been performed: what its unit reads is ordered after them (R273). -/
def State.readsReady (s : State) (t : Nat) : Bool := !s.accs.any (fun a => a.tid == t && a.acq)

end Sys2Proof.Machine
end

