-- ==== Sys2Proof/Machine/CodeObj.lean ====
section
/-! DEFINITION. Code objects as the device reads them: header, section table, kernel table and XOP table
(02 R35–R38). -/
namespace Sys2Proof.Machine

/-- A section-table entry (R36). -/
structure Section where
  kind : Nat
  off : Nat
  size : Nat
  deriving DecidableEq, Repr

/-- A header that meets R35 and R36, with its section table. -/
structure CodeObj where
  features : Nat
  kernels : Nat
  xops : Nat
  ktab : Nat
  xtab : Nat
  sections : List Section
  deriving DecidableEq, Repr

/-- A kernel-table entry (R37). -/
structure Kernel where
  entry : Nat
  regs : Nat
  energy : Nat
  teamGroups : Nat
  scratch : Nat
  /-- the bytes of NAME -/
  name : Nat
  deriving DecidableEq, Repr

/-- An XOP-table entry (R38). -/
structure XopEntry where
  index : Nat
  count : Nat
  off : Nat
  /-- the bytes of NAME -/
  name : Nat
  deriving DecidableEq, Repr

/-- The section of a kind. -/
def CodeObj.section? (o : CodeObj) (kind : Nat) : Option Section := o.sections.find? (fun x => x.kind == kind)

/-- Bytes of a number, from byte `at_` for `n`. -/
def bfield (x at_ n : Nat) : Nat := bits x (8 * at_) (8 * n)

/-- A section-table entry, if it meets R36 on its own. -/
def parseSection (x : Nat) : Option Section :=
  let kind := bfield x 0 1
  let al := bfield x 1 1
  let size := bfield x 8 4
  if 1 ≤ kind && kind ≤ 4 && 2 ≤ al && al ≤ 12 && bfield x 2 2 == 0 && bfield x 12 4 == 0 &&
      ((kind != 1 && kind != 4) || size % 4 == 0) then
    some { kind := kind, off := bfield x 4 4, size := size }
  else none

/-- Every element of a list, or none. -/
def allSome {α : Type} : List (Option α) → Option (List α)
  | [] => some []
  | none :: _ => none
  | some x :: r => (allSome r).map (x :: ·)

/-- A header and the section table it names (R35, R36). DESIGN CHOICE: SECT_OFF, KTAB_OFF and XTAB_OFF have no limit, for
which the spec gives none (log 82). -/
def parseObj (h t : Nat) : Option CodeObj :=
  let n := bfield h 0x2C 2
  let kernels := bfield h 0x28 2
  let xops := bfield h 0x2A 2
  if bfield h 0 4 == 0x5A39C0DE && bfield h 4 2 == 1 && bfield h 6 2 == 0 && 1 ≤ kernels && kernels ≤ 256 &&
      xops ≤ 64 && 1 ≤ n && n ≤ 4 && bfield h 0x2E 2 == 0 && (xops != 0 || bfield h 0x38 4 == 0) &&
      bfield h 0x3C 4 == 0 then
    match allSome ((List.range n).map (fun i => parseSection (bfield t (16 * i) 16))) with
    | some ss =>
      if (ss.head?.map (·.kind)) == some 1 && (dedupBy (fun x : Section => x.kind) ss).length == ss.length then
        some { features := bfield h 8 32, kernels := kernels, xops := xops, ktab := bfield h 0x34 4,
               xtab := bfield h 0x38 4, sections := ss }
      else none
    | none => none
  else none

/-- The `n` bytes of a NAME field are characters up to a maximum, then zeros (R37, R38). -/
def nameOk (n top x : Nat) : Bool :=
  (List.range n).all (fun i => bfield x i 1 ≤ top && (bfield x i 1 == 0 || i == 0 || bfield x (i - 1) 1 != 0))

/-- A kernel-table entry that meets R37, its entry point inside text. -/
def parseKernel (o : CodeObj) (x : Nat) : Option Kernel :=
  let k : Kernel :=
    { entry := bfield x 0 4, regs := bfield x 4 1, energy := bfield x 5 1, teamGroups := bfield x 6 1,
      scratch := bfield x 8 4, name := bfield x 16 16 }
  let text := ((o.section? 1).map (·.size)).getD 0
  if k.entry % 4 == 0 && k.entry < text && 1 ≤ k.regs && k.regs ≤ 120 && k.regs % 2 == 0 && k.energy ≤ 7 &&
      k.teamGroups ≤ 32 && bfield x 7 1 == 0 && k.scratch % 1024 == 0 && k.scratch ≤ 262144 && bfield x 12 4 == 0 &&
      nameOk 16 127 k.name then
    some k
  else none

/-- An XOP-table entry that meets R38, its words inside the cstore section. -/
def parseXop (o : CodeObj) (x : Nat) : Option XopEntry :=
  let e : XopEntry := { index := bfield x 0 1, count := bfield x 2 2, off := bfield x 4 4, name := bfield x 8 8 }
  let size := ((o.section? 4).map (·.size)).getD 0
  if e.index ≤ 63 && bfield x 1 1 == 0 && 1 ≤ e.count && e.count ≤ 1024 && e.off % 4 == 0 && e.off + 4 * e.count ≤ size &&
      nameOk 8 255 e.name then
    some e
  else none

/-- Reads a header and its section table; `none` where they break R35 or R36. -/
def State.readObj (s : State) (core c : Nat) (sup : Bool) (a : Nat) : State × Except WStop (Option CodeObj) :=
  match s.readSpan core c sup a 64 with
  | (s, .error e) => (s, .error e)
  | (s, .ok h) =>
    if bfield h 0 4 != 0x5A39C0DE || bfield h 0x2C 2 == 0 || 4 < bfield h 0x2C 2 then (s, .ok none)
    else
      match s.readSpan core c sup (a + bfield h 0x30 4) (16 * bfield h 0x2C 2) with
      | (s, .error e) => (s, .error e)
      | (s, .ok t) => (s, .ok (parseObj h t))

/-- Reads entry `i` of the kernel table (R37). -/
def State.readKernel (s : State) (core c : Nat) (sup : Bool) (a : Nat) (o : CodeObj) (i : Nat) :
    State × Except WStop (Option Kernel) :=
  match s.readSpan core c sup (a + o.ktab + 32 * i) 32 with
  | (s, .error e) => (s, .error e)
  | (s, .ok x) => (s, .ok (parseKernel o x))

/-- Reads entries 0 to n − 1 of the kernel table and says whether all meet R37. -/
def State.kernelsOk (s : State) (core c : Nat) (sup : Bool) (a : Nat) (o : CodeObj) : Nat → State × Except WStop Bool
  | 0 => (s, .ok true)
  | n + 1 =>
    match s.kernelsOk core c sup a o n with
    | (s, .ok true) =>
      match s.readKernel core c sup a o n with
      | (s, .error e) => (s, .error e)
      | (s, .ok k) => (s, .ok k.isSome)
    | r => r

/-- Reads the XOP table (R38); `none` where an entry breaks it or two share an INDEX. -/
def State.readXops (s : State) (core c : Nat) (sup : Bool) (a : Nat) (o : CodeObj) :
    State × Except WStop (Option (List XopEntry)) :=
  match s.readSpan core c sup (a + o.xtab) (16 * o.xops) with
  | (s, .error e) => (s, .error e)
  | (s, .ok x) =>
    match allSome ((List.range o.xops).map (fun i => parseXop o (bfield x (16 * i) 16))) with
    | some es => (s, .ok (if (dedupBy (fun e : XopEntry => e.index) es).length == es.length then some es else none))
    | none => (s, .ok none)

end Sys2Proof.Machine
end

