-- ==== Sys2Proof/Machine/Transc.lean ====
section
/-! DEFINITION. The approximations of 08 R158 and R159: the special values, and for every other input a value that the
spec leaves open within a bound. The open value is `specialValue`, kept where an enclosure of the exact result shows
that it meets the bound; where it does not, the exact result rounded to nearest stands in (log 13). -/
namespace Sys2Proof.Machine

/-! ## Enclosures in fixed point -/

/-- Fraction bits of the enclosures. -/
def fxP : Nat := 256
/-- floor(ln 2 × 2^256). -/
def fxLn2 : Int :=
  0xB17217F7D1CF79ABC9E3B39803F2F6AF40F343267298B62D8A0D175B8BAAFA2B
/-- floor(π × 2^256). -/
def fxPi : Int :=
  0x3243F6A8885A308D313198A2E03707344A4093822299F31D0082EFA98EC4E6C89
/-- Half the width of an enclosure, in units of 2^−256: far above the error of every series below. -/
def fxErr : Int := 2 ^ 40
/-- Product of two fixed-point numbers. -/
def fxMul (a b : Int) : Int := a * b / 2 ^ fxP

/-- Sum of `n` terms of a series whose next term is `step i term`, from term `i`. -/
def fxSeries (step : Nat → Int → Int) : Nat → Nat → Int → Int
  | 0, _, _ => 0
  | n + 1, i, t => t + fxSeries step n (i + 1) (step i t)

/-- exp of a fixed-point number in [0, 1). -/
def fxExp (x : Int) : Int := fxSeries (fun i t => fxMul t x / (i + 1 : Nat)) 64 0 (2 ^ fxP)
/-- sin of a fixed-point number in [−1, 1]. -/
def fxSin (x : Int) : Int :=
  fxSeries (fun i t => -(fxMul (fxMul t x) x) / ((2 * i + 2) * (2 * i + 3) : Nat)) 36 0 x
/-- cos of a fixed-point number in [−1, 1]. -/
def fxCos (x : Int) : Int :=
  fxSeries (fun i t => -(fxMul (fxMul t x) x) / ((2 * i + 1) * (2 * i + 2) : Nat)) 36 0 (2 ^ fxP)
/-- Sum of z^(2i+1)/(2i+1), `n` terms. -/
def fxAtanh (z2 : Int) : Nat → Nat → Int → Int
  | 0, _, _ => 0
  | n + 1, i, t => t / (2 * i + 1 : Nat) + fxAtanh z2 n (i + 1) (fxMul t z2)

/-- Newton's steps towards the integer square root of `n` from above. -/
def isqrtFrom (n : Nat) : Nat → Nat → Nat
  | 0, g => g
  | k + 1, g =>
    let g' := (g + n / g) / 2
    if g' < g then isqrtFrom n k g' else g
/-- The integer square root. -/
def isqrt (n : Nat) : Nat := if n = 0 then 0 else isqrtFrom n 64 (2 ^ (Nat.log2 n / 2 + 1))

/-- An enclosure of an exact result: signed numerators over one denominator. -/
structure Encl where
  lo : Int
  hi : Int
  den : Nat
  deriving DecidableEq, Repr

/-- The enclosure around a fixed-point number, times 2^k. -/
def fxEncl (x : Int) (k : Int) : Encl :=
  if k ≥ 0 then { lo := (x - fxErr) * 2 ^ k.toNat, hi := (x + fxErr) * 2 ^ k.toNat, den := 2 ^ fxP }
  else { lo := x - fxErr, hi := x + fxErr, den := 2 ^ (fxP + (-k).toNat) }

/-- 2^x, |x| ≤ 150. -/
def enclExp2 (n : Int) (d : Nat) : Encl :=
  let k := Num.floorDiv n d
  let f := (n - k * d) * 2 ^ fxP / d
  fxEncl (fxExp (fxMul f fxLn2)) k

/-- log2 x, x = n/d > 0. -/
def enclLog2 (n d : Nat) : Encl :=
  let k := Num.log2Floor n d
  let (a, b) := if k ≥ 0 then (n, d * 2 ^ k.toNat) else (n * 2 ^ (-k).toNat, d)
  let z : Int := ((a : Int) - b) * 2 ^ fxP / ((a + b : Nat) : Int)
  let ln := 2 * fxAtanh (fxMul z z) 84 0 z
  fxEncl (k * 2 ^ fxP + ln * 2 ^ fxP / fxLn2) 0

/-- sin x or cos x, |x| ≤ 2^20: x less the nearest multiple of π/2, in the quadrant it falls in. -/
def enclSin (cos : Bool) (n : Int) (d : Nat) : Encl :=
  let x := n * 2 ^ fxP / (d : Int)
  let q := (2 * x + fxPi / 2) / fxPi
  let r := x - q * fxPi / 2
  match ((q + if cos then 1 else 0) % 4).toNat with
  | 0 => fxEncl (fxSin r) 0
  | 1 => fxEncl (fxCos r) 0
  | 2 => fxEncl (-(fxSin r)) 0
  | _ => fxEncl (-(fxCos r)) 0

/-- tanh x, x = n/d > 0: between x − x³/3 and x for a small x, near 1 for a large one, else from exp 2x. -/
def enclTanh (n d : Nat) : Encl :=
  if n * 2 ^ 24 < d then
    { lo := 3 * (n * d ^ 2 : Nat) - (n ^ 3 : Nat), hi := (3 * n * d ^ 2 : Nat), den := 3 * d ^ 3 }
  else if n > 24 * d then { lo := 2 ^ 60 - 1, hi := 2 ^ 60, den := 2 ^ 60 }
  else
    let x : Int := (2 * n * 2 ^ fxP / d : Nat)
    let k := x / fxLn2
    let e := fxExp (x - k * fxLn2) * 2 ^ k.toNat
    fxEncl ((e - 2 ^ fxP) * 2 ^ fxP / (e + 2 ^ fxP)) 0

/-- 1/√x, x = n/d > 0. -/
def enclRsqrt (n d : Nat) : Encl :=
  let p := 2 ^ 1400
  let r := isqrt (d * p * p / n)
  { lo := r, hi := r + 1, den := p }

/-! ## Keeping a value within its bound (R158) -/

/-- What R158 bounds the error by: a number of ulp of the exact result, or an absolute amount n/d. -/
inductive Bound where
  | ulp (n : Nat)
  | absolute (n d : Nat)
  deriving DecidableEq, Repr

/-- The absolute error that a bound allows, as a numerator and a denominator, for a result enclosed by `e`. Where the ends
lie in two binades, the exact result is the power of two between them, except that it lies below an outer end that is the
power itself. -/
def boundOf (f : Fmt) (b : Bound) (e : Encl) : Nat × Nat :=
  match b with
  | .absolute n d => (n, d)
  | .ulp n =>
    let m := max (min e.lo.natAbs e.hi.natAbs) (max e.lo.natAbs e.hi.natAbs - 1)
    let k : Int := if m = 0 then 1 - (f.bias : Int) else max (Num.log2Floor m e.den) (1 - (f.bias : Int))
    let q := k - f.m
    if q ≥ 0 then (n * 2 ^ q.toNat, 1) else (n, 2 ^ (-q).toNat)

/-- Zero for a result below the smallest normal that does not round to it: a flush, which R158 excludes. -/
def flushes (f : Fmt) (e : Encl) (n : Nat) : Bool :=
  n == 0 && decide (e.den < min e.lo.natAbs e.hi.natAbs * 2 ^ (f.bias + f.m)) &&
    decide (max e.lo.natAbs e.hi.natAbs * 2 ^ (f.bias - 1) < e.den)

/-- The encoding `c` is finite, no flush to zero, and within the bound of every value of the enclosure (R158). -/
def within (f : Fmt) (b : Bound) (e : Encl) (c : Nat) : Bool :=
  match f.read c with
  | .fin s n d =>
    let v : Int := if s then -(n : Int) else n
    let (bn, bd) := boundOf f b e
    let gap := fun (y : Int) => decide ((v * e.den - y * d).natAbs * bd ≤ bn * d * e.den)
    !flushes f e n && gap e.lo && gap e.hi
  | _ => false

/-- The value returned for operand encoding `x` of function `fn`: the open value where it lies within the bound and
meets `also`, else the exact result rounded to nearest (R158). -/
def openValue (f : Fmt) (fn x : Nat) (b : Bound) (e : Encl) (also : Num → Bool) : Nat :=
  let c := (specialValue fn (BitVec.ofNat 64 x)).toNat % 2 ^ (f.signBit + 1)
  if within f b e c && also (f.read c) then c else (deliver f {} false (Num.ofInt e.lo e.den)).1

/-- −1 ≤ v ≤ 1. -/
def inUnit (v : Num) : Bool :=
  match v with
  | .fin _ n d => decide (n ≤ d)
  | _ => false

/-- Numbers of the approximations in `specialValue`. -/
inductive Fn where
  | rcp | rsq | ex2 | lg2 | sin | cos | tanh | drcp | drsq
  deriving DecidableEq, Repr

/-- The number of a function. -/
def Fn.code : Fn → Nat
  | .rcp => 0 | .rsq => 1 | .ex2 => 2 | .lg2 => 3 | .sin => 4 | .cos => 5 | .tanh => 6 | .drcp => 7 | .drsq => 8

/-- The result and the conditions of an approximation (R158, R159, R196). -/
def approx (fn : Fn) (x : Nat) : Nat × BitVec 5 :=
  let f := fmtOf (match fn with
    | .drcp => 14
    | .drsq => 14
    | _ => 15)
  let v := f.read x
  let one := (deliver f {} false (Num.ofInt 1)).1
  match v with
  | .nan s => (f.nanCode, cIf s cIV)
  | .inf s =>
    match fn with
    | .rcp | .drcp => (f.withSign s 0, 0)
    | .rsq | .drsq => if s then (f.nanCode, cIV) else (0, 0)
    | .ex2 => if s then (0, 0) else (f.infCode, 0)
    | .lg2 => if s then (f.nanCode, cIV) else (f.infCode, 0)
    | .sin | .cos => (f.nanCode, cIV)
    | .tanh => (f.withSign s one, 0)
  | .fin s 0 _ =>
    match fn with
    | .rcp | .drcp | .rsq | .drsq => (f.withSign s f.infCode, cDZ)
    | .lg2 => (f.withSign true f.infCode, cDZ)
    | .ex2 | .cos => (one, 0)
    | .sin | .tanh => (f.withSign s 0, 0)
  | .fin s n d =>
    let top : Int := if s then -(n : Int) else n
    match fn with
    | .rcp | .drcp =>
      let e : Encl := { lo := if s then -(d : Int) else d, hi := if s then -(d : Int) else d, den := n }
      let r := deliver f { mode := 1 } false (.fin s d n)
      if r.1 % 2 ^ f.signBit = f.maxCode && r.2 != 0 then (f.withSign s f.infCode, 0)
      else (openValue f fn.code x (.ulp 1) e (fun _ => true), 0)
    | .rsq | .drsq =>
      if s then (f.nanCode, cIV) else (openValue f fn.code x (.ulp 1) (enclRsqrt n d) (fun _ => true), 0)
    | .ex2 =>
      if top > 128 * d then (f.infCode, 0)
      else if top < -150 * (d : Int) then (0, 0)
      else (openValue f fn.code x (.ulp 2) (enclExp2 top d) (fun _ => true), 0)
    | .lg2 =>
      if s then (f.nanCode, cIV)
      else
        let near := decide (d ≤ 2 * n) && decide (n ≤ 2 * d)
        (openValue f fn.code x (if near then .absolute 1 (2 ^ 22) else .ulp 2) (enclLog2 n d) (fun _ => true), 0)
    | .sin | .cos =>
      if n ≤ 2 ^ 20 * d then
        (openValue f fn.code x (.absolute 1 (2 ^ 21)) (enclSin (fn == .cos) top d) (fun _ => true), 0)
      else
        let c := (specialValue fn.code (BitVec.ofNat 64 x)).toNat % 2 ^ 32
        (if inUnit (f.read c) then c else 0, 0)
    | .tanh =>
      let c := openValue f fn.code (x % 2 ^ f.signBit) (.ulp 2) (enclTanh n d) inUnit
      (f.withSign s (c % 2 ^ f.signBit), 0)

/-- FSQRT, correctly rounded (R158, R196). The root's integer part at twice the format's precision decides every mode:
a remainder stands for anything strictly between. -/
def sqrtResult (f : Fmt) (mode : Nat) (x : Nat) : Nat × BitVec 5 :=
  match f.read x with
  | .nan s => (f.nanCode, cIf s cIV)
  | .inf s => if s then (f.nanCode, cIV) else (f.infCode, 0)
  | .fin s 0 _ => (f.withSign s 0, 0)
  | .fin s n d =>
    if s then (f.nanCode, cIV)
    else
      let p := 2 ^ 300
      let y := n * p * p * d
      let r := isqrt y
      let exact := r * r == y
      let (c, k) := deliver f { mode := mode } false
        (if exact then .fin false r (p * d) else .fin false (2 * r + 1) (2 * p * d))
      (c, Nat.land k.toNat 1 |> BitVec.ofNat 5)

end Sys2Proof.Machine
end

