-- ==== Sys2Proof/Machine/Float.lean ====
section
/-! DEFINITION. Majors 0x10–0x12, 0x18, 0x19, 0x1C, 0x1D: floating point, packed halves, comparisons, approximations
and conversions (10 R188–R199). -/
namespace Sys2Proof.Machine

/-! ## Rounding of an instruction (R151, R152) -/

/-- What R152 mixes for a thread and an instruction word before the element. -/
def State.drawSeed (s : State) (t : Nat) (pc : VA) : Nat :=
  let m := s.team (s.teamOf t)
  match s.launchOf t with
  | none => srSeed (laneOf t) 0 pc.toNat
  | some q =>
    let (gx, gy, tag) := match s.launches.find q with
      | some l => (l.gx, l.gy, l.doneTag.toNat)
      | none => (0, 0, 0)
    let big := m.bind.cx + gx * (m.bind.cy + gy * m.bind.cz)
    srSeed ((((big * 12 + m.bind.team) * 32 + (s.group (gidOf t)).index) * 32 + laneOf t) % 2 ^ 32) tag pc.toNat

/-- The 32-bit draw of a thread for element `e` of the instruction word at `pc`, from the xor of its source words
(R152). -/
def State.draw (s : State) (t : Nat) (pc : VA) (e words : Nat) : Nat := srDraw (s.drawSeed t pc) e words

/-- How the run in hand delivers element `e` of thread `t`: ROUND, SAT, and the draw when ROUND is .SR. -/
def State.delivery (s : State) (b : Bundle) (t e words : Nat) : Deliver :=
  { mode := hRound b.hints, sat := hSat b.hints, draw := if hRound b.hints = 4 then s.draw t b.pc e words else 0 }

/-! ## Arithmetic (R190, R191) -/

/-- An operation on two values of a format. -/
def fp2 (ty : Nat) (op : Bool → Num → Num → Num) (b : Bundle) (s : State) (t : Nat) (l : List Nat) : Nat × BitVec 5 :=
  let f := fmtOf ty
  let x := f.read (arg l 0)
  let y := f.read (arg l 1)
  arith f (s.delivery b t 0 0) [x, y] (op (hRound b.hints == 2) x y)
/-- A fused multiply-add in a format. -/
def fp3 (ty : Nat) (b : Bundle) (s : State) (t : Nat) (l : List Nat) : Nat × BitVec 5 :=
  let f := fmtOf ty
  let x := f.read (arg l 0)
  let y := f.read (arg l 1)
  let z := f.read (arg l 2)
  arith f (s.delivery b t 0 0) [x, y, z] (Num.add (hRound b.hints == 2) (x.mul y) z)
/-- A difference. -/
def Num.sub (down : Bool) (a b : Num) : Num := Num.add down a b.negate
/-- The two halves of a packed result (R189): the element function is given each half of the operands. -/
def halves (g : List Nat → Nat × BitVec 5) (l : List Nat) : Nat × BitVec 5 :=
  let (lo, c) := g (l.map (· % 2 ^ 16))
  let (hi, k) := g (l.map (fun x => bits x 16 16))
  (hi * 2 ^ 16 + lo, c ||| k)

/-- FADD (R190). -/
def execFadd (d a b : BitVec 7) (n : Bool) (s : State) : Out := s.fpOut (.fadd d a b n) (fp2 15 Num.add)
/-- FSUB (R190). -/
def execFsub (d a b : BitVec 7) (n : Bool) (s : State) : Out := s.fpOut (.fsub d a b n) (fp2 15 Num.sub)
/-- FMUL (R190). -/
def execFmul (d a b : BitVec 7) (n : Bool) (s : State) : Out := s.fpOut (.fmul d a b n) (fp2 15 (fun _ => Num.mul))
/-- FFMA (R190). -/
def execFfma (d a b : BitVec 7) (n : Bool) (s : State) : Out := s.fpOut (.ffma d a b n) (fp3 15)
/-- FMIN (R191). -/
def execFmin (d a b : BitVec 7) (n : Bool) (s : State) : Out :=
  s.fpOut (.fmin d a b n) (fun _ _ _ l => minMax (fmtOf 15) false (arg l 0) (arg l 1))
/-- FMAX (R191). -/
def execFmax (d a b : BitVec 7) (n : Bool) (s : State) : Out :=
  s.fpOut (.fmax d a b n) (fun _ _ _ l => minMax (fmtOf 15) true (arg l 0) (arg l 1))

/-- The class of a value (R192). -/
def fclassMask (f : Fmt) (x : Nat) : Nat :=
  let sub := decide (x % 2 ^ f.signBit < 2 ^ f.m)
  2 ^ (match f.read x with
    | .nan s => if s then 8 else 9
    | .inf s => if s then 0 else 7
    | .fin s 0 _ => if s then 3 else 4
    | .fin s _ _ => if sub then (if s then 2 else 5) else (if s then 1 else 6))
/-- FCLASS (R192). -/
def execFclass (d a : BitVec 7) (n : Bool) (s : State) : Out :=
  s.aluOut (.fclass d a n) (fun h l => fclassMask (fmtOf (hTy h 15)) (arg l 0))
/-- FSCALE (R190). An exponent far outside the format's range acts as one at its edge: the result is the same. -/
def execFscale (d a b : BitVec 7) (n : Bool) (s : State) : Out :=
  s.fpOut (.fscale d a b n) (fun x s t l =>
    let f := fmtOf 15
    let v := f.read (arg l 0)
    arith f (s.delivery x t 0 0) [v] (v.scale (max (-1000) (min 1000 (signedOf 32 (arg l 1))))))
/-- FRND (R193). -/
def execFrnd (d a : BitVec 7) (n : Bool) (s : State) : Out :=
  s.fpOut (.frnd d a n) (fun x _ _ l =>
    let f := fmtOf (hTy x.hints 15)
    let v := f.read (arg l 0)
    let r := match v with
      | .fin s n d => Num.fin s (roundInt (hRound x.hints) 0 s n d).1 1
      | y => y
    ((deliver f {} false r).1, sigNan [v]))
/-- FDP2 (R190). -/
def execFdp2 (d a b : BitVec 7) (n : Bool) (s : State) : Out :=
  s.fpOut (.fdp2 d a b n) (fun x s t l =>
    let f := fmtOf (hTy x.hints 16)
    let half := fun k i => f.read (bits (arg l k) (16 * i) 16)
    let c := (fmtOf 15).read (arg l 2)
    let down := hRound x.hints == 2
    arith (fmtOf 15) (s.delivery x t 0 0) [half 0 0, half 1 0, half 0 1, half 1 1, c]
      (Num.add down (Num.add down ((half 0 0).mul (half 1 0)) ((half 0 1).mul (half 1 1))) c))
/-- DP4A (R194). -/
def execDp4a (d a b : BitVec 7) (n : Bool) (s : State) : Out :=
  s.aluOut (.dp4a d a b n) (fun h l =>
    let byte := fun (uns : Bool) k i => intVal (if uns then 5 else 1) 8 (bits (arg l k) (8 * i) 8)
    let x := (List.range 4).foldl (fun acc i => acc + byte (xmodBit h 0) 0 i * byte (xmodBit h 1) 1 i) (signedOf 32 (arg l 2))
    intResult 3 32 (hSat h) x)
/-- HADD2 (R190). -/
def execHadd2 (d a b : BitVec 7) (n : Bool) (s : State) : Out :=
  s.fpOut (.hadd2 d a b n) (fun x s t l => halves (fp2 (hTy x.hints 16) Num.add x s t) l)
/-- HMUL2 (R190). -/
def execHmul2 (d a b : BitVec 7) (n : Bool) (s : State) : Out :=
  s.fpOut (.hmul2 d a b n) (fun x s t l => halves (fp2 (hTy x.hints 16) (fun _ => Num.mul) x s t) l)
/-- HFMA2 (R190). -/
def execHfma2 (d a b : BitVec 7) (n : Bool) (s : State) : Out :=
  s.fpOut (.hfma2 d a b n) (fun x s t l => halves (fp3 (hTy x.hints 16) x s t) l)
/-- HMAX2 (R191). -/
def execHmax2 (d a b : BitVec 7) (n : Bool) (s : State) : Out :=
  s.fpOut (.hmax2 d a b n) (fun x _ _ l =>
    halves (fun e => minMax (fmtOf (hTy x.hints 16)) true (arg e 0) (arg e 1)) l)

/-- A comparison of two values of a format (R195). -/
def fcmp (ty cc : Nat) (l : List Nat) : Bool × BitVec 5 :=
  let x := (fmtOf ty).read (arg l 0)
  let y := (fmtOf ty).read (arg l 1)
  (fcond cc x y, sigNan [x, y])
/-- FSETP (R195). -/
def execFsetp (p : BitVec 3) (a b : BitVec 7) (c : BitVec 4) (s : State) : Out :=
  s.predOut (.fsetp p a b c) p (fun _ _ _ l => fcmp 15 c.toNat l)
/-- DADD (R190). -/
def execDadd (d a b : BitVec 7) (n : Bool) (s : State) : Out := s.fpOut (.dadd d a b n) (fp2 14 Num.add)
/-- DMUL (R190). -/
def execDmul (d a b : BitVec 7) (n : Bool) (s : State) : Out := s.fpOut (.dmul d a b n) (fp2 14 (fun _ => Num.mul))
/-- DFMA (R190). -/
def execDfma (d a b : BitVec 7) (n : Bool) (s : State) : Out := s.fpOut (.dfma d a b n) (fp3 14)
/-- DMIN (R191). -/
def execDmin (d a b : BitVec 7) (n : Bool) (s : State) : Out :=
  s.fpOut (.dmin d a b n) (fun _ _ _ l => minMax (fmtOf 14) false (arg l 0) (arg l 1))
/-- DMAX (R191). -/
def execDmax (d a b : BitVec 7) (n : Bool) (s : State) : Out :=
  s.fpOut (.dmax d a b n) (fun _ _ _ l => minMax (fmtOf 14) true (arg l 0) (arg l 1))
/-- DSETP (R195). -/
def execDsetp (p : BitVec 3) (a b : BitVec 7) (c : BitVec 4) (s : State) : Out :=
  s.predOut (.dsetp p a b c) p (fun _ _ _ l => fcmp 14 c.toNat l)

/-! ## Approximations (R158, R159, R196) -/

/-- DRCP. -/
def execDrcp (d a : BitVec 7) (n : Bool) (s : State) : Out := s.fpOut (.drcp d a n) (fun _ _ _ l => approx .drcp (arg l 0))
/-- DRSQ. -/
def execDrsq (d a : BitVec 7) (n : Bool) (s : State) : Out := s.fpOut (.drsq d a n) (fun _ _ _ l => approx .drsq (arg l 0))
/-- FRCP. -/
def execFrcp (d a : BitVec 7) (n : Bool) (s : State) : Out := s.fpOut (.frcp d a n) (fun _ _ _ l => approx .rcp (arg l 0))
/-- FRSQ. -/
def execFrsq (d a : BitVec 7) (n : Bool) (s : State) : Out := s.fpOut (.frsq d a n) (fun _ _ _ l => approx .rsq (arg l 0))
/-- FSQRT. -/
def execFsqrt (d a : BitVec 7) (n : Bool) (s : State) : Out :=
  s.fpOut (.fsqrt d a n) (fun x _ _ l => sqrtResult (fmtOf 15) (hRound x.hints) (arg l 0))
/-- FEX2. -/
def execFex2 (d a : BitVec 7) (n : Bool) (s : State) : Out := s.fpOut (.fex2 d a n) (fun _ _ _ l => approx .ex2 (arg l 0))
/-- FLG2. -/
def execFlg2 (d a : BitVec 7) (n : Bool) (s : State) : Out := s.fpOut (.flg2 d a n) (fun _ _ _ l => approx .lg2 (arg l 0))
/-- FSIN. -/
def execFsin (d a : BitVec 7) (n : Bool) (s : State) : Out := s.fpOut (.fsin d a n) (fun _ _ _ l => approx .sin (arg l 0))
/-- FCOS. -/
def execFcos (d a : BitVec 7) (n : Bool) (s : State) : Out := s.fpOut (.fcos d a n) (fun _ _ _ l => approx .cos (arg l 0))
/-- FTANH. -/
def execFtanh (d a : BitVec 7) (n : Bool) (s : State) : Out := s.fpOut (.ftanh d a n) (fun _ _ _ l => approx .tanh (arg l 0))

/-! ## Conversions (R197, R198) -/

/-- The value of an encoding of a floating or scale type. -/
def readFp (ty x : Nat) : Num := if ty = 23 then readE8m0 x else (fmtOf ty).read x
/-- A floating value converted to a floating or scale type, with the conditions of R200. -/
def convFp (tgt : Nat) (d : Deliver) (x : Num) : Nat × BitVec 5 :=
  let (c, k) := if tgt = 23 then toE8m0 d x else deliver (fmtOf tgt) d true x
  (c, k ||| sigNan [x])
/-- The source type of a conversion (R197). -/
def srcTy (h : Hints) (dflt : Nat) : Nat := if hXmod h = 0 then dflt else hXmod h
/-- A conversion between floating types. -/
def cvtFp (dTgt dSrc : Nat) (b : Bundle) (s : State) (t : Nat) (l : List Nat) : Nat × BitVec 5 :=
  let ts := srcTy b.hints dSrc
  convFp (hTy b.hints dTgt) (s.delivery b t 0 (xorWords (tyWidth ts) (arg l 0))) (readFp ts (arg l 0))

/-- F2I (R197, R154). -/
def execF2i (d a : BitVec 7) (n : Bool) (s : State) : Out :=
  s.fpOut (.f2i d a n) (fun x _ _ l => toInt (hTy x.hints 3) (hRound x.hints) 0 (readFp (srcTy x.hints 15) (arg l 0)))
/-- I2F (R197, R154). -/
def execI2f (d a : BitVec 7) (n : Bool) (s : State) : Out :=
  s.fpOut (.i2f d a n) (fun x s t l =>
    let ts := srcTy x.hints 3
    convFp (hTy x.hints 15) (s.delivery x t 0 (xorWords (tyWidth ts) (arg l 0)))
      (Num.ofInt (intVal ts (tyWidth ts) (arg l 0))))
/-- F2F (R197). -/
def execF2f (d a : BitVec 7) (n : Bool) (s : State) : Out := s.fpOut (.f2f d a n) (cvtFp 15 15)
/-- D2F (R197). -/
def execD2f (d a : BitVec 7) (n : Bool) (s : State) : Out := s.fpOut (.d2f d a n) (cvtFp 15 14)
/-- F2D (R197): always exact. -/
def execF2d (d a : BitVec 7) (n : Bool) (s : State) : Out := s.fpOut (.f2d d a n) (cvtFp 14 15)

/-! ## MX packing (R199) -/

/-- emax of an element type (R150). -/
def emaxOf (ty : Nat) : Int := if ty = 19 then 15 else if ty = 18 then 8 else if ty = 20 then 4 else 2
/-- The scale of a largest magnitude (R150, R199). -/
def scaleOf (ty : Nat) (x : Num) : Nat × BitVec 5 :=
  match x with
  | .nan s => (255, cIf s cIV)
  | .inf _ => (255, cIV)
  | .fin _ 0 _ => (0, 0)
  | .fin _ n d => ((min 127 (max (-127) (Num.log2Floor n d - emaxOf ty)) + 127).toNat, 0)
/-- One element of FPACK against a scale (R199). -/
def packElem (ty c : Nat) (d : Deliver) (v : Num) : Nat × BitVec 5 :=
  let f := fmtOf ty
  let nan := if ty = 18 then 0x7F else if ty = 19 then 0x7E else 0
  match v with
  | .nan s => (nan, cIf s cIV)
  | .inf _ => (nan, cIV)
  | .fin _ _ _ => if c = 255 then (nan, 0) else deliver f { d with sat := true } true (v.scale (127 - (c : Int)))
/-- FPACK and FPACK.SCALE (R199). -/
def execFpack (d a b : BitVec 7) (n : Bool) (s : State) : Out :=
  s.fpOut (.fpack d a b n) (fun x s t l =>
    let ty := hType x.hints
    let val := fun k => (fmtOf 15).read (arg l k)
    if xmodBit x.hints 0 then scaleOf ty (val 0)
    else
      let words := Nat.xor (arg l 0) (Nat.xor (arg l 1) (arg l 2))
      let c := arg l 2 % 256
      let (lo, k0) := packElem ty c (s.delivery x t 0 words) (val 0)
      let (hi, k1) := packElem ty c (s.delivery x t 1 words) (val 1)
      (hi * 2 ^ tyWidth ty + lo, k0 ||| k1))

end Sys2Proof.Machine
end

