-- ==== Sys2Proof/Machine/GroupWide.lean ====
section
/-! DEFINITION. Major 0x37: the group-wide instructions and their rendezvous (09 R182–R187; 07 R138, R139; 08 R157). -/
namespace Sys2Proof.Machine

/-! ## Results (R183–R187) -/

/-- The 32 lanes' values of a rendezvous. -/
def laneVals (as : List Arrival) : List (Option Nat) :=
  (List.range 32).map (fun i => (as.find? (fun a => a.lane == i)).map (fun a => a.a.toNat))

/-- One level of the tree of R157: adjacent nodes combined, a lone child passed on. -/
def treeLevel (f : Nat → Nat → Nat × BitVec 5) : List (Option Nat) → List (Option Nat) × BitVec 5
  | x :: y :: r =>
    let (rest, c) := treeLevel f r
    match x, y with
    | some a, some b => let (v, k) := f a b; (some v :: rest, c ||| k)
    | some a, none => (some a :: rest, c)
    | none, o => (o :: rest, c)
  | l => (l, 0)

/-- The root of the tree after `n` levels, with the conditions of its nodes. -/
def treeRoot (f : Nat → Nat → Nat × BitVec 5) : Nat → List (Option Nat) → Nat × BitVec 5
  | 0, l => ((l.head?.getD none).getD 0, 0)
  | n + 1, l =>
    let (l', c) := treeLevel f l
    let (v, k) := treeRoot f n l'
    (v, c ||| k)

/-- The node combine of GRED (R186). -/
def gredNode (op ty : Nat) (a b : Nat) : Nat × BitVec 5 :=
  let f := fmtOf ty
  let w := tyWidth ty
  if tyFloat ty then
    match op with
    | 0 => let x := f.read a; let y := f.read b; arith f {} [x, y] (Num.add false x y)
    | _ => ((minMax f (op == 2) a b).1, 0)
  else
    (match op with
      | 0 => (a + b) % 2 ^ w
      | 1 => if intVal ty w a ≤ intVal ty w b then a else b
      | 2 => if intVal ty w a ≤ intVal ty w b then b else a
      | 3 => Nat.land a b
      | 4 => Nat.lor a b
      | _ => Nat.xor a b, 0)

/-- The mask of the members for which a test holds. -/
def maskWhere (as : List Arrival) (p : Arrival → Bool) : Nat := (maskOf ((as.filter p).map (·.lane))).toNat

/-- The result of member `x` of a complete rendezvous, with the conditions of the operation (R183–R187). -/
def State.groupResult (s : State) (g : Nat) (i : Instr) (h : Hints) (as : List Arrival) (x : Arrival) : Nat × BitVec 5 :=
  match i with
  | .vote _ _ _ _ _ =>
    let yes := as.filter (fun a => a.a != 0)
    (match hXmod h with
      | 0 => (maskOf (yes.map (·.lane))).toNat
      | 1 => b2n (!yes.isEmpty)
      | 2 => b2n (yes.length == as.length)
      | _ => b2n (yes.isEmpty || yes.length == as.length), 0)
  | .matchVal _ _ _ _ =>
    if xmodBit h 0 then (if as.all (fun a => a.a == x.a) then x.mask.toNat else 0, 0)
    else (maskWhere as (fun a => a.a == x.a), 0)
  | .shfl _ _ _ _ =>
    let sel := x.b.toNat
    let src : Option Nat := match hXmod h with
      | 0 => some (sel % 32)
      | 1 => if sel ≤ x.lane then some (x.lane - sel) else none
      | 2 => if x.lane + sel ≤ 31 then some (x.lane + sel) else none
      | _ => some (Nat.xor x.lane (sel % 32))
    let v := match src with
      | some l => ((as.find? (fun (a : Arrival) => a.lane == l)).map (fun (a : Arrival) => a.a)).getD x.a
      | none => x.a
    (v.toNat, 0)
  | .gred _ _ _ _ =>
    let op := hXmod h
    let ty := hTy h (if op ≤ 2 then 3 else 11)
    let (v, c) := treeRoot (gredNode op ty) 5 (laneVals as)
    let sig := if (op == 1 || op == 2) && tyFloat ty then sigNan (as.map (fun a => (fmtOf ty).read a.a.toNat)) else 0
    (v, c ||| sig)
  | _ =>
    match (List.range 32).find? (fun l => as.any (fun a => a.lane == l) && !(s.thread (threadKey g l)).helper) with
    | some l => (2 ^ l, 0)
    | none => (0, 0)

/-! ## The rendezvous (R138, R139) -/

/-- A complete rendezvous: every member writes its result and continues at the next word (R182). -/
def State.completeRdv (s : State) (g : Nat) (r : Rdv) : State :=
  let f := formOf r.hints r.instr
  let res := r.arrivals.map (fun a => (a, s.groupResult g r.instr r.hints r.arrivals a))
  let s := s.modGroup g (fun x => { x with rdv := none })
  let s := res.foldl (fun s p =>
    let t := threadKey g p.1.lane
    let s := s.wftDrop t
    let s := match f.dst with
      | some d => s.writeDst t d.code d.width p.2.1
      | none => s
    s.modThread t (fun x => { x with pc := r.pc + 4, runPc := r.pc + 4, waitFor := .nothing })) s
  let s := match res with
    | (a, v) :: _ => s.record (threadKey g a.lane) v.2
    | [] => s
  s.freeRdvWaiters g

/-- The rendezvous `r` with the arrivals in hand: it fails, completes, or stays open. -/
def State.joinRdv (s : State) (b : Bundle) (g : Nat) (r : Rdv) (as : List Arrival) (pass : List Nat) : State :=
  let named := pass.filter (fun t => r.mask.getLsbD (laneOf t))
  let s := as.foldl (fun s a => s.suspendAt b (threadKey g a.lane) .rendezvous) s
  let s := s.modGroup g (fun x => { x with rdv := some r })
  if r.arrivals.any (fun a => a.mask != r.mask) || !named.isEmpty ||
      (lanesOf r.mask).any (fun l => !s.alive (threadKey g l)) then
    (named.foldl (fun s t => s.suspendAt b t .nothing) s).failRdv g named (b.pc + 4)
  else if (lanesOf r.mask).all (fun l => r.arrivals.any (fun a => a.lane == l)) then s.completeRdv g r
  else as.foldl (fun s a => s.wftAdd (threadKey g a.lane) .group b.pc.toNat) s

/-- Threads of a bundle arrive at a group-wide instruction for one group: `as` are those whose mask names them, `pass`
those that pass over it by their guard (R138). -/
def State.arriveGroup (s : State) (b : Bundle) (i : Instr) (g : Nat) (as : List Arrival) (pass : List Nat) : State :=
  match (s.group g).rdv with
  | some r => s.joinRdv b g { r with arrivals := r.arrivals ++ as } as pass
  | none =>
    match as with
    | [] => s
    | a :: _ =>
      s.joinRdv b g { pc := b.pc, instr := i, hints := b.hints, mask := a.mask, arrivals := as, openedAt := s.wall } as pass

/-- A thread that breaks a copy rendezvous or a quad's by arriving at a group-wide instruction (R138, R248): it traps
with everyone there. The threads that may still arrive are left. -/
def State.breakOthers (s : State) (b : Bundle) (g : Nat) (ts : List Nat) : State × List Nat :=
  let quads := (s.group g).quads.filter (fun p => ts.any (fun t => p.2.mask.getLsbD (laneOf t)))
  let inQuad := ts.filter (fun t => quads.any (fun p => p.2.mask.getLsbD (laneOf t)))
  if (s.group g).copyRdv.isSome then
    ((ts.foldl (fun s t => s.suspendAt b t .nothing) s).failCopyRdv g ts (b.pc + 4), [])
  else
    let s := inQuad.foldl (fun s t => s.suspendAt b t .nothing) s
    (quads.foldl (fun s p => s.failQuad g p.1 (inQuad.filter (fun t => laneOf t / 4 == p.1)) (b.pc + 4)) s,
      ts.filter (fun t => !inQuad.contains t))

/-- Threads of a group that arrive at a group-wide instruction while another is open at another address: one that the open
rendezvous does not name waits for its end, whatever its own mask; one that it names breaks it, and traps with everyone
there (R138). -/
def State.meetOpen (s : State) (b : Bundle) (g : Nat) (r : Rdv) (ts : List Nat) : State :=
  let (named, free) := ts.partition (fun t => r.mask.getLsbD (laneOf t))
  let s := free.foldl (fun s t => s.suspendAt b t .rendezvous) s
  let s := named.foldl (fun s t => s.suspendAt b t .nothing) s
  if named.isEmpty then s else s.failRdv g named (b.pc + 4)

/-- Threads of a group that arrive where no other rendezvous is open: one that its own mask omits traps alone (R138). -/
def State.arriveAll (s : State) (b : Bundle) (i : Instr) (g : Nat) (as : List Arrival) (pass : List Nat) : State :=
  let (good, out) := as.partition (fun a => a.mask.getLsbD a.lane)
  let maskAt := fun (t : Nat) => (((out.find? (fun (a : Arrival) => threadKey g a.lane == t)).map (fun (a : Arrival) => a.mask)).getD 0).toNat
  let s := s.trapAt b (out.map (fun a => threadKey g a.lane)) .groupMember (fun t => { info0 := maskAt t })
  s.arriveGroup b i g good pass

/-- A group-wide instruction: `mk` gives a thread's value operands; its mask is operand 0 (R182). -/
def State.groupOut (s : State) (i : Instr) (mk : State → Bundle → Nat → List Nat → DWord × DWord) : Out :=
  s.issueWord i (fun b act s =>
    (dedupBy id (b.threads.map gidOf)).foldl (fun s g =>
      let (s, ts) := s.breakOthers b g (act.filter (fun t => gidOf t == g))
      let pass := b.threads.filter (fun t => gidOf t == g && !act.contains t)
      let as := (sortBy (fun x y => decide (x ≤ y)) ts).map (fun t =>
        let l := s.operands b.hints t (formOf b.hints i)
        let (v, w) := mk s b t l
        ({ lane := laneOf t, mask := BitVec.ofNat 32 (arg l 0), a := v, b := w, c := 0, k := [] } : Arrival))
      match (s.group g).rdv with
      | some r => if r.pc != b.pc then s.meetOpen b g r ts else s.arriveAll b i g as pass
      | none => s.arriveAll b i g as pass) s)

/-- VOTE (R183). -/
def execVote (d a : BitVec 7) (i : Bool) (v : BitVec 3) (n : Bool) (s : State) : Out :=
  s.groupOut (.vote d a i v n) (fun s _ t _ => (BitVec.ofNat 64 (b2n ((s.thread t).pred v.toNat != i)), 0))
/-- MATCH (R184). -/
def execMatchVal (d a b : BitVec 7) (n : Bool) (s : State) : Out :=
  s.groupOut (.matchVal d a b n) (fun _ _ _ l => (BitVec.ofNat 64 (arg l 1), 0))
/-- SHFL (R185). -/
def execShfl (d a b : BitVec 7) (n : Bool) (s : State) : Out :=
  s.groupOut (.shfl d a b n) (fun _ _ _ l => (BitVec.ofNat 64 (arg l 1), BitVec.ofNat 64 (arg l 2)))
/-- GRED (R186). -/
def execGred (d a b : BitVec 7) (n : Bool) (s : State) : Out :=
  s.groupOut (.gred d a b n) (fun _ _ _ l => (BitVec.ofNat 64 (arg l 1), 0))
/-- ELECT (R187). -/
def execElect (d a : BitVec 7) (n : Bool) (s : State) : Out := s.groupOut (.elect d a n) (fun _ _ _ _ => (0, 0))

end Sys2Proof.Machine
end

