-- ==== Sys2Proof/Machine/Sync.lean ====
section
/-! DEFINITION. Majors 0x2A (waits) and 0x2B: FENCE, BIND, UNBIND, ACQ, REL (14 R280–R291), WAITC and WDECL (15
R306–R310, R317), team and cluster barriers (R312–R314), and the return of load data, which ends ACQ's and WAITC's
reads (12 R232). -/
namespace Sys2Proof.Machine

/-! ## Fences and releases by waiting (R270, R289, R314) -/

/-- An access whose value a register receives: a load, or an atomic with a destination (R271). -/
def isLoad (a : Access) : Bool := a.kind == .load || (a.kind == .atomic && (formOf a.hints a.instr).dst.isSome)

/-- Earlier accesses of a thread that a fence of a kind waits for: 0 .FULL, 1 .ACQ, 2 .REL (R289). -/
def State.outstandingFor (s : State) (t kind : Nat) : Bool :=
  s.accs.any (fun a => a.tid == t && (kind != 1 || isLoad a))

/-- Threads that must first have their earlier accesses performed go back before the instruction; the others are left. -/
def State.holdBack (s : State) (b : Bundle) (ts : List Nat) (kind : Nat) : State × List Nat :=
  let (wait, go) := ts.partition (fun t => s.outstandingFor t kind)
  (wait.foldl (fun s t => s.suspendAt b t .fence) s, go)

/-- What a fence of a kind orders at its scope, for a thread whose earlier accesses have been performed: later stores publish
what came before it, later loads see what its earlier ones were told of, and after .FULL all that is performed (R273, R274,
R276). -/
def State.fenceAt (s : State) (kind scope t : Nat) : State :=
  let core := coreOf t
  let c := s.ctxOf t
  let s := if kind != 1 then s.publish core c scope none else s
  let s := if kind != 2 then s.acquire core c scope none else s
  if kind == 0 then s.seeAll core scope else s

/-- FENCE (R289). -/
def execFence (s : State) : Out :=
  s.issueWord .fence (fun b act s =>
    let (s, go) := s.holdBack b act (hXmod b.hints)
    go.foldl (fun s t => s.fenceAt (hXmod b.hints) (hScopeOr b.hints) t) s)

/-! ## Binding and bound operations at issue (R288) -/

/-- The lane of an instruction of R288, with its operands b and len. -/
def State.syncLane (s : State) (b : Bundle) (i : Instr) (t : Nat) : Lane :=
  let l := s.operands b.hints t (formOf b.hints i)
  dataLane t (s.kAddr b.hints t (arg l 0) false 8) (arg l 1) (arg l 2)

/-- BIND (R280, R291). -/
def execBind (d a b : BitVec 7) (n : Bool) (s : State) : Out :=
  s.memOut (.bind d a b n) false (fun s bd t => s.syncLane bd (.bind d a b n) t)
/-- UNBIND (R280, R291). -/
def execUnbind (d a b : BitVec 7) (n : Bool) (s : State) : Out :=
  s.memOut (.unbind d a b n) false (fun s bd t => s.syncLane bd (.unbind d a b n) t)
/-- ACQ (R290). -/
def execAcq (d a : BitVec 7) (n : Bool) (s : State) : Out :=
  s.memOut (.acq d a n) false (fun s bd t => s.syncLane bd (.acq d a n) t)
/-- REL (R290). -/
def execRel (a b : BitVec 7) (s : State) : Out :=
  s.memOut (.rel a b) false (fun s bd t => s.syncLane bd (.rel a b) t)
/-- WAITC (R306, R307). -/
def execWaitc (d a b : BitVec 7) (n : Bool) (s : State) : Out :=
  s.memOut (.waitc d a b n) false (fun s bd t =>
    let l := s.operands bd.hints t (formOf bd.hints (.waitc d a b n))
    dataLane t (s.kAddr bd.hints t (arg l 0) (bit (hXmod bd.hints) 4) (tyWidth (hTy bd.hints 7) / 8)) (arg l 1) 0)
/-- WDECL (R317). -/
def execWdecl (d a b : BitVec 7) (n : Bool) (s : State) : Out :=
  s.memOut (.wdecl d a b n) false (fun s bd t =>
    let l := s.operands bd.hints t (formOf bd.hints (.wdecl d a b n))
    dataLane t (s.kAddr bd.hints t (arg l 0) (bit (hXmod bd.hints) 2) 8) (arg l 1) 0)

/-! ## The bind table (R280, R291) -/

/-- BIND's effect on a bind table: the table and the status. -/
def bindTo (l : List Region) (obj base len : Nat) : List Region × Nat :=
  let r : Region := { base := base, len := len, obj := obj }
  if len = 0 || base + len > 2 ^ 57 then (l, 3)
  else if l.contains r then (l, 0)
  else if l.any (fun e => e.obj != obj && overlaps e.base e.len base len) then (l, 2)
  else if l.length ≥ 256 then (l, 1)
  else (l ++ [r], 0)

/-- UNBIND's effect on a bind table: `all` removes every entry of the object. -/
def unbindFrom (l : List Region) (obj base : Nat) (all : Bool) : List Region × Nat :=
  if all then (l.filter (fun e => e.obj != obj), 0)
  else
    match l.find? (fun e => e.obj == obj && e.base == base) with
    | some e => (l.erase e, 0)
    | none => (l, 4)

/-! ## Declarations (R317) -/

/-- Die of a location: its home die, or that of its core or slice. -/
def dieOfLoc (loc : Nat) : Nat :=
  if isSram loc then dieOf (sramCore loc) else if pinBase ≤ loc then (loc - pinBase) / 2 ^ 20 / 48 else homeDie loc

/-- A signaller code is well formed for a cluster of `n` teams (R317). -/
def declOk (g n : Nat) : Bool :=
  let rest := bits g 0 29
  match bits g 29 3 with
  | 0 | 2 | 3 | 5 => rest == 0
  | 1 => rest < 16 && rest < n
  | 4 => rest < 2048
  | _ => false

/-- WDECL of one thread for an object (R317): the state and the status. -/
def State.declare (s : State) (t pa g : Nat) : State × Nat :=
  let m := s.team (s.teamOf t)
  let c := m.bind.ctx
  let die := dieOfLoc pa
  let d : Decl := { ctx := c, die := die, pa := pa, code := BitVec.ofNat 32 g, cluster := m.cluster,
                    launch := (s.launchOf t).getD (2 ^ 40) }
  let objs := (dedupBy (fun (e : Decl) => e.pa) (s.decls.filter (fun e => e.die == die))).length
  if !declOk g (m.bind.w * m.bind.h) then (s, 2)
  else if bits g 29 3 = 0 then ({ s with decls := s.decls.filter (fun e => !(e.pa == pa && e.ctx == c)) }, 0)
  else if s.decls.any (fun e => e.pa == pa && e.ctx == c && e.code == d.code &&
      (e.cluster == d.cluster || (bits g 29 3 != 1 && bits g 29 3 != 2 && e.launch == d.launch))) then (s, 0)
  else if (s.decls.filter (fun e => e.pa == pa)).length ≥ 4 then (s, 3)
  else if !s.decls.any (fun e => e.pa == pa) && objs + (s.wft.filter (fun e => e.die == die)).length ≥ 8192 then (s, 1)
  else ({ s with decls := s.decls ++ [d] }, 0)

/-! ## Passing lanes -/

/-- Writes a status of a thread to the destination of an instruction. -/
def State.status (s : State) (i : Instr) (h : Hints) (t v : Nat) : State :=
  match (formOf h i).dst with
  | some d => s.writeDst t d.code d.width v
  | none => s

/-- Lanes of the instructions of this chapter whose checks have passed (R288–R291, R307, R317). -/
def State.passSync (s : State) (o : Op) (ok : List (Lane × Passed)) : State :=
  ok.foldl (fun s q =>
    let t := q.1.tid
    let a := q.1.addr.toNat
    match o.instr with
    | .bind .. =>
      let (l, v) := bindTo (s.ctx o.ctx).binds a q.1.x.toNat q.1.y.toNat
      ((s.modCtx o.ctx (fun c => { c with binds := l })).passThread o t).status o.instr o.hints t v
    | .unbind _ _ b _ =>
      let (l, v) := unbindFrom (s.ctx o.ctx).binds a q.1.x.toNat (b == 126#7)
      ((s.modCtx o.ctx (fun c => { c with binds := l })).passThread o t).status o.instr o.hints t v
    | .wdecl .. =>
      let (s, v) := s.declare t q.2.loc (q.1.x.toNat)
      (s.passThread o t).status o.instr o.hints t v
    | .rel .. =>
      (s.addAccess o q.1 q.2 { kind := .store, size := 8, x := q.1.x, strong := true, rel := true,
                               full := xmodBit o.hints 0, binds := o.binds }).passThread o t
    | .acq .. =>
      let id := s.nextId
      ((s.addAccess o q.1 q.2 { kind := .load, size := 8, strong := true, acq := true, full := xmodBit o.hints 0,
                                binds := o.binds }).passThread o t).modThread t
        (fun x => { x with waitFor := .result id })
    | .waitc .. =>
      let id := s.nextId
      ((s.addAccess o q.1 q.2 { kind := .load, size := elemSize o.instr o.hints, x := q.1.x, strong := true,
                                acq := bit (hXmod o.hints) 3 }).passThread o t).modThread t
        (fun x => { x with waitFor := .result id })
    | _ => s) s

/-! ## Monitors (R307–R310) -/

/-- Monitor entries in use at a place (R309). -/
def State.entriesAt (s : State) (p : Nat) : Nat :=
  (s.monitors.filter (fun m => m.at_ == p && m.place == .entry)).length

/-- Time between two reads of a word without a monitor: 2 µs (R309). -/
def pollTime : Nat := 2 * oneUs

/-- Where a new monitor is held (R309). A launch's start condition polls nothing: it is held at the home in any case (R73;
log 76). -/
def State.monitorPlace (s : State) (who : MonWho) (c loc : Nat) : MonPlace :=
  let units := (s.ctx c).spillInForce
  let full : MonPlace := match who with
    | .launch _ => .entry
    | _ => .poll (s.wall + pollTime)
  if s.entriesAt (pointOf loc) < 256 then .entry
  else if units = 0 then full
  else
    let b := homeHash loc % (256 * units)
    match (List.range 8).find? (fun i => !s.monitors.any (fun m => m.ctx == c && m.place == .spill b i)) with
    | some i => .spill b i
    | none => full

/-- The word WAITER of a spill entry; of a start condition, which has no thread, only its form (R310; log 76). -/
def Monitor.waiter (m : Monitor) : Nat :=
  (match m.who with
    | .thread t => coreOf t + min (slotOfGroup (gidOf t)) 128 * 2 ^ 9 + laneOf t * 2 ^ 17
    | _ => 0) + b2n (m.size == 8) * 2 ^ 22 + b2n m.acq * 2 ^ 23 + m.scope * 2 ^ 24

/-- Writes a spill entry (R310). -/
def State.writeSpill (s : State) (m : Monitor) : State :=
  match m.place with
  | .spill b i =>
    let x := s.ctx m.ctx
    let a := x.image.toNat + (x.imageSize.toNat - x.spillInForce) * 65536 + (b * 8 + i) * 32
    s.arenaWords m.ctx a
      [BitVec.ofNat 64 (2 ^ 63 + physOf m.pa / 8 * 8 % 2 ^ 52 + m.cc), m.cmp, BitVec.ofNat 64 m.waiter, 0]
  | _ => s

/-- Registers a monitor (R307, R309). -/
def State.addMonitor (s : State) (m : Monitor) : State :=
  let m := { m with id := s.nextId, place := s.monitorPlace m.who m.ctx m.pa, at_ := pointOf m.pa }
  (({ s with nextId := s.nextId + 1, monitors := s.monitors ++ [m] } : State)).writeSpill m

/-- WAITC's arming read has been made: the wait ends at once, or a monitor is armed (R307). -/
def State.armWait (s : State) (a : Access) (v : Nat) : State :=
  let t := a.tid
  let h := a.hints
  let cc := bits (hXmod h) 0 3
  let d : BitVec 7 := match a.instr with
    | .waitc d _ _ _ => d
    | _ => 126
  if ccHolds cc (8 * a.size) v a.x.toNat then
    (if a.acq then s.acquire a.core a.ctx a.scope none else s).status a.instr h t 0
  else
    let id := s.nextId
    let s := s.addMonitor { id := 0, who := .thread t, ctx := a.ctx, at_ := 0, pa := a.pa, size := a.size, cc := cc,
                            cmp := a.x, acq := bit (hXmod h) 3, scope := a.scope, dst := d, place := .entry, hit := false }
    (s.modThread t (fun x => { (x.block (.waitc id) s.wall) with waitDst := d })).wftAdd t .waitc a.pa

/-- MONITOR_POLL of the wait that the subject names: the word is read again after 2 µs (R309). -/
def execMonitorPoll (s : State) : Out :=
  .next (match s.monitors.find? (fun m => m.id == s.subj.id) with
    | some m =>
      match m.place with
      | .poll due =>
        if s.wall < due then s
        else
          let s := s.settleU
          if s.monitorHolds m then s.fireOrNote m
          else { s with monitors := s.monitors.map (fun x =>
                   if x.id == m.id then { x with place := .poll (due + pollTime) } else x) }
      | _ => s
    | none => s)

/-! ## The return of load data (R230, R232, R242, R290, R307) -/

/-- The data of an access are poisoned: threads that wait for it trap, and so does one that has gone on (R237). -/
def State.loadPoisoned (s : State) (a : Access) : State :=
  match (s.threads.filter (fun p => p.2.waitFor == .result a.id)).map (·.1) with
  | [] => s.lateTrap a .poison
  | ts => s.trapIn ts .poison a.runPc (a.pc + 4) (fun _ => { info0 := a.va.toNat })

/-- What a load has read, `v` last: of a .B128 element, the half that was read before beside it (R236). -/
def Access.withHalf (a : Access) (v : Nat) : Nat :=
  if tyWidth (hTy a.hints 7) = 128 && a.size = 8 then
    if a.pa % 16 = 0 then v + a.x.toNat * 2 ^ 64 else a.x.toNat + v * 2 ^ 64
  else v

/-- One half of a .B128 element is read, and the other later (R236). -/
def State.readHalf (s : State) (a : Access) (h : Nat) : State :=
  match s.readAcc { a with pa := a.pa + 8 * h, size := 8 } with
  | (s, some v) => s.keepHalf a (1 - h) (BitVec.ofNat 64 v)
  | (s, none) => (s.dropAcc a).loadPoisoned a

/-- A load's data return: what the instruction does with them. -/
def State.performLoad (s : State) (a : Access) : State :=
  let (s, r) := s.readAcc a
  let s := s.dropAcc a
  match r with
  | none => s.loadPoisoned a
  | some v =>
    match a.instr with
    | .ld d _ _ _ | .lds d _ _ _ => s.loadWrite a d (a.withHalf v)
    | .ldk d _ _ =>
      if s.alive a.tid then
        s.setK (s.teamOf a.tid) d.toNat (BitVec.ofNat 64 (ldkValue (hTy a.hints 12) v))
      else s
    | .acq .. =>
      if s.alive a.tid then ((s.acquire a.core a.ctx a.scope a.named).wakeResult a.id).status a.instr a.hints a.tid v else s
    | .waitc .. => if s.alive a.tid then (s.wakeResult a.id).armWait a v else s
    | _ => s

/-- LOAD_DATA_RETURN of the access that the subject names (R232). -/
def execLoadDataReturn (s : State) : Out :=
  .next (match s.accOf s.subj.id with
    | some a =>
      if a.kind == .load && s.mayPerform a then
        match s.splitHalf a with
        | (none, s) => s.performLoad a
        | (some h, s) => s.readHalf a h
      else s
    | none => s)

/-! ## Team barriers (R312) -/

/-- One thread arrives at barrier `i` of its team with a count (R312). -/
def State.barArrive (s : State) (t i n : Nat) (d : BitVec 7) : State :=
  let k := s.teamOf t
  let b := (s.team k).bar i
  if n > 1024 then s.writeDst t d 32 3
  else if b.phaseOpen && n != b.n then s.writeDst t d 32 2
  else
    let b' : BarState := { n := if b.phaseOpen then b.n else n, arr := b.arr + 1, phaseOpen := true }
    let s := s.modTeam k (fun m => { m with bars := m.bars.put i b' })
    let s := s.modThread t (fun x => { (x.block (.bar i) s.wall) with waitDst := d })
    (s.wftAdd t .bar i).barCheck k i

/-- BAR (R312, R314): an arrival releases, so a thread's earlier accesses are performed first. The arrivals of a bundle count
in lane order, so its threads wait for one another's. -/
def execBar (d a : BitVec 7) (n : Bool) (s : State) : Out :=
  s.issueWord (.bar d a n) (fun b act s =>
    let (s, go) := if act.any (fun t => s.outstandingFor t 0) then (act.foldl (fun s t => s.suspendAt b t .fence) s, [])
      else (s, act)
    (sortBy (fun x y => decide (laneOf x ≤ laneOf y)) go).foldl (fun s t =>
      s.barArrive t (hXmod b.hints) (arg (s.operands b.hints t (formOf b.hints (.bar d a n))) 0) d) s)

/-! ## Cluster barriers (R313) -/

/-- CBAR.ARV (R313, R314). -/
def execCbarArv (d : BitVec 7) (n : Bool) (s : State) : Out :=
  s.issueWord (.cbarArv d n) (fun b act s =>
    let (s, go) := s.holdBack b act 0
    let s := go.foldl (fun s t =>
      let m := (s.thread t).mt
      (s.writeDst t d 32 m.toNat).modThread t (fun x => { x with mt := m + 1 })) s
    (dedupBy id (go.map (fun t => (s.team (s.teamOf t)).cluster))).foldl (fun s cl => s.cbarCheck cl) s)

/-- Completed phases of a cluster's barrier. -/
def State.phasesOf (s : State) (cl : Nat) : BitVec 32 := ((s.clusters.find cl).map (·.phases)).getD 0

/-- CBAR.WAIT (R313). -/
def execCbarWait (d a : BitVec 7) (n : Bool) (s : State) : Out :=
  s.issueWord (.cbarWait d a n) (fun b act s => act.foldl (fun s t =>
    let v := BitVec.ofNat 32 (arg (s.operands b.hints t (formOf b.hints (.cbarWait d a n))) 0)
    let cl := (s.team (s.teamOf t)).cluster
    if !ahead ((s.thread t).mt - v) then s.writeDst t d 32 3
    else if ahead (s.phasesOf cl - v) then s.writeDst t d 32 0
    else (s.modThread t (fun x => { (x.block (.cbar v) s.wall) with waitDst := d })).wftAdd t .cbar v.toNat) s)

end Sys2Proof.Machine
end

