-- ==== Sys2Proof/Machine/Copy.lean ====
section
/-! DEFINITION. Majors 0x2C and 0x2D: the copies and what their engines do (13 R246–R264), and the transaction barrier
instructions (R265–R270). -/
namespace Sys2Proof.Machine

/-! ## The copy rendezvous (R248) -/

/-- Threads of one group arrive at a copy instruction. A thread that an open group-wide rendezvous names breaks it, and
one that it does not name waits for its end (R138); one that comes to a different copy instruction breaks the copy
rendezvous. -/
def State.arriveCopy (s : State) (b : Bundle) (i : Instr) (g : Nat) (as : List Arrival) : State :=
  let tid := fun (a : Arrival) => threadKey g a.lane
  let put := fun (s : State) (l : List Arrival) (w : WaitFor) => l.foldl (fun s a => s.suspendAt b (tid a) w) s
  match (s.group g).rdv with
  | some r =>
    let (named, free) := as.partition (fun a => r.mask.getLsbD a.lane)
    let s := put (put s free .rendezvous) named .nothing
    if named.isEmpty then s else s.failRdv g (named.map tid) (b.pc + 4)
  | none =>
    let quads := (s.group g).quads.filter (fun p => as.any (fun a => p.2.mask.getLsbD a.lane))
    match quads with
    | (q, _) :: _ =>
      let mine := as.filter (fun a => a.lane / 4 == q)
      ((put s as .nothing).failQuad g q (mine.map tid) (b.pc + 4))
    | [] =>
      match (s.group g).copyRdv with
      | some r =>
        if r.pc != b.pc then (put s as .nothing).failCopyRdv g (as.map tid) (b.pc + 4)
        else
          let s := (put s as .copySlice).modGroup g (fun x => { x with copyRdv := some { r with arrivals := r.arrivals ++ as } })
          let s := s.copyRdvCheck g
          if (s.group g).copyRdv.isSome then as.foldl (fun s a => s.wftAdd (tid a) .group b.pc.toNat) s else s
      | none =>
        let r : Rdv := { pc := b.pc, instr := i, hints := b.hints, mask := 0, arrivals := as, openedAt := s.wall }
        let s := ((put s as .copySlice).modGroup g (fun x => { x with copyRdv := some r })).copyRdvCheck g
        if (s.group g).copyRdv.isSome then as.foldl (fun s a => s.wftAdd (tid a) .group b.pc.toNat) s else s

/-- A copy instruction with a k block of `n` words (R247, R248). -/
def State.copyOut (s : State) (i : Instr) (n : Nat) : Out :=
  s.issueWord i (fun b act s =>
    (dedupBy id (act.map gidOf)).foldl (fun s g =>
      let ts := sortBy (fun x y => decide (x ≤ y)) (act.filter (fun t => gidOf t == g))
      s.arriveCopy b i g (ts.map (fun t =>
        let l := s.operands b.hints t (formOf b.hints i)
        ({ lane := laneOf t, mask := 0, a := BitVec.ofNat 64 (arg l 0), b := BitVec.ofNat 64 (arg l 1),
           c := BitVec.ofNat 64 (arg l 2), k := (List.range n).map (fun j => s.kreg t (hKsel b.hints + j)) } : Arrival)))) s)

/-- CPY (R254). -/
def execCpy (a b : BitVec 7) (s : State) : Out := s.copyOut (.cpy a b) 3
/-- CPYG (R254, R255). -/
def execCpyg (a b : BitVec 7) (s : State) : Out := s.copyOut (.cpyg a b) 5
/-- CPYS (R254). -/
def execCpys (a b : BitVec 7) (s : State) : Out := s.copyOut (.cpys a b) 5
/-- CPYM (R254). -/
def execCpym (a b : BitVec 7) (s : State) : Out := s.copyOut (.cpym a b) 4

/-! ## Progress (R263, R415) -/

/-- Replaces a copy. -/
def State.setCopy (s : State) (c : Copy) : State :=
  { s with copies := s.copies.map (fun x => if x.id == c.id then c else x) }

/-- The copy of a number. -/
def State.copyOf (s : State) (id : Nat) : Option Copy := s.copies.find? (fun c => c.id == id)

/-! ## Checked accesses (R256) -/

/-- What stops a part: a status of R264, a walk that met a poisoned table sector, a page that is not usable, or a range
another copy holds. -/
inductive Halted where
  | status (n : Nat)
  | bad
  | park (page : Nat) (r : Reason) (write : Bool)
  | blocked
  deriving DecidableEq, Repr

/-- One checked access of an engine for its context (R256). -/
def State.copyCheck (s : State) (c : Copy) (write : Bool) (va : Nat) : State × Except Halted Passed :=
  match s.check c.core c.ctx false (if write then .write else .read) va with
  | (s, .ok p) => if s.answers p.loc then (s, .ok p) else (s.holdFor p.loc, .error .blocked)
  | (s, .error (.trap c)) => (s, .error (if c == .poison then .bad else .status 5))
  | (s, .error (.park r)) => (s, .error (.park (va / 4096 * 4096) r write))
  | (s, .error .wait) => (s, .error .blocked)

/-- A page whose bytes are accessed once each, in ascending order (R224, R256). -/
def orderedPage (leaf : Nat) : Bool := pteEffects leaf || pteHome leaf == 3

/-- Bytes that a copy reads from memory, part by part of pages and sectors: the bytes, whether a sector was poisoned, and
whether a page is accessed in order (R256, R257). Bytes behind a poisoned table entry count as poisoned (R449; log 77). -/
def State.copyBytes (s : State) (c : Copy) : Nat → Nat → Nat → State × Except Halted (List Byte × Bool × Bool)
  | 0, _, _ => (s, .ok ([], false, false))
  | fuel + 1, va, n =>
    if n = 0 then (s, .ok ([], false, false))
    else
      let m := min n (32 - va % 32)
      let r : State × Except Halted (List Byte × Bool × Bool) :=
        match s.copyCheck c false (va % 2 ^ 64) with
        | (s, .error .bad) => (s, .ok (List.replicate m 0, true, false))
        | (s, .error e) => (s, .error e)
        | (s, .ok p) =>
          let (s, ok) := s.consume p.loc (pteKey p.leaf)
          (s, .ok (s.bytes p.loc m, !ok, orderedPage p.leaf))
      match r with
      | (s, .error e) => (s, .error e)
      | (s, .ok (bs, bad, io)) =>
        match s.copyBytes c fuel (va + m) (n - m) with
        | (s, .ok (r, bad2, io2)) => (s, .ok (bs ++ r, bad || bad2, io || io2))
        | e => e

/-- Another copy's scoreboard entry covers a scratch range (R252). -/
def State.blockedBy (s : State) (c : Copy) (loc n : Nat) : Bool :=
  s.copies.any (fun x => x.id != c.id && x.entries.any (fun e => overlaps (sramLoc e.core e.lo) (e.hi - e.lo) loc n))

/-- Source bytes of a portion, whether they are poisoned, and whether they are read in order. -/
def State.copySource (s : State) (c : Copy) (p : Part) (i : Nat) : State × Except Halted (List Byte × Bool × Bool) :=
  let a := p.slice.srcRow c.row i + p.off
  if p.slice.ss then
    match s.copyScratch c a p.n with
    | none => (s, .error (.status 3))
    | some loc =>
      if s.blockedBy c loc p.n then (s, .error .blocked)
      else
        let (s, ok) := s.consume loc 0
        let (s, ok2) := s.consume (loc + p.n - 1) 0
        (s, .ok (s.bytes loc p.n, !ok || !ok2, false))
  else s.copyBytes c 4 a p.n

/-- The index word of the element in hand: held, or read once now; an index beyond the table raises COUNT (R254, R255). -/
def State.copyIndex (s : State) (c : Copy) (x : Slice) : State × Except Halted (Copy × Nat) :=
  match x.minor, c.index with
  | 1, none =>
    match s.copyBytes c 4 (x.a.toNat + c.row * x.idxBytes) x.idxBytes with
    | (s, .error e) => (s, .error e)
    | (s, .ok (bs, bad, _)) =>
      let i := ofBytes bs
      let up := decide (i ≥ x.kw 4) && decide (c.count < 0xFFFFFF)
      let c := { c with index := some (BitVec.ofNat 64 i), indexBad := bad, count := c.count + b2n up, poison := c.poison || bad }
      (s.setCopy c, .ok (c, i))
  | 1, some i => (s, .ok (c, i.toNat))
  | _, _ => (s, .ok (c, 0))

/-- Destination locations of a portion with their leaf: one, or one in each receiver of a multicast (R254, R256). -/
def State.copyDest (s : State) (c : Copy) (p : Part) : State × Except Halted (List (Nat × Passed)) :=
  if p.slice.minor = 3 then
    (s, .ok (p.slice.receivers.filterMap (fun m =>
      (s.memberScratch c.bind c.core c.cluster m).map (fun q =>
        (m, ({ leaf := 0, loc := sramLoc q.1 (q.2 + bits p.dst 0 18) } : Passed))))))
  else if p.slice.sd then
    match s.copyScratch c p.dst p.n with
    | some loc => (s, .ok [(0, { leaf := 0, loc := loc })])
    | none => (s, .error (.status 3))
  else
    match s.copyCheck c true p.dst with
    | (s, .ok q) => (s, .ok [(0, q)])
    | (s, .error e) => (s, .error e)

/-- A portion whose checks and reads have been made. -/
structure Fetch where
  copy : Copy
  bytes : List Byte
  bad : Bool
  /-- its source or a destination is accessed in ascending order (R256) -/
  inOrder : Bool
  dests : List (Nat × Passed)
  deriving DecidableEq, Repr

/-- The checks and reads of a portion: the bytes to write and where (R254–R257). What a poisoned index word names is poisoned
(R257); a destination behind a poisoned table entry is not written (log 77). -/
def State.copyFetch (s : State) (c : Copy) (p : Part) : State × Except Halted Fetch :=
  match s.copyIndex c p.slice with
  | (s, .error e) => (s, .error e)
  | (s, .ok (c, i)) =>
    let src : State × Except Halted (List Byte × Bool × Bool) :=
      if p.slice.minor = 1 && i ≥ p.slice.kw 4 then (s, .ok (List.replicate p.n 0, false, false)) else s.copySource c p i
    match src with
    | (s, .error e) => (s, .error e)
    | (s, .ok (bs, bad, io)) =>
      let bad := bad || (p.slice.minor == 1 && c.indexBad)
      match s.copyDest c p with
      | (s, .ok ds) =>
        (s, .ok { copy := c, bytes := bs, bad := bad, inOrder := io || ds.any (fun d => orderedPage d.2.leaf), dests := ds })
      | (s, .error .bad) => (s, .ok { copy := c, bytes := bs, bad := true, inOrder := io, dests := [] })
      | (s, .error e) => (s, .error e)

/-! ## Barriers of a copy (R262, R264) -/

/-- Locations of the destination barrier: one, or one in each receiver (R262). -/
def State.copyBars (s : State) (c : Copy) : List (Nat × Nat) :=
  let b := c.block
  match b.bar with
  | none => []
  | some a =>
    if b.minor = 3 then
      b.receivers.filterMap (fun m =>
        (s.memberScratch c.bind c.core c.cluster m).map (fun q => (m, sramLoc q.1 (q.2 + bits a 0 18))))
    else
      match s.copyScratch c a 16 with
      | some loc => [(0, loc)]
      | none => []

/-- Location of the acknowledgement barrier. -/
def State.copyAck (s : State) (c : Copy) : Option Nat := c.block.ack.bind (fun a => s.copyScratch c a 16)

/-- A copy ends with a status other than DONE and POISON: ERR in its barriers, the launch's flag, and for PERMISSION and
UNRESOLVED an event to the supervisor; it goes on to its stamp (R264, R455). -/
def State.failCopy (s : State) (c : Copy) (st : Nat) : State :=
  let s := (s.copyBars c).foldl (fun s p => if p.2 % 16 = 0 then s.tbarErr p.2 else s) s
  let s := match s.copyAck c with
    | some loc => if loc % 16 = 0 then s.tbarErr loc else s
    | none => s
  let s := match c.launch with
    | some q => s.modLaunch q (fun l => { l with copyErr := true })
    | none => s
  let s := if st = 5 || st = 6 then
      s.svEvent c.ctx c.core 2 0 0 c.block.stamp (st + 256 * (if c.bind.team < 64 then entryOfTeam c.team else 0xFF))
    else s
  s.setCopy { c with status := st, slice := c.top, row := 0, prog := 0, window := 0, index := none, buf := [], held := [], state := .moving }

/-- The stamp of a copy cannot be made: the copy ends with a status that reaches the supervisor and its launch, and sets no
ERR in any barrier (R260, R264). -/
def State.stampFails (s : State) (c : Copy) (st : Nat) : State :=
  let s := match c.launch with
    | some q => s.modLaunch q (fun l => { l with copyErr := true })
    | none => s
  let s := s.svEvent c.ctx c.core 2 0 0 c.block.stamp (st + 256 * (if c.bind.team < 64 then entryOfTeam c.team else 0xFF))
  s.setCopy (if c.state == .suspended then { c with status := st, was := .stamping }
    else { c with status := st, state := .stamping })

/-! ## Steps of an engine -/

/-- Scoreboard entries of a copy: one for each slice with scratch destination bytes, one on each receiving core of a
multicast (R252). -/
def State.copyEntries (s : State) (c : Copy) : List SbEntry :=
  c.slices.flatMap (fun x =>
    let rows := (List.range x.rows).filter (fun _ => x.rowLen > 0)
    if !x.sd || rows.isEmpty then []
    else if x.minor = 3 then
      x.receivers.filterMap (fun m => (s.memberScratch c.bind c.core c.cluster m).map (fun q =>
        ({ core := q.1, lo := q.2 + bits (x.b.toNat) 0 18, hi := q.2 + bits (x.b.toNat) 0 18 + x.rowLen } : SbEntry)))
    else
      let los := rows.filterMap (fun r => s.copyScratch c (x.dstRow r) x.rowLen)
      match minBy id los, maxBy id los with
      | some lo, some hi =>
        [{ core := sramCore lo, lo := (lo - sramBase) % 2 ^ 18,
           hi := (lo - sramBase) % 2 ^ 18 + (hi - lo) + x.rowLen }]
      | _, _ => [])

/-- Entries of a core's scoreboard in use. -/
def State.sbUsed (s : State) (core : Nat) : Nat :=
  (s.copies.flatMap (fun c => c.entries.filter (fun e => e.core == core))).length

/-- The last byte has landed: the acknowledgement barrier falls by one for each receiver, once (R262). -/
def State.ackDone (s : State) (c : Copy) : State :=
  if c.acked then s
  else
    let s := s.setCopy { c with acked := true }
    match s.copyAck c with
    | some loc => (c.block.receivers).foldl (fun s _ => s.tbarAdd loc (-1)) s
    | none => s

/-- COPY_START of the copy that the subject names: once its members' earlier accesses have been performed (R253), its
checks (R264) and its scoreboard entries (R252). -/
def State.startCopy (s : State) (c : Copy) : State :=
  if c.state != .waiting || s.accs.any (fun a => c.after.contains a.id) then s
  else
    let st := s.startStatus c
    if st ≠ 0 then s.failCopy c st
    else
      let es := s.copyEntries c
      if (dedupBy id (es.map (·.core))).any (fun k => s.sbUsed k + (es.filter (fun e => e.core == k)).length > 32) then s
      else
        let c := ({ c with state := .moving, entries := es } : Copy).skip 34
        let s := s.setCopy c
        if c.done then s.ackDone c else s

/-- COPY_START (R252). -/
def execCopyStart (s : State) : Out :=
  .next (match s.copyOf s.subj.id with
    | some c => s.startCopy c
    | none => s)

/-- Writes the bytes of a portion at one location, as a caching agent with its own sharer bit (R254, R257, R258). -/
def State.copyWrite (s : State) (c : Copy) (va : Nat) (q : Passed) (bs : List Byte) (bad : Bool) : State :=
  let s := if pteHome q.leaf = 2 || pteHome q.leaf = 1 then s.keepStale c.core true c.ctx va false q.loc else s
  let s := if pteHome q.leaf = 2 then s.dirWrite (dieOf c.core) (146 + c.core % coresPerDie) q.loc (pteGrain q.leaf)
    else if pteHome q.leaf = 1 then s.dirDrop q.loc bs.length else s
  let s := s.storeLeaf q.loc q.leaf bs
  let s := if bad then s.poisonSector (sectorOf q.loc) else s
  s.notice q.loc bs.length

/-- Lands a portion: its bytes, its progress and its barrier decrements (R254, R262, R263). -/
def State.landPart (s : State) (c : Copy) (p : Part) (i : Nat) (bs : List Byte) (bad : Bool) (ds : List (Nat × Passed)) :
    State :=
  let s := ds.foldl (fun s d => s.copyWrite c p.dst d.2 bs bad) s
  let c := ({ c with poison := c.poison || bad } : Copy).landed p.slice i
  let s := s.setCopy c
  let bars := s.copyBars c
  let s := if bars.isEmpty then s else s.publish c.core c.ctx 3 none
  let s := bars.foldl (fun s b => s.tbarAdd b.2 (-(p.n : Int))) s
  if c.done then s.ackDone c else s

/-- The next row or element of a copy begins in the destination sector of a portion that has landed (R259). -/
def Copy.sharesSector (c : Copy) (p : Part) (d : Copy) : Bool :=
  d.state == .moving && (d.slice, d.row) != (c.slice, c.row) && d.window == 0 &&
  (match d.part 0 with
    | some q => q.slice.sd == p.slice.sd && q.dst / 32 == p.dst / 32
    | none => false)

/-- A sector that its engine has read lands; one that follows the first 16 in order waits for them. -/
def State.landHeld (s : State) (c : Copy) (i : Nat) (b : SectorBuf) : State :=
  match c.part i with
  | some p => if i ≥ 16 then s else s.settleU.landPart (c.unbuffer b.n) p i b.bytes b.bad b.dests
  | none => s

/-- Sectors that an engine has read and not landed (R442). -/
def State.bufferedOn (s : State) (core : Nat) : Nat :=
  ((s.copies.filter (fun c => c.core == core)).map (fun c => c.buf.length)).foldl (· + ·) 0

/-- An engine reads a sector's source bytes ahead of its landing, and takes its line (R258): within the first 16, or where all
before it have been read; at most 2,048 stand in its buffer (R442). Bytes of ordered pages are not read ahead (R256). -/
def State.readSector (s : State) (c : Copy) (i : Nat) : State :=
  match c.part i with
  | none => s
  | some p =>
    if c.buffered i || s.bufferedOn c.core ≥ 2048 ||
        !(decide (i < 16) || (List.range i).all (fun j => (c.part j).isNone || c.buffered j)) then s
    else
      match s.settleU.copyFetch c p with
      | (s', .ok f) =>
        if f.inOrder then s
        else
          let d : Copy := { f.copy with buf := f.copy.buf ++ [{ n := c.prog + i, bytes := f.bytes, bad := f.bad, dests := f.dests }] }
          let d := if d.lineHeld p i then { d with held := dedupBy id (d.held ++ linesOf f.dests) } else d
          (f.dests.foldl (fun s q => if pteHome q.2.leaf = 2 then
            s.dirWrite (dieOf c.core) (146 + c.core % coresPerDie) q.2.loc (pteGrain q.2.leaf) else s) s').setCopy d
      | _ => s

/-- COPY_SECTOR_LANDED of the copy that the subject names, for the portion `a` sectors after PROGRESS (R262); a portion
that fails with a status ends the copy (R264). On pages whose bytes are accessed in order, PROGRESS comes first (R256).
Rows and elements that go into the same destination sector land with it, so that it is written in one step (R259); one
that cannot go on yet leaves those before it landed (log 78). -/
def State.landSector (s : State) : Nat → Copy → Nat → State
  | 0, _, _ => s
  | n + 1, c, i =>
    match c.part i with
    | none => s
    | some p =>
      match s.settleU.copyFetch c p with
      | (s', .ok f) =>
        if i ≥ 16 || (f.inOrder && i ≠ 0) then s
        else
          let s := s'.landPart f.copy p i f.bytes f.bad f.dests
          match s.copyOf c.id with
          | some d => if c.sharesSector p d then s.landSector n d 0 else s
          | none => s
      | (s', .error (.status n)) => s'.failCopy c n
      | _ => s

/-- COPY_SECTOR_LANDED (R262). With `w` the sector's source bytes are read, and it lands later (R258). -/
def execCopySectorLanded (s : State) : Out :=
  .next (match s.copyOf s.subj.id with
    | some c =>
      let i := s.subj.a
      if c.state != .moving && c.state != .parked then s
      else
        match c.buf.find? (fun b => b.n == c.prog + i), s.subj.w, c.state == .moving with
        | some b, false, _ => s.landHeld c i b
        | none, true, true => s.readSector c i
        | none, false, true => s.landSector 33 c i
        | _, _, _ => s
    | none => s)

/-- The payload of a copy's record (R415). -/
def Copy.record (c : Copy) (write : Bool) : List DWord :=
  let flags := b2n c.index.isSome + 2 * b2n write
  let gather := (c.sliceAt c.slice).map (fun x => x.minor != 0 && x.minor != 3) |>.getD false
  [BitVec.ofNat 64 (c.place + flags * 2 ^ 8 + c.window.toNat * 2 ^ 16 + c.slice * 2 ^ 32),
   BitVec.ofNat 64 ((if gather then c.row else 0) + c.count * 2 ^ 32),
   BitVec.ofNat 64 (32 * c.prog), c.index.getD 0] ++ List.replicate 8 0

/-- Candidates for predictions of a copy that parks on a page (R420): the next pages of the faulting side, the rows of a
CPYS, the elements that the next index words of a CPYG name. -/
def State.copyCands (s : State) (c : Copy) (page : Nat) (write : Bool) : List Nat :=
  match c.sliceAt c.slice with
  | none => []
  | some x =>
    let rows := [c.row + 1, c.row + 2].filter (fun r => decide (r < x.rows))
    let pageOf := fun (a : Nat) => a % 2 ^ 64 / 4096 * 4096
    if x.minor = 0 || x.minor = 3 then [page + 4096, page + 8192]
    else if write then rows.map (fun r => pageOf (x.dstRow r))
    else if x.minor = 2 then rows.map (fun r => pageOf (x.srcRow r 0))
    else rows.filterMap (fun r =>
      match (s.copyCheck c false ((x.a.toNat + r * x.idxBytes) % 2 ^ 64)).2 with
      | .ok p => some (pageOf (x.srcRow r (s.readN p.loc x.idxBytes)))
      | .error _ => none)

/-- Parks a whole copy on a page (R263, R415). -/
def State.parkCopy (s : State) (c : Copy) (page : Nat) (r : Reason) (write : Bool) : State :=
  let i := (c.sliceAt 0).map (fun x => x.minor) |>.getD 0
  let instr : Instr := if i = 0 then .cpy 0 0 else if i = 1 then .cpyg 0 0 else if i = 2 then .cpys 0 0 else .cpym 0 0
  let s := s.setCopy { c with state := .parked }
  s.park { ctx := c.ctx, core := c.core, gid := (s.groupsOf c.team).headD (groupKey c.core 0), unit := .copy, instr := instr,
           hints := Hints.none, word := 0, pc := 0, next := 0, lanes := [], data := c.record write, copy := some c.id,
           pages := [{ lane := 0, page := page, reason := r, write := write, fetch := false }],
           cands := s.copyCands c page write }

/-- What stops the copy at its next step, if a page does: of the portion in hand, or of its stamp (R260, R263). -/
def State.copyStop (s : State) (c : Copy) : State × Option Halted :=
  if c.done then
    if c.block.stamp = 0 || c.block.stamp % 8 ≠ 0 then (s, none)
    else
      match s.copyCheck c true c.block.stamp with
      | (s, .error e) => (s, some e)
      | (s, .ok _) => (s, none)
  else
    match (List.range 16).findSome? c.part with
    | none => (s, none)
    | some p =>
      match s.copyFetch c p with
      | (s, .error e) => (s, some e)
      | (s, .ok _) => (s, none)

/-- COPY_PARK of the copy that the subject names, when its next part's check ends with a reason (R263). -/
def execCopyPark (s : State) : Out :=
  .next (match s.copyOf s.subj.id with
    | some c =>
      if c.state != .moving then s
      else
        match s.settleU.copyStop c with
        | (s', some (.park page r w)) => s'.parkCopy ((s'.copyOf c.id).getD c) page r w
        | _ => s
    | none => s)

/-- The stamp that a copy writes (R260). -/
def Copy.stampValue (c : Copy) : Nat :=
  c.block.seq * 2 ^ 32 + (if c.status = 0 && c.poison then 7 else c.status) * 2 ^ 24 + c.count

/-- COPY_STAMP_WRITE: after every byte of the copy has landed, the stamp is written as a release at .SYS; a copy without
one goes on to retire (R260). A stamp that fails with PERMISSION is not made. -/
def State.stampCopy (s : State) (c : Copy) : State :=
  let fin := fun (s : State) (c : Copy) => s.setCopy { c with state := .stamping }
  let a := c.block.stamp
  if a = 0 || a % 8 ≠ 0 then fin s c
  else
    match s.settleU.copyCheck c true a with
    | (s, .ok p) =>
      let s := (s.noteWrite c.core c.ctx a true p.leaf p.loc).publish c.core c.ctx 6 none
      let s := s.storeLeaf p.loc p.leaf (bytesOf 8 c.stampValue)
      (fin s c).notice p.loc 8
    | (s, .error (.status n)) => s.stampFails c n
    | (s, .error .bad) => s.stampFails c 6
    | _ => s

/-- COPY_STAMP_WRITE of the copy that the subject names. -/
def execCopyStampWrite (s : State) : Out :=
  .next (match s.copyOf s.subj.id with
    | some c => if c.state == .moving && c.done then s.stampCopy c else s
    | none => s)

/-- The engine of a core frees its lines once no copy of its own moves (R261). Lines that another copy of the engine still
needs are taken again (R258). -/
def State.engineIdle (s : State) (core : Nat) : State :=
  if s.copies.any (fun x => x.core == core && x.state == .moving) then s else s.freeEngine core

/-- A copy retires: entries, place, line ownership and counter are freed, and a group that waits for a place goes on (R251,
R261). -/
def State.retireCopy (s : State) (c : Copy) : State :=
  let s : State := { s with copies := s.copies.filter (fun x => x.id != c.id) }
  let s := s.modOut c.launch c.core (fun n => { n with copies := n.copies - 1 })
  let s := (s.engineIdle c.core).placesFreed c.core
  if ((s.clusters.find c.cluster).map (fun k => k.members.all (·.exited))).getD false then s.endCluster c.cluster else s

/-- COPY_RETIRE of the copy that the subject names. -/
def execCopyRetire (s : State) : Out :=
  .next (match s.copyOf s.subj.id with
    | some c => if c.state == .stamping then s.retireCopy c else s
    | none => s)

/-! ## Transaction barrier instructions (R267–R270) -/

/-- The lane of a TBAR instruction: its barrier and its operand. -/
def State.tbarLane (s : State) (b : Bundle) (i : Instr) (t : Nat) : Lane :=
  let l := s.operands b.hints t (formOf b.hints i)
  dataLane t (arg l 0 % 2 ^ 32) (arg l 1) 0

/-- TBAR.INIT (R268). -/
def execTbarInit (a b : BitVec 7) (s : State) : Out :=
  s.memOut (.tbarInit a b) false (fun s bd t => s.tbarLane bd (.tbarInit a b) t)
/-- TBAR.EXP (R268). -/
def execTbarExp (a b : BitVec 7) (s : State) : Out :=
  s.memOut (.tbarExp a b) false (fun s bd t => s.tbarLane bd (.tbarExp a b) t)
/-- TBAR.ACK (R268). -/
def execTbarAck (a : BitVec 7) (s : State) : Out :=
  s.memOut (.tbarAck a) false (fun s bd t => s.tbarLane bd (.tbarAck a) t)
/-- TBAR.WAIT (R268, R269). -/
def execTbarWait (d a b : BitVec 7) (n : Bool) (s : State) : Out :=
  s.memOut (.tbarWait d a b n) false (fun s bd t => s.tbarLane bd (.tbarWait d a b n) t)

/-- Passing lanes go to the owning core; arrivals release, waits acquire (R270). -/
def State.passTbar (s : State) (o : Op) (ok : List (Lane × Passed)) : State :=
  ok.foldl (fun s q =>
    let id := s.nextId
    let t := q.1.tid
    match o.instr with
    | .tbarWait .. =>
      ((s.addAccess o q.1 q.2 { kind := .atomic, size := 16, x := q.1.x, acq := true }).passThread o t).modThread t
        (fun x => { x with waitFor := .result id })
    | .tbarInit .. => (s.addAccess o q.1 q.2 { kind := .atomic, size := 16, x := q.1.x }).passThread o t
    | _ => (s.addAccess o q.1 q.2 { kind := .atomic, size := 16, x := q.1.x, rel := true }).passThread o t) s

/-- One arrival (R268). -/
def Tbar.arrive (b : Tbar) : Tbar := { b with pend := b.pend - 1 }

/-- A TBAR instruction of one thread at its barrier (R268). -/
def State.applyTbar (s : State) (a : Access) : State :=
  let (s, ok) := s.consume a.pa 0
  let s := s.dropAcc a
  let b := s.tbar a.pa
  if !ok then s.loadPoisoned a
  else
    match a.instr with
    | .tbarInit .. =>
      let n := bits a.x.toNat 0 16
      s.setTbar a.pa { pending := 0, init := n, pend := n, phase := false, err := false }
    | .tbarExp .. =>
      let b := { b with pending := (b.pending + a.x.toNat) % 2 ^ 64 }
      (s.publish a.core a.ctx 3 none).setTbar a.pa ((if xmodBit a.hints 0 then b else b.arrive).step)
    | .tbarAck .. => (s.publish a.core a.ctx 3 none).setTbar a.pa b.arrive.step
    | .tbarWait d _ _ _ =>
      if !s.alive a.tid then s
      else
        let s := s.wakeResult a.id
        let ph := a.x.getLsbD 0
        match b.waitStatus ph with
        | some v => (if v == 0 then s.acquire a.core a.ctx 3 none else s).writeDst a.tid d 32 v.toNat
        | none =>
          (s.modThread a.tid (fun x =>
            { (x.block (.tbarWait (a.va.extractLsb' 0 32) ph) s.wall) with waitDst := d })).wftAdd a.tid .tbarWait a.pa
    | _ => s

/-- ATOMIC_LANE_APPLIED for the access that the subject names, with the lanes of its operation on the same element
(R265, R297, R301). -/
def execAtomicLaneApplied (s : State) : Out :=
  .next (match s.accOf s.subj.id with
    | some a =>
      if a.kind != .atomic then s
      else (s.sameElement a).foldl (fun s e =>
        if isTbarOp e.instr then s.applyTbar e
        else
          let (fold, s) := s.uChoice e
          if fold then s.foldU e else s.settleU.applyAtomic e) s
    | none => s)

end Sys2Proof.Machine
end

