-- ==== Sys2Proof/Machine/Geometry.lean ====
section
/-! DEFINITION. Majors 0x30 and 0x31: the build helpers, and the exact arithmetic of rays, boxes and triangles
(17 R343–R354, R357, R362, R363). -/
namespace Sys2Proof.Machine

/-! ## Build helpers (R362) -/

/-- Component `i` of a register block, as .F32 bits. -/
def comp (x i : Nat) : Nat := bits x (32 * i) 32
/-- Component `i` of a register block, as a value. -/
def compVal (x i : Nat) : Num := (fmtOf 15).read (comp x i)
/-- Registers of a block joined into one number. -/
def joinWords (l : List Nat) : Nat := (l.mapIdx (fun i x => x % 2 ^ 32 * 2 ^ (32 * i))).foldl (· + ·) 0

/-- BXU (R362). -/
def execBxu (d a b : BitVec 7) (s : State) : Out :=
  s.aluOut (.bxu d a b) (fun h l =>
    let x := l.getD 0 0
    let y := l.getD 1 0
    let f := fmtOf 15
    joinWords ((List.range 3).map (fun i => (minMax f false (comp x i) (comp y i)).1) ++
      (List.range 3).map (fun i => (minMax f true (comp x (3 + i)) (comp y (if xmodBit h 0 then i else 3 + i))).1)))

/-- Width of a box along an axis: max(hi − lo, 0). -/
def boxWidth (x i : Nat) : Num :=
  let w := Num.sub false (compVal x (3 + i)) (compVal x i)
  if w.isNan then w else if w.neg then Num.zero else w

/-- BSAH (R362). -/
def execBsah (d a b : BitVec 7) (s : State) : Out :=
  s.aluOut (.bsah d a b) (fun _ l =>
    let w := fun i => boxWidth (l.getD 0 0) i
    let area := Num.add false (Num.add false ((w 0).mul (w 1)) ((w 1).mul (w 2))) ((w 2).mul (w 0))
    (deliver (fmtOf 15) {} false (area.mul (Num.ofInt (l.getD 1 0)))).1)

/-- The exponent of NPACK.FRAME for an axis (R362). -/
def frameExp (lo hi : Num) : Int :=
  let le := !lo.isNan && !hi.isNan && !lo.lt hi || lo.eq hi
  match lo, hi with
  | .fin _ _ _, .fin _ _ _ =>
    if le then -128
    else
      let w := Num.sub false hi lo
      match w with
      | .fin _ n d => min 127 (max (-128) (-(Num.log2Floor (255 * d) n)))
      | _ => 127
  | _, _ => if le then -128 else 127

/-- A quantised coordinate (R362): its byte, and whether it lies outside 0–255 or comes from a NaN. -/
def quantise (up : Bool) (x origin : Num) (e : Int) : Nat × Bool :=
  match (Num.sub false x origin).scale (-e) with
  | .nan _ => (if up then 255 else 0, true)
  | .inf s => (if s then 0 else 255, true)
  | .fin s n d =>
    let v : Int := if s then -(n : Int) else n
    let q := if up then Num.ceilDiv v d else Num.floorDiv v d
    if q < 0 then (0, true) else if q > 255 then (255, true) else (q.toNat, false)

/-- NPACK against a frame (R362). -/
def npack (box frame : Nat) : Nat :=
  let q := fun (i : Nat) => quantise (decide (i ≥ 3)) (compVal box i) (compVal frame (i % 3))
    (signedOf 8 (bits (comp frame 3) (8 * (i % 3)) 8))
  let qs := (List.range 6).map q
  let out := qs.any (·.2) || (List.range 3).any (fun i => decide ((q (3 + i)).1 < (q i).1)) ||
    (List.range 6).any (fun i => (compVal box i).isNan) || (List.range 3).any (fun i => (compVal frame i).isNan)
  (qs.mapIdx (fun i p => p.1 * 2 ^ (8 * i))).foldl (· + ·) 0 + b2n out * 2 ^ 63

/-- NPACK (R362). -/
def execNpack (d a b : BitVec 7) (s : State) : Out :=
  s.aluOut (.npack d a b) (fun h l =>
    let x := l.getD 0 0
    if xmodBit h 0 then
      ((List.range 3).map (fun i => wrapInt 8 (frameExp (compVal x i) (compVal x (3 + i))) * 2 ^ (8 * i))).foldl (· + ·) 0
    else npack x (l.getD 1 0))

/-! ## Exact arithmetic of a walk (R346, R352, R353) -/

/-- A dyadic number m / 2^e. -/
structure Dy where
  m : Int
  e : Nat
  deriving DecidableEq, Repr

namespace Dy
/-- Exact sum. -/
def add (a b : Dy) : Dy :=
  if a.e ≤ b.e then { m := a.m * 2 ^ (b.e - a.e) + b.m, e := b.e } else { m := a.m + b.m * 2 ^ (a.e - b.e), e := a.e }
/-- Exact difference. -/
def sub (a b : Dy) : Dy := a.add { m := -b.m, e := b.e }
/-- Exact product. -/
def mul (a b : Dy) : Dy := { m := a.m * b.m, e := a.e + b.e }
/-- Order. -/
def lt (a b : Dy) : Bool := decide ((a.sub b).m < 0)
/-- The value of a finite number whose denominator is a power of two. -/
def ofNum (x : Num) : Dy := { m := x.top, e := Nat.log2 x.den }
/-- As a value. -/
def toNum (a : Dy) : Num := Num.ofInt a.m (2 ^ a.e)
/-- An exact quotient, `b` not zero. -/
def quot (a b : Dy) : Num :=
  let n := a.m * 2 ^ b.e
  let d := b.m * 2 ^ a.e
  Num.ofInt (if d < 0 then -n else n) d.natAbs
end Dy

/-- Three components. -/
structure V3 where
  x : Dy
  y : Dy
  z : Dy
  deriving DecidableEq, Repr

namespace V3
/-- Difference. -/
def sub (a b : V3) : V3 := { x := a.x.sub b.x, y := a.y.sub b.y, z := a.z.sub b.z }
/-- Scalar product. -/
def dot (a b : V3) : Dy := ((a.x.mul b.x).add (a.y.mul b.y)).add (a.z.mul b.z)
/-- Vector product. -/
def cross (a b : V3) : V3 :=
  { x := (a.y.mul b.z).sub (a.z.mul b.y), y := (a.z.mul b.x).sub (a.x.mul b.z), z := (a.x.mul b.y).sub (a.y.mul b.x) }
/-- Lexicographic order by x, y, z (R353). -/
def before (a b : V3) : Bool :=
  a.x.lt b.x || (!b.x.lt a.x && (a.y.lt b.y || (!b.y.lt a.y && a.z.lt b.z)))
/-- All components zero. -/
def isZero (a : V3) : Bool := a.x.m == 0 && a.y.m == 0 && a.z.m == 0
/-- Component by axis. -/
def get (a : V3) (i : Nat) : Dy := if i = 0 then a.x else if i = 1 then a.y else a.z
end V3

/-- .F32 at byte `a` of a block of 8-byte words. -/
def wordAt (ws : List DWord) (a : Nat) : Nat := bits ((ws.getD (a / 8) 0).toNat) (8 * (a % 8)) 32
/-- Byte `a` of a block of 8-byte words. -/
def byteAt (ws : List DWord) (a : Nat) : Nat := bits ((ws.getD (a / 8) 0).toNat) (8 * (a % 8)) 8
/-- .F32 at byte `a`, as a value. -/
def f32At (ws : List DWord) (a : Nat) : Num := (fmtOf 15).read (wordAt ws a)
/-- .F64 at byte `a`, a multiple of 4, as a value. -/
def f64At (ws : List DWord) (a : Nat) : Num := (fmtOf 14).read (wordAt ws a + wordAt ws (a + 4) * 2 ^ 32)
/-- Bytes `a` to `a + n − 1` are zero. -/
def zeroAt (ws : List DWord) (a n : Nat) : Bool := (List.range n).all (fun i => byteAt ws (a + i) == 0)
/-- A finite value. -/
def Num.isFin : Num → Bool
  | .fin _ _ _ => true
  | _ => false

/-- Three values as a vector. -/
def v3Of (x y z : Num) : V3 := { x := Dy.ofNum x, y := Dy.ofNum y, z := Dy.ofNum z }
/-- Three .F32 from byte `a`. -/
def v3At (ws : List DWord) (a : Nat) : V3 := v3Of (f32At ws a) (f32At ws (a + 4)) (f32At ws (a + 8))

/-- A ray: origin and direction in world coordinates, limits and FLAGS (R351). -/
structure Ray where
  o : V3
  d : V3
  tmin : Num
  tmax : Num
  flags : Nat
  deriving DecidableEq, Repr

/-- A ray that a MISS answers at once (R351). -/
def Ray.trivial (r : Ray) : Bool := r.d.isZero || r.tmax.lt r.tmin
/-- ANY. -/
def Ray.any (r : Ray) : Bool := bit r.flags 0
/-- MASK. -/
def Ray.mask (r : Ray) : Nat := bits r.flags 8 8

/-! ## Records in memory (R344–R350) -/

/-- An instance or scene record meets R348 and R350. -/
def instOk (ws : List DWord) : Bool :=
  (List.range 3).all (fun i => (f64At ws (8 * i)).isFin) && (List.range 9).all (fun i => (f32At ws (0x3C + 4 * i)).isFin) &&
    (wordAt ws 0x60) % 128 == 0 && byteAt ws 0x6D < 2 && zeroAt ws 0x6E 18
/-- ROOT of a record. -/
def instRoot (ws : List DWord) : Nat := (ws.getD 12 0).toNat
/-- INSTANCE_ID of a record. -/
def instId (ws : List DWord) : Nat := wordAt ws 0x68
/-- MASK of a record. -/
def instMask (ws : List DWord) : Nat := byteAt ws 0x6C
/-- NO_CULL of a record. -/
def instNoCull (ws : List DWord) : Bool := bit (byteAt ws 0x6D) 0

/-- Rounds to binary64; none when that overflows (R352). -/
def round64 (a : Dy) : Option Dy :=
  match (fmtOf 14).read (deliver (fmtOf 14) {} false a.toNum).1 with
  | .fin s n d => some (Dy.ofNum (.fin s n d))
  | _ => none

/-- The ray in the local coordinates of a record; none when a component overflows (R352). -/
def localRay (ws : List DWord) (r : Ray) : Option Ray :=
  let row := fun i => v3At ws (0x3C + 12 * i)
  let anchor := v3Of (f64At ws 0) (f64At ws 8) (f64At ws 16)
  let map := fun (v : V3) =>
    match round64 ((row 0).dot v), round64 ((row 1).dot v), round64 ((row 2).dot v) with
    | some x, some y, some z => some ({ x := x, y := y, z := z } : V3)
    | _, _, _ => none
  match map (r.o.sub anchor), map r.d with
  | some o, some d => some { r with o := o, d := d }
  | _, _ => none

/-- Fields of child `c` of a node (R345). -/
structure Child where
  lo : List Nat
  hi : List Nat
  kind : Nat
  count : Nat
  /-- the target's address -/
  target : Nat
  deriving DecidableEq, Repr

/-- Child `c` of the node at an address (R345). -/
def childOf (addr : Nat) (ws : List DWord) (c : Nat) : Child :=
  let b := 0x20 + 12 * c
  { lo := (List.range 3).map (fun i => byteAt ws (b + i)), hi := (List.range 3).map (fun i => byteAt ws (b + 3 + i)),
    kind := byteAt ws (b + 6), count := byteAt ws (b + 7),
    target := wrapInt 64 ((addr : Int) + 16 * signedOf 32 (wordAt ws (b + 8))) }

/-- A child entry in use meets R345. -/
def Child.ok (c : Child) : Bool :=
  (List.range 3).all (fun i => decide (c.lo.getD i 0 ≤ c.hi.getD i 0)) && c.kind ≤ 3 &&
    (if c.kind ≥ 2 then 1 ≤ c.count && c.count ≤ 16 else c.count == 0) &&
    ((c.kind != 1 && c.kind != 3) || c.target % 128 == 0)

/-- A node meets R344, R345 and R350. -/
def nodeOk (addr : Nat) (ws : List DWord) : Bool :=
  let n := byteAt ws 0x10
  (List.range 3).all (fun i => (f32At ws (4 * i)).isFin) && byteAt ws 0x0F == 1 && 1 ≤ n && n ≤ 8 && zeroAt ws 0x11 15 &&
    (List.range 8).all (fun c => if c < n then (childOf addr ws c).ok else zeroAt ws (0x20 + 12 * c) 12)

/-- A corner of a child's exact box along an axis (R346). -/
def corner (ws : List DWord) (i q : Nat) : Dy :=
  let e := signedOf 8 (byteAt ws (0x0C + i))
  (Dy.ofNum (f32At ws (4 * i))).add
    (if e ≥ 0 then { m := (q : Int) * 2 ^ e.toNat, e := 0 } else { m := q, e := (-e).toNat })

/-- The ray's segment up to `limit` meets the exact box of a child (R346). -/
def meetsBox (ws : List DWord) (c : Child) (r : Ray) (limit : Num) : Bool :=
  let step := fun (p : Option (Num × Num)) (i : Nat) =>
    match p with
    | none => none
    | some (a, b) =>
      let lo := (corner ws i (c.lo.getD i 0)).sub (r.o.get i)
      let hi := (corner ws i (c.hi.getD i 0)).sub (r.o.get i)
      let d := r.d.get i
      if d.m = 0 then (if 0 < lo.m || hi.m < 0 then none else some (a, b))
      else
        let t1 := (if d.m < 0 then hi else lo).quot d
        let t2 := (if d.m < 0 then lo else hi).quot d
        some (if a.lt t1 then t1 else a, if t2.lt b then t2 else b)
  match (List.range 3).foldl step (some (r.tmin, if limit.lt r.tmax then limit else r.tmax)) with
  | none => false
  | some (a, b) => !b.lt a || a.eq b

/-! ## Triangles (R347, R353, R354) -/

/-- A triangle record meets R347 and R350. -/
def triOk (ws : List DWord) : Bool := (List.range 9).all (fun i => (f32At ws (4 * i)).isFin) && zeroAt ws 0x2C 4

/-- A value as .F32 bits, rounded .RN. -/
def f32Of (x : Num) : Word := BitVec.ofNat 32 (deliver (fmtOf 15) {} false x).1

/-- The counting hit of a local ray with a triangle, if any (R353): `inst` is the record that it is seen through. -/
def hitTriangle (addr : Nat) (ws : List DWord) (instAddr : Nat) (inst : List DWord) (r : Ray) : Option WHit :=
  let v0 := v3At ws 0
  let v1 := v3At ws 0x0C
  let v2 := v3At ws 0x18
  let n := (v1.sub v0).cross (v2.sub v0)
  let nd := n.dot r.d
  let e0 := r.d.dot ((v1.sub r.o).cross (v2.sub r.o))
  let e1 := r.d.dot ((v2.sub r.o).cross (v0.sub r.o))
  let e2 := r.d.dot ((v0.sub r.o).cross (v1.sub r.o))
  let es := [(e0, v1, v2), (e1, v2, v0), (e2, v0, v1)]
  let pos := es.any (fun p => decide (0 < p.1.m))
  let neg := es.any (fun p => decide (p.1.m < 0))
  let edges := es.all (fun p => p.1.m != 0 || p.2.1.before p.2.2)
  if nd.m = 0 || (pos && neg) || !edges then none
  else
    let t := (n.dot (v0.sub r.o)).quot nd
    let back := decide (0 < nd.m)
    let culled := !instNoCull inst && ((back && bit r.flags 1) || (!back && bit r.flags 2))
    if t.lt r.tmin && !t.eq r.tmin || r.tmax.lt t && !t.eq r.tmax || culled then none
    else
      let sum := (e0.add e1).add e2
      some { tri := addr, inst := instAddr, tn := t.top, td := t.den, u := f32Of (e1.quot sum), v := f32Of (e2.quot sum),
             prim := BitVec.ofNat 32 (wordAt ws 0x24), instId := BitVec.ofNat 32 (instId inst),
             geom := BitVec.ofNat 32 (wordAt ws 0x28), back := back }

/-- t of a hit. -/
def WHit.t (h : WHit) : Num := Num.ofInt h.tn h.td

/-- Hit `a` is taken over hit `b` (R354). -/
def WHit.better (a b : WHit) : Bool :=
  let l := a.tn * b.td
  let r := b.tn * a.td
  if l ≠ r then decide (l < r)
  else if a.instId ≠ b.instId then decide (a.instId.toNat < b.instId.toNat)
  else if a.prim ≠ b.prim then decide (a.prim.toNat < b.prim.toNat)
  else decide (a.tri < b.tri)

/-! ## The rays of a walk (R351, R356, R357) -/

/-- The ray of TRACE's 12 registers; none for one that gives FORMAT (R351). -/
def traceRay (ws : List DWord) : Option Ray :=
  let flags := wordAt ws 44
  let ok := (List.range 3).all (fun i => (f64At ws (8 * i)).isFin && (f32At ws (24 + 4 * i)).isFin) &&
    !(f32At ws 36).isNan && !(f32At ws 40).isNan && bits flags 3 5 == 0 && bits flags 16 16 == 0
  if ok then
    some { o := v3Of (f64At ws 0) (f64At ws 8) (f64At ws 16), d := v3At ws 24, tmin := f32At ws 36, tmax := f32At ws 40,
           flags := flags }
  else none

/-- S of a beam block (R356). -/
def blockS (ws : List DWord) : Nat := if byteAt ws 0x65 = 3 then 8 else 16
/-- Address of the entry of pixel (x, y) (R357). -/
def pixelAddr (ws : List DWord) (x y : Nat) : Nat := ((ws.getD 1 0).toNat + y * wordAt ws 0x60 + 16 * x) % 2 ^ 64

/-- A component of a pixel's direction; none when its rounding overflows (R356, R357). -/
def pixelComp (ws : List DWord) (x y i : Nat) : Option Dy :=
  let half := fun (tile p : Nat) => ({ m := 2 * (tile + p) + 1, e := 1 } : Dy)
  let v := ((Dy.ofNum (f32At ws (0x28 + 4 * i))).add ((half (wordAt ws 0x58) x).mul (Dy.ofNum (f32At ws (0x34 + 4 * i))))).add
    ((half (wordAt ws 0x5C) y).mul (Dy.ofNum (f32At ws (0x40 + 4 * i))))
  match (fmtOf 15).read (f32Of v.toNum).toNat with
  | .fin s n d => some (Dy.ofNum (.fin s n d))
  | _ => none

/-- The sample rays of a tile, pixel y × S + x; none for a block that gives FORMAT (R356, R357). -/
def tileRays (cov : Bool) (ws : List DWord) : Option (List Ray) :=
  let s := blockS ws
  let flags := wordAt ws 0x54
  let q := fun i => (ws.getD i 0).toNat
  let ok := q 1 % 16 == 0 && (List.range 3).all (fun i => (f64At ws (0x10 + 8 * i)).isFin) &&
    (List.range 9).all (fun i => (f32At ws (0x28 + 4 * i)).isFin) && !(f32At ws 0x4C).isNan && !(f32At ws 0x50).isNan &&
    !bit flags 0 && bits flags 3 5 == 0 && bits flags 16 16 == 0 && wordAt ws 0x60 % 16 == 0 && 16 * s ≤ wordAt ws 0x60 &&
    byteAt ws 0x64 == 1 && (byteAt ws 0x65 == 3 || byteAt ws 0x65 == 4) && zeroAt ws 0x66 2 && zeroAt ws 0x79 7 &&
    (if cov then q 0 == 0 && q 13 % 16 == 0 && q 14 % 128 == 0 && 1 ≤ byteAt ws 0x78 && byteAt ws 0x78 ≤ 16
     else q 0 % 128 == 0 && zeroAt ws 0x68 17)
  if !ok then none
  else
    (List.range (s * s)).mapM (fun p =>
      match pixelComp ws (p % s) (p / s) 0, pixelComp ws (p % s) (p / s) 1, pixelComp ws (p % s) (p / s) 2 with
      | some x, some y, some z =>
        some ({ o := v3Of (f64At ws 0x10) (f64At ws 0x18) (f64At ws 0x20), d := { x := x, y := y, z := z },
                tmin := f32At ws 0x4C, tmax := f32At ws 0x50, flags := flags } : Ray)
      | _, _, _ => none)

end Sys2Proof.Machine
end

