-- ==== Sys2Proof/Machine/Matrix.lean ====
section
/-! DEFINITION. Major 0x2E and the matrix array (16 R321–R342; 08 R156). -/
namespace Sys2Proof.Machine

/-! ## Blocks (R322, R333) -/

/-- Byte `i` of a block of 64. -/
def blkByte (b : BitVec 512) (i : Nat) : Nat := (b.extractLsb' (8 * i) 8).toNat
/-- Halfword at byte `i` of a block. -/
def blkHalf (b : BitVec 512) (i : Nat) : Nat := (b.extractLsb' (8 * i) 16).toNat
/-- Bytes `i` to `i + n − 1` of a block are zero. -/
def blkZero (b : BitVec 512) (i n : Nat) : Bool := (List.range n).all (fun j => blkByte b (i + j) == 0)

/-- Feature of an element type (R323). -/
def matrixFeature (ty : Nat) : Nat := if ty = 16 || ty = 17 then 2 else if ty = 1 || ty = 18 || ty = 19 then 3 else 4
/-- Elements of a type in a row of 192 bytes (R323). -/
def kelem (ty : Nat) : Nat := 1536 / tyWidth ty
/-- Two element types form a pair (R323). -/
def pairOk (a b : Nat) : Bool :=
  (a == 1 && b == 1) || ((a == 18 || a == 19) && (b == 18 || b == 19)) || (a == 16 && b == 16) || (a == 17 && b == 17) ||
  ((a == 20 || a == 21) && (b == 20 || b == 21)) || (a == 22 && b == 22)
/-- An edge of a tile (R322). -/
def edgeOk (n : Nat) : Bool := n == 16 || n == 32 || n == 48 || n == 64

/-- The release form of a TCB (R322, R323). -/
def tcbRelease (b : BitVec 512) : Bool := b == 1#512
/-- A TCB meets R322 and R323 for a context. -/
def State.tcbOk (s : State) (c : Nat) (b : BitVec 512) : Bool :=
  let at' := blkByte b 1
  let bt := blkByte b 2
  let mx := 18 ≤ at' && at' ≤ 22
  tcbRelease b ||
  (blkByte b 0 == 1 && pairOk at' bt && edgeOk (blkByte b 3) && edgeOk (blkByte b 4) && 1 ≤ blkByte b 5 && blkByte b 5 ≤ 16 &&
    blkByte b 6 < 4 && (blkByte b 6 == 0 || mx) && blkZero b 7 57 && s.feature c (matrixFeature at') &&
    s.feature c (matrixFeature bt))

/-! ## Configuration and tiles (R321, R323) -/

/-- M of a configuration. -/
def tcM (b : BitVec 512) : Nat := blkByte b 3
/-- N of a configuration. -/
def tcN (b : BitVec 512) : Nat := blkByte b 4
/-- Tiles of a configuration. -/
def tcTiles (b : BitVec 512) : Nat := 16384 * blkByte b 5 / (4 * tcM b * tcN b)
/-- Key of an accumulator element of a team with the given units: `x` counts through them in order. -/
def accKey (units : List Nat) (core x : Nat) : Nat := (core * 16 + units.getD (x / 4096) 0) * 4096 + x % 4096
/-- An accumulator element. -/
def State.accWord (s : State) (key : Nat) : Word := s.acc.at' 0 key
/-- Writes an accumulator element, with its poison. -/
def State.setAcc (s : State) (key : Nat) (v : Word) (bad : Bool) : State :=
  { s with acc := s.acc.put key v,
           accPoison := if bad then (if s.accPoison.contains key then s.accPoison else s.accPoison ++ [key])
             else s.accPoison.filter (· != key) }

/-- Units of a core that teams hold, those of exited teams with requests among them (R321). -/
def State.unitsUsed (s : State) (core : Nat) : List Nat :=
  (s.teamsOn core).flatMap (fun k => (s.team k).units) ++
  (s.mreqs.filter (fun q => q.core == core && q.team.isNone)).flatMap (·.units)

/-- An array fault of accumulator memory that a read of its element meets (R321, R447, R449): a lasting one poisons the element.
An element has no PA to be logged: what ERR_LOG_PA takes is a free value. -/
def State.meetAcc (s : State) (e : Ecc) : State :=
  let s := { s with ecc := s.ecc.erase e }
  match e.kind with
  | .single => s.modDev (fun d => { d with errCe := sat32 d.errCe })
  | .transient => s.modDev (fun d => { d with errTransient := sat32 d.errTransient })
  | .lasting =>
    let (v, s) := s.free
    let s := (s.logLasting 6 0 true).modDev (fun d => { d with errLogPa := v })
    s.setAcc e.sector (s.accWord e.sector) true

/-- The faults of the elements that a read names. -/
def State.meetAccs (s : State) (p : Nat → Bool) : State :=
  (s.ecc.filter (fun e => e.unit == 6 && p e.sector)).foldl (fun s e => s.meetAcc e) s

/-! ## Fragments (R324, R325) -/

/-- A fragment entry: %group and first register (R333). -/
def fragOf (b : BitVec 512) (base f : Nat) : Nat × Nat :=
  let e := blkHalf b (base + 2 * f)
  (bits e 7 5, bits e 0 7)

/-- Key of a team's group by %group. -/
def State.groupAt (s : State) (k g : Nat) : Nat := (s.groupsOf k).getD g 0

/-- A register lane as a request sees it: zero for a group that had exited (R328). The lines of a team that has exited since
are those that the request holds. -/
def State.fragWord (s : State) (q : MReq) (g n lane : Nat) : Nat :=
  if q.dead.getLsbD g then 0
  else
    match q.team with
    | some k => (s.readReg (threadKey (s.groupAt k g) lane) n).toNat
    | none => (((s.line q.core q.ctx (q.tag g n)).map (fun (l : RegLine) => l.vals.at' 0 lane)).getD 0).toNat
/-- A register lane of a request is poisoned. -/
def State.fragPoison (s : State) (q : MReq) (g n lane : Nat) : Bool :=
  !q.dead.getLsbD g &&
  match q.team with
  | some k => s.regPoisoned (threadKey (s.groupAt k g) lane) n
  | none => ((s.line q.core q.ctx (q.tag g n)).map (fun (l : RegLine) => l.poison.getLsbD lane)).getD false

/-- Lane and register, from VBASE, of word `i` of row `r` (R324). -/
def rowWord (r i : Nat) : Nat × Nat := (r + 16 * (i / 24), i % 24)

/-- The bit string of operand row `m` of a request's fragments (R324). -/
def State.fragRow (s : State) (q : MReq) (base m : Nat) : Nat :=
  let (g, v) := fragOf q.block base (m / 16)
  ((List.range 48).map (fun i =>
    let (lane, j) := rowWord (m % 16) i
    s.fragWord q g (v + j) lane * 2 ^ (32 * i))).foldl (· + ·) 0

/-- Scale registers, of the two that an entry names, that hold a chunk of a row of `n` chunks (R325). -/
def scaleRegs (n : Nat) : Nat := (n / 2 + 3) / 4

/-- A lane of an operand row, or of its scales, is poisoned (R336). -/
def State.rowPoison (s : State) (q : MReq) (base scaleBase m : Nat) (scaled : Bool) : Bool :=
  let (g, v) := fragOf q.block base (m / 16)
  let (gs, vs) := fragOf q.block scaleBase (m / 16)
  (List.range 48).any (fun i => let (lane, j) := rowWord (m % 16) i; s.fragPoison q g (v + j) lane) ||
  (scaled && (List.range (scaleRegs (kelem (blkByte q.tcb 1) / 32))).any (fun i =>
    s.fragPoison q gs (vs + i) (m % 16) || s.fragPoison q gs (vs + i) (m % 16 + 16)))

/-- Scale of chunk `c` of `n` of a row: 1.0 when the operand is not scaled (R325). -/
def State.fragScale (s : State) (q : MReq) (base m n c : Nat) (scaled : Bool) : Nat :=
  if !scaled then 0x7F
  else
    let (g, v) := fragOf q.block base (m / 16)
    let i := c % (n / 2)
    bits (s.fragWord q g (v + i / 4) (m % 16 + 16 * (c / (n / 2)))) (8 * (i % 4)) 8

/-! ## Products (R156, R335, R336) -/

/-- A sum rounded to .F32 as the array makes it, with the conditions that MMA records. -/
def addF32 (x y : Num) : Num × BitVec 5 :=
  let r := Num.add false x y
  let (c, k) := deliver (fmtOf 15) {} false r
  ((fmtOf 15).read c, cIf (r.isNan && !x.isNan && !y.isNan) cIV ||| (k &&& cOF))

/-- One level of the pairwise tree. -/
def pairUp : List Num → List Num × BitVec 5
  | x :: y :: r =>
    let (v, k) := addF32 x y
    let (vs, ks) := pairUp r
    (v :: vs, k ||| ks)
  | l => (l, 0)

/-- The pairwise sum after `n` levels. -/
def treeSum : Nat → List Num → Num × BitVec 5
  | 0, l => (l.headD Num.zero, 0)
  | n + 1, l =>
    let (l', k) := pairUp l
    let (v, k') := treeSum n l'
    (v, k ||| k')

/-- The exact product of two elements with their scales (R156), and IV for a NaN that none of them is. -/
def scaledProduct (xa xb a b : Num) : Num × BitVec 5 :=
  let p := ((xa.mul xb).mul a).mul b
  (p, cIf (p.isNan && !xa.isNan && !xb.isNan && !a.isNan && !b.isNan) cIV)

/-- One chunk of a floating product row (R156 steps 2 and 3). -/
def chunkSum (ta tb ra rb c xa xb : Nat) : Num × BitVec 5 :=
  let fa := fmtOf ta
  let fb := fmtOf tb
  let wa := tyWidth ta
  let wb := tyWidth tb
  let ps := (List.range 32).map (fun j =>
    scaledProduct (readE8m0 xa) (readE8m0 xb) (fa.read (bits ra ((32 * c + j) * wa) wa)) (fb.read (bits rb ((32 * c + j) * wb) wb)))
  let (v, k) := treeSum 5 (ps.map (·.1))
  (v, (ps.map (·.2)).foldl (· ||| ·) k)

/-- One chunk of an .I8 product row: exact (R156). -/
def chunkInt (ra rb c : Nat) : Int :=
  (List.range 32).foldl (fun acc j => acc + signedOf 8 (bits ra (8 * (32 * c + j)) 8) * signedOf 8 (bits rb (8 * (32 * c + j)) 8)) 0

/-- One element of an MMA (R335): the accumulator's bits and the conditions. -/
def State.mmaElement (s : State) (q : MReq) (tcb : BitVec 512) (ra rb m n old : Nat) : Nat × BitVec 5 :=
  let ta := blkByte tcb 1
  let tb := blkByte tcb 2
  let cs := kelem ta / 32
  if ta = 1 then
    (wrapInt 32 ((List.range cs).foldl (fun acc c => acc + chunkInt ra rb c) (old : Int)), 0)
  else
    let (v, k) := (List.range cs).foldl (fun (p : Num × BitVec 5) c =>
      let (x, kx) := chunkSum ta tb ra rb c (s.fragScale q 0x18 m cs c (bit (blkByte tcb 6) 0))
        (s.fragScale q 0x20 n cs c (bit (blkByte tcb 6) 1))
      let (y, ky) := addF32 p.1 x
      (y, p.2 ||| kx ||| ky)) ((fmtOf 15).read old, 0)
    ((deliver (fmtOf 15) {} false v).1, k)

/-- A completed MMA (R335, R336): every element of its tile. -/
def State.doMma (s : State) (q : MReq) : State :=
  let tcb := q.tcb
  let tile := blkByte q.block 2
  let accum := bit (blkByte q.block 3) 0
  let cols := (List.range (tcN tcb)).map (fun n => (n, s.fragRow q 0x10 n, s.rowPoison q 0x10 0x20 n (bit (blkByte tcb 6) 1)))
  (List.range (tcM tcb)).foldl (fun acc i =>
    let ra := s.fragRow q 0x08 i
    let pa := s.rowPoison q 0x08 0x18 i (bit (blkByte tcb 6) 0)
    cols.foldl (fun acc p =>
      let key := accKey q.units q.core (tile * tcM tcb * tcN tcb + i * tcN tcb + p.1)
      let old := if accum then (s.accWord key).toNat else 0
      let (v, k) := s.mmaElement q tcb ra p.2.1 i p.1 old
      let bad := pa || p.2.2 || (accum && s.accPoison.contains key)
      (acc.setAcc key (BitVec.ofNat 32 v) bad).recordFor q.launch q.ctx k) acc) s

/-! ## Activations (R337, R338) -/

/-- FTANH of .F32 bits (R158). -/
def tanhBits (x : Nat) : Nat := (approx .tanh x).1

/-- f of R338 on .F32 bits. -/
def activate (func shift x : Nat) : Num :=
  let f := fmtOf 15
  let v := f.read x
  match func with
  | 0 => v
  | 1 => match v with
    | .nan _ => .nan false
    | .inf s => if s then Num.zero else v
    | .fin s n _ => if s || n = 0 then Num.zero else v
  | 2 => if v.isNan || !v.neg || v.isZero then v else v.scale (-(shift : Int))
  | 3 => f.read (tanhBits x)
  | _ =>
    let half := (deliver f {} false (v.scale (-1))).1
    let h := f.read (tanhBits half)
    f.read (deliver f {} false (Num.add false (h.scale (-1)) (.fin false 1 2))).1

/-- A completed TACT (R336, R337): every lane of its destination fragments; writes to the lines of a group that has exited are
discarded with them (R114, R328). -/
def State.doTact (s : State) (q : MReq) : State :=
  let tcb := q.tcb
  let b := q.block
  let ty := blkByte b 5
  let w := tyWidth ty
  let ke := kelem ty
  let one := 0x3F800000
  (List.range (tcM tcb)).foldl (fun s i =>
    let es := (List.range ke).map (fun k =>
      let key := accKey q.units q.core (blkByte b 2 * tcM tcb * tcN tcb + i * tcN tcb + k)
      let inside := decide (k < tcN tcb)
      let x := if inside then (s.accWord key).toNat else if k = tcN tcb && bit (blkByte b 3) 1 then one else 0
      let d : Deliver := { mode := blkByte b 6, sat := bit (blkByte b 3) 2,
                           draw := if blkByte b 6 = 4 then srDraw q.seed (64 * i + k) q.src else 0 }
      let (c, cond) := convFp ty d (activate (bits (blkByte b 4) 0 3) (bits (blkByte b 4) 4 4) x)
      (c % 2 ^ w, cond, inside && s.accPoison.contains key))
    let row := (es.mapIdx (fun k e => e.1 * 2 ^ (w * k))).foldl (· + ·) 0
    let (g, v) := fragOf b 0x08 (i / 16)
    let s := match q.team with
    | none => s
    | some team => if q.dead.getLsbD g || !(threadsOfGroup (s.groupAt team g)).any s.alive then s
      else (List.range 48).foldl (fun s x =>
        let (lane, j) := rowWord (i % 16) x
        let t := threadKey (s.groupAt team g) lane
        let s := s.writeReg t (v + j) (BitVec.ofNat 32 (bits row (32 * x) 32))
        let per := 32 / w
        if ((es.drop (x * per)).take per).any (fun e => e.2.2) then s.poisonReg t (v + j) else s) s
    s.recordFor q.launch q.ctx ((es.map (fun e => e.2.1)).foldl (· ||| ·) 0)) s

/-- A completed TZERO (R339). -/
def State.doTzero (s : State) (q : MReq) : State :=
  let tcb := q.tcb
  let mn := tcM tcb * tcN tcb
  let tiles := if q.block = BitVec.allOnes 512 then List.range (tcTiles tcb) else [q.block.toNat]
  tiles.foldl (fun s i => (List.range mn).foldl (fun s e => s.setAcc (accKey q.units q.core (i * mn + e)) 0 false) s) s

/-! ## Locks (R327, R328) -/

/-- Registers that a request of a block reads or writes, by %group: those of groups that had exited apart (R328). -/
def reqLines (i : Instr) (tcb block : BitVec 512) (dead : BitVec 32) : List (Nat × Nat) :=
  let frag := fun (base n len : Nat) => (List.range n).flatMap (fun f =>
    let (g, v) := fragOf block base f
    if dead.getLsbD g then [] else (List.range len).map (fun j => (g, v + j)))
  match i with
  | .mma .. =>
    frag 0x08 (tcM tcb / 16) 24 ++ frag 0x10 (tcN tcb / 16) 24 ++
      (if bit (blkByte tcb 6) 0 then frag 0x18 (tcM tcb / 16) 2 else []) ++
      (if bit (blkByte tcb 6) 1 then frag 0x20 (tcN tcb / 16) 2 else [])
  | .tact .. => frag 0x08 (tcM tcb / 16) 24
  | _ => []

/-- A request is one of a team's. -/
def MReq.ofTeam (q : MReq) (k : Nat) : Bool := q.team == some k

/-- A request locks register `n` of a thread's group. -/
def State.reqLocks (s : State) (q : MReq) (t n : Nat) : Bool :=
  q.ofTeam (s.teamOf t) && q.lines.contains ((s.group (gidOf t)).index, n)

/-- An instruction of a thread that reads some registers and writes others must wait for a request's locks (R328). -/
def State.matrixLocked (s : State) (t : Nat) (reads writes : List Nat) : Bool :=
  s.mreqs.any (fun q => writes.any (s.reqLocks q t) ||
    (reads.any (s.reqLocks q t) && (match q.instr with | .tact .. => true | _ => false)))

/-- A request reads or writes a tile (R327). -/
def touchesTile (q : MReq) (tile : Nat) : Bool :=
  match q.instr with
  | .tzero .. => q.block == BitVec.allOnes 512 || q.block.toNat == tile
  | _ => blkByte q.block 2 == tile

/-! ## Completion (R329, R342) -/

/-- Loads and atomics are still in flight into a line that a request uses (R328). -/
def State.reqWaits (s : State) (q : MReq) : Bool :=
  s.accs.any (fun a => decide (a.id < q.id) && a.dst.any (s.reqLocks q a.tid))

/-- A ticket is complete: (DN − a) mod 2^32 < 2^31. -/
def ticketDone (m : Team) (a : BitVec 32) : Bool := decide ((m.dn - a).toNat < 2 ^ 31)

/-- Ends the TWAITs of a team whose tickets are complete (R342). -/
def State.wakeTickets (s : State) (k : Nat) : State :=
  let m := s.team k
  (s.threadsOf k).foldl (fun s t =>
    match (s.thread t).waitFor with
    | .ticket a => if ticketDone m a then s.endWait t m.dn else s
    | _ => s) s

/-- The lines that no request locks any more and that no group is left for are discarded (R114, R328). -/
def State.afterRequest (s : State) (q : MReq) : State :=
  match q.team with
  | some k => ((s.groupsOf k).filter (fun g => !(threadsOfGroup g).any s.alive)).foldl (fun s g => s.dropGroupLines g) s
  | none => { s with lines := s.lines.filter (fun l => !q.locks l || s.mreqs.any (fun x => x.locks l)) }

/-- Lanes of the lines that a request reads, with the faults of the register file and of accumulator memory that they meet
(R116, R321, R449). -/
def State.meetRequest (s : State) (q : MReq) : State :=
  if s.ecc.isEmpty then s
  else
    let mn := tcM q.tcb * tcN q.tcb
    let tile := (List.range mn).map (fun i => accKey q.units q.core (blkByte q.block 2 * mn + i))
    match q.instr with
    | .mma .. =>
      let s := q.lines.foldl (fun s p => (List.range 32).foldl (fun s lane => match q.team with
        | some k => s.meetRegEcc (threadKey (s.groupAt k p.1) lane) p.2
        | none => match s.line q.core q.ctx (q.tag p.1 p.2) with
          | some l => s.meetLineEcc { l with dirty := true } lane
          | none => s) s) s
      if bit (blkByte q.block 3) 0 then s.meetAccs tile.contains else s
    | .tact .. => s.meetAccs tile.contains
    | _ => s

/-- The oldest request of a core is carried out (R327, R329). -/
def State.completeRequest (s : State) (q : MReq) : State :=
  let s := s.meetRequest q
  let s := match q.instr with
    | .mma .. => s.doMma q
    | .tact .. => s.doTact q
    | _ => s.doTzero q
  let s : State := { s with mreqs := s.mreqs.filter (fun x => x.id != q.id) }
  let s := match q.team with
    | some k => (s.modTeam k (fun m => { m with dn := m.dn + 1 })).wakeTickets k
    | none => s
  s.afterRequest q

/-- MATRIX_REQUEST_COMPLETE on the core that the subject names: requests are served in issue order (R326, R329). -/
def execMatrixRequestComplete (s : State) : Out :=
  .next (match s.mreqs.find? (fun q => q.core == s.subj.id) with
    | some q => if s.reqWaits q then s else s.completeRequest q
    | none => s)

/-! ## Instructions at issue (R330) -/

/-- Operands of a matrix instruction of one thread. -/
def State.matArgs (s : State) (b : Bundle) (i : Instr) (t : Nat) : List Nat := s.operands b.hints t (formOf b.hints i)

/-- TCFG (R332). -/
def execTcfg (d a : BitVec 7) (n : Bool) (s : State) : Out :=
  s.memOut (.tcfg d a n) true (fun s b t => addrLane t (arg (s.matArgs b (.tcfg d a n) t) 0))
/-- TZERO (R339). -/
def execTzero (d a : BitVec 7) (n : Bool) (s : State) : Out :=
  s.memOut (.tzero d a n) true (fun s b t => dataLane t 0 (arg (s.matArgs b (.tzero d a n) t) 0) 0)
/-- TLD (R340). -/
def execTld (d a b : BitVec 7) (n : Bool) (s : State) : Out :=
  s.memOut (.tld d a b n) true (fun s bd t =>
    let l := s.matArgs bd (.tld d a b n) t
    dataLane t 0 (arg l 0) (arg l 1))
/-- TST (R341). -/
def execTst (a b : BitVec 7) (s : State) : Out :=
  s.memOut (.tst a b) true (fun s bd t =>
    let l := s.matArgs bd (.tst a b) t
    dataLane t 0 (arg l 0) (arg l 1 + arg l 2 * 2 ^ 32))
/-- MMA (R335). -/
def execMma (d a : BitVec 7) (n : Bool) (s : State) : Out :=
  s.memOut (.mma d a n) true (fun s b t => addrLane t (arg (s.matArgs b (.mma d a n) t) 0))
/-- TACT (R337). -/
def execTact (d a : BitVec 7) (n : Bool) (s : State) : Out :=
  s.memOut (.tact d a n) true (fun s b t => addrLane t (arg (s.matArgs b (.tact d a n) t) 0))
/-- TWAIT (R342). -/
def execTwait (d a : BitVec 7) (n : Bool) (s : State) : Out :=
  s.memOut (.twait d a n) false (fun s b t => dataLane t 0 (arg (s.matArgs b (.twait d a n) t) 0) 0)

/-! ## Checks (R331, R334) -/

/-- Matrix instructions. -/
def isMatrixOp : Instr → Bool
  | .tcfg .. | .tzero .. | .tld .. | .tst .. | .mma .. | .tact .. | .twait .. => true
  | _ => false

/-- Instructions that read a block of scratch. -/
def readsBlock : Instr → Bool
  | .tcfg .. | .mma .. | .tact .. => true
  | _ => false

/-- Code 127 stands in srcA: every tile, or RQ (R339, R342). -/
def allTiles : Instr → Bool
  | .tzero _ a _ | .twait _ a _ => a == 127#7
  | _ => false

/-- The fields of a parameter block are those of its column of R333, and its fragments fit the team (R334). -/
def State.blockOk (s : State) (k : Nat) (i : Instr) (tcb b : BitVec 512) : Bool :=
  let m := s.team k
  let mf := tcM tcb / 16
  let nf := tcN tcb / 16
  let entry := fun (base f len : Nat) (used : Bool) =>
    let e := blkHalf b (base + 2 * f)
    if used then bits e 12 4 == 0 && decide (bits e 7 5 < m.bind.groups) && decide (bits e 0 7 + len ≤ m.bind.regs)
    else e == 0
  let row := fun (base n len : Nat) => (List.range 4).all (fun f => entry base f len (decide (f < n)))
  let tact := match i with | .tact .. => true | _ => false
  let c := m.bind.ctx
  blkByte b 0 == 1 && blkByte b 1 == b2n tact && decide (blkByte b 2 < tcTiles tcb) && blkByte b 7 == 0 && blkZero b 0x28 24 &&
  row 0x08 mf 24 &&
  (if tact then
    let func := bits (blkByte b 4) 0 3
    let shift := bits (blkByte b 4) 4 4
    let dests := (List.range mf).map (fun f => fragOf b 0x08 f)
    Nat.land (blkByte b 3) 0xF9 == 0 && blkByte tcb 1 != 1 && decide (func < 5) && !bit (blkByte b 4) 3 &&
    (if func = 2 then shift != 0 else shift == 0) && [16, 17, 18, 19].contains (blkByte b 5) &&
    s.feature c (matrixFeature (blkByte b 5)) && decide (blkByte b 6 ≤ 4) && (blkByte b 6 != 4 || s.feature c 13) &&
    row 0x10 0 24 && row 0x18 0 2 && row 0x20 0 2 &&
    (List.range mf).all (fun x => (List.range x).all (fun y =>
      let p := dests.getD x (0, 0)
      let q := dests.getD y (0, 0)
      p.1 != q.1 || !overlaps p.2 24 q.2 24))
  else
    Nat.land (blkByte b 3) 0xFE == 0 && blkByte b 4 == 0 && blkByte b 5 == 0 && blkByte b 6 == 0 && row 0x10 nf 24 &&
    row 0x18 (if bit (blkByte tcb 6) 0 then mf else 0) 2 && row 0x20 (if bit (blkByte tcb 6) 1 then nf else 0) 2)

/-- The block of a lane, or the trap of its address (R331). -/
def State.laneBlock (s : State) (i : Instr) (l : Lane) : State × Except Cause (BitVec 512) :=
  if !readsBlock i then (s, .ok 0)
  else if l.addr.toNat % 64 ≠ 0 then (s, .error .misalign)
  else
    match s.scratchLoc (s.teamOf l.tid) l.addr.toNat 64 with
    | none => (s, .error .permission)
    | some loc =>
      let (s, a) := s.consume loc 0
      let (s, b) := s.consume (loc + 32) 0
      if a && b then (s, .ok (BitVec.ofNat 512 (s.readN loc 64))) else (s, .error .poison)

/-- The trap of a lane's contents against its team's configuration (R331, R334, R339, R340). -/
def State.contentCheck (s : State) (o : Op) (l : Lane) (b : BitVec 512) : Option Cause :=
  let k := s.teamOf l.tid
  let i := o.instr
  match i with
  | .tcfg .. => if s.tcbOk o.ctx b then none else some .tcfg
  | .twait .. => none
  | _ =>
    match (s.team k).tcb with
    | none => some .tcfg
    | some tcb =>
      let tile := decide (l.x.toNat < tcTiles tcb)
      let elem := decide (bits l.y.toNat 0 32 < tcM tcb * tcN tcb)
      let ok := match i with
        | .tzero .. => tile || allTiles i
        | .tld .. => tile && elem && !(blkByte tcb 1 == 1 && hTy o.hints 11 != 11)
        | .tst .. => tile && elem
        | _ => s.blockOk k i tcb b
      if ok then none else some .tcfg

/-! ## Order and effect of one thread's instruction (R326, R327, R331, R332) -/

/-- A thread of an operation still waits at it. -/
def State.atOp (s : State) (o : Op) (l : Lane) : Bool :=
  (s.thread l.tid).waitFor == .check o.id || ((s.thread l.tid).waitFor == .tcfg && s.alive l.tid)

/-- The thread's block can be read: its own earlier stores to it have been performed, and no copy holds it (R252,
R331). -/
def State.blockClear (s : State) (i : Instr) (l : Lane) : Bool :=
  !readsBlock i ||
  match s.scratchLoc (s.teamOf l.tid) l.addr.toNat 64 with
  | none => true
  | some loc => !s.scoreboarded loc 64 && !s.accs.any (fun a => a.tid == l.tid && overlaps a.pa a.size loc 64)

/-- Every matrix instruction of the lane's team that was issued before it has ended (R327, R332). -/
def State.firstOfTeam (s : State) (o : Op) (l : Lane) : Bool :=
  let k := s.teamOf l.tid
  !s.ops.any (fun e => isMatrixOp e.instr && decide (e.id < o.id) && e.lanes.any (fun x => s.atOp e x && s.teamOf x.tid == k)) &&
  !o.lanes.any (fun x => decide (laneOf x.tid < laneOf l.tid) && s.atOp o x && s.teamOf x.tid == k)

/-- The lane may go on now: the queue has room for a request (R326), and the requests before a TLD or TST of its tile
have completed (R327). -/
def State.matrixGo (s : State) (o : Op) (l : Lane) : Bool :=
  s.firstOfTeam o l && s.blockClear o.instr l &&
  match o.instr with
  | .mma .. | .tact .. | .tzero .. => decide ((s.mreqs.filter (fun q => q.core == o.core)).length < 8)
  | .tld .. | .tst .. => !s.mreqs.any (fun q => q.ofTeam (s.teamOf l.tid) && touchesTile q l.x.toNat)
  | _ => true

/-- Forms a request and writes its ticket (R326). -/
def State.request (s : State) (o : Op) (l : Lane) (b : BitVec 512) : State :=
  let k := s.teamOf l.tid
  let rq := (s.team k).rq + 1
  let gs := s.groupsOf k
  let dead := maskOf ((List.range gs.length).filter (fun i => !(threadsOfGroup (gs.getD i 0)).any s.alive))
  let m := s.team k
  let tcb := m.tcb.getD 0
  let q : MReq :=
    { id := s.nextId, core := o.core, ctx := o.ctx, team := some k, tid := l.tid, launch := s.launchOf l.tid, ticket := rq, instr := o.instr,
      block := b, tcb := tcb, units := m.units, base := m.bind.imageBase.toNat, regs := m.bind.regs,
      lines := reqLines o.instr tcb b dead, seed := s.drawSeed l.tid o.pc, src := l.addr.toNat, dead := dead }
  let s : State := { s with nextId := s.nextId + 1, mreqs := s.mreqs ++ [q] }
  (s.modTeam k (fun m => { m with rq := rq })).status o.instr o.hints l.tid rq.toNat

/-- TLD of one thread: the element, converted under its type (R340). -/
def State.tldValue (s : State) (o : Op) (l : Lane) (key : Nat) : Nat × BitVec 5 :=
  let v := (s.accWord key).toNat
  if hTy o.hints 11 = 11 then (v, 0)
  else
    let r := hRound o.hints
    let d : Deliver := { mode := r, sat := hSat o.hints,
                         draw := if r = 4 then s.draw l.tid o.pc 0 (Nat.xor l.x.toNat l.y.toNat) else 0 }
    convFp (hTy o.hints 11) d ((fmtOf 15).read v)

/-- A lane whose checks have passed: its effect; a TCFG that changes the configuration waits for its units (R332). The
second part is the trap of a TLD of a poisoned element (R336). -/
def State.matrixLane (s : State) (o : Op) (l : Lane) (b : BitVec 512) : State × Option Cause :=
  let t := l.tid
  let k := s.teamOf t
  let m := s.team k
  let pass := fun (s : State) => s.passThread o t
  let key := accKey m.units o.core (l.x.toNat * tcM (m.tcb.getD 0) * tcN (m.tcb.getD 0) + bits l.y.toNat 0 32)
  match o.instr with
  | .tcfg .. =>
    if m.tcb == some b || (tcbRelease b && m.tcb.isNone) then ((pass s).status o.instr o.hints t 0, none)
    else (((s.modTeam k (fun m => { m with nextTcb := some b })).modThread t (fun x => x.block .tcfg s.wall)).wftAdd t .units 0, none)
  | .tzero .. =>
    ((pass s).request o l (if allTiles o.instr then BitVec.allOnes 512 else BitVec.ofNat 512 l.x.toNat), none)
  | .mma .. | .tact .. => ((pass s).request o l b, none)
  | .tld .. =>
    let s := s.meetAccs (· == key)
    if s.accPoison.contains key then (s, some .poison)
    else
      let (v, c) := s.tldValue o l key
      (((pass s).status o.instr o.hints t v).record t c, none)
  | .tst .. => ((pass s).setAcc key (BitVec.ofNat 32 (l.y.toNat / 2 ^ 32)) false, none)
  | .twait d _ _ =>
    let a := if allTiles o.instr then m.rq else l.x.extractLsb' 0 32
    if !decide ((m.rq - a).toNat < 2 ^ 31) || ticketDone m a then ((pass s).status o.instr o.hints t m.dn.toNat, none)
    else ((pass s).modThread t (fun x => { (x.suspend (.ticket a)) with waitDst := d }), none)
  | _ => (s, none)

/-- The checks of one lane end, if it may go on now; a trap is returned with the lane. -/
def State.endMatrixLane (s : State) (o : Op) (l : Lane) : State × List (Lane × Cause) :=
  if (s.thread l.tid).waitFor != .check o.id || !s.matrixGo o l then (s, [])
  else
    match s.laneBlock o.instr l with
    | (s, .error c) => (s.modThread l.tid (fun x => { x with waitFor := .nothing }), [(l, c)])
    | (s, .ok b) =>
      match s.contentCheck o l b with
      | some c => (s.modThread l.tid (fun x => { x with waitFor := .nothing }), [(l, c)])
      | none =>
        match s.matrixLane o l b with
        | (s, some c) => (s.modThread l.tid (fun x => { x with waitFor := .nothing }), [({ l with addr := 0 }, c)])
        | (s, none) => (s, [])

/-- Drops an operation of which no thread waits any more. -/
def State.closeOp (s : State) (o : Op) : State :=
  if o.lanes.any (fun l => s.atOp o l) then s else { s with ops := s.ops.filter (fun x => x.id != o.id) }

/-- The checks of a matrix instruction end for every lane that may go on, in lane order (R327, R331). -/
def State.endMatrixOp (s : State) (o : Op) : State :=
  let (s, traps) := o.lanes.foldl (fun (p : State × List (Lane × Cause)) l =>
    let (s, x) := p.1.endMatrixLane o l
    (s, p.2 ++ x)) (s, [])
  (s.trapLanes o false traps).closeOp o

/-! ## Units (R332) -/

/-- A waiting TCFG may have its units: its team's requests have completed and enough are free. -/
def State.unitsFree (s : State) (o : Op) (l : Lane) (b : BitVec 512) : Bool :=
  let k := s.teamOf l.tid
  !s.mreqs.any (fun q => q.ofTeam k) &&
  decide ((s.unitsUsed o.core).length - (s.team k).units.length + blkByte b 5 ≤ 16)

/-- Configures a team: its units are released, others claimed and zeroed (R332). -/
def State.configure (s : State) (core k : Nat) (b : BitVec 512) : State :=
  let s := s.modTeam k (fun m => { m with units := [], tcb := none })
  let used := s.unitsUsed core
  let us := ((List.range 16).filter (fun u => !used.contains u)).take (blkByte b 5)
  let mine := fun (key : Nat) => decide (key / 65536 = core) && us.contains (key / 4096 % 16)
  let s : State := { s with acc := s.acc.filter (fun p => !mine p.1), accPoison := s.accPoison.filter (fun x => !mine x) }
  s.modTeam k (fun m => { m with units := us, tcb := if tcbRelease b then none else some b, nextTcb := none })

/-- TCFG_UNITS_GRANTED for the operation and thread that the subject names (R332). -/
def State.grantUnits (s : State) (o : Op) (l : Lane) : State :=
  match (s.team (s.teamOf l.tid)).nextTcb with
  | none => s
  | some b =>
    if !s.unitsFree o l b then s
    else
      let s := (s.wftDrop l.tid).configure o.core (s.teamOf l.tid) b
      let s := (s.passThread o l.tid).status o.instr o.hints l.tid 0
      s.closeOp o

/-- TCFG_UNITS_GRANTED (R332). -/
def execTcfgUnitsGranted (s : State) : Out :=
  .next (match s.ops.find? (fun o => o.id == s.subj.id) with
    | some o =>
      match o.lanes.find? (fun l => (s.thread l.tid).waitFor == .tcfg) with
      | some l => s.grantUnits o l
      | none => s
    | none => s)

end Sys2Proof.Machine
end

