-- ==== Sys2Proof/Machine/Traversal.lean ====
section
/-! DEFINITION. Major 0x31: TRACE, BEAM and COV, the walk that each makes, its records and its end (17 R343–R361, R364,
R365; 20 R416). -/
namespace Sys2Proof.Machine

/-! ## The record of a walk (R416) -/

/-- Pixels, or the one ray, of a walk in the record's form. -/
def WRay.entry (r : WRay) : List DWord :=
  match r.best with
  | some h => [BitVec.ofNat 64 (h.tri + b2n r.done + 2), BitVec.ofNat 64 h.inst]
  | none => [BitVec.ofNat 64 (b2n r.done), 0]

/-- The node stack in the record's form: the top entry is the last (R416). -/
def stackWords (st : List WNode) : List DWord :=
  let es := st.reverse.map (fun n =>
    BitVec.ofNat 64 (n.addr / 128 % 2 ^ 50 + n.left % 256 * 2 ^ 50 + b2n n.bottom * 2 ^ 58))
  es ++ List.replicate (64 - es.length) 0

/-- The payload of a WALK set (R416). -/
def walkPayload (i : Instr) (l : Lane) (w : Walk) : List DWord :=
  let block := w.block.getD []
  let depth := w.stack.length
  match i with
  | .trace .. =>
    let best := (w.rays.head?).bind (·.best)
    block ++ [l.addr, BitVec.ofNat 64 ((w.inst.map (·.1)).getD 0), BitVec.ofNat 64 ((best.map (·.tri)).getD 0),
      BitVec.ofNat 64 ((best.map (·.inst)).getD 0), BitVec.ofNat 64 depth, 0] ++ stackWords w.stack
  | _ =>
    let px := if w.rays.isEmpty then List.replicate (blockS block * blockS block) ({ done := false, best := none } : WRay)
      else w.rays
    let ws := block ++ [BitVec.ofNat 64 (depth + b2n w.vbChecked * 256), 0, 0, 0] ++ stackWords w.stack ++ px.flatMap WRay.entry
    ws ++ List.replicate ((16 - (ws.length + 4) % 16) % 16) 0

/-! ## Instructions at issue (R363, R364, R413) -/

/-- A walk that has not begun. -/
def Walk.start (block : Option (List DWord)) : Walk :=
  { block := block, vbChecked := false, scene := none, inst := none, leafNext := 0, stack := [], rays := [] }

/-- Each executing thread begins a walk of its own, or goes on with the one its set holds (R365, R413). -/
def State.walkOut (s : State) (i : Instr) (mk : State → Bundle → Nat → Lane × Walk) : Out :=
  s.issueWord i (fun b act s =>
    let (s, ts) := s.suppress i b.hints act
    ts.foldl (fun s t =>
      let (l, w) : Lane × Walk :=
        if s.frozen t then
          match s.replaying t with
          | some x => (x.lanes.headD (mk s b t).1, x.walk.getD (Walk.start none))
          | none => mk s b t
        else mk s b t
      s.suspendOp b i b.core [l] (some w)) s)

/-- TRACE (R351). -/
def execTrace (d a : BitVec 7) (s : State) : Out :=
  s.walkOut (.trace d a) (fun s b t =>
    let v := (s.operands b.hints t (formOf b.hints (.trace d a))).getD 0 0
    (addrLane t (s.kreg t (hKsel b.hints)).toNat,
      Walk.start (some ((List.range 6).map (fun i => BitVec.ofNat 64 (v / 2 ^ (64 * i)))))))
/-- BEAM (R359). -/
def execBeam (d a : BitVec 7) (n : Bool) (s : State) : Out :=
  s.walkOut (.beam d a n) (fun s b t =>
    (addrLane t ((s.operands b.hints t (formOf b.hints (.beam d a n))).getD 0 0), Walk.start none))
/-- COV (R360). -/
def execCov (d a : BitVec 7) (n : Bool) (s : State) : Out :=
  s.walkOut (.cov d a n) (fun s b t =>
    (addrLane t ((s.operands b.hints t (formOf b.hints (.cov d a n))).getD 0 0), Walk.start none))

/-! ## Reads of a walk (R349) -/

/-- The beam block of a thread, from scratch (R356, R364). -/
def State.readBlock (s : State) (t a : Nat) : State × Except WStop (List DWord) :=
  if a % 128 ≠ 0 then (s, .error (.fail (.trap .misalign) a false))
  else
    match s.scratchLoc (s.teamOf t) a 128 with
    | none => (s, .error (.fail (.trap .permission) a false))
    | some loc =>
      if s.scoreboarded loc 128 then (s, .error .wait)
      else
      let step := fun (p : State × Bool) (i : Nat) =>
        let (s, ok) := p.1.consume (loc + 32 * i) 0
        (s, p.2 && ok)
      match (List.range 4).foldl step (s, true) with
      | (s, false) => (s, .error (.fail (.trap .poison) a false))
      | (s, true) => (s, .ok ((List.range 16).map (fun i => BitVec.ofNat 64 (s.readN (loc + 8 * i) 8))))

/-! ## Steps of a walk (R343–R354, R361) -/

/-- What a step of a walk comes to. -/
inductive WNext where
  | go (w : Walk)
  | done (w : Walk)
  | stop (x : WStop) (w : Walk)
  deriving DecidableEq, Repr

/-- World rays of a walk. -/
def walkRays (i : Instr) (w : Walk) : Option (List Ray) :=
  let block := w.block.getD []
  match i with
  | .trace .. => (traceRay block).map (fun r => [r])
  | .cov .. => tileRays true block
  | _ => tileRays false block

/-- Rays of a walk in the coordinates of a record, with their state; none when a component overflows (R350, R352). -/
def localRays (ws : List DWord) (rays : List Ray) (st : List WRay) : Option (List (Ray × WRay)) :=
  (rays.zip st).mapM (fun p => if p.2.done then some p else (localRay ws p.1).map (fun r => (r, p.2)))

/-- Children of a node that the walk enters (R346): each that a ray not done meets within its best hit, and any other
that the outward rounding may let in, a free choice. -/
def State.enterMask (s : State) (addr : Nat) (ws : List DWord) (rays : List (Ray × WRay)) : State × Nat :=
  (List.range 8).foldl (fun p c =>
    let x := childOf addr ws c
    if c ≥ byteAt ws 0x10 || x.kind = 0 then p
    else if rays.any (fun q => !q.2.done && meetsBox ws x q.1
        (if q.1.any then .inf false else ((q.2.best.map (·.t)).getD (.inf false)))) then (p.1, p.2 + 2 ^ c)
    else
      let (v, s) := p.1.free
      (s, p.2 + (if v.getLsbD 0 then 2 ^ c else 0))) (s, 0)

/-- Reads a node and puts it on the stack (R344, R350). -/
def State.pushNode (s : State) (o : Op) (t : Nat) (rays : List Ray) (rec : List DWord) (addr : Nat) (bottom : Bool)
    (w : Walk) : State × Except WStop Walk :=
  if addr % 128 ≠ 0 || w.stack.length ≥ 64 then (s, .error .format)
  else
    match s.walkRead o t true 16 addr with
    | (s, .error e) => (s, .error e)
    | (s, .ok ws) =>
      if !nodeOk addr ws then (s, .error .format)
      else
        match localRays rec rays w.rays with
        | none => (s, .error .format)
        | some ls =>
          let (s, m) := s.enterMask addr ws ls
          (s, .ok { w with stack := { addr := addr, left := m, bottom := bottom, words := ws } :: w.stack })

/-- A counting hit comes to a ray: the better one stays; with ANY any of them may be the result (R354). -/
def State.takeHit (s : State) (any : Bool) (r : WRay) (h : WHit) : State × WRay :=
  match r.best with
  | none =>
    if any then
      let (v, s) := s.free
      (s, { done := v.getLsbD 0, best := some h })
    else (s, { r with best := some h })
  | some b =>
    if any then
      let (v, s) := s.free
      (s, if v.getLsbD 0 then { done := v.getLsbD 1, best := some h } else r)
    else (s, if h.better b then { r with best := some h } else r)

/-- Tests every ray not done against a triangle (R353, R354). -/
def State.testTriangle (s : State) (addr : Nat) (ws : List DWord) (instAddr : Nat) (inst : List DWord)
    (rays : List (Ray × WRay)) : State × List WRay :=
  rays.foldr (fun q p =>
    if q.2.done then (p.1, q.2 :: p.2)
    else
      match hitTriangle addr ws instAddr inst q.1 with
      | none => (p.1, q.2 :: p.2)
      | some h =>
        let (s, r) := p.1.takeHit q.1.any q.2 h
        (s, r :: p.2)) (s, [])

/-- Tests `n` consecutive triangles of a leaf (R345, R347). -/
def State.testLeaf (s : State) (o : Op) (t : Nat) (rays : List Ray) (instAddr : Nat) (inst : List DWord) :
    Nat → Nat → List WRay → State × Except WStop (List WRay)
  | 0, _, st => (s, .ok st)
  | n + 1, a, st =>
    match s.walkRead o t true 6 a with
    | (s, .error e) => (s, .error e)
    | (s, .ok ws) =>
      if !triOk ws then (s, .error .format)
      else
        match localRays inst rays st with
        | none => (s, .error .format)
        | some ls =>
          let (s, st) := s.testTriangle (a % 2 ^ 64) ws instAddr inst ls
          s.testLeaf o t rays instAddr inst n (a + 48) st

/-- The record through which a level is seen: its address and words; `root` is the scene record's address. -/
def recordOf (root : Nat) (w : Walk) (bottom : Bool) : Nat × List DWord :=
  match bottom, w.inst with
  | true, some (a, ws) => (a, ws)
  | _, _ => (root, w.scene.getD [])

/-- A step from the top of the stack (R343, R354). -/
def State.visit (s : State) (o : Op) (l : Lane) (root : Nat) (rays : List Ray) (w : Walk) (n : WNode)
    (rest : List WNode) : State × WNext :=
  let t := l.tid
  match lowBit 8 n.left with
  | none =>
    let top := match rest with
      | m :: _ => !m.bottom
      | [] => true
    (s, .go { w with stack := rest, inst := if n.bottom && top then none else w.inst })
  | some c =>
    let x := childOf n.addr n.words c
    let cleared : WNode := { n with left := n.left - 2 ^ c }
    let (ra, rec) := recordOf root w n.bottom
    if x.kind = 1 then
      match s.pushNode o t rays rec x.target n.bottom { w with stack := cleared :: rest } with
      | (s, .ok w) => (s, .go w)
      | (s, .error e) => (s, .stop e w)
    else if x.kind = 2 then
      match s.testLeaf o t rays ra rec x.count x.target w.rays with
      | (s, .ok st) => (s, .go { w with rays := st, stack := cleared :: rest })
      | (s, .error e) => (s, .stop e w)
    else if n.bottom then (s, .stop .format w)
    else if w.leafNext ≥ x.count then (s, .go { w with stack := cleared :: rest, leafNext := 0 })
    else
      let a := (x.target + 128 * w.leafNext) % 2 ^ 64
      match s.walkRead o t true 16 a with
      | (s, .error e) => (s, .stop e w)
      | (s, .ok ws) =>
        let w' : Walk := { w with leafNext := w.leafNext + 1 }
        if !instOk ws then (s, .stop .format w)
        else if rays.all (fun r => Nat.land (instMask ws) r.mask == 0) then (s, .go w')
        else
          let w' : Walk := { w' with inst := some (a, ws) }
          match s.pushNode o t rays ws (instRoot ws) true w' with
          | (s, .ok w) => (s, .go w)
          | (s, .error e) => (s, .stop e w')

/-- Checks as writes every page of the visibility buffer that the tile touches (R361). -/
def State.checkTile (s : State) (o : Op) (t : Nat) (block : List DWord) : State × Except WStop Unit :=
  let n := blockS block
  let as := (List.range (n * n)).map (fun p => pixelAddr block (p % n) (p / n))
  (dedupBy (· / 4096) as).foldl (fun p a =>
    match p with
    | (s, .ok _) =>
      match s.check o.core o.ctx (s.isSup t) .write a with
      | (s, .ok q) => if s.answers q.loc then (s, .ok ()) else (s.holdFor q.loc, .error .wait)
      | (s, .error .wait) => (s, .error .wait)
      | (s, .error f) => (s, .error (.fail f a true))
    | e => e) (s, .ok ())

/-- The leaf of a COV, seen through its instance record (R360). -/
def State.covLeaf (s : State) (o : Op) (l : Lane) (rays : List Ray) (w : Walk) : State × WNext :=
  let block := w.block.getD []
  let a := (block.getD 14 0).toNat
  match w.inst with
  | none =>
    match s.walkRead o l.tid true 16 a with
    | (s, .error e) => (s, .stop e w)
    | (s, .ok ws) => if instOk ws then (s, .go { w with inst := some (a, ws) }) else (s, .stop .format w)
  | some (a, ws) =>
    if rays.all (fun r => Nat.land (instMask ws) r.mask == 0) then (s, .done { w with scene := some [] })
    else
      match s.testLeaf o l.tid rays a ws (byteAt block 0x78) (block.getD 13 0).toNat w.rays with
      | (s, .ok st) => (s, .done { w with rays := st, scene := some [] })
      | (s, .error e) => (s, .stop e w)

/-- One step of a walk: its block, its tile's checks, its scene record, then the stack. -/
def State.walkStep (s : State) (o : Op) (l : Lane) (w : Walk) : State × WNext :=
  let t := l.tid
  match w.block with
  | none =>
    match s.readBlock t l.addr.toNat with
    | (s, .ok ws) => (s, .go { w with block := some ws })
    | (s, .error e) => (s, .stop e w)
  | some block =>
    let trace := match o.instr with | .trace .. => true | _ => false
    let cov := match o.instr with | .cov .. => true | _ => false
    match walkRays o.instr w with
    | none => (s, .stop .format w)
    | some rays =>
      let root := if trace then l.addr.toNat else (block.headD 0).toNat
      if w.rays.isEmpty then
        (s, .go { w with rays := rays.map (fun r => ({ done := r.trivial, best := none } : WRay)) })
      else if !trace && !w.vbChecked then
        match s.checkTile o t block with
        | (s, .ok _) => (s, .go { w with vbChecked := true })
        | (s, .error e) => (s, .stop e w)
      else if root % 128 ≠ 0 then (s, .stop .format w)
      else if w.rays.all (·.done) then (s, .done w)
      else if cov then (if w.scene.isSome then (s, .done w) else s.covLeaf o l rays w)
      else
        match w.scene, w.stack with
        | none, _ =>
          match s.walkRead o t true 16 root with
          | (s, .error e) => (s, .stop e w)
          | (s, .ok ws) =>
            if !instOk ws then (s, .stop .format w)
            else
              match s.pushNode o t rays ws (instRoot ws) false { w with scene := some ws } with
              | (s, .ok w) => (s, .go w)
              | (s, .error e) => (s, .stop e w)
        | some _, [] => (s, .done w)
        | some _, n :: rest =>
          match n.bottom, w.inst with
          | false, some (_, ws) =>
            match s.pushNode o t rays ws (instRoot ws) true w with
            | (s, .ok w) => (s, .go w)
            | (s, .error e) => (s, .stop e w)
          | _, _ => s.visit o l root rays w n rest

/-- Up to `n` steps of a walk. -/
def State.walkRun (s : State) (o : Op) (l : Lane) : Nat → Walk → State × WNext
  | 0, w => (s, .go w)
  | n + 1, w =>
    match s.walkStep o l w with
    | (s, .go w) => s.walkRun o l n w
    | r => r

/-! ## The end of a walk (R355, R358–R361) -/

/-- The hit record of TRACE (R355); `code` is the status of a walk without a hit. -/
def hitRecord (code : Nat) (r : Option WHit) : Nat :=
  match r with
  | none => code
  | some h => joinWords [1, (f32Of h.t).toNat, h.u.toNat, h.v.toNat, h.prim.toNat, h.instId.toNat, h.geom.toNat, b2n h.back]

/-- A visibility-buffer entry as its two halves (R358). -/
def vbEntry (r : Option WHit) : Nat × Nat :=
  match r with
  | none => (0x7F800000 + 0xFFFFFFFF * 2 ^ 32, 0xFFFFFFFF)
  | some h => ((f32Of h.t).toNat + h.prim.toNat * 2 ^ 32, h.instId.toNat + (1 + 256 * b2n h.back) * 2 ^ 32)

/-- A hit replaces an entry as COV read it: its halves (R360). -/
def covTakes (h : WHit) (lo hi : Nat) : Bool :=
  let tc := (fmtOf 15).read (f32Of h.t).toNat
  let te := (fmtOf 15).read (lo % 2 ^ 32)
  let id := hi % 2 ^ 32
  !te.isNan && ((tc.lt te && !tc.eq te) || (tc.eq te && (decide (h.instId.toNat < id) ||
    (h.instId.toNat == id && decide (h.prim.toNat < lo / 2 ^ 32)))))

/-- The entries that BEAM or COV writes: address and halves (R359, R360). -/
def State.tileWrites (s : State) (o : Op) (l : Lane) (w : Walk) : State × Except WStop (List (Nat × Nat × Nat)) :=
  let block := w.block.getD []
  let n := blockS block
  let cov := match o.instr with | .cov .. => true | _ => false
  (w.rays.mapIdx (fun p r => (p, r))).foldr (fun q acc =>
    match acc with
    | (s, .error e) => (s, .error e)
    | (s, .ok ws) =>
      let a := pixelAddr block (q.1 % n) (q.1 / n)
      if !cov then (s, .ok ((a, vbEntry q.2.best) :: ws))
      else
        match q.2.best with
        | none => (s, .ok ws)
        | some h =>
          match s.walkRead o l.tid false 2 a with
          | (s, .ok e) =>
            (s, .ok (if covTakes h (e.getD 0 0).toNat (e.getD 1 0).toNat then (a, vbEntry (some h)) :: ws else ws))
          | (s, .error e) => (s, .error e)) (s, .ok [])

/-- Puts the entries' stores in flight: two halves each (R361). -/
def State.storeTile (s : State) (o : Op) (l : Lane) (ws : List (Nat × Nat × Nat)) : State :=
  ws.foldl (fun s e =>
    match s.check o.core o.ctx (s.isSup l.tid) .write e.1 with
    | (s, .ok p) =>
      let put := fun (s : State) (k v : Nat) =>
        s.addAccess o { l with addr := BitVec.ofNat 64 (e.1 + k) } { p with loc := p.loc + k }
          { kind := .store, size := 8, x := BitVec.ofNat 64 v }
      put (put s 0 e.2.1) 8 e.2.2
    | (s, .error _) => s) s

/-- A walk's thread goes on with a result. -/
def State.endWalk (s : State) (o : Op) (l : Lane) (result : Nat) : State :=
  let s : State := { s with ops := s.ops.filter (fun x => x.id != o.id) }
  let s := match (formOf o.hints o.instr).dst with
    | some d => s.writeDst l.tid d.code (32 * d.regs) result
    | none => s
  s.passThread o l.tid

/-- Pages of the targets of the other children of the node whose child is being read (R420); the root of an instance's own
hierarchy is the child of no node. -/
def walkCands (w : Walk) : List Nat :=
  match w.stack with
  | [] => []
  | n :: _ => if w.inst.isSome && !n.bottom then [] else
    let cs := (List.range 8).filter (fun c => decide (c < byteAt n.words 0x10))
    ((cs.map (childOf n.addr n.words)).filter (fun x => x.kind != 0)).map (fun x => x.target / 4096 * 4096)

/-- A walk stops at a failed check: its thread traps or parks (R349, R361, R365). -/
def State.stopWalk (s : State) (o : Op) (l : Lane) (w : Walk) (f : Fail) (a : Nat) (write : Bool) : State :=
  let s : State := { s with ops := s.ops.filter (fun x => x.id != o.id) }
  match f with
  | .wait => s
  | .trap c =>
    let unit := if (s.thread l.tid).inSet.isSome then UnitKind.walk.code * 256 else 0
    s.trapIn [l.tid] c o.runPc (o.pc + 4) (fun _ => { info0 := a, info1 := b2n write + unit })
  | .park r =>
    let page := a / 4096 * 4096
    s.park
      { ctx := o.ctx, core := o.core, gid := gidOf l.tid, unit := .walk, instr := o.instr, hints := o.hints, word := o.word,
        pc := o.runPc, next := o.pc + 4, lanes := [l], data := walkPayload o.instr l w, copy := none, walk := some w,
        pages := [{ lane := laneOf l.tid, page := page, reason := r, write := write, fetch := false }],
        cands := (dedupBy id (walkCands w)).filter (· != page) |>.take 4 }

/-- The result of a finished walk; BEAM and COV write their tile when nothing of it fails (R359–R361). -/
def State.finishWalk (s : State) (o : Op) (l : Lane) (w : Walk) : State × Option WStop :=
  match o.instr with
  | .trace .. => (s.endWalk o l (hitRecord 0 ((w.rays.head?).bind (·.best))), none)
  | _ =>
    match s.checkTile o l.tid (w.block.getD []) with
    | (s, .error e) => (s, some e)
    | (s, .ok _) =>
      match s.tileWrites o l w with
      | (s, .error e) => (s, some e)
      | (s, .ok ws) =>
        let s := s.storeTile o l ws
        match o.instr with
        | .cov .. => (s.endWalk o l (ws.length * 2 ^ 16), none)
        | _ =>
          let (v, s) := s.free
          let n := blockS (w.block.getD [])
          (s.endWalk o l (v.toNat % (n * n + 1) * 2 ^ 16), none)

/-- Takes a walk as far as it goes: to its end, to a stop, or to where this event leaves it. -/
def State.walkOn (s : State) (o : Op) (l : Lane) (w : Walk) : State :=
  let stop := fun (s : State) (w : Walk) (x : WStop) =>
    match x with
    | .fail .wait _ _ | .wait => { s with ops := s.ops.map (fun y => if y.id == o.id then { y with walk := some w } else y) }
    | .fail f a write => s.stopWalk o l w f a write
    | .format => s.endWalk o l 2
  match s.walkRun o l 4096 w with
  | (s, .go w) => { s with ops := s.ops.map (fun y => if y.id == o.id then { y with walk := some w } else y) }
  | (s, .stop x w) => stop s w x
  | (s, .done w) =>
    match s.finishWalk o l w with
    | (s, none) => s
    | (s, some x) => stop s w x

/-- WALK_END of the operation that the subject names (R350, R355, R359–R361, R365). -/
def execWalkEnd (s : State) : Out :=
  .next (match s.ops.find? (fun o => o.id == s.subj.id) with
    | none => s
    | some o =>
      match o.walk, o.lanes with
      | some w, l :: _ =>
        if (s.thread l.tid).waitFor != .check o.id || !s.readsReady l.tid then s
        else s.settleU.walkOn o l w
      | _, _ => s)

end Sys2Proof.Machine
end

