-- ==== Sys2Proof/Machine/Texture.lean ====
section
/-! DEFINITION. Major 0x32: TEX, TEXG and TEXQ, sparse virtual textures (17 R366–R374; 20 R417). -/
namespace Sys2Proof.Machine

/-! ## Descriptors (R366–R368) -/

/-- W of a descriptor. -/
def texW (ws : List DWord) : Nat := wordAt ws 0x08 % 2 ^ 16
/-- H of a descriptor. -/
def texH (ws : List DWord) : Nat := wordAt ws 0x08 / 2 ^ 16
/-- LEVELS of a descriptor. -/
def texLevels (ws : List DWord) : Nat := byteAt ws 0x0C
/-- TFMT of a descriptor. -/
def texFmt (ws : List DWord) : Nat := byteAt ws 0x0D
/-- FILTER of a descriptor. -/
def texFilter (ws : List DWord) : Nat := byteAt ws 0x0E
/-- Wrap mode of an axis: 0 u, 1 v. -/
def texWrap (ws : List DWord) (axis : Nat) : Nat := bits (byteAt ws 0x0F) (2 * axis) 2

/-- A descriptor as read meets R366; one at a bad address has no words. -/
def texOk (ws : List DWord) : Bool :=
  let w := texW ws
  let h := texH ws
  ws.length == 8 && (ws.headD 0).toNat % 65536 == 0 && 1 ≤ w && w ≤ 32768 && 1 ≤ h && h ≤ 32768 && 1 ≤ texLevels ws &&
    texLevels ws ≤ 1 + Nat.log2 (max w h) && texFmt ws ≤ 4 && texFilter ws ≤ 2 && texWrap ws 0 ≤ 2 && texWrap ws 1 ≤ 2 &&
    byteAt ws 0x0F < 16 && zeroAt ws 0x10 48

/-- Bytes of a texel. -/
def texelBytes (f : Nat) : Nat := if f = 1 then 8 else if f = 2 then 16 else 4
/-- Width and height of a tile in texels (R367). -/
def tileSize (f : Nat) : Nat × Nat := if f = 1 then (128, 64) else if f = 2 then (64, 64) else (128, 128)
/-- Width of a level. -/
def levelW (ws : List DWord) (l : Nat) : Nat := max 1 (texW ws / 2 ^ l)
/-- Height of a level. -/
def levelH (ws : List DWord) (l : Nat) : Nat := max 1 (texH ws / 2 ^ l)
/-- Tiles in a row of a level. -/
def tilesRow (ws : List DWord) (l : Nat) : Nat := (levelW ws l + (tileSize (texFmt ws)).1 - 1) / (tileSize (texFmt ws)).1
/-- Tile rows of a level. -/
def tileRows (ws : List DWord) (l : Nat) : Nat := (levelH ws l + (tileSize (texFmt ws)).2 - 1) / (tileSize (texFmt ws)).2
/-- Address of tile (x, y) of a level (R367). -/
def tileAddr (ws : List DWord) (l x y : Nat) : Nat :=
  let before := ((List.range l).map (fun i => tilesRow ws i * tileRows ws i)).foldl (· + ·) 0
  ((ws.headD 0).toNat + 65536 * (before + y * tilesRow ws l + x)) % 2 ^ 64
/-- Address of the tile that holds a texel (R367). -/
def tileOf (ws : List DWord) (l i j : Nat) : Nat :=
  tileAddr ws l (i / (tileSize (texFmt ws)).1) (j / (tileSize (texFmt ws)).2)
/-- Address of a texel (R367). -/
def texelAddr (ws : List DWord) (l i j : Nat) : Nat :=
  let (tw, th) := tileSize (texFmt ws)
  (tileOf ws l i j + texelBytes (texFmt ws) * (j % th * tw + i % tw)) % 2 ^ 64

/-- The components of a texel's bytes (R368). -/
def texelComps (f x : Nat) : List Num :=
  let h := fun i => (fmtOf 16).read (bits x (16 * i) 16)
  let w := fun i => (fmtOf 15).read (bits x (32 * i) 32)
  let one := Num.ofInt 1
  match f with
  | 0 => (List.range 4).map (fun i => Num.ofInt (bits x (8 * i) 8) 255)
  | 1 => [h 0, h 1, h 2, h 3]
  | 2 => [w 0, w 1, w 2, w 3]
  | 3 => [w 0, Num.zero, Num.zero, one]
  | _ => [h 0, h 1, Num.zero, one]

/-! ## Level of detail (R369) -/

/-- log2 of n / d where that is a power of two. -/
def exactLog2 (n d : Nat) : Option Int :=
  let k := Num.log2Floor n d
  if (if k ≥ 0 then n == d * 2 ^ k.toNat else n * 2 ^ (-k).toNat == d) then some k else none

/-- The floor of 128 log2 (n / d) + p / 2^m. A power of two gives it outright; else log2 is irrational, and an enclosure
decides it, with a comparison of powers where the sum is so near an integer that only p a multiple of 2^m can bring it
there (log 50). -/
def lamFloor (n d : Nat) (p : Int) (m : Nat) : Int :=
  match exactLog2 n d with
  | some k => Num.floorDiv (128 * k * 2 ^ m + p) (2 ^ m)
  | none =>
    let e := enclLog2 n d
    let at' := fun (x : Int) => Num.floorDiv (128 * x * 2 ^ m + p * e.den) (e.den * 2 ^ m)
    let k := at' e.hi
    if at' e.lo = k || p % 2 ^ m ≠ 0 then k
    else
      let x := k - p / 2 ^ m
      let a := n ^ 128
      let b := d ^ 128
      if (if x ≥ 0 then decide (b * 2 ^ x.toNat ≤ a) else decide (b ≤ a * 2 ^ (-x).toNat)) then k else k - 1

/-- Clamps a level in 256ths to those of a descriptor. -/
def clampLevel (levels : Nat) (k : Int) : Nat := (max 0 (min k (((levels : Int) - 1) * 256))).toNat

/-- λq in 256ths from a λ that is given (R369). -/
def lodOf (levels : Nat) (x : Num) : Nat :=
  match x with
  | .nan _ => 0
  | .inf s => if s then 0 else clampLevel levels (256 * levels)
  | .fin s n d => clampLevel levels (Num.floorDiv (256 * (if s then -(n : Int) else n)) d)

/-- λq in 256ths from the four derivatives dudx, dvdx, dudy, dvdy and a bias (R369). -/
def lodGrad (w h levels : Nat) (d : List Num) (bias : Num) : Nat :=
  let sq := fun (a b : Num) =>
    let x := a.mul (Num.ofInt w)
    let y := b.mul (Num.ofInt h)
    Num.add false (x.mul x) (y.mul y)
  let g := fun i => d.getD i Num.zero
  let r1 := sq (g 0) (g 1)
  let r2 := sq (g 2) (g 3)
  if r1.isNan || r2.isNan then 0
  else
    match (if r1.lt r2 then r2 else r1) with
    | .fin _ 0 _ => 0
    | .fin _ n d =>
      match bias with
      | .fin s b c =>
        let p : Int := 256 * (if s then -(b : Int) else b)
        clampLevel levels (lamFloor n d p (Nat.log2 c))
      | x => lodOf levels x
    | _ => if bias.isNan || (bias.isInf && bias.neg) then 0 else clampLevel levels (256 * levels)

/-- λq in 256ths as .F32 bits. -/
def lodBits (k : Nat) : Nat := (f32Of (Num.ofInt k 256)).toNat
/-- λq in 256ths from .F32 bits. -/
def lodRead (levels x : Nat) : Nat := lodOf levels ((fmtOf 15).read x)

/-! ## Filtering (R370) -/

/-- Index wrap (R370). -/
def wrapIndex (mode : Nat) (i : Int) (n : Nat) : Nat :=
  match mode with
  | 0 => (i % (n : Int)).toNat
  | 1 => (max 0 (min i (n - 1))).toNat
  | _ =>
    let m := (i % (2 * n : Int)).toNat
    if m < n then m else 2 * n - 1 - m

/-- A coordinate as a fraction; a non-finite one is 0. -/
def coordOf (x : Nat) : Int × Nat :=
  match (fmtOf 15).read x with
  | .fin s n d => (if s then -(n : Int) else n, d)
  | _ => (0, 1)

/-- A texel to read: level, column, row, weight in units of 2^−24. -/
structure Tap where
  l : Nat
  i : Nat
  j : Nat
  w : Nat
  deriving DecidableEq, Repr

/-- i0 and the weight of i0 + 1 in 256ths, along an axis of `n` texels (R370). -/
def bilinAxis (x n : Nat) : Int × Nat :=
  let (a, d) := coordOf x
  let t : Int := 2 * a * n - d
  let i0 := Num.floorDiv t (2 * d)
  (i0, (Num.floorDiv (256 * (t - 2 * d * i0)) (2 * d)).toNat)

/-- The four texels around (u, v) at a level, with no wrap yet applied: i0, j0 and the weights of their neighbours. -/
def bilinTaps (ws : List DWord) (uv l scale : Nat) : List Tap :=
  let (i0, a) := bilinAxis (uv % 2 ^ 32) (levelW ws l)
  let (j0, b) := bilinAxis (uv / 2 ^ 32) (levelH ws l)
  let tap := fun (di dj w : Nat) =>
    ({ l := l, i := wrapIndex (texWrap ws 0) (i0 + di) (levelW ws l), j := wrapIndex (texWrap ws 1) (j0 + dj) (levelH ws l),
       w := w * scale } : Tap)
  [tap 0 0 ((256 - a) * (256 - b)), tap 1 0 (a * (256 - b)), tap 0 1 ((256 - a) * b), tap 1 1 (a * b)]

/-- The texel under (u, v) at a level (R370). -/
def nearTap (ws : List DWord) (uv l : Nat) : Tap :=
  let (a, d) := coordOf (uv % 2 ^ 32)
  let (b, e) := coordOf (uv / 2 ^ 32)
  { l := l, i := wrapIndex (texWrap ws 0) (Num.floorDiv (a * levelW ws l) d) (levelW ws l),
    j := wrapIndex (texWrap ws 1) (Num.floorDiv (b * levelH ws l) e) (levelH ws l), w := 2 ^ 24 }

/-- The texels of nonzero weight at one level alone: nearest under nearest filtering, else bilinear (R371). -/
def levelTaps (ws : List DWord) (uv l : Nat) : List Tap :=
  if texFilter ws = 0 then [nearTap ws uv l] else (bilinTaps ws uv l 256).filter (fun t => t.w != 0)

/-- The first level that a sample needs, and whether the next one is needed too (R370, R371). -/
def firstLevel (ws : List DWord) (k : Nat) : Nat × Bool :=
  if texFilter ws = 2 then (k / 256, k % 256 != 0 && k / 256 + 1 < texLevels ws) else ((k + 128) / 256, false)

/-- The texels of nonzero weight of the exact sample (R370). -/
def sampleTaps (ws : List DWord) (uv k : Nat) : List Tap :=
  let (l, next) := firstLevel ws k
  if next then (bilinTaps ws uv l (256 - k % 256) ++ bilinTaps ws uv (l + 1) (k % 256)).filter (fun t => t.w != 0)
  else levelTaps ws uv l

/-! ## Reads (R371, R373, R374) -/

/-- A tile that is not present, by its page that is missing (R367, R371): the page of the texel at `a` where that one is, else
the first. Under `any` every page that fails its check counts, as TEXQ takes it; else only one that is not present, and a
texel's own read meets the other failures. -/
def State.tileMissing (s : State) (o : Op) (t : Nat) (any : Bool) (a : Nat) : State × Option Nat :=
  let tile := a / 65536 * 65536
  (a / 4096 * 4096 :: (List.range 16).map (fun i => tile + 4096 * i)).foldl (fun p va =>
    match p with
    | (s, none) =>
      match s.check o.core o.ctx (s.isSup t) .read va with
      | (s, .ok _) => (s, none)
      | (s, .error f) => (s, if (any && f != .wait) || f == .park .notPresent then some va else none)
    | p => p) (s, none)

/-- The tiles that are not present among those of some texels, each by its missing page. -/
def State.tilesMissing (s : State) (o : Op) (t : Nat) (any : Bool) (ws : List DWord) (ts : List Tap) : State × List Nat :=
  let as := dedupBy (· / 65536) (ts.map (fun t => texelAddr ws t.l t.i t.j))
  as.foldr (fun a p =>
    match p.1.tileMissing o t any a with
    | (s, some va) => (s, va :: p.2)
    | (s, none) => (s, p.2)) (s, [])

/-- The finest level from `l` up, of `n` left, whose texels are all present (R371). -/
def State.softLevel (s : State) (o : Op) (t : Nat) (ws : List DWord) (uv : Nat) : Nat → Nat → State × Option Nat
  | 0, _ => (s, none)
  | n + 1, l =>
    if l ≥ texLevels ws then (s, none)
    else
      match s.tilesMissing o t false ws (levelTaps ws uv l) with
      | (s, []) => (s, some l)
      | (s, _) => s.softLevel o t ws uv n (l + 1)

/-- Reads one texel (R368, R374): its components. -/
def State.texel (s : State) (o : Op) (t : Nat) (ws : List DWord) (p : Tap) : State × Except WStop (List Num) :=
  let n := texelBytes (texFmt ws)
  let a := texelAddr ws p.l p.i p.j
  match s.walkRead o t false ((n + 7) / 8) (a / 8 * 8) with
  | (s, .ok q) =>
    let x := ((q.mapIdx (fun i w => w.toNat * 2 ^ (64 * i))).foldl (· + ·) 0) / 2 ^ (8 * (a % 8))
    (s, .ok (texelComps (texFmt ws) (x % 2 ^ (8 * n))))
  | (s, .error e) => (s, .error e)

/-- Reads texels, in order. -/
def State.texels (s : State) (o : Op) (t : Nat) (ws : List DWord) : List Tap → State × Except WStop (List (Tap × List Num))
  | [] => (s, .ok [])
  | p :: r =>
    match s.texel o t ws p with
    | (s, .error e) => (s, .error e)
    | (s, .ok c) =>
      match s.texels o t ws r with
      | (s, .ok l) => (s, .ok ((p, c) :: l))
      | (s, .error e) => (s, .error e)

/-- The weighted sum of a component, as .F32 bits (R370). -/
def tapSum (l : List (Tap × List Num)) (c : Nat) : Nat :=
  let terms := l.map (fun p => (Num.ofInt p.1.w (2 ^ 24)).mul (p.2.getD c Num.zero))
  (f32Of (match terms with
    | [] => Num.zero
    | x :: r => r.foldl (Num.add false) x)).toNat

/-- What a lane of a texture operation comes to. -/
inductive TexEnd where
  /-- its registers, and missing tiles to post as predictions -/
  | value (x : Nat) (cands : List Nat)
  | stop (f : Fail) (a : Nat)
  | wait
  deriving DecidableEq, Repr

/-- What a stopped read comes to. -/
def texStop : WStop → TexEnd
  | .fail f a _ => .stop f a
  | _ => .wait

/-- TEX of a lane (R370, R371, R373). -/
def State.texLane (s : State) (o : Op) (l : Lane) (fault : Bool) (ws : List DWord) : State × TexEnd :=
  let t := l.tid
  let uv := l.x.toNat
  let k := lodRead (texLevels ws) (l.y.toNat % 2 ^ 32)
  let taps := sampleTaps ws uv k
  let answer := fun (s : State) (ts : List Tap) (cands : List Nat) =>
    match s.texels o t ws ts with
    | (s, .ok l) => (s, .value (joinWords ((List.range 4).map (tapSum l))) cands)
    | (s, .error e) => (s, texStop e)
  match s.tilesMissing o t false ws taps with
  | (s, []) => answer s taps []
  | (s, a :: r) =>
    if fault then (s, .stop (.park .notPresent) a)
    else
      match s.softLevel o t ws uv 16 (firstLevel ws k).1 with
      | (s, none) => (s, .value 0 (a :: r))
      | (s, some m) => answer s (levelTaps ws uv m) (a :: r)

/-- TEXG of a lane (R373). -/
def State.texgLane (s : State) (o : Op) (l : Lane) (comp : Nat) (fault : Bool) (ws : List DWord) : State × TexEnd :=
  let lvl := min (l.y.toNat % 2 ^ 32) (texLevels ws - 1)
  let taps := bilinTaps ws l.x.toNat lvl 1
  match s.tilesMissing o l.tid false ws taps with
  | (s, missing) =>
    match missing with
    | a :: _ =>
      if fault then (s, .stop (.park .notPresent) a)
      else
        let gone := fun (p : Tap) => missing.any (fun m => m / 65536 == tileOf ws p.l p.i p.j / 65536)
        match s.texels o l.tid ws (taps.filter (fun p => !gone p)) with
        | (s, .error e) => (s, texStop e)
        | (s, .ok cs) =>
          (s, .value (joinWords (taps.map (fun p =>
            if gone p then 0
            else ((cs.find? (fun q => q.1 == p)).map (fun q => (f32Of (q.2.getD comp Num.zero)).toNat)).getD 0))) missing)
    | [] =>
      match s.texels o l.tid ws taps with
      | (s, .error e) => (s, texStop e)
      | (s, .ok cs) => (s, .value (joinWords (cs.map (fun q => (f32Of (q.2.getD comp Num.zero)).toNat))) [])

/-- TEXQ of a lane (R373): it never stops at a tile. -/
def State.texqLane (s : State) (o : Op) (l : Lane) (kind : Nat) (ws : List DWord) : State × TexEnd :=
  let lvl := l.y.toNat % 2 ^ 32
  match kind with
  | 0 =>
    (s, .value (if lvl < texLevels ws then levelW ws lvl + levelH ws lvl * 2 ^ 32 else 0) [])
  | 1 =>
    let k := lodRead (texLevels ws) lvl
    let best := if (s.tilesMissing o l.tid true ws (sampleTaps ws l.x.toNat k)).2.isEmpty then some (firstLevel ws k).1
      else ((List.range (texLevels ws)).drop (firstLevel ws k).1).find? (fun m =>
        (s.tilesMissing o l.tid true ws (levelTaps ws l.x.toNat m)).2.isEmpty)
    (s, .value (lodBits k + (best.getD 0xFFFFFFFF) * 2 ^ 32) [])
  | _ =>
    if lvl ≥ texLevels ws then (s, .value 0 [])
    else
      let p := nearTap ws l.x.toNat lvl
      match s.tileMissing o l.tid true (texelAddr ws lvl p.i p.j) with
      | (s, none) => (s, .value 1 [])
      | (s, some _) => (s, .value 0 [])

/-- A lane under a descriptor that breaks R366: canonical NaN in each component, all ones for TEXQ. -/
def texBad (i : Instr) : Nat :=
  match i with
  | .texq .. => 2 ^ 64 - 1
  | _ => joinWords (List.replicate 4 (fmtOf 15).nanCode)

/-- The texels that a lane may look at. -/
def texTaps (i : Instr) (l : Lane) (ws : List DWord) : List Tap :=
  let lvl := l.y.toNat % 2 ^ 32
  match i with
  | .texg .. => bilinTaps ws l.x.toNat (min lvl (texLevels ws - 1)) 1
  | .texq .. => (List.range (texLevels ws)).map (nearTap ws l.x.toNat)
  | _ => sampleTaps ws l.x.toNat (lodRead (texLevels ws) lvl)

/-- A page of the tiles that a lane may look at is checked later: a port does not answer, or its bias is being flipped (R19,
R223). -/
def State.texWaits (s : State) (o : Op) (l : Lane) (ws : List DWord) : Bool :=
  (dedupBy (· / 65536) ((texTaps o.instr l ws).map (fun p => texelAddr ws p.l p.i p.j))).any (fun a =>
    (List.range 16).any (fun i => match (s.check o.core o.ctx (s.isSup l.tid) .read (a / 65536 * 65536 + 4096 * i)).2 with
      | .error .wait => true
      | _ => false))

/-- A lane of a texture operation. -/
def State.texOne (s : State) (o : Op) (l : Lane) : State × TexEnd :=
  if !texOk o.desc then (s, .value (texBad o.instr) [])
  else if s.texWaits o l o.desc then (s, .wait)
  else
    match o.instr with
    | .tex .. => s.texLane o l (xmodBit o.hints 2) o.desc
    | .texg .. => s.texgLane o l (bits (hXmod o.hints) 0 2) (xmodBit o.hints 2) o.desc
    | _ => s.texqLane o l (bits (hXmod o.hints) 0 2) o.desc

/-! ## Issue and the quad rendezvous (R369, R374, R138) -/

/-- λ comes from the quad (R369, R373). -/
def isImplicit (i : Instr) (h : Hints) : Bool :=
  match i with
  | .tex .. => bits (hXmod h) 0 2 == 0
  | .texq .. => bits (hXmod h) 0 2 == 1
  | _ => false

/-- Members of the quad of a thread that have not exited. -/
def State.quadMates (s : State) (t : Nat) : List Nat :=
  ((List.range 4).map (fun i => threadKey (gidOf t) (laneOf t / 4 * 4 + i))).filter s.alive

/-- Threads that pass over an IMPLICIT instruction by their guard break the rendezvous that names them: the one that is
open there, and the one that their mates in the bundle would open (R138). The threads that still execute are left. -/
def State.breakQuads (s : State) (b : Bundle) (act : List Nat) : State × List Nat :=
  let pass := b.threads.filter (fun t => !act.contains t)
  let key := fun (t : Nat) => gidOf t * 8 + laneOf t / 4
  let live := act.filter (fun t => !s.frozen t)
  let hit := (dedupBy key pass).filter (fun t =>
    live.any (fun u => key u == key t) || (((s.group (gidOf t)).quads.find (laneOf t / 4)).map (fun r => r.pc == b.pc)).getD false)
  let s := hit.foldl (fun s t =>
    let all := (pass ++ live).filter (fun u => key u == key t)
    let s := all.foldl (fun s u => s.suspendAt b u .nothing) s
    match (s.group (gidOf t)).quads.find (laneOf t / 4) with
    | some _ => s.failQuad (gidOf t) (laneOf t / 4) all (b.pc + 4)
    | none =>
      let r : Rdv := { pc := b.pc, instr := .join, hints := b.hints, mask := maskOf ((s.quadMates t).map laneOf),
                       arrivals := [], openedAt := s.wall }
      s.failMembers (gidOf t) r all (b.pc + 4)) s
  (s, act.filter (fun u => !(live.contains u && hit.any (fun t => key t == key u))))

/-- A texture instruction at issue: one operation for each team, whose descriptor its own k register names (R364, R374). -/
def State.texOut (s : State) (i : Instr) : Out :=
  s.issueWord i (fun b act s =>
    let (s, ts) := if isImplicit i b.hints then s.breakQuads b act else (s, act)
    (dedupBy id (ts.map s.teamOf)).foldl (fun s k =>
      s.beginOp b i (ts.filter (fun t => s.teamOf t == k)) (fun s t => addrLane t (s.kreg t (hKsel b.hints)).toNat)) s)

/-- TEX (R373). -/
def execTex (d a b : BitVec 7) (s : State) : Out := s.texOut (.tex d a b)
/-- TEXG (R373). -/
def execTexg (d a b : BitVec 7) (s : State) : Out := s.texOut (.texg d a b)
/-- TEXQ (R373). -/
def execTexq (d a b : BitVec 7) (s : State) : Out := s.texOut (.texq d a b)

/-- The lane of a thread with its u and v, and λq or its level, from its operands and the descriptor (R369, R417). -/
def State.texOperands (s : State) (o : Op) (l : Lane) : Lane :=
  let v := s.operands o.hints l.tid (formOf o.hints o.instr)
  let uv := BitVec.ofNat 64 (v.getD 0 0)
  let b := v.getD 1 0
  let f := (fmtOf 15).read
  let levels := texLevels o.desc
  let y := match o.instr with
    | .tex .. =>
      if bits (hXmod o.hints) 0 2 = 1 then lodBits (lodOf levels (f b))
      else lodBits (lodGrad (texW o.desc) (texH o.desc) levels ((List.range 4).map (fun i => f (comp (v.getD 2 0) i))) (f b))
    | _ => b
  { l with x := uv, y := BitVec.ofNat 64 y }

/-- λq of a member of a complete quad from the members' coordinates, a non-finite one taken as 0 (R369, R370). -/
def quadLod (r : Rdv) (ws : List DWord) (a : Arrival) : Nat :=
  let c := fun (i h : Nat) =>
    match r.arrivals.find? (fun x => x.lane % 4 == i) with
    | some x =>
      let (n, d) := coordOf (comp x.a.toNat h)
      Num.ofInt n d
    | none => Num.zero
  let d := fun (i h : Nat) => Num.sub false (c i h) (c 0 h)
  lodGrad (texW ws) (texH ws) (texLevels ws) [d 1 0, d 1 1, d 2 0, d 2 1] ((fmtOf 15).read (a.b.toNat % 2 ^ 32))

/-- A complete quad rendezvous: its members sample from the values formed (R369, R374). -/
def State.completeQuad (s : State) (o : Op) (g q : Nat) (r : Rdv) : State :=
  let s := s.modGroup g (fun x => { x with quads := x.quads.del q })
  let id := s.nextId
  let ls := (sortBy (fun a b => decide (a.lane ≤ b.lane)) r.arrivals).map (fun a =>
    ({ tid := threadKey g a.lane, addr := a.c, x := a.a, y := BitVec.ofNat 64 (lodBits (quadLod r a.k a)) } : Lane))
  let op : Op :=
    { o with id := id, hints := r.hints, instr := r.instr, stage := 1, lanes := ls,
             desc := ((r.arrivals.head?).map (·.k)).getD o.desc }
  let s : State := { s with nextId := id + 1, ops := s.ops ++ [op] }
  ls.foldl (fun s l => (s.wftDrop l.tid).modThread l.tid (fun x => { x with waitFor := .check id })) s

/-- A thread arrives at the rendezvous of its quad, its descriptor read (R138, R369, R374). -/
def State.arriveQuad (s : State) (o : Op) (l : Lane) : State :=
  let t := l.tid
  let g := gidOf t
  let q := laneOf t / 4
  let wait := fun (s : State) (w : WaitFor) => s.modThread t (fun x => { x with waitFor := w })
  let next := o.pc + 4
  if (s.group g).copyRdv.isSome then (wait s .nothing).failCopyRdv g [t] next
  else
    match (s.group g).rdv with
    | some r =>
      if r.mask.getLsbD (laneOf t) then (wait s .nothing).failRdv g [t] next else wait s .rendezvous
    | none =>
      let v := s.operands o.hints t (formOf o.hints o.instr)
      let r : Rdv := ((s.group g).quads.find q).getD
        { pc := o.pc, instr := o.instr, hints := o.hints, mask := maskOf ((s.quadMates t).map laneOf), arrivals := [],
          openedAt := s.wall }
      let a : Arrival :=
        { lane := laneOf t, mask := r.mask, a := BitVec.ofNat 64 (v.getD 0 0), b := BitVec.ofNat 64 (v.getD 1 0), c := l.addr,
          k := o.desc }
      if r.pc != o.pc then (wait s .nothing).failQuad g q [t] next
      else
        let r := { r with arrivals := r.arrivals ++ [a] }
        let s := (wait s .rendezvous).modGroup g (fun x => { x with quads := x.quads.put q r })
        if (lanesOf r.mask).any (fun i => !s.alive (threadKey g i)) then s.failQuad g q [] next
        else if (lanesOf r.mask).all (fun i => r.arrivals.any (fun a => a.lane == i)) then s.completeQuad o g q r
        else s.wftAdd t .group o.pc.toNat

/-! ## The descriptor, and the end of a sample (R366, R374) -/

/-- Parks lanes of an operation that a page each stops, group by group and set by set: WHOLE for a request that starts
again, TEXTURE for a sample (R374, R386, R404, R417, R433). -/
def State.parkParts (s : State) (o : Op) (unit : UnitKind) (bad : List (Lane × Reason × Nat)) (write : Bool)
    (cands : List Nat) : State :=
  let key := fun (p : Lane × Reason × Nat) => gidOf p.1.tid * 2 ^ 64 + ((s.thread p.1.tid).inSet.getD 0)
  (dedupBy id (bad.map key)).foldl (fun s' g =>
    let mine := bad.filter (fun p => key p == g)
    s'.park
      { ctx := o.ctx, core := o.core, gid := g / 2 ^ 64, unit := unit, instr := o.instr, hints := o.hints, word := o.word,
        pc := o.runPc, next := o.pc + 4, lanes := mine.map (·.1), data := [], copy := none, cands := cands,
        pages := mine.map (fun p => ({ lane := laneOf p.1.tid, page := p.2.2 / 4096 * 4096, reason := p.2.1,
                                       write := write, fetch := false } : ParkPage)) }) s

/-- The first checks of a texture operation: its descriptor (R366, R374). What follows is its rendezvous, or its sample. -/
def State.texDesc (s : State) (o : Op) (ls : List Lane) : State :=
  let a := (((ls.head?).map (fun (l : Lane) => l.addr)).getD 0).toNat
  let t0 := ((ls.head?).map (fun (l : Lane) => l.tid)).getD 0
  let s : State := { s with ops := s.ops.filter (fun x => x.id != o.id) }
  let frozen := s.frozen t0
  match (if a % 64 ≠ 0 then (s, .ok []) else s.walkRead o t0 false 8 a : State × Except WStop (List DWord)) with
  | (s, .error (.fail (.trap c) a _)) =>
    s.trapLanes o false (ls.map (fun l => ({ l with addr := BitVec.ofNat 64 a }, c)))
  | (s, .error (.fail (.park r) a _)) =>
    s.parkParts o (if frozen then .texture else .whole) (ls.map (fun l => (l, r, a))) false []
  | (s, .error _) => { s with ops := s.ops ++ [o] }
  | (s, .ok ws) =>
    let o : Op := { o with desc := ws, stage := 1, lanes := ls }
    if frozen then { s with ops := s.ops ++ [o] }
    else
      let s := ls.foldl (fun s l => s.leaveSet l.tid) s
      if isImplicit o.instr o.hints then ls.foldl (fun s l => s.arriveQuad o l) s
      else { s with ops := s.ops ++ [{ o with lanes := ls.map (s.texOperands o) }] }

/-- Tiles that Loess predicts beside a missing one: those adjacent in u and v, then the one that covers it at the next
level (R420). -/
def texCands (ws : List DWord) (a : Nat) : List Nat :=
  let tile := fun (l x y : Nat) => tileAddr ws l x y
  let found := (List.range (texLevels ws)).findSome? (fun l =>
    let base := tile l 0 0
    let n := tilesRow ws l * tileRows ws l
    if base ≤ a && a < base + 65536 * n then some (l, (a - base) / 65536) else none)
  match found with
  | none => []
  | some (l, i) =>
    let w := tilesRow ws l
    let x := i % w
    let y := i / w
    (if x + 1 < w then [tile l (x + 1) y] else []) ++ (if x > 0 then [tile l (x - 1) y] else []) ++
    (if y + 1 < tileRows ws l then [tile l x (y + 1)] else []) ++ (if y > 0 then [tile l x (y - 1)] else []) ++
    (if l + 1 < texLevels ws then
      [tile (l + 1) (min (x / 2) (tilesRow ws (l + 1) - 1)) (min (y / 2) (tileRows ws (l + 1) - 1))] else [])

/-- A lane's registers are written, and its thread goes on. -/
def State.texDone (s : State) (o : Op) (l : Lane) (v : Nat) : State :=
  let s := match (formOf o.hints o.instr).dst with
    | some d => s.writeDst l.tid d.code (32 * d.regs) v
    | none => s
  s.passThread o l.tid

/-- Every lane of a texture operation samples: it ends, traps or parks on its own (R374). -/
def State.texSample (s : State) (o : Op) (ls : List Lane) : State :=
  let die := dieOf o.core
  let (s, ends) := ls.foldl (fun (p : State × List (Lane × TexEnd)) l =>
    let (s, e) := p.1.texOne o l
    (s, p.2 ++ [(l, e)])) (s, [])
  let waits := ends.filterMap (fun p => match p.2 with | .wait => some p.1 | _ => none)
  let s : State := { s with ops := (s.ops.filter (fun x => x.id != o.id)) ++
    (if waits.isEmpty then [] else [{ o with lanes := waits }]) }
  let traps := ends.filterMap (fun p => match p.2 with
    | .stop (.trap c) a => some ({ p.1 with addr := BitVec.ofNat 64 a }, c)
    | _ => none)
  let parks := ends.filterMap (fun p => match p.2 with
    | .stop (.park r) a => some (p.1, r, a)
    | _ => none)
  let s := ends.foldl (fun s p => match p.2 with
    | .value v cs => cs.foldl (fun s a => s.predictPage die o.ctx (a / 4096 * 4096)) (s.texDone o p.1 v)
    | _ => s) s
  let s := s.trapLanes o false traps
  let cands := dedupBy id (parks.flatMap (fun p => texCands o.desc p.2.2))
  s.parkParts o .texture parks false (cands.take 5)

/-- TEXTURE_SAMPLE_END of the operation that the subject names, its descriptor read (R370, R374). -/
def execTextureSampleEnd (s : State) : Out :=
  .next (match s.ops.find? (fun o => o.id == s.subj.id) with
    | none => s
    | some o =>
      let ls := o.lanes.filter (fun l => (s.thread l.tid).waitFor == .check o.id)
      let tex := match o.instr with
        | .tex .. | .texg .. | .texq .. => true
        | _ => false
      if tex && o.stage = 1 && ls.all (fun l => s.readsReady l.tid) then
        s.settleU.texSample o ls
      else s)

end Sys2Proof.Machine
end

