-- ==== Sys2Proof/Machine/Radiance.lean ====
section
/-! DEFINITION. Major 0x33 and the radiance cache (18 R375–R389): queries, training samples, the optimiser, loading and
saving, and commits. -/
namespace Sys2Proof.Machine

/-! ## The network block (R376, R377) -/

/-- Halfword at byte `a` of a block of 8-byte words. -/
def halfAt (ws : List DWord) (a : Nat) : Nat := bits ((ws.getD (a / 8) 0).toNat) (8 * (a % 8)) 16

/-- The configuration that a network block gives. -/
def rnbOf (ws : List DWord) : Rnb :=
  { levels := byteAt ws 2, tlog2 := byteAt ws 3, hidden := byteAt ws 4, ringLog2 := byteAt ws 5, batchLog2 := byteAt ws 6,
    param := ws.getD 1 0, lr := BitVec.ofNat 32 (wordAt ws 0x10), beta1 := BitVec.ofNat 32 (wordAt ws 0x14),
    beta2 := BitVec.ofNat 32 (wordAt ws 0x18), eps := BitVec.ofNat 32 (wordAt ws 0x1C),
    res := (List.range 16).map (fun i => halfAt ws (0x20 + 2 * i)) }

/-- A finite value above 0. -/
def posF32 (x : Word) : Bool :=
  match (fmtOf 15).read x.toNat with
  | .fin s n _ => !s && n != 0
  | _ => false
/-- A value in [0, 1). -/
def unitF32 (x : Word) : Bool :=
  match (fmtOf 15).read x.toNat with
  | .fin s n d => (!s || n == 0) && n < d
  | _ => false

/-- A network block meets R376. -/
def rnbOk (ws : List DWord) : Bool :=
  let c := rnbOf ws
  halfAt ws 0 == 1 && 1 ≤ c.levels && c.levels ≤ 16 && 10 ≤ c.tlog2 && c.tlog2 ≤ 19 && 1 ≤ c.hidden && c.hidden ≤ 4 &&
    8 ≤ c.ringLog2 && c.ringLog2 ≤ 12 && 6 ≤ c.batchLog2 && c.batchLog2 ≤ 10 && c.batchLog2 ≤ c.ringLog2 &&
    byteAt ws 7 == 0 && c.param.toNat % 64 == 0 && posF32 c.lr && unitF32 c.beta1 && unitF32 c.beta2 && posF32 c.eps &&
    (List.range 16).all (fun i => if i < c.levels then c.res.getD i 0 != 0 else c.res.getD i 0 == 0) && zeroAt ws 0x40 64

namespace Rnb
/-- Elements of the input vector. -/
def inputs (c : Rnb) : Nat := 2 * c.levels + 8
/-- Index of the first layer's first weight. -/
def first (c : Rnb) : Nat := 2 * c.levels * 2 ^ c.tlog2
/-- Index of the first weight of hidden layer `k`, 1 for the first layer (R377). -/
def layer (c : Rnb) (k : Nat) : Nat := if k ≤ 1 then c.first else c.first + 64 * c.inputs + (k - 2) * 4096
/-- Index of the last layer's first weight. -/
def last (c : Rnb) : Nat := c.first + 64 * c.inputs + (c.hidden - 1) * 4096
/-- P (R377). -/
def params (c : Rnb) : Nat := c.last + 192
/-- Bytes of the store that the network needs on each die (R377). -/
def bytes (c : Rnb) : Nat := 14 * c.params + 64 * 2 ^ c.ringLog2
end Rnb

/-! ## Inputs and encoding (R378, R379) -/

/-- A value clamped to [lo, 1]. -/
def clampNum (lo : Int) (x : Num) : Num :=
  if x.ltFin (Num.ofInt lo) then Num.ofInt lo else if (Num.ofInt 1).ltFin x then Num.ofInt 1 else x

/-- The clamped inputs p, d, n, ρ of a query; none when one is not finite (R378). -/
def rcInputs (ws : List Nat) : Option (List Num) :=
  let xs := ws.map (fmtOf 15).read
  if xs.all Num.isFin then some (xs.mapIdx (fun i x => clampNum (if 3 ≤ i && i < 9 then -1 else 0) x)) else none

/-- Cell and weight of an axis at a level: c and w (R379). -/
def rcAxis (p : Num) (r : Nat) : Nat × Num :=
  let n := p.top.toNat * r
  let c := min (n / p.den) (r - 1)
  (c, Num.ofInt ((n : Int) - c * p.den) p.den)

/-- The corners of a level: entry and weight (R379). -/
def rcCorners (c : Rnb) (xs : List Num) (l : Nat) : List (Nat × Num) :=
  let r := c.res.getD l 0
  let ax := fun i => rcAxis (xs.getD i Num.zero) r
  let dense := decide ((r + 1) ^ 3 ≤ 2 ^ c.tlog2)
  (List.range 8).map (fun k =>
    let at' := fun i => (ax i).1 + bits k i 1
    let e := if dense then at' 0 + (r + 1) * (at' 1 + (r + 1) * at' 2)
      else Nat.xor (Nat.xor (at' 0) (at' 1 * 0x8DA6B343 % 2 ^ 32)) (at' 2 * 0xD8163841 % 2 ^ 32) % 2 ^ c.tlog2
    let w := fun i => if bit k i then (ax i).2 else Num.sub false (Num.ofInt 1) (ax i).2
    (e, ((w 0).mul (w 1)).mul (w 2)))

/-- Index of feature `f` of entry `e` of level `l` (R377). -/
def gridIndex (c : Rnb) (l e f : Nat) : Nat := (l * 2 ^ c.tlog2 + e) * 2 + f

/-- Rounds to .F16 with .RN, saturating (R379). -/
def toF16 (x : Num) : Num := (fmtOf 16).read (deliver (fmtOf 16) { sat := true } false x).1

/-- max(x, +0). -/
def rcRelu (x : Num) : Num := if x.isNan then x else if x.neg || x.isZero then Num.zero else x

/-! ## A query (R379, R380) -/

/-- Sum of products in chunks of 32 (R380, R156). -/
def rcRow (ps : List Num) (chunksN : Nat) : Num :=
  let sums := (List.range chunksN).map (fun i =>
    let l := (ps.drop (32 * i)).take 32
    (treeSum 5 (l ++ List.replicate (32 - l.length) Num.zero)).1)
  match sums with
  | [] => Num.zero
  | x :: r => r.foldl (fun a b => (addF32 a b).1) x

/-- A layer: `rows` sums over its inputs, from weights at an index. -/
def rcLayer (g : Nat → Num) (base rows : Nat) (xs : List Num) : List Num :=
  let n := xs.length
  (List.range rows).map (fun j => rcRow (xs.mapIdx (fun i x => (g (base + j * n + i)).mul x)) ((n + 31) / 32))

/-- The input vector (R380). -/
def rcVector (c : Rnb) (g : Nat → Num) (xs : List Num) : List Num :=
  (List.range c.levels).flatMap (fun l =>
    let cs := rcCorners c xs l
    (List.range 2).map (fun f =>
      toF16 (cs.foldl (fun a q => Num.add false a (q.2.mul (g (gridIndex c l q.1 f)))) Num.zero))) ++
  (xs.drop 3).map toF16 ++ [Num.ofInt 1]

/-- The hidden layers from layer `k`, `n` of them. -/
def rcHidden (c : Rnb) (g : Nat → Num) : Nat → Nat → List Num → List Num
  | 0, _, xs => xs
  | n + 1, k, xs => rcHidden c g n (k + 1) ((rcLayer g (c.layer k) 64 xs).map (fun v => toF16 (rcRelu v)))

/-- The network's output for clamped inputs: R, G, B as .F32 bits (R380). -/
def rcEval (c : Rnb) (g : Nat → Num) (xs : List Num) : List Nat :=
  ((rcLayer g c.last 3 (rcHidden c g c.hidden 1 (rcVector c g xs))).map rcRelu).map (fun v => (f32Of v).toNat)

/-- Every parameter index that a query reads. -/
def rcReads (c : Rnb) (xs : List Num) : List Nat :=
  (List.range c.levels).flatMap (fun l => (rcCorners c xs l).flatMap (fun q => [gridIndex c l q.1 0, gridIndex c l q.1 1])) ++
  (List.range (c.params - c.first)).map (· + c.first)

/-! ## The stores -/

/-- A die's store. -/
def Marl.die (m : Marl) (d : Nat) : MarlDie := if d = 0 then m.die0 else m.die1
/-- Changes a die's store. -/
def State.modMarl (s : State) (d : Nat) (f : MarlDie → MarlDie) : State :=
  { s with marl := if d = 0 then { s.marl with die0 := f s.marl.die0 } else { s.marl with die1 := f s.marl.die1 } }
/-- A committed parameter. -/
def gOf (d : MarlDie) (i : Nat) : Num := (fmtOf 16).read (d.g.at' 0 i).toNat
/-- The place that stands for a G word of a die among sectors. -/
def marlSector (die i : Nat) : Nat := 2 ^ 60 + die * 2 ^ 32 + i

/-- Array faults of the G words that a query reads (R384, R449). -/
def State.meetMarl (s : State) (die : Nat) (is : List Nat) : State :=
  if s.ecc.isEmpty then s
  else is.foldl (fun s i =>
    match s.ecc.find? (fun e => e.unit == 9 && e.sector == marlSector die i) with
    | none => s
    | some e =>
      let s := { s with ecc := s.ecc.erase e }
      match e.kind with
      | .single => s.modDev (fun d => { d with errCe := sat32 d.errCe })
      | .transient => s.modDev (fun d => { d with errTransient := sat32 d.errTransient })
      | .lasting => (s.logLasting 9 (marlSector die i) true).poisonSector (marlSector die i)) s

/-- Removes the poison of a die's parameters: they are written anew. -/
def State.cleanMarl (s : State) (die : Nat) : State :=
  { s with poison := s.poison.filter (fun x => !(marlSector die 0 ≤ x && x < marlSector die 0 + 2 ^ 32)) }

/-- Appends a sample, or discards and counts it when the ring is full (R381, R390). -/
def State.appendSample (s : State) (die : Nat) (c : Rnb) (sample : List Word) : State :=
  s.modMarl die (fun d =>
    if d.ring.length < 2 ^ c.ringLog2 then { d with ring := d.ring ++ [sample], appended := d.appended + 1 }
    else { d with dropped := sat32 d.dropped })

/-- QRC of one thread (R384), and whether it meets poison. -/
def State.qrcLane (s : State) (b : Bundle) (i : Instr) (t : Nat) : State × Bool :=
  let f := formOf b.hints i
  let v := s.operands b.hints t f
  let put := fun (s : State) (x : Nat) => match f.dst with
    | some d => s.writeDst t d.code 128 x
    | none => s
  let ins := (List.range 10).map (comp (v.getD 0 0))
  let die := dieOf b.core
  match s.marl.cfg with
  | some c =>
    if s.marl.owner != some (s.ctxOf t) then (put s (0xFFFFFFFF * 2 ^ 96), false)
    else
      let xs := rcInputs ins
      let s := match xs with
        | some xs => s.meetMarl die (rcReads c xs)
        | none => s
      if (xs.map (fun xs => (rcReads c xs).any (fun i => s.isPoisoned (marlSector die i)))).getD false then
        (s, true)
      else
        let d := s.marl.die die
        let y := match xs with
          | some xs => rcEval c (gOf d) xs
          | none => [0, 0, 0]
        let s := put s (joinWords (y ++ [d.gen.toNat]))
        let target := (List.range 3).map (comp (v.getD 1 0))
        (if !xmodBit b.hints 0 || (s.thread t).helper || xs.isNone then s
          else if target.all (fun x => ((fmtOf 15).read x).isFin) then
            s.appendSample die c ((ins ++ target).map (BitVec.ofNat 32))
          else s.modMarl die (fun d => { d with dropped := sat32 d.dropped }), false)
  | none => (put s (0xFFFFFFFF * 2 ^ 96), false)

/-- QRC (R384). -/
def execQrc (d a : BitVec 7) (s : State) : Out :=
  s.issueWord (.qrc d a) (fun b act s =>
    let (s, bad) := (sortBy (fun x y => decide (x ≤ y)) act).foldl (fun (p : State × List Nat) t =>
      let (s, poisoned) := p.1.qrcLane b (.qrc d a) t
      (s, if poisoned then p.2 ++ [t] else p.2)) (s, [])
    s.trapAt b bad .poison (fun _ => {}))

/-! ## The optimiser (R382, R383) -/

/-- An exact value. -/
def ratOf (x : Num) : Rat := mkRat x.top x.den
/-- .F32 bits as an exact value. -/
def ratF32 (x : Word) : Rat := ratOf ((fmtOf 15).read x.toNat)
/-- A rational as a value. -/
def numOf (q : Rat) : Num := Num.ofInt q.num q.den

/-- A layer in exact arithmetic. -/
def exLayer (w : Nat → Rat) (base rows : Nat) (xs : List Rat) : List Rat :=
  (List.range rows).map (fun j => (xs.mapIdx (fun i x => w (base + j * xs.length + i) * x)).foldl (· + ·) 0)

/-- The outputs of every layer before its ReLU, from hidden layer `k` on, `n` of them, each with its inputs. -/
def exHidden (c : Rnb) (w : Nat → Rat) : Nat → Nat → List Rat → List (List Rat × List Rat)
  | 0, _, xs => [(xs, exLayer w c.last 3 xs)]
  | n + 1, k, xs =>
    let z := exLayer w (c.layer k) 64 xs
    (xs, z) :: exHidden c w n (k + 1) (z.map (fun v => max 0 v))

/-- Gradients with respect to a layer's sums pass back to its inputs. -/
def exBack (w : Nat → Rat) (base n : Nat) (ds : List Rat) : List Rat :=
  (List.range n).map (fun i => (ds.mapIdx (fun j d => w (base + j * n + i) * d)).foldl (· + ·) 0)

/-- What a sample gives each part of the gradient: inputs and gradient of the sums of every layer, first layer first, and
the gradient with respect to the input vector. -/
structure Grad where
  corners : List (List (Nat × Rat))
  layers : List (List Rat × List Rat)
  dx : List Rat
  deriving DecidableEq, Repr

/-- Walks back from the last layer: `rev` lists the layers before it, the nearest first, with the index of each. -/
def exWalk (c : Rnb) (w : Nat → Rat) : List (Nat × List Rat × List Rat) → List Rat → List (List Rat × List Rat) →
    List (List Rat × List Rat) × List Rat
  | [], da, acc => (acc, da)
  | (k, xs, z) :: r, da, acc =>
    let ds := (da.zip z).map (fun p => if p.2 > 0 then p.1 else 0)
    exWalk c w r (exBack w (c.layer k) xs.length ds) ((xs, ds) :: acc)

/-- The gradient of a sample's loss on the master parameters (R382). -/
def gradOf (c : Rnb) (w : Nat → Rat) (sample : List Word) : Grad :=
  let nums := sample.map (fun x => (fmtOf 15).read x.toNat)
  let xs := (nums.take 10).mapIdx (fun i x => clampNum (if 3 ≤ i && i < 9 then -1 else 0) x)
  let t := (nums.drop 10).map ratOf
  let corners := (List.range c.levels).map (fun l => (rcCorners c xs l).map (fun q => (q.1, ratOf q.2)))
  let enc := corners.mapIdx (fun l cs => (List.range 2).map (fun f =>
    (cs.map (fun q => q.2 * w (gridIndex c l q.1 f))).foldl (· + ·) 0))
  let x0 := enc.flatten ++ (xs.drop 3).map ratOf ++ [1]
  let ls := exHidden c w c.hidden 1 x0
  match ls.reverse with
  | [] => { corners := corners, layers := [], dx := [] }
  | (a, z) :: before =>
    let y := z.map (fun v => max 0 v)
    let mean := (y.foldl (· + ·) 0) / 3
    let dz := (y.zip (t.zip z)).map (fun p => if p.2.2 > 0 then 2 * (p.1 - p.2.1) / (mean * mean + 1 / 100) else 0)
    let back := before.mapIdx (fun i p => (c.hidden - i, p))
    let (acc, dx) := exWalk c w back (exBack w c.last a.length dz) [(a, dz)]
    { corners := corners, layers := acc, dx := dx }

/-- The gradient of one parameter of a sample. -/
def Grad.at' (g : Grad) (c : Rnb) (i : Nat) : Rat :=
  let weight := fun (k off : Nat) =>
    let (xs, ds) := g.layers.getD k ([], [])
    let n := max 1 xs.length
    ds.getD (off / n) 0 * xs.getD (off % n) 0
  if i < c.first then
    let l := i / 2 / 2 ^ c.tlog2
    let e := i / 2 % 2 ^ c.tlog2
    let mine := ((g.corners.getD l []).filter (fun q => q.1 == e)).map (·.2)
    mine.foldl (· + ·) 0 * g.dx.getD (2 * l + i % 2) 0
  else if i ≥ c.last then weight c.hidden (i - c.last)
  else if i < c.first + 64 * c.inputs then weight 0 (i - c.first)
  else weight (1 + (i - c.first - 64 * c.inputs) / 4096) ((i - c.first - 64 * c.inputs) % 4096)

/-- A value that the optimiser may hold: the open one when it lies within `tol` of everything between the two ends that
enclose the exact one, else the exact one rounded (R383; log 25). -/
def nearF32 (choice : Word) (lo hi tol : Rat) : Word :=
  match (fmtOf 15).read choice.toNat with
  | .fin s n d =>
    let v := ratOf (.fin s n d)
    if v - lo ≤ tol && lo - v ≤ tol && v - hi ≤ tol && hi - v ≤ tol then choice else f32Of (numOf lo)
  | _ => f32Of (numOf lo)

/-- An enclosure of the square root of a rational that is not negative. -/
def sqrtEncl (q : Rat) : Rat × Rat :=
  let p := 2 ^ 400
  let r := isqrt (q.num.natAbs * p * p / q.den)
  (mkRat r p, mkRat (r + 1) p)

/-- Absolute value. -/
def absRat (q : Rat) : Rat := if q < 0 then -q else q

/-- One parameter after a step: master, m, v (R382, R383). `g` is its mean gradient, `st` the step count after the
step. -/
def adam (c : Rnb) (die n st i : Nat) (θ m v : Word) (g : Rat) : Word × Word × Word :=
  let b1 := ratF32 c.beta1
  let b2 := ratF32 c.beta2
  let tol : Rat := 1 / 65536
  let m' := b1 * ratF32 m + (1 - b1) * g
  let v' := b2 * ratF32 v + (1 - b2) * g * g
  let mh := m' / (1 - b1 ^ st)
  let (lo, hi) := sqrtEncl (v' / (1 - b2 ^ st))
  let step := fun r => ratF32 θ - ratF32 c.lr * mh / (r + ratF32 c.eps)
  let width := tol * (absRat (ratF32 θ) + ratF32 c.lr)
  let bad := [θ, m, v].any (fun x => !((fmtOf 15).read x.toNat).isFin)
  let pick := fun k => optimiserChoice die n (3 * i + k)
  if bad then (pick 0, pick 1, pick 2)
  else (nearF32 (pick 0) (step lo) (step hi) width, nearF32 (pick 1) m' m' (tol * absRat m'), nearF32 (pick 2) v' v' (tol * absRat v'))

/-- A step of a die's optimiser (R382). -/
def State.optimise (s : State) (die : Nat) (c : Rnb) : State :=
  let d := s.marl.die die
  let n := 2 ^ c.batchLog2
  let w := fun i => ratF32 (d.master.at' 0 i)
  let gs := (d.ring.take n).map (gradOf c w)
  let st := d.steps + 1
  let vals := (List.range c.params).map (fun i =>
    (i, adam c die s.freeCount st i (d.master.at' 0 i) (d.m.at' 0 i) (d.v.at' 0 i)
      ((gs.map (fun g => g.at' c i)).foldl (· + ·) 0 / n)))
  let s := s.modMarl die (fun d =>
    { d with master := vals.map (fun p => (p.1, p.2.1)), m := vals.map (fun p => (p.1, p.2.2.1)),
             v := vals.map (fun p => (p.1, p.2.2.2)), steps := st, stepsNew := d.stepsNew + 1, ring := d.ring.drop n })
  { s with freeCount := s.freeCount + 1 }

/-- An RCCFG is in progress. -/
def State.rccfgBusy (s : State) : Bool :=
  s.ops.any (fun o => match o.instr with | .rccfgLoad .. | .rccfgSave .. => true | _ => false)

/-- OPTIMISER_STEP on the die that the subject names (R382). -/
def execOptimiserStep (s : State) : Out :=
  .next (match s.marl.cfg with
    | none => s
    | some c =>
      if (s.marl.die s.subj.id).ring.length < 2 ^ c.batchLog2 || s.rccfgBusy || s.marl.commit.isSome then s
      else s.optimise s.subj.id c)

/-! ## RCCFG (R385, R386) -/

/-- RCCFG.LOAD (R386). -/
def execRccfgLoad (d a : BitVec 7) (n : Bool) (s : State) : Out :=
  s.memOut (.rccfgLoad d a n) false (fun s b t =>
    addrLane t ((s.operands b.hints t (formOf b.hints (.rccfgLoad d a n))).getD 0 0))
/-- RCCFG.SAVE (R386). -/
def execRccfgSave (d a : BitVec 7) (n : Bool) (s : State) : Out :=
  s.memOut (.rccfgSave d a n) false (fun s b t =>
    addrLane t ((s.operands b.hints t (formOf b.hints (.rccfgSave d a n))).getD 0 0))

/-- READY.MARL0 and MARL1 (R19). -/
def State.marlReady (s : State) : Bool := s.boot.ready.getLsbD 11 && s.boot.ready.getLsbD 12

/-- What a request comes to: a status, or the stop of a read. -/
abbrev RcEnd := Except WStop Nat

/-- The pages of a range of addresses pass as writes (R386). -/
def State.writePages (s : State) (o : Op) (t : Nat) : List Nat → State × Except WStop Unit
  | [] => (s, .ok ())
  | a :: r =>
    match s.check o.core o.ctx (s.isSup t) .write a with
    | (s, .ok p) => if s.answers p.loc then s.writePages o t r else (s.holdFor p.loc, .error .wait)
    | (s, .error .wait) => (s, .error .wait)
    | (s, .error f) => (s, .error (.fail f a true))

/-- A parameter image, `P / 2` words of 8 bytes, has no NaN and no infinity. -/
def imageOk (ws : List DWord) : Bool :=
  ws.all (fun w => ((fmtOf 15).read (w.toNat % 2 ^ 32)).isFin && ((fmtOf 15).read (w.toNat / 2 ^ 32)).isFin)

/-- The setting of both dies by a LOAD (R386). -/
def State.loadImage (s : State) (c : Nat) (cfg : Rnb) (ws : List DWord) : State :=
  let vals := ws.flatMap (fun w => [w.extractLsb' 0 32, w.extractLsb' 32 32])
  let g : Tab (BitVec 16) := vals.mapIdx (fun i x =>
    (i, BitVec.ofNat 16 (deliver (fmtOf 16) { sat := true } false ((fmtOf 15).read x.toNat)).1))
  let d : MarlDie := { MarlDie.reset with g := g, master := vals.mapIdx (fun i x => (i, x)) }
  ({ s with marl := { s.marl with owner := some c, cfg := some cfg, die0 := d, die1 := d } } : State).cleanMarl 0
    |>.cleanMarl 1

/-- RCCFG.LOAD of one thread (R385, R386). -/
def State.rcLoad (s : State) (o : Op) (l : Lane) : State × RcEnd :=
  let a := l.addr.toNat
  if !s.marlReady then (s, .ok 5)
  else if s.marl.owner.isSome && s.marl.owner != some o.ctx then (s, .ok 1)
  else if s.marl.commit.isSome then (s, .error .wait)
  else if a % 128 ≠ 0 then (s, .ok 2)
  else
    match s.walkRead o l.tid false 16 a with
    | (s, .error e) => (s, .error e)
    | (s, .ok ws) =>
      let c := rnbOf ws
      if !rnbOk ws then (s, .ok 2)
      else if c.bytes > 8323072 then (s, .ok 3)
      else
        match s.walkRead o l.tid false (c.params / 2) c.param.toNat with
        | (s, .error e) => (s, .error e)
        | (s, .ok ps) => if !imageOk ps then (s, .ok 2) else (s.loadImage o.ctx c ps, .ok 0)

/-- RCCFG.SAVE of one thread (R385, R386). -/
def State.rcSave (s : State) (o : Op) (l : Lane) : State × RcEnd :=
  let a := l.addr.toNat
  match s.marl.cfg with
  | none => (s, .ok (if s.marlReady then 4 else 5))
  | some cfg =>
    if !s.marlReady then (s, .ok 5)
    else if s.marl.owner != some o.ctx then (s, .ok 4)
    else if a % 128 ≠ 0 then (s, .ok 2)
    else
      match s.walkRead o l.tid false 16 a with
      | (s, .error e) => (s, .error e)
      | (s, .ok ws) =>
        let c := rnbOf ws
        if !rnbOk ws || c.levels ≠ cfg.levels || c.tlog2 ≠ cfg.tlog2 || c.hidden ≠ cfg.hidden then (s, .ok 2)
        else
          let base := c.param.toNat
          let last := base + 4 * c.params - 1
          let pages := (List.range (last / 4096 - base / 4096 + 1)).map (fun i =>
            if i = 0 then base else (base / 4096 + i) * 4096 % 2 ^ 64)
          match s.writePages o l.tid pages with
          | (s, .error e) => (s, .error e)
          | (s, .ok _) =>
            let s := (List.range c.params).foldl (fun s i =>
              let va := (base + 4 * i) % 2 ^ 64
              match s.check o.core o.ctx (s.isSup l.tid) .write va with
              | (s, .ok p) =>
                s.addAccess o { l with addr := BitVec.ofNat 64 va } p
                  { kind := .store, size := 4, x := BitVec.ofNat 64 (f32Of (gOf s.marl.die0 i)).toNat }
              | (s, .error _) => s) s
            (s, .ok 0)

/-- The requests of an operation, taken in lane order: each thread ends with a status, which `done` writes, traps, or parks to run its
request again from the start (R385, R404, R417, R433); `write` says that the failing accesses were writes. A port that does not answer keeps the threads that have
not ended under suspension (R19). -/
def State.runRequests (s : State) (o : Op) (ls : List Lane) (write : Bool)
    (req : State → Lane → State × RcEnd)
    (done : State → Lane → Nat → State) : State :=
  let one := fun (p : State × List Lane × List (Lane × Cause) × List (Lane × Reason × Nat)) (l : Lane) =>
    let (s, waits, traps, parks) := p
    if !waits.isEmpty then (s, waits ++ [l], traps, parks)
    else
      match req s l with
      | (s, .ok st) => (done (s.passThread o l.tid) l st, waits, traps, parks)
      | (s, .error (.fail (.trap c) a _)) => (s, waits, traps ++ [({ l with addr := BitVec.ofNat 64 a }, c)], parks)
      | (s, .error (.fail (.park r) a _)) => (s, waits, traps, parks ++ [(l, r, a)])
      | (s, .error _) => (s, [l], traps, parks)
  let (s, waits, traps, parks) := ls.foldl one (s, [], [], [])
  let s : State := { s with ops := (s.ops.filter (fun x => x.id != o.id)) ++ (if waits.isEmpty then [] else [{ o with lanes := waits }]) }
  (s.trapLanes o write traps).parkParts o .whole parks write []

/-- RCCFG.LOAD and RCCFG.SAVE once their checks may be made (R385). -/
def State.endRccfg (s : State) (o : Op) (ls : List Lane) : State :=
  let save := match o.instr with | .rccfgSave .. => true | _ => false
  s.runRequests o ls save (fun s l => if save then s.rcSave o l else s.rcLoad o l)
    (fun s l st => s.status o.instr o.hints l.tid st)

/-- RCCFG.RELEASE (R385, R386): it makes no translation, and its requests are taken in lane order. -/
def execRccfgRelease (d a : BitVec 7) (n : Bool) (s : State) : Out :=
  s.issueWord (.rccfgRelease d a n) (fun b act s =>
    (sortBy (fun x y => decide (x ≤ y)) act).foldl (fun s t =>
      let own := s.marl.owner == some (s.ctxOf t)
      let st := if !s.marlReady then 5 else if own then 0 else 4
      let s := if st = 0 then { s with marl := { s.marl with owner := none } } else s
      s.status (.rccfgRelease d a n) b.hints t st) s)

/-! ## Commits (R387, R388) -/

/-- RCGEN (R387): a request joins the commit that has not begun its exchange, or starts the next. -/
def State.rcgenLane (s : State) (b : Bundle) (d : BitVec 7) (t : Nat) : State :=
  let die := s.marl.die (dieOf b.core)
  if s.marl.owner != some (s.ctxOf t) then s.writeDst t d 64 0xFFFFFFFF
  else if xmodBit b.hints 0 then s.writeDst t d 64 (die.gen.toNat + die.appended.toNat * 2 ^ 32)
  else
    let c : Commit := s.marl.commit.getD { exchanged := false, waiters := [], later := [], folded := 0 }
    let c := if c.exchanged then { c with later := c.later ++ [t] } else { c with waiters := c.waiters ++ [t] }
    ({ s with marl := { s.marl with commit := some c } } : State).modThread t (fun x =>
      { (x.suspend (.result 0)) with waitDst := d })

/-- RCGEN (R387). -/
def execRcgen (d : BitVec 7) (n : Bool) (s : State) : Out :=
  s.issueWord (.rcgen d n) (fun b act s =>
    (sortBy (fun x y => decide (x ≤ y)) act).foldl (fun s t => s.rcgenLane b d t) s)

/-- The mean of two .F32 values, rounded (R388). -/
def meanF32 (a b : Word) : Word :=
  f32Of ((Num.add false ((fmtOf 15).read a.toNat) ((fmtOf 15).read b.toNat)).scale (-1))

/-- The mean of two arrays of P values. -/
def meanTab (n : Nat) (a b : Tab Word) : Tab Word := (List.range n).map (fun i => (i, meanF32 (a.at' 0 i) (b.at' 0 i)))

/-- RADIANCE_COMMIT: step 2 of the commit that has been asked for (R388). -/
def execRadianceCommit (s : State) : Out :=
  .next (match s.marl.commit, s.marl.cfg with
    | some c, some cfg =>
      if c.exchanged then s
      else
        let x := s.marl.die0
        let y := s.marl.die1
        let n := cfg.params
        let put := fun (d : MarlDie) =>
          { d with master := meanTab n x.master y.master, m := meanTab n x.m y.m, v := meanTab n x.v y.v,
                   steps := max x.steps y.steps, stepsNew := 0, toSwitch := true }
        let c : Commit := { c with exchanged := true, folded := BitVec.ofNat 32 (x.stepsNew + y.stepsNew) }
        { s with marl := { s.marl with die0 := put x, die1 := put y, commit := some c } }
    | _, _ => s)

/-- A commit is over: its waiters get the generation and the steps folded; those who asked later start the next. -/
def State.endCommit (s : State) (c : Commit) : State :=
  let v := s.marl.die0.gen.toNat + c.folded.toNat * 2 ^ 32
  let s := c.waiters.foldl (fun s t =>
    if (s.thread t).waitFor != .result 0 then s
    else
      let d := (s.thread t).waitDst
      (s.writeDst t d 64 v).modThread t (fun x => { x with waitFor := .nothing, waitDst := 126 })) s
  let next : Option Commit := if c.later.isEmpty then none
    else some { exchanged := false, waiters := c.later, later := [], folded := 0 }
  { s with marl := { s.marl with commit := next } }

/-- GENERATION_SWITCH: step 3 of a commit on the die that the subject names (R388). -/
def execGenerationSwitch (s : State) : Out :=
  .next (match s.marl.commit with
    | none => s
    | some c =>
      let die := if s.subj.id = 0 then 0 else 1
      if !c.exchanged || !(s.marl.die die).toSwitch then s
      else
        let s := (s.modMarl die (fun d =>
          { d with g := d.master.map (fun p =>
                     (p.1, BitVec.ofNat 16 (deliver (fmtOf 16) { sat := true } false ((fmtOf 15).read p.2.toNat)).1)),
                   gen := d.gen + 1, toSwitch := false })).cleanMarl die
        if s.marl.die0.toSwitch || s.marl.die1.toSwitch then s else s.endCommit c)

end Sys2Proof.Machine
end

