-- ==== Sys2Proof/Machine/Kaolin.lean ====
section
/-! DEFINITION. Majors 0x38–0x3B and the micro-ops of the control store (19 R391–R403), and CSLOAD (19 R404, R405). -/
namespace Sys2Proof.Machine

/-! ## Threads inside a sequence (R394, R398, R401) -/

/-- The continuation of a fresh XOP: micro-op 0, h0–h7 zero (R400). -/
def Cont.start (idx : Nat) : Cont :=
  { idx := idx, i := 0, h := [], loops := 0, body := 0, bodyLen := 0, probes := [], stopped := false }
/-- Value of a temporary (R394). -/
def Cont.get (k : Cont) (n : BitVec 3) : Nat := (k.h.at' 0 n.toNat).toNat
/-- Writes a temporary, modulo 2^64 (R394). -/
def Cont.set (k : Cont) (n : BitVec 3) (v : Nat) : Cont := { k with h := k.h.put n.toNat (BitVec.ofNat 64 v) }
/-- Goes on at a micro-op: the end of a body with passes left goes back to its first (R398). -/
def Cont.goto (k : Cont) (i : Nat) : Cont :=
  if k.loops > 0 && i == k.body + k.bodyLen then
    { k with loops := k.loops - 1, i := if k.loops > 1 then k.body else i }
  else { k with i := i }
/-- Goes on at the next micro-op (R398). -/
def Cont.next (k : Cont) : Cont := k.goto (k.i + 1)

/-- The payload of an XOP set (R417). -/
def Cont.payload (k : Cont) : List DWord :=
  let sizes := (k.probes.mapIdx (fun i p => p.size * 4 ^ i)).foldl (· + ·) 0
  [BitVec.ofNat 64 (k.idx + k.i * 2 ^ 16 + k.loops * 2 ^ 32 + k.body * 2 ^ 48),
   BitVec.ofNat 64 (k.probes.length + sizes * 2 ^ 8)] ++
  (List.range 8).map (k.h.at' 0) ++ (List.range 4).map (fun i => ((k.probes[i]?).map (·.va)).getD 0)

/-- A thread is in a sequence that has not stopped. -/
def State.running (s : State) (t : Nat) : Bool :=
  match (s.thread t).xop with
  | some k => !k.stopped && s.alive t
  | none => false

/-- The micro-op index of a thread in a sequence. -/
def State.microIndex (s : State) (t : Nat) : Nat := (((s.thread t).xop).map (·.i)).getD 0

/-- Threads of a bundle that run the next micro-op: those furthest behind (R400). -/
def State.microThreads (s : State) (b : Bundle) : List Nat :=
  let ts := b.threads.filter s.running
  match minBy s.microIndex ts with
  | some t0 => ts.filter (fun t => s.microIndex t == s.microIndex t0)
  | none => []

/-- Word `i` of the sequence that an XOP index of a context is bound to (R391). -/
def State.microWord (s : State) (c idx i : Nat) : Option Word :=
  ((s.ctx c).kBinds.find idx).bind (fun k => if i < k.len then (s.ctx c).kImage[k.start + i]? else none)

/-! ## Stops (R401, R414, R417) -/

/-- A thread leaves its bundle at a micro-op boundary: its PC is the first word of the run (R401). -/
def State.stopThread (s : State) (b : Bundle) (t : Nat) (w : WaitFor) : State :=
  (s.suspendAt b t w).modThread t (fun x => { x with xop := x.xop.map (fun k => { k with stopped := true }) })

/-- The set of one thread that stops inside a sequence. -/
def State.xopPark (s : State) (b : Bundle) (t : Nat) (pages : List ParkPage) : Park :=
  { ctx := s.ctxOf t, core := b.core, gid := gidOf t, unit := .xop,
    instr := .xop 0 0 0 0 false 0, hints := b.hints, word := b.word, pc := b.runPc, next := b.pc + 4,
    lanes := [addrLane t 0], data := (((s.thread t).xop).map (·.payload)).getD [], pages := pages, copy := none }

/-- Parks a thread at its micro-op: page, reason, and whether a write was refused (R397, R401). -/
def State.parkXop (s : State) (b : Bundle) (t a : Nat) (r : Reason) (write : Bool) : State :=
  let s := s.stopThread b t .nothing
  s.park (s.xopPark b t [{ lane := laneOf t, page := a / 4096 * 4096, reason := r, write := write, fetch := false }])

/-- Brings a thread that traps inside a sequence into its set: the one that lists it, with the continuation as it now
is, or a new one. False when the replay area has no room: the thread is held (R414). The REASON of a set that no page
opened is a free value (log 60). -/
def State.xopSet (s : State) (b : Bundle) (t : Nat) (k : Cont) : State × Bool :=
  let s := (s.stopThread b t .nothing).modThread t (fun x => { x with xop := some { k with stopped := true } })
  let p := s.xopPark b t []
  match (s.thread t).inSet with
  | some id =>
    let s := s.modSet id (fun x => { x with data := p.data, batch := 0 })
    ((match s.setOf id with | some x => s.writeSet x | none => s), true)
  | none =>
    match s.freeRun p.ctx p.slots with
    | none => (s.holdAll p, false)
    | some slot =>
      let (v, s) := s.free
      let r := match v.toNat % 4 with | 0 => Reason.notPresent | 1 => .format | 2 => .homeBusy | _ => .bias
      let id := s.nextId
      ((s.openSet p slot 0).modSet id (fun x => { x with reason := r }), true)

/-- How a micro-op ends for a thread. -/
inductive MEnd where
  /-- it goes on with this continuation -/
  | go (k : Cont)
  /-- the sequence is over (R398) -/
  | done
  /-- it cannot be made yet: an earlier access of the thread or a copy comes first -/
  | wait
  /-- it parks on the page of an address -/
  | park (a : Nat) (r : Reason) (write : Bool)
  /-- it traps: cause, INFO0, INFO1, and the micro-op it resumes at -/
  | trap (c : Cause) (info0 info1 resume : Nat)
  deriving DecidableEq, Repr

/-- The end of a sequence: the thread leaves its set and goes on at the word after the XOP (R398, R413). -/
def State.endSequence (s : State) (b : Bundle) (t : Nat) : State :=
  (s.modThread t (fun x => { x with xop := none, pc := b.pc + 4, runPc := b.pc + 4, waitFor := .nothing, tstate := .run })).leaveSet t

/-- Takes the traps of one micro-op: threads of one cause and group share a request (R426). -/
def State.microTraps (s : State) (b : Bundle) (l : List (Nat × Cause × Nat × Nat × Nat)) : State :=
  let (s, l) := l.foldl (fun (p : State × List (Nat × Cause × Nat × Nat × Nat)) q =>
    let (t, _, _, _, resume) := q
    match (p.1.thread t).xop with
    | some k =>
      let (s, ok) := p.1.xopSet b t { k with i := resume }
      if ok then (s, p.2 ++ [q])
      else (s.modThread t (fun x => { x with xop := some { k with stopped := true } }), p.2)
    | none => (p.1, p.2)) (s, [])
  [Cause.misalign, .permission, .poison, .xopLimit, .user].foldl (fun s c =>
    let mine := l.filter (fun q => q.2.1 == c)
    s.trapIn (mine.map (·.1)) c b.runPc (b.pc + 4) (fun t =>
      match mine.find? (fun q => q.1 == t) with
      | some (_, _, i0, i1, _) => { info0 := i0, info1 := i1 }
      | none => {})) s

/-- Runs a micro-op for the threads of the bundle in hand that stand at it; those still in the sequence stay together
(R400). -/
def State.microOut (s : State) (f : Bundle → Nat → Cont → State → State × MEnd) : Out :=
  match s.issue with
  | [] => .fault .noBundle
  | b :: rest =>
    let ts := s.microThreads b
    let s : State := { s with issue := rest }
    let (s, traps) := ts.foldl (fun (p : State × List (Nat × Cause × Nat × Nat × Nat)) t =>
      match (p.1.thread t).xop with
      | none => p
      | some k =>
        match f b t k p.1 with
        | (s, .go k) => (s.modThread t (fun x => { x with xop := some k }), p.2)
        | (s, .done) => (s.endSequence b t, p.2)
        | (s, .wait) => (s, p.2)
        | (s, .park a r w) => (s.parkXop b t a r w, p.2)
        | (s, .trap c i0 i1 r) => (s, p.2 ++ [(t, c, i0, i1, r)])) (s, [])
    let s := s.microTraps b traps
    let left := b.threads.filter s.running
    .next (if left.isEmpty then s else { s with held := s.held ++ [{ b with threads := left, inXop := true }] })

/-- A micro-op that computes one temporary. -/
def State.tempOut (s : State) (d : BitVec 3) (f : Cont → Nat) : Out :=
  s.microOut (fun _ _ k s => (s, .go (k.set d (f k)).next))

/-! ## Issue of an XOP (R396, R400, R401) -/

/-- The bank of a context on a core holds its image, or there is none to hold (R392). -/
def State.bankReady (s : State) (core c : Nat) : Bool :=
  (s.ctx c).kImage.isEmpty ||
  match (s.core core).ctxs.findIdx? (· == c) with
  | some i => (s.core core).banks.find i == some c
  | none => true

/-- Repeats the checks of the probe slots of a continuation: the slots as translated now, or the first that fails
(R401). -/
def State.recheck (s : State) (core c : Nat) : List Probe → State × Except (Fail × Nat) (List Probe)
  | [] => (s, .ok [])
  | p :: r =>
    match s.check core c false .write p.va.toNat with
    | (s, .error e) => (s, .error (e, p.va.toNat))
    | (s, .ok q) =>
      match s.recheck core c r with
      | (s, .ok r) => (s, .ok ({ p with pa := q.loc, leaf := BitVec.ofNat 64 q.leaf } :: r))
      | e => e

/-- A thread starts a sequence, or resumes one (R400, R401). -/
def State.enterXop (s : State) (b : Bundle) (idx t : Nat) : State × MEnd :=
  match (s.thread t).xop with
  | none => (s, .go (Cont.start idx))
  | some k =>
    match s.recheck b.core (s.ctxOf t) k.probes with
    | (s, .ok ps) => (s, .go { k with probes := ps, stopped := false })
    | (s, .error (.park r, a)) => (s, .park a r true)
    | (s, .error (.trap c, a)) => (s, .trap c a (1 + 7 * 256) k.i)
    | (s, .error (.wait, _)) => (s, .wait)

/-- XOP (R400): it waits for its bank, or its threads enter their sequences and stay a bundle that issues micro-ops. -/
def execXop (j : BitVec 2) (d a b : BitVec 7) (n : Bool) (i : BitVec 4) (s : State) : Out :=
  match s.issue with
  | [] => .fault .noBundle
  | w :: rest =>
    if !s.bankReady w.core (s.bundleCtx w) then
      .next (w.threads.foldl (fun s t => s.modThread t (fun x => { x with waitFor := .bankFill }))
        { s with issue := rest, held := s.held ++ [w] })
    else
      s.issueWord (.xop j d a b n i) (fun w act s =>
        let idx := 16 * j.toNat + i.toNat
        let f := s.formAt (s.bundleCtx w) w.hints (.xop j d a b n i)
        let regs := regsRead w.hints f ++ regsWritten f
        let w : Bundle := { w with word := s.bundleWord w }
        let s := act.foldl (fun s t => s.suspendAt w t .nothing) s
        let (s, go, traps) := act.foldl (fun (p : State × List Nat × List (Nat × Cause × Nat × Nat × Nat)) t =>
          match p.1.enterXop w idx t with
          | (s, .go k) => (s.modThread t (fun x => { x with xop := some { k with regs := regs } }), p.2.1 ++ [t], p.2.2)
          | (s, .park a r wr) => (s.parkXop w t a r wr, p.2.1, p.2.2)
          | (s, .trap c i0 i1 r) => (s, p.2.1, p.2.2 ++ [(t, c, i0, i1, r)])
          | (s, _) => (s, p.2.1, p.2.2)) (s, [], [])
        let s := s.microTraps w traps
        if go.isEmpty then s else { s with held := s.held ++ [{ w with threads := go, inXop := true }] })

/-! ## Register micro-ops (R394) -/

/-- UADD. -/
def execUadd (d a b : BitVec 3) (s : State) : Out := s.tempOut d (fun k => k.get a + k.get b)
/-- USUB. -/
def execUsub (d a b : BitVec 3) (s : State) : Out := s.tempOut d (fun k => k.get a + 2 ^ 64 - k.get b)
/-- UAND. -/
def execUand (d a b : BitVec 3) (s : State) : Out := s.tempOut d (fun k => Nat.land (k.get a) (k.get b))
/-- UOR. -/
def execUor (d a b : BitVec 3) (s : State) : Out := s.tempOut d (fun k => Nat.lor (k.get a) (k.get b))
/-- UXOR. -/
def execUxor (d a b : BitVec 3) (s : State) : Out := s.tempOut d (fun k => Nat.xor (k.get a) (k.get b))
/-- USHL. -/
def execUshl (d a b : BitVec 3) (s : State) : Out :=
  s.tempOut d (fun k => if k.get b ≥ 64 then 0 else k.get a * 2 ^ k.get b)
/-- USHR. -/
def execUshr (d a b : BitVec 3) (s : State) : Out :=
  s.tempOut d (fun k => if k.get b ≥ 64 then 0 else k.get a / 2 ^ k.get b)
/-- USAR. -/
def execUsar (d a b : BitVec 3) (s : State) : Out :=
  s.tempOut d (fun k => wrapInt 64 (signedOf 64 (k.get a) / (2 ^ min (k.get b) 63 : Nat)))
/-- UMUL. -/
def execUmul (d a b : BitVec 3) (s : State) : Out := s.tempOut d (fun k => k.get a * k.get b)
/-- UADDI. -/
def execUaddi (d a : BitVec 3) (i : BitVec 17) (s : State) : Out := s.tempOut d (fun k => k.get a + sext 17 64 i.toNat)
/-- UMOVI. -/
def execUmovi (d : BitVec 3) (i : BitVec 17) (s : State) : Out := s.tempOut d (fun _ => sext 17 64 i.toNat)
/-- UHI. -/
def execUhi (d a : BitVec 3) (i : BitVec 17) (s : State) : Out :=
  s.tempOut d (fun k => k.get a * 2 ^ 17 + i.toNat)

/-- TYPE code of R52 for a type code of R394. -/
def utype (c : BitVec 4) : Nat :=
  match c.toNat with | 0 => 14 | 1 => 15 | 2 => 16 | 3 => 17 | 4 => 3 | 5 => 7 | 6 => 4 | _ => 8

/-- How a micro-op delivers: RND, SAT, and the draw of R394 when RND is .SR. -/
def State.microDelivery (s : State) (b : Bundle) (t : Nat) (k : Cont) (r : BitVec 3) (sat : Bool) (x y : Nat) : Deliver :=
  let w := Nat.xor (Nat.xor (x % 2 ^ 32) (x / 2 ^ 32)) (Nat.xor (y % 2 ^ 32) (y / 2 ^ 32))
  { mode := r.toNat, sat := sat, draw := if r = 4 then s.draw t b.pc k.i w else 0 }

/-- A micro-op that computes one temporary and conditions (R394, R403). -/
def State.tempFpOut (s : State) (d : BitVec 3) (f : Bundle → State → Nat → Cont → Nat × BitVec 5) : Out :=
  s.microOut (fun b t k s =>
    let (v, c) := f b s t k
    (s.record t c, .go (k.set d v).next))

/-- A sum, difference or product in type `ty` (R190, R394). -/
def State.microArith (s : State) (d a b : BitVec 3) (ty : BitVec 4) (r : BitVec 3) (sat : Bool)
    (op : Bool → Num → Num → Num → Num × List Num) : Out :=
  s.tempFpOut d (fun w s t k =>
    let f := fmtOf (utype ty)
    let m := 2 ^ tyWidth (utype ty)
    let (v, l) := op (r == 2) (f.read (k.get a % m)) (f.read (k.get b % m)) (f.read (k.get d % m))
    arith f (s.microDelivery w t k r sat (k.get a) (k.get b)) l v)

/-- UFADD. -/
def execUfadd (d a b : BitVec 3) (t : BitVec 4) (r : BitVec 3) (sat : Bool) (s : State) : Out :=
  s.microArith d a b t r sat (fun dn x y _ => (Num.add dn x y, [x, y]))
/-- UFSUB. -/
def execUfsub (d a b : BitVec 3) (t : BitVec 4) (r : BitVec 3) (sat : Bool) (s : State) : Out :=
  s.microArith d a b t r sat (fun dn x y _ => (Num.sub dn x y, [x, y]))
/-- UFMUL. -/
def execUfmul (d a b : BitVec 3) (t : BitVec 4) (r : BitVec 3) (sat : Bool) (s : State) : Out :=
  s.microArith d a b t r sat (fun _ x y _ => (x.mul y, [x, y]))
/-- UFMA: x × y + z, fused. -/
def execUfma (d a b : BitVec 3) (t : BitVec 4) (r : BitVec 3) (sat : Bool) (s : State) : Out :=
  s.microArith d a b t r sat (fun dn x y z => (Num.add dn (x.mul y) z, [x, y, z]))

/-- A minimum or maximum in type `ty` (R191, R394). -/
def State.microMinMax (s : State) (d a b : BitVec 3) (ty : BitVec 4) (max : Bool) : Out :=
  s.tempFpOut d (fun _ _ _ k =>
    let m := 2 ^ tyWidth (utype ty)
    minMax (fmtOf (utype ty)) max (k.get a % m) (k.get b % m))
/-- UFMIN. -/
def execUfmin (d a b : BitVec 3) (t : BitVec 4) (s : State) : Out := s.microMinMax d a b t false
/-- UFMAX. -/
def execUfmax (d a b : BitVec 3) (t : BitVec 4) (s : State) : Out := s.microMinMax d a b t true

/-- A conversion between two of the types of R394: under R197 and R198, or R144 between integers (R154). -/
def convert (src tgt : Nat) (d : Deliver) (x : Nat) : Nat × BitVec 5 :=
  let n := tyWidth src
  match tyFloat src, tyFloat tgt with
  | true, true => convFp tgt d (readFp src (x % 2 ^ n))
  | true, false => toInt tgt d.mode d.draw (readFp src (x % 2 ^ n))
  | false, true => convFp tgt d (Num.ofInt (intVal src n x))
  | false, false => (intResult tgt (tyWidth tgt) d.sat (intVal src n x), 0)
/-- UCVT. -/
def execUcvt (d a : BitVec 3) (t : BitVec 4) (r : BitVec 3) (sat : Bool) (u : BitVec 4) (s : State) : Out :=
  s.tempFpOut d (fun w s th k =>
    convert (utype u) (utype t) (s.microDelivery w th k r sat (k.get a) 0) (k.get a))
/-- UCMP. -/
def execUcmp (d a b : BitVec 3) (t c : BitVec 4) (s : State) : Out :=
  s.tempFpOut d (fun _ _ _ k =>
    let ty := utype t
    let n := tyWidth ty
    if tyFloat ty then
      let (v, q) := fcmp ty c.toNat [k.get a % 2 ^ n, k.get b % 2 ^ n]
      (b2n v, q)
    else (b2n (icond c.toNat (intVal ty n (k.get a)) (intVal ty n (k.get b))), 0))

/-! ## The operands of the XOP (R395) -/

/-- Register code of a field of the XOP word in hand: 0 d, 1 a, 2 b, 3 c. -/
def xopField (b : Bundle) (sel : BitVec 2) : BitVec 7 :=
  match sel.toNat with
  | 0 => b.word.extractLsb' 19 7
  | 1 => b.word.extractLsb' 12 7
  | 2 => b.word.extractLsb' 5 7
  | _ => hSrc3 b.hints
/-- Bits that a WID reads or writes. -/
def widBits (w : BitVec 2) : Nat := if w = 2 then 64 else 32

/-- URDV (R395): a poisoned register traps (R116). -/
def execUrdv (h : BitVec 3) (sel : BitVec 2) (o : BitVec 4) (w : BitVec 2) (s : State) : Out :=
  s.microOut (fun b t k s =>
    let c := xopField b sel
    let n := if w = 2 then 2 else 1
    let u : Use :=
      if c.toNat < 120 then { code := c + o.zeroExtend 7, width := widBits w, regs := n } else { code := c, width := widBits w }
    let regs := if c.toNat < 120 then (List.range n).map (u.code.toNat + ·) else []
    let s := if s.ecc.isEmpty then s else regs.foldl (fun s r => s.meetRegEcc t r) s
    if regs.any (s.regPoisoned t) then (s, .trap .poison 0 (7 * 256) k.i)
    else
      let v := s.operand b.hints t u
      (s, .go (k.set h (if w = 1 then sext 32 64 v else v)).next))
/-- UWRV (R395). -/
def execUwrv (h : BitVec 3) (o : BitVec 4) (w : BitVec 2) (s : State) : Out :=
  s.microOut (fun b t k s =>
    let c := xopField b 0
    (if c.toNat < 120 then s.writeDst t (c + o.zeroExtend 7) (widBits w) (k.get h) else s, .go k.next))
/-- URDK (R395). -/
def execUrdk (h : BitVec 3) (n : BitVec 6) (s : State) : Out :=
  s.microOut (fun _ t k s => (s, .go (k.set h (s.kreg t n.toNat).toNat).next))

/-! ## Memory micro-ops (R397, R402, R403) -/

/-- Address that a memory micro-op forms (R397). -/
def microAddr (k : Cont) (a : BitVec 3) (i : BitVec 17) : Nat := (k.get a + sext 17 64 i.toNat) % 2 ^ 64

/-- The checks of a memory micro-op, with user rights whoever executes it (R397). -/
def State.microCheck (s : State) (b : Bundle) (t : Nat) (k : Cont) (write : Bool) (v n : Nat) :
    State × Except MEnd Passed :=
  let info := b2n write + 7 * 256
  if v % n ≠ 0 then (s, .error (.trap .misalign v info k.i))
  else
    match s.check b.core (s.ctxOf t) false (if write then .write else .read) v with
    | (s, .error (.trap c)) => (s, .error (.trap c v info k.i))
    | (s, .error (.park r)) => (s, .error (.park v r write))
    | (s, .error .wait) => (s, .error .wait)
    | (s, .ok p) => (s, .ok p)

/-- ULD (R397): a weak load, made once what the thread has in flight before it has been performed (R273). -/
def execUld (h a : BitVec 3) (z : BitVec 2) (i : BitVec 17) (s : State) : Out :=
  s.microOut (fun b t k s =>
    let v := microAddr k a i
    let n := 2 ^ z.toNat
    match s.microCheck b t k false v n with
    | (s, .error e) => (s, e)
    | (s, .ok p) =>
      let me : Acc := { kind := .load, size := n }
      if s.accs.any (fun e => e.tid == t && orders e me v p.loc p.leaf) || s.scoreboarded p.loc n ||
          !s.answers p.loc then (s.holdFor p.loc, .wait)
      else
        match s.settleU.consume p.loc (pteKey p.leaf) with
        | (s, false) => (s, .trap .poison v (7 * 256) k.i)
        | (s, true) =>
          let (s, v) := (s.noteRead b.core p.leaf p.loc).readWeak b.core p.loc n
          (s, .go (k.set h v).next))

/-- UPROBE (R397), suppressed in helpers (R403). -/
def execUprobe (a : BitVec 3) (z : BitVec 2) (i : BitVec 17) (s : State) : Out :=
  s.microOut (fun b t k s =>
    if (s.thread t).helper then (s, .go k.next)
    else
      let v := microAddr k a i
      match s.microCheck b t k true v (2 ^ z.toNat) with
      | (s, .error e) => (s, e)
      | (s, .ok p) =>
        let q : Probe := { va := BitVec.ofNat 64 v, size := z.toNat, pa := p.loc, leaf := BitVec.ofNat 64 p.leaf }
        (s, .go { k with probes := k.probes ++ [q] }.next))

/-- UST (R397), suppressed in helpers (R403): its probe slot has its translation, or it is checked here. -/
def execUst (h a : BitVec 3) (z : BitVec 2) (i : BitVec 17) (s : State) : Out :=
  s.microOut (fun b t k s =>
    if (s.thread t).helper then (s, .go k.next)
    else
      let v := microAddr k a i
      let n := 2 ^ z.toNat
      let slot := k.probes.find? (fun q => q.va.toNat == v && q.size == z.toNat)
      match (match slot with
        | some q => (s, .ok { leaf := q.leaf.toNat, loc := q.pa })
        | none => s.microCheck b t k true v n : State × Except MEnd Passed) with
      | (s, .error e) => (s, e)
      | (s, .ok p) =>
        let o : Op :=
          { id := s.nextId, instr := .ust h a z i, hints := Hints.none, word := b.word, core := b.core, ctx := s.ctxOf t,
            runPc := b.runPc, pc := b.pc, stage := 0, lanes := [] }
        let s : State := { s with nextId := s.nextId + 1 }
        (s.addAccess o (addrLane t v) p { kind := .store, size := n, x := BitVec.ofNat 64 (k.get h) }, .go k.next))

/-! ## Control micro-ops (R398) -/

/-- UBR. -/
def execUbr (a : BitVec 3) (c : BitVec 2) (o : BitVec 10) (s : State) : Out :=
  s.microOut (fun _ _ k s =>
    let taken := c == 0 || (c == 1 && k.get a == 0) || (c == 2 && k.get a != 0)
    (s, .go (if taken then k.goto (k.i + o.toNat) else k.next)))
/-- ULOOP. -/
def execUloop (a : BitVec 3) (m : BitVec 4) (l : BitVec 5) (s : State) : Out :=
  s.microOut (fun _ _ k s =>
    let n := k.get a
    if n > m.toNat then (s, .trap .xopLimit k.i n k.i)
    else if n = 0 then (s, .go { k with i := k.i + 1 + l.toNat })
    else (s, .go { k with loops := n, body := k.i + 1, bodyLen := l.toNat, i := k.i + 1 }))
/-- UEND. -/
def execUend (s : State) : Out := s.microOut (fun _ _ _ s => (s, .done))
/-- UTRAP: it resumes at the next micro-op (R401). -/
def execUtrap (c : BitVec 16) (s : State) : Out :=
  s.microOut (fun _ _ k s => (s, .trap .user c.toNat 1 (k.i + 1)))

/-! ## The check at CSLOAD (R396–R399) -/

/-- An XOP-table entry with its words. -/
structure Seq where
  index : Nat
  words : List Word
  deriving DecidableEq, Repr

/-- The operand field that a micro-op reaches: field, OFF, WID 2, and whether it reads (R395). -/
def fieldAccess : Instr → Option (Nat × Nat × Bool × Bool)
  | .urdv _ s o w => some (s.toNat, o.toNat, w == 2#2, true)
  | .uwrv _ o w => some (0, o.toNat, w == 2#2, false)
  | _ => none

/-- Two .W64 accesses of one field use offsets of both parities (R396). -/
def parityClash (i j : Instr) : Bool :=
  match fieldAccess i, fieldAccess j with
  | some (f, o, true, _), some (g, p, true, _) => f == g && o % 2 != p % 2
  | _, _ => false

/-- Index of the first micro-op that R393–R398 refuse for its fields. -/
def formatFail (n : Nat) (seen : List Instr) : List Word → Option Nat
  | [] => none
  | w :: r =>
    match decodeMicro w with
    | none => some n
    | some i => if seen.any (parityClash i) then some n else formatFail (n + 1) (seen ++ [i]) r

/-- Features that a micro-op needs: FP64 and STOCH_ROUND (R394). -/
def microFeats : Instr → List Nat
  | .ufadd _ _ _ t r _ | .ufsub _ _ _ t r _ | .ufmul _ _ _ t r _ | .ufma _ _ _ t r _ =>
    (if t = 0#4 then [1] else []) ++ (if r = 4#3 then [13] else [])
  | .ufmin _ _ _ t | .ufmax _ _ _ t => if t = 0#4 then [1] else []
  | .ucvt _ _ t r _ u => (if t = 0#4 || u = 0#4 then [1] else []) ++ (if r = 4#3 then [13] else [])
  | .ucmp _ _ _ t _ => if t = 0#4 then [1] else []
  | _ => []

/-- A memory micro-op (R397). -/
def isMemMicro : Instr → Bool
  | .uld .. | .uprobe .. | .ust .. => true
  | _ => false
/-- What no loop body may hold (R398). -/
def bodyBan (i : Instr) : Bool :=
  isMemMicro i || match i with
    | .uloop .. | .uend | .utrap _ => true
    | _ => false
/-- The temporary that a micro-op writes (R394, R395, R397). -/
def tempWritten : Instr → Option (BitVec 3)
  | .uadd d _ _ | .usub d _ _ | .uand d _ _ | .uor d _ _ | .uxor d _ _ | .ushl d _ _ | .ushr d _ _ | .usar d _ _
  | .umul d _ _ | .uaddi d _ _ | .umovi d _ | .uhi d _ _ | .ufadd d _ _ _ _ _ | .ufsub d _ _ _ _ _
  | .ufmul d _ _ _ _ _ | .ufma d _ _ _ _ _ | .ufmin d _ _ _ | .ufmax d _ _ _ | .ucvt d _ _ _ _ _ | .ucmp d _ _ _ _
  | .urdv d _ _ _ | .urdk d _ | .uld d _ _ _ => some d
  | _ => none

/-- Bodies of a sequence: first micro-op and the one after the last. -/
def bodiesOf (l : List Instr) : List (Nat × Nat) :=
  (l.mapIdx (fun i x => match x with
    | .uloop _ _ n => [(i + 1, i + 1 + n.toNat)]
    | _ => [])).flatten

/-- Where a path goes on after micro-op `i`; `whole` takes a ULOOP and its body as one (R399). -/
def succOf (whole : Bool) (i : Nat) : Instr → List Nat
  | .uloop _ _ n => if whole then [i + 1 + n.toNat] else [i + 1, i + 1 + n.toNat]
  | .ubr _ c o => if c = 0#2 then [i + o.toNat] else [i + 1, i + o.toNat]
  | .uend | .utrap _ => []
  | _ => [i + 1]

/-- Values that reach each micro-op from the first, along every path: targets only lie ahead (R398). -/
def flowPass {α : Type} (l : List Instr) (whole : Bool) (init : α) (out : Nat → Instr → α → α) (join : α → α → α) : Tab α :=
  (l.zipIdx).foldl (fun (t : Tab α) p =>
    match t.find p.2 with
    | none => t
    | some v =>
      let w := out p.2 p.1 v
      (succOf whole p.2 p.1).foldl (fun t j => t.put j (match t.find j with | some u => join u w | none => w)) t) [(0, init)]

/-- Index of the first micro-op for which a test holds. -/
def firstFail (l : List Instr) (bad : Nat → Instr → Bool) : Option Nat :=
  ((l.zipIdx).find? (fun p => bad p.2 p.1)).map (·.2)

/-- FLOW (R398, R399). -/
def flowFail (l : List Instr) : Option Nat :=
  let n := l.length
  let bodies := bodiesOf l
  let inBody := fun i => bodies.any (fun b => b.1 ≤ i && i < b.2)
  let reach := flowPass l false () (fun _ _ _ => ()) (fun _ _ => ())
  firstFail l (fun i x =>
    (match x with
      | .ubr _ _ o =>
        i + o.toNat ≥ n || (!inBody i && inBody (i + o.toNat)) ||
          bodies.any (fun b => b.1 ≤ i && i < b.2 && b.2 < i + o.toNat)
      | .uloop _ _ k => i + 1 + k.toNat > n
      | _ => false) ||
    (inBody i && bodyBan x) ||
    ((reach.find i).isSome && (succOf false i x).any (fun j => j ≥ n)))

/-- Micro-ops that a micro-op counts for on a path: a ULOOP with its body LEN × MAXC (R399). -/
def pathCost : Instr → Nat
  | .uloop _ m n => 1 + n.toNat * m.toNat
  | _ => 1
/-- LENGTH (R399). -/
def lengthFail (l : List Instr) : Option Nat :=
  let t := flowPass l true 0 (fun _ x v => v + pathCost x) max
  firstFail l (fun i x => match t.find i with | some v => v + pathCost x > 96 | none => false)
/-- MEMORY (R399). -/
def memoryFail (l : List Instr) : Option Nat :=
  let t := flowPass l true 0 (fun _ x v => v + b2n (isMemMicro x)) max
  firstFail l (fun i x => match t.find i with | some v => v + b2n (isMemMicro x) > 4 | none => false)

/-- Probes that hold after a micro-op: its A, SIZE and DISP, until h[A] is written (R399). -/
def probesAfter (_ : Nat) (x : Instr) (l : List (BitVec 3 × BitVec 2 × BitVec 17)) : List (BitVec 3 × BitVec 2 × BitVec 17) :=
  let l := match tempWritten x with
    | some d => l.filter (fun p => p.1 != d)
    | none => l
  match x with
  | .uprobe a z i => (a, z, i) :: l
  | _ => l
/-- PROBE (R399). -/
def probeFail (l : List Instr) : Option Nat :=
  let t := flowPass l false [] probesAfter (fun u v => u.filter v.contains)
  firstFail l (fun i x => match x with
    | .ust _ a z d => match t.find i with | some v => !v.contains (a, z, d) | none => false
    | _ => false)

/-- The first sequence, in table order, that a check refuses: its XOP index and the micro-op's. -/
def seqFail (l : List (Nat × List Instr)) (f : List Instr → Option Nat) : Option (Nat × Nat) :=
  l.findSome? (fun p => (f p.2).map (fun i => (p.1, i)))

/-- SIZE (R399): the first word past 1,024. -/
def sizeFail (n : Nat) : List Seq → Option (Nat × Nat)
  | [] => none
  | x :: r => if n + x.words.length > 1024 then some (x.index, 1024 - n) else sizeFail (n + x.words.length) r

/-- A status word of CSLOAD (R405). -/
def csWord (code : Nat) (w : Option (Nat × Nat)) : Option Nat := w.map (fun p => p.1 * 2 ^ 18 + p.2 * 2 ^ 8 + code)

/-- The first check of R399 that an image fails, as its status word; `has` says which features the session accepts. -/
def csCheck (has : Nat → Bool) (l : List Seq) : Option Nat :=
  match l.findSome? (fun x => (formatFail 0 [] x.words).map (fun i => (x.index, i))) with
  | some p => csWord 2 (some p)
  | none =>
    let d := l.map (fun x => (x.index, x.words.filterMap decodeMicro))
    (csWord 3 (seqFail d (fun l => firstFail l (fun _ x => !(microFeats x).all has)))).or
    ((csWord 4 (sizeFail 0 l)).or ((csWord 5 (seqFail d flowFail)).or ((csWord 6 (seqFail d lengthFail)).or
    ((csWord 7 (seqFail d memoryFail)).or (csWord 8 (seqFail d probeFail))))))

/-! ## The record that CSLOAD installs (R391, R405) -/

/-- Use that the micro-ops of a sequence make of field `f` (R391). -/
def useOfField (l : List Instr) (f : Nat) : FieldUse :=
  l.foldl (fun u i => match fieldAccess i with
    | some (g, o, wide, rd) =>
      if g != f then u
      else
        { reads := u.reads || rd, writes := u.writes || !rd, top := max u.top (o + b2n wide),
          parity := if wide then some (o % 2) else u.parity, off := if rd then max u.off o else u.off }
    | none => u) FieldUse.reset

/-- The binding table of the sequences, packed from index `n` (R391, R405). -/
def bindsOf (n : Nat) : List Seq → Tab KBind → Tab KBind
  | [], t => t
  | x :: r, t =>
    let l := x.words.filterMap decodeMicro
    bindsOf (n + x.words.length) r (t.put x.index
      { start := n, len := x.words.length, d := useOfField l 0, a := useOfField l 1, b := useOfField l 2, c := useOfField l 3 })

/-- Some thread of a context is inside a sequence, or holds a continuation (R405). -/
def State.xopBusy (s : State) (c : Nat) : Bool :=
  s.threads.any (fun p => p.2.xop.isSome && p.2.tstate != .exited && s.ctxOf p.1 == c) ||
  s.clusters.any (fun p => p.2.members.any (fun m =>
    (m.savedTeam.map (·.bind.ctx)) == some c && m.savedThreads.any (fun q => q.2.xop.isSome)))

/-- Installs an image and its bindings: every bank that serves the context is to be filled again (R392, R405). -/
def State.installImage (s : State) (c : Nat) (image : List Word) (binds : Tab KBind) : State :=
  let s := s.modCtx c (fun x => { x with kImage := image, kBinds := binds })
  { s with cores := s.cores.map (fun p => (p.1, { p.2 with banks := p.2.banks.filter (fun q => q.2 != c) })) }

/-- A core has still to fill the bank of a context (R392). -/
def State.bankStale (s : State) (c : Nat) : Bool :=
  s.cores.any (fun p => p.2.ctxs.contains c && !s.bankReady p.1 c)

/-- Number that a thread waits for until the banks of context `c` have been filled (R405). -/
def bankToken (c : Nat) : Nat := 2 ^ 50 + c

/-- The thread of a CSLOAD that has installed an image is not ready until every bank has been refilled (R405). -/
def State.csDone (s : State) (t st : Nat) (c : Nat) : State :=
  if st = 0 && s.bankStale c then s.modThread t (fun x => { x with waitFor := .result (bankToken c) }) else s

/-- Words of the cstore section that an entry names. -/
def seqOf (x : Nat) (e : XopEntry) : Seq :=
  { index := e.index, words := (List.range e.count).map (fun i => BitVec.ofNat 32 (bfield x (e.off + 4 * i) 4)) }

/-- CSLOAD of one thread (R399, R404, R405). -/
def State.csLoad (s : State) (o : Op) (l : Lane) : State × RcEnd :=
  let a := l.addr.toNat
  let sup := s.isSup l.tid
  if a % 4096 ≠ 0 then (s, .ok 2)
  else
    match s.readObj o.core o.ctx sup a with
    | (s, .error e) => (s, .error e)
    | (s, .ok none) => (s, .ok 2)
    | (s, .ok (some obj)) =>
      match s.kernelsOk o.core o.ctx sup a obj obj.kernels with
      | (s, .error e) => (s, .error e)
      | (s, .ok false) => (s, .ok 2)
      | (s, .ok true) =>
        match s.readXops o.core o.ctx sup a obj with
        | (s, .error e) => (s, .error e)
        | (s, .ok none) => (s, .ok 2)
        | (s, .ok (some es)) =>
          let sec := (obj.section? 4).getD { kind := 4, off := 0, size := 0 }
          match s.readSpan o.core o.ctx sup (a + sec.off) sec.size with
          | (s, .error e) => (s, .error e)
          | (s, .ok x) =>
            let seqs := es.map (seqOf x)
            match csCheck (s.feature o.ctx) seqs with
            | some st => (s, .ok st)
            | none =>
              if s.xopBusy o.ctx then (s, .ok 1)
              else (s.installImage o.ctx (seqs.flatMap (·.words)) (bindsOf 0 seqs []), .ok 0)

/-- CSLOAD once its reads may be made (R404). -/
def State.endCsload (s : State) (o : Op) (ls : List Lane) : State :=
  s.runRequests o ls false (fun s l => s.csLoad o l)
    (fun s l st => (s.status o.instr o.hints l.tid st).csDone l.tid st o.ctx)

/-- CSLOAD (R404). -/
def execCsload (d a : BitVec 7) (n : Bool) (s : State) : Out :=
  s.memOut (.csload d a n) false (fun s b t => addrLane t (s.operand b.hints t (useAddr a)))

/-- CSLOAD.CLEAR (R404, R405). -/
def execCsloadClear (d : BitVec 7) (n : Bool) (s : State) : Out :=
  s.issueWord (.csloadClear d n) (fun b act s =>
    (sortBy (fun x y => decide (x ≤ y)) act).foldl (fun s t =>
      let c := s.ctxOf t
      if s.xopBusy c then s.status (.csloadClear d n) b.hints t 1
      else (s.installImage c [] []).status (.csloadClear d n) b.hints t 0) s)

/-- CONTROL_STORE_BANK_FILL of the core that the subject names: the bank of the position in `a` holds the image of the
position's context, whose XOPs and CSLOAD go on (R392, R405). -/
def execControlStoreBankFill (s : State) : Out :=
  let core := s.subj.id
  let i := s.subj.a
  let c := ((s.core core).ctxs[i]?).getD 0xFF
  .next (if c == 0xFF || s.bankReady core c then s
    else
      let s := s.modCore core (fun x => { x with banks := x.banks.put i c })
      let stale := s.bankStale c
      let threads := s.threads.map (fun p =>
        if (p.2.waitFor == .bankFill && coreOf p.1 == core && s.ctxOf p.1 == c) ||
            (!stale && p.2.waitFor == .result (bankToken c)) then (p.1, { p.2 with waitFor := .nothing }) else p)
      { s with threads := threads })

end Sys2Proof.Machine
end

