-- ==== Sys2Proof/Machine/System.lean ====
section
/-! DEFINITION. Major 0x36: the traps that software asks for, the return from every trap, the CSRs and the supervisor's
instructions on replay sets (20 R428–R437). LAUNCH and SENDAM are in Launch and Messages. -/
namespace Sys2Proof.Machine

/-- Threads in lane order. -/
def inLanes (ts : List Nat) : List Nat := sortBy (fun a b => decide (laneOf a ≤ laneOf b)) ts

/-! ## Traps (R430) -/

/-- The argument block of a TRAP: registers va to va + 7, or zeros (R425, R428). -/
def State.trapArgs (s : State) (t : Nat) (a : BitVec 7) : List Word :=
  if a.toNat < 120 then s.readRegs t a.toNat 8 else []

/-- TRAP: one request for each thread, with its code and arguments (R426, R430). -/
def execTrap (d a b : BitVec 7) (n : Bool) (s : State) : Out :=
  s.issueWord (.trap d a b n) (fun w act s =>
    (inLanes act).foldl (fun s t =>
      let code := s.operand w.hints t (useW b 32)
      s.trapAt w [t] .user (fun _ => { info0 := code, args := s.trapArgs t a, dst := d })) s)

/-- BPT (R430). -/
def execBpt (b : BitVec 7) (s : State) : Out :=
  s.issueWord (.bpt b) (fun w act s0 =>
    s0.trapAt w act .break_ (fun t => { info0 := s0.operand w.hints t (useW b 32) }))

/-! ## SVRET (R431) -/

/-- The action of a code of XMOD. -/
def SvAct.ofCode (n : Nat) : SvAct := match n with | 0 => .next | 1 => .retry | 2 => .exit | _ => .goto_

/-- The request in a slot of a mailbox. -/
def State.requestIn (s : State) (c core slot : Nat) : Option Request :=
  if slot = 0 then none else s.requests.find? (fun r => r.ctx == c && r.core == core && r.slot == slot)

/-- Frees a request's slot: its FULL_MASK bit is cleared, and a trap that waits for a slot takes it (R426, R431). -/
def State.freeRequest (s : State) (r : Request) : State :=
  let s : State := { s with requests := s.requests.filter (· != r) }
  (s.arenaWrite r.ctx (s.mailbox r.ctx r.core + 8) 4 (s.fullMask r.ctx r.core)).postPending r.ctx r.core

/-- SVRET of one supervisor thread: the status, and every thread of a trap request returned; an event, which stops no thread,
takes .NEXT alone and is only freed (R431). -/
def State.svret (s : State) (c core slot act val tgt : Nat) : State × Nat :=
  match s.requestIn c core slot with
  | none => (s, 1)
  | some r =>
    if r.event && act != 0 then (s, 2)
    else if act == 3 && (tgt % 4 != 0 || tgt / 2 ^ 57 != 0) then (s, 2)
    else
      let s := if r.event then s else (lanesOf r.lanes).foldl (fun s l =>
        s.returnThread r l (SvAct.ofCode act) (BitVec.ofNat 32 val) (BitVec.ofNat 57 tgt)) s
      (s.freeRequest r, 0)

/-- SVRET: a release of the thread's earlier accesses, so it waits for them; then in lane order (R431).
The supervisor slot may change instance (R119). -/
def execSvret (d a b : BitVec 7) (n : Bool) (s : State) : Out :=
  s.issueWord (.svret d a b n) (fun w act s =>
    let ts := inLanes act
    let go := ts.takeWhile (fun t => !s.accs.any (fun e => e.tid == t))
    let s := go.foldl (fun s t =>
      let l := s.operands w.hints t (formOf w.hints (.svret d a b n))
      let (s, st) := s.svret (s.ctxOf t) w.core (arg l 0) (hXmod w.hints % 4) (arg l 1) (arg l 2)
      s.status (.svret d a b n) w.hints t st) s
    let s := if go.isEmpty then s else s.modCore w.core (fun x => { x with svYield := true })
    (ts.drop go.length).foldl (fun s t => s.suspendAt w t .fence) s)

/-! ## CSRs (R435) -/

/-- What a CSR access ends in. -/
inductive CsrEnd where
  | value (v : Nat)
  | trap (c : Cause)
  deriving DecidableEq, Repr

/-- CSR `n` read by thread `t`. -/
def State.csrRead (s : State) (core t n : Nat) : CsrEnd :=
  let c := s.ctxOf t
  let x := s.ctx c
  let m := s.team (s.teamOf t)
  let sup := s.isSup t
  let priv := fun (v : Nat) => if sup then CsrEnd.value v else .trap .priv
  match n with
  | 0x000 => .value (if sup then 0 else m.rq.toNat + m.dn.toNat * 2 ^ 32)
  | 0x001 => .value x.amNack.toNat
  | 0x002 => .value x.fpstat.toNat
  | 0x100 => priv (s.mailbox c core)
  | 0x101 => priv (s.rplBase c)
  | 0x102 => priv x.rplInForce
  | 0x103 => priv (x.svLost.at' 0 core).toNat
  | 0x104 => priv x.fqTail.toNat
  | 0x105 => priv 0
  | _ => .trap .illegal

/-- CSRR. -/
def execCsrr (d a : BitVec 7) (s : State) : Out :=
  s.issueWord (.csrr d a) (fun w act s0 =>
    let num := fun t => s0.operand w.hints t (useW a 32)
    let r := (inLanes act).map (fun t => (t, s0.csrRead w.core t (num t)))
    let s := r.foldl (fun s p => match p.2 with
      | .value v => s.writeDst p.1 d 64 v
      | .trap _ => s) s0
    [Cause.illegal, .priv].foldl (fun s c =>
      s.trapAt w ((r.filter (fun p => p.2 == .trap c)).map (·.1)) c (fun t => { info0 := num t })) s)

/-- A write of CSR `n` by thread `t`: its cause, or the state after it. -/
def State.csrWrite (s : State) (core t n v : Nat) : Except Cause State :=
  let c := s.ctxOf t
  let sup := s.isSup t
  if n ≤ 2 then .error .illegal
  else if 0x100 ≤ n && n ≤ 0x105 then
    if !sup then .error .priv
    else if n = 0x103 then
      .ok (s.modCtx c (fun x => { x with svLost := x.svLost.put core (BitVec.ofNat 64 v) }))
    else if n = 0x105 then .ok (s.raiseEvent (s.ownerOf c) 1 c v)
    else .error .illegal
  else .error .illegal

/-- CSRW. -/
def execCsrw (a b : BitVec 7) (s : State) : Out :=
  s.issueWord (.csrw a b) (fun w act s0 =>
    let num := fun t => s0.operand w.hints t (useW a 32)
    let (s, fails) := (inLanes act).foldl (fun (p : State × List (Nat × Cause)) t =>
      match p.1.csrWrite w.core t (num t) (s0.operand w.hints t (useX b 64 [124, 126, 127])) with
      | .ok s => (s, p.2)
      | .error c => (p.1, p.2 ++ [(t, c)])) (s0, [])
    [Cause.illegal, .priv].foldl (fun s c =>
      s.trapAt w ((fails.filter (fun p => p.2 == c)).map (·.1)) c (fun t => { info0 := num t })) s)

/-! ## Replay sets (R436, R437) -/

/-- RPLGET. -/
def execRplget (d a : BitVec 7) (s : State) : Out :=
  s.issueWord (.rplget d a) (fun w act s =>
    act.foldl (fun s t =>
      let set := (s.requestIn (s.ctxOf t) w.core (s.operand w.hints t (useW a 32))).bind (fun r => r.hasSet.bind s.setOf)
      s.writeDst t d 64 ((set.map (fun x => x.addr.toNat)).getD 0)) s)

/-- What the checks of a set come to when they are made again. -/
inductive Recheck where
  | pass | park | trap (c : Cause) | wait
  deriving DecidableEq, Repr

/-- The worse of two outcomes: one that is still to come, a trap, then a reason. -/
def Recheck.and (a b : Recheck) : Recheck :=
  match a with
  | .wait => .wait
  | .trap c => (match b with | .wait => .wait | _ => .trap c)
  | .park => (match b with | .pass => .park | _ => b)
  | .pass => b

/-- The outcome of a check. -/
def recheckOf {α : Type} : Except Fail α → Recheck
  | .ok _ => .pass
  | .error (.park _) => .park
  | .error (.trap c) => .trap c
  | .error .wait => .wait

/-- Makes again the checks that parked a set, with its owner's rights: those of its entries, or of the pages that stopped
it (R437). -/
def State.recheckSet (s : State) (x : RSet) : State × Recheck :=
  match x.unit with
  | .lane | .store | .atomic =>
    let o : Op :=
      { id := 0, instr := x.instr, hints := x.hints, word := x.word, core := x.core, ctx := x.ctx, runPc := x.pc, pc := x.pc,
        stage := 0, lanes := x.lanes }
    let (s, rs) := s.checkLanes o (x.lanes.filter (fun l => x.mask.getLsbD (laneOf l.tid)))
    (s, (rs.map (fun p => recheckOf p.2)).foldl Recheck.and .pass)
  | u =>
    x.pages.foldl (fun (p : State × Recheck) q =>
      let sup := u != .copy && u != .xop && s.isSup (threadKey x.gid q.lane)
      let mode : Mode := if q.fetch then .fetch else if q.write then .write else .read
      let (s, r) := p.1.check x.core x.ctx sup mode q.page
      (s, p.2.and (recheckOf r))) (s, .pass)

/-- RPLRUN of one thread (R437). -/
def State.rplrun (s : State) (o : Op) (a : Nat) : State × RcEnd :=
  match s.sets.find? (fun x => x.ctx == o.ctx && x.addr.toNat == a && x.state == .parked) with
  | none => (s, .ok 3)
  | some x =>
    match s.recheckSet x with
    | (s, .pass) => ((s.modSet x.id (fun y => { y with batch := 0 })).armSet x.id, .ok 0)
    | (s, .trap c) => (s, .ok (2 + 256 * c.code))
    | (s, .park) => (s, .ok 1)
    | (s, .wait) => (s, .error .wait)

/-- RPLRUN once its checks may be made: in lane order (R437). -/
def State.endRplrun (s : State) (o : Op) (ls : List Lane) : State :=
  s.runRequests o ls false (fun s l => s.rplrun o l.addr.toNat) (fun s l st => s.status o.instr o.hints l.tid st)

/-- RPLRUN. -/
def execRplrun (d a : BitVec 7) (n : Bool) (s : State) : Out :=
  s.memOut (.rplrun d a n) false (fun s b t => addrLane t (s.operand b.hints t (useAddr a)))

end Sys2Proof.Machine
end

