-- ==== Sys2Proof/Machine/Launch.lean ====
section
/-! DEFINITION. LAUNCH, the launch queues and the stamps of a launch (04 R66–R74; 05 R85–R89; 20 R433; 22 R453–R455). -/
namespace Sys2Proof.Machine

/-- 10 ms of wall-clock time (R4, R89, R91). -/
def tenMs : Nat := 10000 * oneUs

/-! ## The launch parameter block (R66) -/

/-- Fields of an LPB, before its checks. -/
structure Lpb where
  format : Nat
  ctx : Nat
  kernel : Nat
  groups : Nat
  energy : Nat
  code : Nat
  gx : Nat
  gy : Nat
  gz : Nat
  w : Nat
  h : Nat
  order : Nat
  swizzle : Nat
  startAddr : Nat
  startValue : Nat
  doneAddr : Nat
  doneTag : Nat
  dieSel : Nat
  prio : Nat
  kargs : List DWord
  reserved : Nat
  deriving DecidableEq, Repr

/-- The block as its 32 words give it (R66). -/
def lpbOf (ws : List DWord) : Lpb :=
  let x := (ws.mapIdx (fun i w => w.toNat * 2 ^ (64 * i))).foldl (· + ·) 0
  { format := bfield x 0x00 2, ctx := bfield x 0x02 1, kernel := bfield x 0x04 2, groups := bfield x 0x06 1,
    energy := bfield x 0x07 1, code := bfield x 0x08 8, gx := bfield x 0x10 4, gy := bfield x 0x14 4, gz := bfield x 0x18 4,
    w := bfield x 0x1C 1, h := bfield x 0x1D 1, order := bfield x 0x1E 1, swizzle := bfield x 0x1F 1,
    startAddr := bfield x 0x20 8, startValue := bfield x 0x28 8, doneAddr := bfield x 0x30 8, doneTag := bfield x 0x38 4,
    dieSel := bfield x 0x3C 1, prio := bfield x 0x3D 1, kargs := (ws.drop 8).take 8,
    reserved := bfield x 0x03 1 + bfield x 0x3E 2 + bfield x 0x80 128 }

/-- Weight of an energy class (R72). -/
def weightOf (cls : Nat) : Nat := [1, 2, 3, 4, 6, 8, 12, 16].getD cls 16

/-- The accepted word of a context's session holds every feature of a word (R23). -/
def State.featuresOk (s : State) (c features : Nat) : Bool :=
  let f := s.func (s.ownerOf c)
  f.session && Nat.land features f.accept.toNat == features

/-- Clusters of a launch. -/
def Launch.total (l : Launch) : Nat := l.gx * l.gy * l.gz

/-- Dies that a DIE_SEL allows. -/
def diesOf (sel : Nat) : List Nat := if sel = 1 then [0] else if sel = 2 then [1] else [0, 1]

/-! ## The checks of R67 -/

/-- Checks 2 to 11 that need no more than the LPB and the kernel, in their order: the status code of the first that
fails, 0 when none does (R67, R85). `obj` is what check 4 read; none when it failed. -/
def State.lpbStatus (s : State) (c : Nat) (p : Lpb) (obj : Option (CodeObj × Kernel)) : Nat :=
  if p.format ≠ 1 || p.reserved ≠ 0 then 2
  else if p.ctx ≠ c then 3
  else
    match obj with
    | none => 4
    | some (o, k) =>
      if !s.featuresOk c (Nat.lor o.features (if o.xops > 0 then 2 ^ 9 else 0)) then 5
      else if p.groups > 32 || (p.groups = 0 && k.teamGroups = 0) ||
          (p.groups ≠ 0 && k.teamGroups ≠ 0 && p.groups ≠ k.teamGroups) then 6
      else if p.w < 1 || p.w > 12 || p.h < 1 || p.h > 12 || p.w * p.h > 12 then 7
      else if p.gx < 1 || p.gy < 1 || p.gz < 1 || p.gx > 16777216 || p.gy > 16777216 || p.gz > 16777216 ||
          p.gx * p.gy * p.gz > 2 ^ 40 then 8
      else if p.order > 3 || p.swizzle < 1 || p.swizzle > 64 || (p.order ≥ 2 && !([1, 2, 4, 8, 16, 32, 64] : List Nat).contains p.swizzle)
      then 9
      else if p.energy > 7 || p.prio > 7 || p.dieSel > 2 then 10
      else if p.startAddr % 8 ≠ 0 || p.doneAddr % 8 ≠ 0 then 11
      else 0

/-- Check 4 of R67: the code object and the kernel that the LPB names, read with user rights; `none` where it fails. A
read that fails with PERMISSION fails the check (R433). DESIGN CHOICE: a named kernel entry that breaks R37 fails it too,
and the other entries are not read (log 84). -/
def State.launchCode (s : State) (core c : Nat) (p : Lpb) : State × Except WStop (Option (CodeObj × Kernel)) :=
  if p.format ≠ 1 || p.reserved ≠ 0 || p.ctx ≠ c || p.code % 4096 ≠ 0 then (s, .ok none)
  else
    let bad := fun (e : WStop) => match e with
      | .fail (.trap .permission) _ _ => true
      | _ => false
    match s.readObj core c false p.code with
    | (s, .error e) => (s, if bad e then .ok none else .error e)
    | (s, .ok none) => (s, .ok none)
    | (s, .ok (some o)) =>
      if p.kernel ≥ o.kernels then (s, .ok none)
      else
        match s.readKernel core c false p.code o p.kernel with
        | (s, .error e) => (s, if bad e then .ok none else .error e)
        | (s, .ok k) => (s, .ok (k.map (fun k => (o, k))))

/-- Some core that a DIE_SEL allows has a budget for a team of a weight (R85). -/
def State.weightFits (s : State) (sel weight : Nat) : Bool :=
  (List.range coreCount).any (fun c => (diesOf sel).contains (dieOf c) && decide (weight ≤ (s.core c).budget))

/-! ## Stamps (R67, R74, R454, R455) -/

/-- Batch of a context in which Loess names a page. -/
def State.batchOf (s : State) (c page : Nat) : Option Nat :=
  (s.batches.find? (fun b => b.ctx == c && b.entries.any (fun e => e.page == page))).map (·.id)

/-- Writes a completion stamp with the user rights of a context, a strong store and full release at .SYS: what its check
comes to (R74, R274, R454). A port that does not answer or a flip of the page holds it (R19, R223). -/
def State.writeStamp (s : State) (die c addr word : Nat) : State × Except WStop Unit :=
  let core := die * coresPerDie
  match s.check core c false .write addr with
  | (s, .error .wait) => (s, .error .wait)
  | (s, .error f) => (s, .error (.fail f addr true))
  | (s, .ok p) =>
    if !s.answers p.loc then (s.holdFor p.loc, .error .wait)
    else
      let s := (s.settleU.keepStale core true c addr true p.loc).publish core c 6 none
      let s := (s.dirDrop p.loc 8).storeLeaf p.loc p.leaf (bytesOf 8 word)
      (s.notice p.loc 8, .ok ())

/-- The stamp of a launch that is rejected, if DONE_ADDR can be written: a reason is resolved through Loess, and the stamp
is written then (R67, R454). -/
def State.rejectStamp (s : State) (die c addr word : Nat) : State :=
  if addr = 0 || addr % 8 ≠ 0 then s
  else
    let later := fun (s : State) (b : Option Nat) =>
      { s with nextId := s.nextId + 1,
               rejected := s.rejected ++ [{ id := s.nextId, die := die, ctx := c, addr := addr, word := word, batch := b }] }
    match s.writeStamp die c addr word with
    | (s, .error (.fail (.park r) _ _)) =>
      let page := addr / 4096 * 4096
      let s := (s.loess die c page r true false).1
      later s (s.batchOf c page)
    | (s, .error .wait) => later s none
    | (s, _) => s

/-- A stamp of a rejected launch is tried again, once no batch holds its page. -/
def State.retryStamp (s : State) (j : RejStamp) : State :=
  if s.batches.any (fun b => some b.id == j.batch) then s
  else
    match s.writeStamp j.die j.ctx j.addr j.word with
    | (s, .error .wait) => s
    | (s, .error (.fail (.park r) _ _)) =>
      let page := j.addr / 4096 * 4096
      let s := (s.loess j.die j.ctx page r true false).1
      { s with rejected := s.rejected.map (fun x => if x.id == j.id then { x with batch := s.batchOf j.ctx page } else x) }
    | (s, _) => { s with rejected := s.rejected.filter (fun x => x.id != j.id) }

/-- Frees a queue entry and what it counted (R86). -/
def State.freeLaunch (s : State) (q : Nat) : State :=
  { s with launches := s.launches.del q, outst := s.outst.filter (fun p => p.1 / 512 != q),
           monitors := s.monitors.filter (fun m => m.who != .launch q), decls := s.decls.filter (fun d => d.launch != q) }

/-- The conditions that a launch has raised reach CTX_FPSTAT (R201). -/
def State.mergeConds (s : State) (q : Nat) (l : Launch) : State :=
  (s.modCtx l.ctx (fun x => { x with fpstat := x.fpstat ||| l.conds })).modLaunch q (fun l => { l with conds := 0 })

/-- Ends a queue entry with START_FAULT (R73, R85). -/
def State.startFault (s : State) (q : Nat) : State :=
  match s.launches.find q with
  | none => s
  | some l => (s.freeLaunch q).rejectStamp (q / 1024) l.ctx l.doneAddr.toNat (l.doneTag.toNat * 2 ^ 32 + 32)

/-- Ends a queue entry with TORN_DOWN: its conditions are merged first, and the stamp is written if its page is mapped as
it stands (R85, R201). -/
def State.tearLaunch (s : State) (q : Nat) : State :=
  match s.launches.find q with
  | none => s
  | some l =>
    let s := (s.mergeConds q l).freeLaunch q
    let a := l.doneAddr.toNat
    if a = 0 || a % 8 ≠ 0 then s else (s.writeStamp (q / 1024) l.ctx a (l.doneTag.toNat * 2 ^ 32 + 33)).1

/-! ## Start conditions (R73, R87) -/

/-- Reads the start stamp of a WAITING entry: ELIGIBLE when it is reached, else a monitor is armed at its home; a page
that is not usable goes to Loess, and PERMISSION rejects the launch (R73, R87). -/
def State.readStart (s : State) (q : Nat) : State :=
  match s.launches.find q with
  | none => s
  | some l =>
    if l.state != .waiting || s.monitors.any (fun m => m.who == .launch q) then s
    else
      let a := l.startAddr.toNat
      match s.readWords (q / 1024 * coresPerDie) l.ctx false false [] 1 a with
      | (s, .error (.fail (.park r) _ _)) =>
        let page := a / 4096 * 4096
        let s := (s.loess (q / 1024) l.ctx page r false false).1
        s.modLaunch q (fun l => { l with stampFault := true, stampBatch := s.batchOf l.ctx page })
      | (s, .error .wait) => s
      | (s, .error _) => s.startFault q
      | (s, .ok _) =>
        let (s, r) := s.check (q / 1024 * coresPerDie) l.ctx false .read a
        match r with
        | .error _ => s
        | .ok p =>
        let s := s.modLaunch q (fun l => { l with stampFault := false, stampBatch := none })
        let m : Monitor :=
          { id := 0, who := .launch q, ctx := l.ctx, at_ := 0, pa := p.loc, size := 8, cc := 2, cmp := l.startValue,
            acq := true, scope := 6, dst := 126, place := .entry, hit := false }
        if s.monitorHolds m then
          s.modLaunch q (fun l => { l with state := .eligible, ageFrom := s.wall })
        else s.addMonitor m

/-- START_STAMP_OBSERVED of the entry that the subject names: a wait that a page had stopped reads its stamp again, and a
stamp that has been reached makes the launch eligible (R73, R87). -/
def execStartStampObserved (s : State) : Out :=
  .next (match s.launches.find s.subj.id with
    | some l =>
      if l.state != .waiting then s
      else
        match s.monitors.find? (fun m => m.who == .launch s.subj.id) with
        | some m => if s.settleU.monitorHolds m then s.settleU.fireMonitor m else s
        | none =>
          if l.stampFault && s.batches.any (fun b => some b.id == l.stampBatch) then s else s.readStart s.subj.id
    | none => s)

/-! ## LAUNCH (R85, R86, R433) -/

/-- The die whose queue a LAUNCH of a core enters (R86). -/
def queueDie (core dieSel : Nat) : Nat :=
  let die := dieOf core
  if dieSel = 0 || dieSel = 1 + die then die else 1 - die

/-- A LAUNCH of a core reaches its queue in a clk in which the queue has accepted one of a higher core: it is accepted in the
next (R87). -/
def State.outOfTurn (s : State) (core dieSel : Nat) : Bool :=
  match s.accepted.find (queueDie core dieSel) with
  | some (clk, last) => clk == s.clk && decide (core < last)
  | none => false

/-- Puts a launch whose checks have passed into a queue, if there is room (R86, R87). The entry's index is any free one
(log 30). -/
def State.accept (s : State) (core c : Nat) (p : Lpb) (k : Kernel) : State × Nat :=
  let die := queueDie core p.dieSel
  let mine := s.launches.filter (fun q => q.1 / 1024 == die)
  if mine.length ≥ 1024 || (s.launches.filter (fun q => q.2.ctx == c)).length ≥ 128 then (s, 18)
  else
    let free := (List.range 1024).filter (fun i => (s.launches.find (die * 1024 + i)).isNone)
    let (v, s) := s.free
    let i := free.getD (v.toNat % free.length) 0
    let l : Launch :=
      { state := .waiting, ctx := c, groups := if p.groups = 0 then k.teamGroups else p.groups,
        cls := max p.energy k.energy, code := BitVec.ofNat 64 p.code, gx := p.gx, gy := p.gy, gz := p.gz, w := p.w, h := p.h,
        order := p.order, swizzle := p.swizzle, startAddr := BitVec.ofNat 64 p.startAddr,
        startValue := BitVec.ofNat 64 p.startValue, doneAddr := BitVec.ofNat 64 p.doneAddr,
        doneTag := BitVec.ofNat 32 p.doneTag, dieSel := p.dieSel, prio := p.prio, kargs := p.kargs,
        entryPc := BitVec.ofNat 64 k.entry, regs := k.regs, scratch := k.scratch, next := 0, doneClusters := 0, served := [],
        seq := s.nextId, effPrio := p.prio, ageFrom := s.wall, poison := false, faulted := false, copyErr := false,
        deadlock := false, conds := 0, stampBatch := none, stampFault := false }
    let q := die * 1024 + i
    let s : State := { s with nextId := s.nextId + 1, launches := s.launches.put q l, accepted := s.accepted.put die (s.clk, core) }
    let s := if p.startAddr = 0 then s.modLaunch q (fun l => { l with state := .eligible }) else s.readStart q
    (s, die * 2 ^ 18 + i * 2 ^ 8)

/-- A request of one thread from the LPB on: its status (R67, R85, R433). DESIGN CHOICE: a text section
may lie at any OFFSET, and a fetch takes the aligned word (R36; log 83). -/
def State.launchReq (s : State) (o : Op) (l : Lane) : State × RcEnd :=
  let a := l.addr.toNat
  let c := o.ctx
  if !s.isSup l.tid && !(s.ctx c).launchUser then (s, .ok 16)
  else if a % 256 ≠ 0 then (s, .ok 1)
  else
    match s.walkRead o l.tid false 32 a with
    | (s, .error e) => (s, .error e)
    | (s, .ok ws) =>
      let p := lpbOf ws
      match s.launchCode o.core c p with
      | (s, .error e) => (s, .error e)
      | (s, .ok obj) =>
        let obj' := obj.map (fun q => (q.1, { q.2 with entry := (p.code + ((q.1.section? 1).map (·.off)).getD 0 + q.2.entry) % 2 ^ 64 }))
        let st := s.lpbStatus c p obj'
        let reject := fun (s : State) (st : Nat) =>
          (s.rejectStamp (dieOf o.core) c p.doneAddr (p.doneTag * 2 ^ 32 + st), (Except.ok st : RcEnd))
        match obj' with
        | none => reject s st
        | some (_, k) =>
          if st ≠ 0 then reject s st
          else if !s.weightFits p.dieSel (weightOf (max p.energy k.energy)) then reject s 19
          else if s.outOfTurn o.core p.dieSel then (s, .error .wait)
          else
            let (s, st) := s.accept o.core c p k
            (s, .ok st)

/-- LAUNCH once its reads may be made (R433). -/
def State.endLaunch (s : State) (o : Op) (ls : List Lane) : State :=
  s.runRequests o ls false (fun s l => s.launchReq o l) (fun s l st => s.status o.instr o.hints l.tid st)

/-- LAUNCH (R433), suppressed in helpers (R141, R429). -/
def execLaunch (d a : BitVec 7) (n : Bool) (s : State) : Out :=
  s.memOut (.launch d a n) true (fun s b t => addrLane t (s.operand b.hints t (useAddr a)))

/-! ## Priority (R89) -/

/-- PRIORITY_AGING of the entry that the subject names: 10 ms without a placement raise its effective priority. -/
def execPriorityAging (s : State) : Out :=
  .next (match s.launches.find s.subj.id with
    | some l =>
      if (l.state == .eligible || l.state == .placing) && l.effPrio < 7 && l.ageFrom + tenMs ≤ s.wall then
        s.modLaunch s.subj.id (fun l => { l with effPrio := l.effPrio + 1, ageFrom := l.ageFrom + tenMs })
      else s
    | none => s)

/-! ## Completion (R453, R454) -/

/-- The status word of a launch that ran (R455). -/
def Launch.statusWord (l : Launch) : Nat :=
  b2n l.poison * 2 ^ 15 + b2n l.faulted * 2 ^ 14 + b2n l.copyErr * 2 ^ 13 + b2n l.deadlock * 2 ^ 12

/-- A launch is complete (R453). What its completion stamp publishes has been performed, its loads among it (R274). -/
def State.complete (s : State) (q : Nat) (l : Launch) : Bool :=
  l.state == .placed && l.doneClusters == l.total &&
  s.outst.all (fun p => p.1 / 512 != q || (p.2.stores == 0 && p.2.rscratch == 0 && p.2.copies == 0 && p.2.messages == 0)) &&
  !s.accs.any (fun a => a.launch == some q)

/-- Steps 1 to 3 of a completion: replicas, L1 write-back, conditions (R220, R201, R454). -/
def State.settleLaunch (s : State) (q : Nat) (l : Launch) : State :=
  let lines := (s.replicas.filter (fun r => r.launch == q)).map (·.line)
  let ours := fun (d : DirEntry) => d.st == .o && l.served.any (fun c => dieOf c == d.die && d.sharers.getLsbD (c % coresPerDie))
  let s := { s with replicas := s.replicas.filter (fun r => !lines.contains r.line),
                    dir := s.dir.map (fun d => if ours d then { d with st := .s } else d) }
  s.mergeConds q l

/-- A completion stamp that cannot be written is reported to the supervisor, and the entry is freed (R454). -/
def State.stampFailed (s : State) (q : Nat) (l : Launch) (cause : Nat) : State :=
  (s.svEvent l.ctx (s.ctx l.ctx).home.toNat 3 0 0 l.doneAddr.toNat (l.statusWord + cause * 2 ^ 32)).freeLaunch q

/-- Numbers from here on name, for LAUNCH_COMPLETE, the stamps of rejected launches still to be written. -/
def rejBase : Nat := 2 ^ 40

/-- LAUNCH_COMPLETE of the entry that the subject names: the steps of R454. A stamp whose page is not usable waits for
Loess; so does that of a rejected launch (R67). -/
def execLaunchComplete (s : State) : Out :=
  let q := s.subj.id
  .next (match s.launches.find q with
    | some l =>
      if !s.complete q l || s.batches.any (fun b => some b.id == l.stampBatch) then s
      else
        let s := s.settleLaunch q l
        if l.doneAddr = 0 then s.freeLaunch q
        else
          let a := l.doneAddr.toNat
          match s.writeStamp (q / 1024) l.ctx a (l.doneTag.toNat * 2 ^ 32 + l.statusWord) with
          | (s, .ok ()) => s.freeLaunch q
          | (s, .error (.fail (.park r) _ _)) =>
            let page := a / 4096 * 4096
            let s := (s.loess (q / 1024) l.ctx page r true false).1
            s.modLaunch q (fun l => { l with stampBatch := s.batchOf l.ctx page })
          | (s, .error (.fail (.trap c) _ _)) => s.stampFailed q l c.code
          | (s, .error _) => s
    | none =>
      match s.rejected.find? (fun j => rejBase + j.id == q) with
      | some j => s.retryStamp j
      | none => s)

end Sys2Proof.Machine
end

