-- ==== Sys2Proof/Machine/Supervisor.lean ====
section
/-! DEFINITION. Supervisor instances and the image arena (05 R80; 06 R106–R108, R119–R121): the writes of CTX_LPAGE and
CTX_SVCODE, the check of the supervisor code, the creation of an instance, and pinning. -/
namespace Sys2Proof.Machine

/-- The recovery loader runs: of the registers, BOOT_STATE and the mailbox alone operate (R17). -/
def State.inLoader (s : State) : Bool := s.boot.state != 1 && s.boot.state != 2

/-- A function sees the registers of a context (R80). -/
def State.sees (s : State) (f c : Nat) : Bool := c < 64 && s.ownerOf c == f && !s.inLoader

/-! ## The check of the supervisor code (R121) -/

/-- What the check comes to: the entry point of kernel 0, a cause of SV_CODE_BAD, a page that Loess must bring, or an access
that has to wait. -/
inductive SvCheck where
  | ok (entry : Nat)
  | bad (cause : Nat)
  | park (page : Nat) (r : Reason)
  | wait
  deriving DecidableEq, Repr

/-- A read that did not end with its data. -/
def svStop : WStop → SvCheck
  | .fail (.park r) a _ => .park (a / 4096 * 4096) r
  | .fail (.trap _) _ _ => .bad 2
  | .format => .bad 3
  | .fail .wait _ _ | .wait => .wait

/-- The check that the device makes before it creates an instance, with the context's supervisor rights. -/
def State.svCheck (s : State) (core c : Nat) : State × SvCheck :=
  let a := (s.ctx c).svcode.toNat
  if a = 0 then (s, .bad 1)
  else if a % 4096 ≠ 0 then (s, .bad 3)
  else
    match s.readObj core c true a with
    | (s, .error e) => (s, svStop e)
    | (s, .ok none) => (s, .bad 3)
    | (s, .ok (some o)) =>
      match s.kernelsOk core c true a o o.kernels with
      | (s, .error e) => (s, svStop e)
      | (s, .ok false) => (s, .bad 3)
      | (s, .ok true) =>
        match (if o.xops = 0 then (s, .ok (some [])) else s.readXops core c true a o) with
        | (s, .error e) => (s, svStop e)
        | (s, .ok none) => (s, .bad 3)
        | (s, .ok (some _)) =>
          match s.readKernel core c true a o 0 with
          | (s, .error e) => (s, svStop e)
          | (s, .ok none) => (s, .bad 3)
          | (s, .ok (some k)) =>
            if k.scratch ≠ 0 || k.teamGroups > 1 then (s, .bad 3)
            else if !s.featuresOk c (Nat.lor o.features (if o.xops > 0 then 2 ^ 9 else 0)) then (s, .bad 4)
            else (s, .ok ((a + ((o.section? 1).map (·.off)).getD 0 + k.entry) % 2 ^ 57))

/-! ## Instances (R119) -/

/-- No halt holds a context, and none of its operations is in progress (R443, R444). -/
def State.ctxFree (s : State) (c : Nat) : Bool := !(s.ctx c).halted && (s.ctx c).runOp.isNone

/-- A core has an instance of a context. -/
def State.hasInstance (s : State) (core c : Nat) : Bool := (s.teams.find (teamKey core (128 + c))).isSome

/-- A thread that starts at an entry point with the register state of R69. -/
def Thread.start (pc : VA) (now : Nat) : Thread := { Thread.reset with pc := pc, runPc := pc, tstate := .run, age := now }

/-- Cluster record of a team that stands alone: an instance or a handler (R98, R119). -/
def soloKey (k : Nat) : Nat := 2 ^ 40 + k
/-- The record. -/
def soloCluster (k : Nat) (base : DWord) : Cluster :=
  { launch := 2 ^ 40, x := 0, y := 0, z := 0, die := dieOf (coreOfTeam k), origin := coreOfTeam k % coresPerDie, state := .runnable,
    boundSeq := 0, phases := 0, writeback := false, rebound := false,
    members := [{ core := coreOfTeam k, entry := entryOfTeam k, imageBase := base, scratchBase := 0, exited := false,
                  savedTeam := none, savedThreads := [], savedCopyCount := [], saveBase := 0 }] }

/-- Starts the 32 threads of group `i` of a team in a slot, every register line known-zero (R69, R110). -/
def State.startGroup (s : State) (k slot i : Nat) (pc : VA) : State :=
  let g := groupKey (coreOfTeam k) slot
  let s := s.setGroup g { Group.reset with live := true, team := k, index := i, kzero := BitVec.allOnes 120 }
  (threadsOfGroup g).foldl (fun s t => s.setThread t (Thread.start pc s.clk)) s

/-- k0–k5 of a new instance (R119). -/
def State.svArgs (s : State) (core c : Nat) : Tab DWord :=
  let x := s.ctx c
  [(0, x.lpage), (1, BitVec.ofNat 64 (s.mailbox c core)), (2, BitVec.ofNat 64 (s.rplBase c)), (3, x.image),
    (4, BitVec.ofNat 64 core), (5, x.htab)]

/-- Creates the instance of a context on a core at an entry point (R119). -/
def State.startInstance (s : State) (core c entry : Nat) : State :=
  let k := teamKey core (128 + c)
  let base := BitVec.ofNat 64 ((s.ctx c).image.toNat + 20480 * core)
  let b : Bind :=
    { Bind.reset with state := .runnable, ctx := c, groups := 1, origin := core % coresPerDie, w := 1, h := 1, regs := 120,
                      entryPc := BitVec.ofNat 64 entry, imageBase := base }
  let m : Team :=
    { Team.reset with kind := .supervisor, bind := b, code := (s.ctx c).svcode, cluster := soloKey k, k := s.svArgs core c }
  let s := s.modCtx c (fun x => { x with svPending := x.svPending.del core, svBad := x.svBad.filter (· != core) })
  let s := s.setTeam k m
  let s := { s with clusters := s.clusters.put (soloKey k) (soloCluster k base) }
  s.startGroup k (128 + c) 0 (BitVec.ofNat 57 entry)

/-- A check that failed: no instance, and SV_CODE_BAD to the owning function (R121). -/
def State.svCodeBad (s : State) (core c cause : Nat) : State :=
  (s.raiseEvent (s.ownerOf c) 4 c (core + cause * 512)).modCtx c (fun x =>
    { x with svPending := x.svPending.del core, svBad := core :: x.svBad.filter (· != core) })

/-- The device is about to create an instance (R119, R121): nothing while the arena is not pinned or one exists; a page
that the check needs is brought in by Loess first; a context that is halted gets it at its release (R444). -/
def State.createInstance (s : State) (core c : Nat) : State :=
  if !(s.ctx c).pinned || s.hasInstance core c || core ≥ coreCount then s
  else if !s.ctxFree c then s.modCtx c (fun x => { x with svPending := x.svPending.put core 1 })
  else
    match s.svCheck core c with
    | (s, .ok entry) => s.startInstance core c entry
    | (s, .bad n) => s.svCodeBad core c n
    | (s, .park page r) =>
      ((s.loess (dieOf core) c page r false false).1).modCtx c (fun x => { x with svPending := x.svPending.put core page })
    | (s, .wait) => s.modCtx c (fun x => { x with svPending := x.svPending.put core 1 })

/-- The instance of CTX_HOME, while CTX_LPAGE is nonzero (R119). -/
def State.homeInstance (s : State) (c : Nat) : State :=
  if (s.ctx c).lpage = 0 then s else s.createInstance (s.ctx c).home.toNat c

/-- Makes the checks again that waited for a page whose batch is complete (R121). -/
def State.retryInstances (s : State) : State :=
  s.ctxs.foldl (fun s p =>
    (s.ctx p.1).svPending.foldl (fun s q =>
      if (s.batchOf p.1 q.2).isSome then s
      else (s.modCtx p.1 (fun x => { x with svPending := x.svPending.del q.1 })).createInstance q.1 p.1) s) s

/-- A write of CTX_LPAGE (R80, R119). -/
def State.lpageWrite (s : State) (c v : Nat) : State :=
  (s.modCtx c (fun x => { x with lpage := BitVec.ofNat 64 (bits v 12 45 * 4096) })).homeInstance c

/-- A write of CTX_SVCODE: the code is checked again at the next bind, and at once for CTX_HOME (R121). -/
def State.svcodeWrite (s : State) (c v : Nat) : State :=
  (s.modCtx c (fun x => { x with svcode := BitVec.ofNat 64 v, svBad := [] })).homeInstance c

/-- CTX_LPAGE_WRITE: function `f` writes `v` to the register of context `c`. -/
def execCtxLpageWrite (s : State) : Out :=
  .next (if s.sees s.subj.f s.subj.c then s.lpageWrite s.subj.c s.subj.v.toNat else s)

/-- CTX_SVCODE_WRITE: function `f` writes `v` to the register of context `c`. -/
def execCtxSvcodeWrite (s : State) : Out :=
  .next (if s.sees s.subj.f s.subj.c then s.svcodeWrite s.subj.c s.subj.v.toNat else s)

/-! ## Pinning (R107) -/

/-- A write of a nonzero SIZE starts pinning, and does nothing while PINNED or PINNING is 1. -/
def State.startPinning (s : State) (c : Nat) (size : BitVec 16) : State :=
  s.modCtx c (fun x =>
    if x.pinned || x.pinning then x
    else if size = 0 then { x with imageSize := 0 }
    else { x with imageSize := size, pinErr := false, errCause := 0, pinning := true })

/-- ARENA_PINNING_START: function `f` writes `v` to CTX_IMAGE_CTL. -/
def execArenaPinningStart (s : State) : Out :=
  .next (if s.sees s.subj.f s.subj.c then s.startPinning s.subj.c (s.subj.v.extractLsb' 0 16) else s)

/-- Pinning fails: PIN_ERR with a cause, and nothing is locked. -/
def State.failPinning (s : State) (c : Nat) (cause : BitVec 2) : State :=
  s.modCtx c (fun x => { x with pinning := false, pinErr := true, errCause := cause })

/-- What the translation of the arena comes to; a walk through a port that does not answer yet waits (R19). -/
inductive PinWalk where
  | pages (t : Tab DWord)
  | absent (pages : List Nat)
  | bad
  | wait
  deriving DecidableEq, Repr

/-- Adds what one page's walk gives. -/
def pinAdd (va : Nat) (w : Walked) (r : PinWalk) : PinWalk :=
  match w, r with
  | _, .bad => .bad
  | .stop .notPresent, .wait => .wait
  | .stop .notPresent, .absent l => .absent (va :: l)
  | .stop .notPresent, .pages _ => .absent [va]
  | .stop _, _ => .bad
  | .poison, _ => .bad
  | .wait _, _ => .wait
  | .leaf e vpn _, r =>
    if !pteW e || pteHome e != 2 then .bad
    else
      match r with
      | .pages t => .pages ((va / 4096, BitVec.ofNat 64 (e + (va / 4096 - vpn) * 4096)) :: t)
      | r => r

/-- Walks `n` pages of an arena from an address, once each (R107). -/
def State.pinWalk (s : State) (c : Nat) : Nat → Nat → PinWalk
  | 0, _ => .pages []
  | n + 1, va => if va ≥ 2 ^ 57 then .bad else pinAdd va (s.walk 0 c va) (s.pinWalk c n (va + 4096))

/-- The pool or host blocks that back an arena (R214). -/
def arenaBlocks (t : Tab DWord) : List Nat :=
  dedupBy id ((t.filter (fun p => !isDevmem (ptePa p.2.toNat))).map (fun p => ptePa p.2.toNat / 65536))

/-- Locks the frame of a block, bringing it in where no unlocked one is left to replace (R107, R214). -/
def State.lockFrame (s : State) (blk : Nat) : State :=
  let s := s.touchFrame (blk * 65536)
  { s with frames := s.frames.map (fun f => if f.block == blk then { f with locks := f.locks + 1 } else f) }

/-- Frames that would be locked with the blocks `bs` locked as well. -/
def State.lockedWith (s : State) (bs : List Nat) : Nat :=
  (s.frames.filter (fun f => f.locks > 0 && !bs.contains f.block)).length + bs.length

/-- The arena is pinned: translations fixed, frames locked, spill and replay areas in force (R107, R309, R409). -/
def State.pinArena (s : State) (c : Nat) (t : Tab DWord) : State :=
  let s := (arenaBlocks t).foldl (fun s b => s.lockFrame b) s
  s.modCtx c (fun x =>
    let sp := min x.monSpill.toNat (x.imageSize.toNat - 91)
    { x with pinning := false, pinned := true, arena := t, spillInForce := sp,
             rplInForce := min x.rplUnits.toNat (x.imageSize.toNat - 91 - sp), allocs := [] })

/-- One page of a context's arena is named in a batch of its that is not complete. -/
def State.pinWaits (s : State) (c : Nat) : Bool :=
  let x := s.ctx c
  s.batches.any (fun b => b.ctx == c && b.entries.any (fun e =>
    x.image.toNat ≤ e.page && e.page < x.image.toNat + x.imageSize.toNat * 65536))

/-- The first page of an arena that is not present is brought in as a fault would be (R107). -/
def State.pinFaults (s : State) (c : Nat) (pages : List Nat) : State :=
  (pages.take 1).foldl (fun s p => (s.loess (dieOf (s.ctx c).home.toNat) c p .notPresent true false).1) s

/-- ARENA_PINNING_END of context `c`: PINNED, or PIN_ERR with its cause; while pages are missing, Loess brings them in
and pinning goes on. -/
def execArenaPinningEnd (s : State) : Out :=
  .next (let c := s.subj.c
    let x := s.ctx c
    if !x.pinning || s.pinWaits c then s
    else if x.imageSize.toNat < 91 then s.failPinning c 1
    else
      match s.pinWalk c (16 * x.imageSize.toNat) x.image.toNat with
      | .bad => s.failPinning c 2
      | .wait => s
      | .absent pages => s.pinFaults c pages
      | .pages t =>
        if s.lockedWith (arenaBlocks t) > s.frameCapacity then s.failPinning c 3
        else (s.pinArena c t).homeInstance c)

end Sys2Proof.Machine
end

