-- ==== Sys2Proof/Machine/Loess.lean ====
section
/-! DEFINITION. Loess: posting a batch, its completion, and what a failed page does (20 R409, R414, R419–R423; 04 R73;
06 R107, R121). -/
namespace Sys2Proof.Machine

/-- The queue of a context accepts batches (R409). -/
def Ctx.fqOn (x : Ctx) : Bool := x.fqEnable && decide (6 ≤ x.fqSize.toNat) && decide (x.fqSize.toNat ≤ 12)

/-! ## A failed page (R423) -/

/-- Threads of a set that a failed page holds: every one of MASK in a STORE set, else those parked on the page. -/
def RSet.failing (x : RSet) (page : Nat) : List Nat :=
  if !x.pages.any (fun p => p.page == page) then []
  else
    (lanesOf (x.mask &&& ~~~x.held)).filter (fun l =>
      x.unit == .store || x.pages.any (fun p => p.page == page && p.lane == l))

/-- A trap with UNRESOLVED_FAULT of a group that is away sets FAULTED of its launch (R455). -/
def State.flagAway (s : State) (gid : Nat) : State :=
  match (s.awayMember gid).bind (fun p => s.clusters.find p.1) with
  | some c => if c.members.isEmpty then s else s.modLaunch c.launch (fun q => { q with faulted := true })
  | none => s

/-- Threads of a group that is away trap with UNRESOLVED_FAULT: their request goes to the core of their set (R423). -/
def State.unresolvedAway (s : State) (x : RSet) (page : Nat) (r : Reason) (lanes : List Nat) : State :=
  let s := s.modSet x.id (fun y => { y with held := y.held ||| maskOf lanes, state := .held })
  let s := s.flagAway x.gid
  let s := lanes.foldl (fun s l => s.modThreadOf x.gid l (fun t => { t with tstate := .wait, waitFor := .trap })) s
  s.post { core := x.core, ctx := x.ctx, slot := 0, event := false, cause := Cause.unresolved.code, gid := x.gid,
           lanes := maskOf lanes, hasSet := some x.id, pc := x.pc, info0 := BitVec.ofNat 64 page,
           info1 := BitVec.ofNat 64 r.code, args := [], dst := 126, next := x.next }

/-- A set with parts parked on a page that has failed (R423): a copy ends UNRESOLVED, threads trap and are held. -/
def State.failSet (s : State) (x : RSet) (page : Nat) : State :=
  let r := ((x.pages.find? (fun p => p.page == page)).map (·.reason)).getD .notPresent
  if x.unit == .copy then
    if !x.pages.any (fun p => p.page == page) then s
    else
      match x.copy.bind s.copyOf with
      | some c =>
        (if c.done then s.stampFails c 6
          else if c.state == .suspended then s.setCopy { c with status := 6 } else s.failCopy c 6).freeSet x
      | none => s.freeSet x
  else
    match x.failing page with
    | [] => s
    | l :: ls =>
      if x.gid < 2 ^ 40 then
        s.trapIn ((l :: ls).map (threadKey x.gid)) .unresolved x.pc x.next
          (fun _ => { info0 := page, info1 := r.code })
      else s.unresolvedAway x page r (l :: ls)

/-- Every part of a context that is parked on a failed page (R423). -/
def State.failParts (s : State) (c page : Nat) : State :=
  ((s.sets.filter (fun x => x.ctx == c)).map (·.id)).foldl (fun s id =>
    match s.setOf id with
    | some x => s.failSet x page
    | none => s) s

/-- Launches whose stamp stands on a failed page: START_FAULT, or STAMP_FAILED; a rejected launch has no stamp then (R67, R73,
R454). -/
def State.failStamps (s : State) (b : Nat) (page : Nat) : State :=
  let s := { s with rejected := s.rejected.filter (fun j => !(j.batch == some b && j.addr / 4096 * 4096 == page)) }
  (s.launches.filter (fun p => p.2.stampBatch == some b)).foldl (fun s p =>
    if p.2.state == .waiting && p.2.startAddr.toNat / 4096 * 4096 == page then s.startFault p.1
    else if p.2.state != .waiting && p.2.doneAddr.toNat / 4096 * 4096 == page then s.stampFailed p.1 p.2 0
    else s) s

/-- Pinning and code checks that wait for a failed page (R107, R121). -/
def State.failOwn (s : State) (c page : Nat) : State :=
  let x := s.ctx c
  let s := if x.pinning && x.image.toNat ≤ page && page < x.image.toNat + x.imageSize.toNat * 65536 then s.failPinning c 2 else s
  ((s.ctx c).svPending.filter (fun q => q.2 == page)).foldl (fun s q => s.svCodeBad q.1 c 2) s

/-- Messages whose handler's table or code stands on a failed page: they are refused (R101). -/
def State.failMsgs (s : State) (b page : Nat) : State :=
  { s with inbox := s.inbox.map (fun p => if p.2.batch == some b && p.2.page == page then (p.1, { p.2 with failed := true }) else p) }

/-- A page of a batch has failed. -/
def State.failPage (s : State) (b : Batch) (page : Nat) : State :=
  (((s.failParts b.ctx page).failStamps b.id page).failOwn b.ctx page).failMsgs b.id page

/-! ## Completion of a batch (R422, R423) -/

/-- Demand pages of a batch whose FAIL_MASK bit is set; a failed prediction has no effect. -/
def Batch.failed (b : Batch) (mask : Nat) : List Nat :=
  (b.entries.mapIdx (fun i e => (i, e))).filterMap (fun p => if bit mask p.1 && !p.2.pred then some p.2.page else none)

/-- Completes a batch: failed pages, the sets that wait on it, and the threads that were held for want of room. -/
def State.completeBatch (s : State) (b : Batch) (mask : Nat) : State :=
  let s : State := { s with batches := s.batches.filter (fun x => x.id != b.id) }
  let s := (b.failed mask).foldl (fun s p => s.failPage b p) s
  let ls := s.launches.map (fun p => if p.2.stampBatch == some b.id then (p.1, { p.2 with stampBatch := none }) else p)
  let s : State :=
    { s with launches := ls, rejected := s.rejected.map (fun j => if j.batch == some b.id then { j with batch := none } else j),
             inbox := s.inbox.map (fun p => if p.2.batch == some b.id then (p.1, { p.2 with batch := none }) else p) }
  let mine := s.sets.filter (fun x => x.ctx == b.ctx && x.batch == b.seq && b.seq != 0)
  (mine.foldl (fun s x => s.armSet x.id) s).wakeHeld b.ctx

/-! ## Posting (R419–R421) -/

/-- The predictions that fill a batch (R419, R420): candidates that are not present and that no batch names. -/
def State.predictions (s : State) (b : Batch) : List BEntry :=
  let named := fun (p : Nat) => s.batches.any (fun x => x.ctx == b.ctx && x.entries.any (fun e => e.page == p))
  let ok := dedupBy id (b.cands.filter (fun p => p < 2 ^ 57 && !named p && s.walk b.die b.ctx p == .stop .notPresent))
  let ok := if b.entries.isEmpty && ok.isEmpty then b.cands.take 1 else ok
  (ok.take (14 - b.entries.length)).map (fun p =>
    ({ page := p, reason := .notPresent, pred := true, write := false, fetch := false } : BEntry))

/-- An entry of a batch record (R421). -/
def BEntry.word (e : BEntry) : Nat :=
  e.page % 2 ^ 57 / 4096 * 4096 + e.reason.code * 256 + b2n e.pred * 128 + b2n e.write * 64 + b2n e.fetch * 32

/-- The 16 words of a batch record, DONE 0 (R421). -/
def Batch.record (b : Batch) : List Nat :=
  [0, b.seq.toNat + b.entries.length * 2 ^ 32 + b.ctx * 2 ^ 40] ++ (List.range 14).map (fun i => ((b.entries[i]?).map BEntry.word).getD 0)

/-- Slot of a batch in the ring of its context (R421). -/
def Batch.slot (b : Batch) (x : Ctx) : Nat := (b.seq.toNat - 1) % 2 ^ x.fqSize.toNat

/-- A batch is due: 1 µs after its first entry, at 14 demand entries, or at once while the queue takes none (R419,
R423). -/
def State.batchDue (s : State) (b : Batch) : Bool :=
  !b.posted && s.boot.ready.getLsbD 10 &&
  (decide (b.openedAt + oneUs ≤ s.wall) || decide (14 ≤ b.entries.length) || !(s.ctx b.ctx).fqOn)

/-- A batch may be posted: it is its context's oldest open one, and the record it replaces has been completed (R421). -/
def State.batchTurn (s : State) (b : Batch) : Bool :=
  ((s.batches.find? (fun x => x.ctx == b.ctx && !x.posted)).map (·.id)) == some b.id &&
  !s.batches.any (fun x => x.posted && x.ctx == b.ctx && x.slot (s.ctx b.ctx) == b.slot (s.ctx b.ctx))

/-- Writes words of 8 bytes as the device. -/
def State.deviceWords (s : State) (loc : Nat) : List Nat → State
  | [] => s
  | w :: r => (s.deviceWrite loc 0 (bytesOf 8 w)).deviceWords (loc + 8) r

/-- Writes a batch record, then CTX_FQ_TAIL, and signals vector 1 of the owning function (R421). -/
def State.writeBatch (s : State) (b : Batch) : State :=
  let x := s.ctx b.ctx
  let loc := x.fqBase.toNat + 128 * b.slot x
  let s := s.deviceWords loc b.record
  let s := s.modCtx b.ctx (fun x => { x with fqTail := b.seq })
  { s with batches := s.batches.map (fun y => if y.id == b.id then { b with posted := true, loc := loc } else y),
           msix := s.msix ++ [(s.ownerOf b.ctx, 1)] }

/-- LOESS_BATCH_POST of the batch that the subject names; its flag is a record write that the host or the port fails
(R419–R421, R423). -/
def execLoessBatchPost (s : State) : Out :=
  .next (match s.batches.find? (fun b => b.id == s.subj.id) with
    | some b =>
      let x := s.ctx b.ctx
      if !s.batchDue b then s
      else if !x.fqOn then s.completeBatch b 0x3FFF
      else if !s.batchTurn b then s
      else
        let b := { b with entries := b.entries ++ s.predictions b }
        if s.subj.w || !s.linkUp (x.fqBase.toNat) then
          (s.modCtx b.ctx (fun x => { x with fqEnable := false })).completeBatch b 0x3FFF
        else s.writeBatch b
    | none => s)

/-- FAIL_MASK that a DONE word gives a batch, once it completes it (R422). DESIGN CHOICE: the bits
[31:18] of the word are ignored, for which the spec gives no status (R5; log 81). -/
def doneMask (seq : BitVec 32) (v : Nat) : Option Nat :=
  if bits v 32 32 = seq.toNat && bits v 0 4 ≠ 0 then some (if bits v 0 4 = 1 then bits v 4 14 else 0x3FFF) else none

/-- BATCH_DONE_OBSERVED of the batch that the subject names: DONE is read with acquire (R422). -/
def execBatchDoneObserved (s : State) : Out :=
  .next (match s.batches.find? (fun b => b.id == s.subj.id) with
    | some b =>
      if !b.posted then s
      else
        match doneMask b.seq (s.settleU.readN b.loc 8) with
        | some m => s.settleU.completeBatch b m
        | none => s
    | none => s)

/-! ## CTX_FQ_CTL (R409) -/

/-- What a write of CTX_FQ_CTL leaves: SIZE_LOG2 is fixed while ENABLE is 1, and ENABLE stays 0 while CTX_FQ_BASE lies
outside the host range. -/
def Ctx.writeFqCtl (x : Ctx) (v : BitVec 64) : Ctx :=
  let size := if x.fqEnable then x.fqSize else v.extractLsb' 0 4
  { x with fqSize := size, fqEnable := v.getLsbD 31 && (x.fqEnable || isHostMem x.fqBase.toNat) }

/-- CTX_FQ_CTL_WRITE: function `f` writes `v` for context `c`; ignored until Loess is ready (R19). -/
def execCtxFqCtlWrite (s : State) : Out :=
  .next (if s.sees s.subj.f s.subj.c && s.boot.ready.getLsbD 10 then s.modCtx s.subj.c (fun x => x.writeFqCtl s.subj.v) else s)

end Sys2Proof.Machine
end

