-- ==== Sys2Proof/Machine/Messages.lean ====
section
/-! DEFINITION. Active messages: SENDAM, their arrival and refusal, and the start of a handler (05 R96–R101; 20 R434;
22 R452). -/
namespace Sys2Proof.Machine

/-! ## SENDAM (R434) -/

/-- SENDAM (R434), suppressed in helpers (R429): the header is read at issue; the payload registers, which nothing
writes while the thread is suspended, when its place is taken. -/
def execSendam (d a b : BitVec 7) (n : Bool) (s : State) : Out :=
  s.memOut (.sendam d a b n) true (fun s bd t => dataLane t (s.operand bd.hints t (useAddr a)) b.toNat 0)

/-- The device's own routing ID (R97). -/
def ownId : Nat := deviceId.toNat

/-- AM_GROUP with which a context sends: 0 where its session has not accepted ACTIVE_MSG (R97). -/
def State.amGroupOf (s : State) (c : Nat) : Nat := if s.feature c 10 then (s.ctx c).amGroup.toNat else 0

/-- Payload bytes of a message as 16 words: those beyond its length are zero (R98, R434). -/
def amPayload (len : Nat) (ws : List Word) : List Word :=
  let bs := (ws.flatMap (fun w => bytesOf 4 w.toNat)).take len
  (List.range 16).map (fun i => BitVec.ofNat 32 (ofBytes ((bs.drop (4 * i)).take 4)))

/-- A message with the header `h` (R434). -/
def amOf (dev c group core : Nat) (launch : Option Nat) (h : Nat) (ws : List Word) : Msg :=
  { dev := dev, ctx := c, group := group, core := core, launch := launch, dstDev := bits h 0 12, dstCore := bits h 12 9,
    dstCtx := bits h 21 6, handler := bits h 27 8, len := bits h 35 7, payload := amPayload (bits h 35 7) ws, since := none, batch := none,
    page := 0, reason := 0, failed := false }

/-- The header of a SENDAM breaks R434. -/
def amBad (h : Nat) : Bool := bits h 42 22 != 0 || bits h 35 7 > 64

/-- One thread's message, once its earlier accesses have been performed and a place is free: status 1 for a bad header,
else a release at .SYS, and the message stands in the outbound buffer (R99, R100, R274, R434, R452). -/
def State.sendOne (s : State) (o : Op) (l : Lane) : State :=
  let h := l.addr.toNat
  if amBad h then (s.passThread o l.tid).status o.instr o.hints l.tid 1
  else
    let ws := if l.x = 126 then [] else s.readRegs l.tid l.x.toNat 16
    let q := s.launchOf l.tid
    let m := amOf ownId o.ctx (s.amGroupOf o.ctx) o.core q h ws
    let s := (s.publish o.core o.ctx 6 none).modCore o.core (fun c => { c with outbound := c.outbound ++ [m] })
    let s := s.modOut q o.core (fun n => { n with messages := n.messages + 1 })
    (s.passThread o l.tid).status o.instr o.hints l.tid 0

/-- A lane of SENDAM may leave fetch suspension. -/
def State.sendReady (s : State) (o : Op) (l : Lane) : Bool :=
  amBad l.addr.toNat ||
  (decide ((s.core o.core).outbound.length < 16) && !s.accs.any (fun a => a.tid == l.tid))

/-- The lanes of a SENDAM in order, as far as they may go (R99, R434). -/
def State.endSendam (s : State) (o : Op) : List Lane → State
  | [] => { s with ops := s.ops.filter (fun x => x.id != o.id) }
  | l :: r =>
    if s.sendReady o l then (s.sendOne o l).endSendam o r
    else { s with ops := s.ops.map (fun x => if x.id == o.id then { x with lanes := l :: r } else x) }

/-! ## Refusal (R101) -/

/-- A refused message: the sender's count and event (R101), and its counter falls (R452). One that came from another
device is refused to that device. -/
def State.refuseMsg (s : State) (m : Msg) (reason : Nat) : State :=
  if m.dev != ownId then s
  else
    let s := s.modCtx m.ctx (fun x => { x with amNack := sat32 x.amNack })
    let s := s.raiseEvent (s.ownerOf m.ctx) 2 m.ctx (reason * 2 ^ 32 + m.dstDev)
    s.modOut m.launch m.core (fun n => { n with messages := n.messages - 1 })

/-- Why a message does not go on: it is refused with a reason; a page that its handler needs is to be resolved by Loess,
and `reason` is what refuses it if that fails; or an access of the device has to wait (R19). -/
inductive AmStop where
  | refuse (reason : Nat)
  | park (page : Nat) (r : Reason) (reason : Nat)
  | wait
  deriving DecidableEq, Repr

/-- A read of a handler table that did not end with its data: outside its mapped pages it is refused with 3 (R101). -/
def tableStop : WStop → AmStop
  | .fail (.park .homeBusy) a _ => .park (a / 4096 * 4096) .homeBusy 3
  | .fail (.park .bias) a _ => .park (a / 4096 * 4096) .bias 3
  | .fail .wait _ _ | .wait => .wait
  | _ => .refuse 3

/-- A read of a handler's code object that did not end with its data: a page that is not ready is brought as for a LAUNCH
(R67). -/
def codeStop : WStop → AmStop
  | .fail (.park r) a _ => .park (a / 4096 * 4096) r 4
  | .fail .wait _ _ | .wait => .wait
  | _ => .refuse 4

/-- An entry of a handler table (R96): code object and kernel, when it is enabled. -/
def State.handlerEntry (s : State) (core c h : Nat) : State × Except AmStop (Nat × Nat) :=
  match s.readSpan core c false ((s.ctx c).htab.toNat + 16 * h) 16 with
  | (s, .ok x) => (s, if bit x 80 && bits x 81 47 = 0 then .ok (bits x 0 64, bits x 64 16) else .error (.refuse 3))
  | (s, .error e) => (s, .error (tableStop e))

/-- The kernel that a handler entry names, if it may be one: checks 4 and 5 of R67, SCRATCH 0, TEAM_GROUPS 0 or 1. -/
def State.handlerKernel (s : State) (core c code kern : Nat) : State × Except AmStop Kernel :=
  if code % 4096 ≠ 0 then (s, .error (.refuse 4))
  else
    match s.readObj core c false code with
    | (s, .error e) => (s, .error (codeStop e))
    | (s, .ok none) => (s, .error (.refuse 4))
    | (s, .ok (some o)) =>
      if kern ≥ o.kernels || !s.featuresOk c (Nat.lor o.features (if o.xops > 0 then 2 ^ 9 else 0)) then (s, .error (.refuse 4))
      else
        match s.readKernel core c false code o kern with
        | (s, .error e) => (s, .error (codeStop e))
        | (s, .ok none) => (s, .error (.refuse 4))
        | (s, .ok (some k)) =>
          let pc := (code + ((o.section? 1).map (·.off)).getD 0 + k.entry) % 2 ^ 57
          (s, if k.scratch = 0 && k.teamGroups ≤ 1 then .ok { k with entry := pc } else .error (.refuse 4))

/-- A message's handler: its code object's address and its kernel, read on a core. -/
def State.handlerOf (s : State) (core : Nat) (m : Msg) : State × Except AmStop (Nat × Kernel) :=
  match s.handlerEntry core m.dstCtx m.handler with
  | (s, .error e) => (s, .error e)
  | (s, .ok (code, kern)) =>
    match s.handlerKernel core m.dstCtx code kern with
    | (s, .error e) => (s, .error e)
    | (s, .ok k) => (s, .ok (code, k))

/-- A core's column is ready (R20). -/
def State.columnReady (s : State) (core : Nat) : Bool := s.boot.colReady.getLsbD (16 * dieOf core + core % 12)

/-- Die that a message goes to. -/
def Msg.die (m : Msg) (arrives : Nat) : Nat := if m.dstCore < coreCount then dieOf m.dstCore else arrives

/-- Why a message to this device is refused at its arrival, if it is (R97, R101). A table or code whose page is not ready
refuses nothing: it is read again when the handler is to start. -/
def State.amRefusal (s : State) (m : Msg) (die : Nat) : State × Option Nat :=
  let g := (s.ctx m.dstCtx).amGroup.toNat
  if m.group = 0 || m.group ≠ g || !s.feature m.dstCtx 10 then (s, some 2)
  else
    match s.handlerOf (die * coresPerDie) m with
    | (s, .error (.refuse r)) => (s, some r)
    | (s, _) => if m.dstCore ≠ 0x1FF && (m.dstCore ≥ coreCount || !s.columnReady m.dstCore) then (s, some 5) else (s, none)

/-! ## Arrival (R99) -/

/-- Messages in the inbox of a die. -/
def State.inboxOf (s : State) (die : Nat) : List Msg := (s.inbox.filter (fun p => p.1 == die)).map (·.2)

/-- A message reaches this device: refused, or queued for a handler; with a full inbox nothing is done. -/
def State.deliver (s : State) (m : Msg) (arrives : Nat) (taken : State → State) : State :=
  let die := m.die arrives
  if (s.inboxOf die).length ≥ 256 then s
  else
    match s.amRefusal m die with
    | (s, some r) => (taken s).refuseMsg m r
    | (s, none) =>
      let s := taken s
      { s with inbox := s.inbox ++ [(die, m)] }

/-- A data link that is ready. -/
def State.anyPort (s : State) : Bool := s.boot.ready.extractLsb' 6 4 != 0#4

/-- The oldest message in the outbound buffer of a core leaves it (R97, R99, R101). One for another device is taken or
refused there: `a` is the reason that comes back, 0 when its handler has started. -/
def State.sendHead (s : State) (core a : Nat) : State :=
  match (s.core core).outbound with
  | [] => s
  | m :: _ =>
    if !s.ctxFree m.ctx then s
    else
      let pop := fun (s : State) => s.modCore core (fun c => { c with outbound := c.outbound.drop 1 })
      if m.dstDev = ownId then s.deliver m (dieOf core) pop
      else if !s.anyPort then (pop s).refuseMsg m 1
      else if a ≠ 0 then (pop s).refuseMsg m (min a 5)
      else (pop s).modOut m.launch m.core (fun n => { n with messages := n.messages - 1 })

/-- A message from another device: header `v`, sender's device, context, AM_GROUP and core, payload (R97). -/
def State.fromOutside (s : State) : State :=
  let x := s.subj
  let ws := (List.range 16).map (fun i => BitVec.ofNat 32 (ofBytes ((x.data.drop (4 * i)).take 4)))
  let m := amOf (x.f % 4096) (x.c % 64) (x.a % 65536) (x.b % 512) none x.v.toNat ws
  if amBad x.v.toNat then s else s.deliver m (x.id % 2) (fun s => s)

/-- AM_ARRIVAL: of the oldest message in the outbound buffer of core `id`, or of one that comes from another device at a
die. -/
def execAmArrival (s : State) : Out :=
  .next (if s.subj.w then s.fromOutside else s.sendHead s.subj.id s.subj.a)

/-! ## The start of a handler (R98–R100) -/

/-- Group slots of a core that no record names (R104). -/
def State.slotsUsed (s : State) (core : Nat) : BitVec 128 :=
  (s.teamsOn core).foldl (fun m k => if entryOfTeam k < 128 then m ||| (s.team k).bind.slots else m) 0

/-- Free group slots, rising. -/
def State.slotsFree (s : State) (core : Nat) : List Nat :=
  (List.range 128).filter (fun i => !(s.slotsUsed core).getLsbD i)

/-- A context is resident on a core. -/
def State.resident (s : State) (core c : Nat) : Bool := (s.core core).ctxs.contains c
/-- A context is resident, or a position is free (R93, R104). -/
def State.ctxRoom (s : State) (core c : Nat) : Bool := s.resident core c || s.resident core 0xFF

/-- Puts a context into a position of a core: its Kaolin bank is to be filled again (R93, R392). -/
def State.enterCtx (s : State) (core c : Nat) : State :=
  if s.resident core c then s
  else
    match (List.range 4).find? (fun i => ((s.core core).ctxs[i]?).getD 0 == 0xFF) with
    | some i => s.modCore core (fun k => { k with ctxs := k.ctxs.set i c, banks := k.banks.del i })
    | none => s

/-- Clear bytes of an arena above its supervisor area and below its replay area, from an offset (R108, R440). -/
def State.arenaFits (s : State) (c off len : Nat) : Bool :=
  let x := s.ctx c
  off + len ≤ (x.imageSize.toNat - x.spillInForce - x.rplInForce) * 65536 && off ≥ 0x5A0000 &&
  !x.allocs.any (fun a => overlaps a.off a.len off len)

/-- Offsets at which an allocation may begin: the bottom, and where another ends. -/
def State.arenaSpots (s : State) (c len : Nat) : List Nat :=
  (0x5A0000 :: (s.ctx c).allocs.map (fun a => (a.off + a.len + 4095) / 4096 * 4096)).filter (fun o => s.arenaFits c o len)

/-- Takes a piece of an arena: its offset, any that fits (log 30). -/
def State.arenaTake (s : State) (c len : Nat) : State × Option Nat :=
  match s.arenaSpots c len with
  | [] => (s, none)
  | o :: os =>
    let (v, s) := s.free
    let off := (o :: os).getD (v.toNat % (os.length + 1)) o
    (s.modCtx c (fun x => { x with allocs := x.allocs ++ [{ off := off, len := len }] }), some off)

/-- Rounds up to 4,096. -/
def pageUp (n : Nat) : Nat := (n + 4095) / 4096 * 4096

/-- A core may start a handler of a message (R99): its entry is free, a slot and a position are. Its registers need an
image, so the arena is pinned. -/
def State.handlerRoom (s : State) (m : Msg) (core : Nat) : Bool :=
  let x := s.ctx m.dstCtx
  s.columnReady core && (s.teams.find (teamKey core 64)).isNone && !(s.slotsFree core).isEmpty && s.ctxRoom core m.dstCtx &&
  x.pinned && s.ctxFree m.dstCtx

/-- The core on which a message's handler starts, if one may (R99). -/
def State.handlerCore (s : State) (die : Nat) (m : Msg) : Option Nat :=
  if m.dstCore < coreCount then if s.handlerRoom m m.dstCore then some m.dstCore else none
  else
    let cs := ((List.range coresPerDie).map (die * coresPerDie + ·)).filter (s.handlerRoom m)
    match cs.find? (fun c => s.resident c m.dstCtx) with
    | some c => some c
    | none => cs.head?

/-- A core whose handler entry is free lacks a group slot or a position for a message (R99). -/
def State.amLacksOn (s : State) (m : Msg) (core : Nat) : Bool :=
  s.columnReady core && (s.teams.find (teamKey core 64)).isNone && ((s.slotsFree core).isEmpty || !s.ctxRoom core m.dstCtx)

/-- The core on which a message waits for a group slot or a position, if it waits for nothing else: the one it names, or the
one that would start it first (R99). -/
def State.amLack (s : State) (die : Nat) (m : Msg) : Option Nat :=
  if !(s.ctx m.dstCtx).pinned || !s.ctxFree m.dstCtx || (s.handlerCore die m).isSome then none
  else if m.dstCore < coreCount then if s.amLacksOn m m.dstCore then some m.dstCore else none
  else
    let cs := ((List.range coresPerDie).map (die * coresPerDie + ·)).filter (s.amLacksOn m)
    match cs.find? (fun c => s.resident c m.dstCtx) with
    | some c => some c
    | none => cs.head?

/-- Changes message `n` of the inboxes. -/
def State.modMsg (s : State) (n : Nat) (f : Msg → Msg) : State :=
  { s with inbox := s.inbox.mapIdx (fun i p => if i = n then (p.1, f p.2) else p) }

/-- Loess is to resolve a page that a message's handler needs. -/
def State.parkMsg (s : State) (n : Nat) (die : Nat) (m : Msg) (page : Nat) (r : Reason) (reason : Nat) : State :=
  let s := (s.loess die m.dstCtx page r false false).1
  s.modMsg n (fun m => { m with batch := s.batchOf m.dstCtx page, page := page, reason := reason })

/-- An earlier message of the inbox from the same core to the same named core and context starts first (R100). -/
def amAfter (l : List Msg) (m : Msg) : Bool :=
  m.dstCore < coreCount && l.any (fun e => e.dev == m.dev && e.core == m.core && e.dstCore == m.dstCore && e.dstCtx == m.dstCtx)

/-- v0–v17 of every thread of a handler (R98). -/
def Msg.words (m : Msg) : List Word :=
  m.payload ++ [BitVec.ofNat 32 (m.dev * 65536 + m.core), BitVec.ofNat 32 (m.ctx * 65536 + m.len)]

/-- Starts the handler of a message on a core: a team of one group with weight 1 outside BUDGET (R98). -/
def State.startHandler (s : State) (m : Msg) (core code : Nat) (k : Kernel) (off : Nat) : State :=
  let key := teamKey core 64
  let (v, s) := s.free
  let free := s.slotsFree core
  let slot := free.getD (v.toNat % free.length) 0
  let base := BitVec.ofNat 64 ((s.ctx m.dstCtx).image.toNat + off)
  let b : Bind :=
    { Bind.reset with state := .runnable, ctx := m.dstCtx, groups := 1, origin := core % coresPerDie, w := 1, h := 1,
                      regs := k.regs, entryPc := BitVec.ofNat 64 k.entry, imageBase := base, slots := 1#128 <<< slot }
  let t : Team := { Team.reset with kind := .handler, bind := b, code := BitVec.ofNat 64 code, cluster := soloKey key }
  let s := (s.enterCtx core m.dstCtx).setTeam key t
  let s := { s with clusters := s.clusters.put (soloKey key) (soloCluster key base) }
  let s := s.startGroup key slot 0 (BitVec.ofNat 57 k.entry)
  (threadsOfGroup (groupKey core slot)).foldl (fun s t => s.writeRegs t 0 (m.words.take k.regs)) s

/-- A message whose handler has a core: what its table and code give is read as it starts, with the acquire of R100; the
sender's counter falls (R452). -/
def State.tryHandler (s : State) (n die : Nat) (m : Msg) (core : Nat) : State :=
  let drop := fun (s : State) => ({ s with inbox := s.inbox.eraseIdx n } : State)
  match s.handlerOf core m with
  | (s, .error (.refuse r)) => (drop s).refuseMsg m r
  | (s, .error (.park page r reason)) => s.parkMsg n die m page r reason
  | (s, .error .wait) => s
  | (s, .ok (code, k)) =>
    match s.arenaTake m.dstCtx (pageUp (imageSize 1 k.regs)) with
    | (s, none) => s
    | (s, some off) =>
      let s := (drop s).startHandler m core code k off
      let s := s.acquire core m.dstCtx 6 none
      if m.dev = ownId then s.modOut m.launch m.core (fun n => { n with messages := n.messages - 1 }) else s

/-- HANDLER_START of message `id` of the inboxes (R98–R101, R452): it starts, or is refused for a page that has failed, or
the time from which a slot or a position is lacking for it is noted. -/
def execHandlerStart (s : State) : Out :=
  .next (match s.inbox[s.subj.id]? with
    | none => s
    | some (die, m) =>
      if m.failed then ({ s with inbox := s.inbox.eraseIdx s.subj.id } : State).refuseMsg m m.reason
      else if m.batch.isSome || amAfter ((s.inbox.take s.subj.id).map (·.2)) m then s
      else
        match s.handlerCore die m with
        | some core => s.tryHandler s.subj.id die m core
        | none =>
          let lacks := (s.amLack die m).isSome
          s.modMsg s.subj.id (fun m => { m with since := if lacks then some (m.since.getD s.wall) else none }))

end Sys2Proof.Machine
end

