-- ==== Sys2Proof/Machine/Suspension.lean ====
section
/-! DEFINITION. The end of fetch suspension (07 R136, R137; 12 R229): the checks of an operation end, its lanes pass,
trap or park, and the threads that pass go on. -/
namespace Sys2Proof.Machine

/-- Instructions whose unit reads memory as weak loads of the thread: the reads follow its earlier accesses (R273). -/
def unitReads : Instr → Bool
  | .tex .. | .texg .. | .texq .. | .rccfgLoad .. | .rccfgSave .. | .csload .. | .launch .. => true
  | _ => false

/-- Prefetches of an operation: no lane of PREF traps or parks (R243). -/
def State.endPref (s : State) (o : Op) (ls : List Lane) : State :=
  let s := ls.foldl (fun s l => (s.prefetch o l).passThread o l.tid) s
  { s with ops := s.ops.filter (fun x => x.id != o.id) }

/-- What lanes do whose checks have passed. -/
def State.passLanes (s : State) (o : Op) (ok : List (Lane × Passed)) : State :=
  if isTbarOp o.instr then s.passTbar o ok
  else if isAtomicOp o.instr then s.passAtomic o ok
  else
    match o.instr with
    | .bind .. | .unbind .. | .acq .. | .rel .. | .waitc .. | .wdecl .. => s.passSync o ok
    | _ => s.passMem o ok

/-- Lanes that failed with a cause. -/
def trapsOf (r : List (Lane × Except Fail Passed)) : List (Lane × Cause) :=
  r.filterMap (fun p => match p.2 with
    | .error (.trap c) => some (p.1, c)
    | _ => none)
/-- Lanes that failed with a reason. -/
def parksOf (r : List (Lane × Except Fail Passed)) : List (Lane × Reason) :=
  r.filterMap (fun p => match p.2 with
    | .error (.park c) => some (p.1, c)
    | _ => none)
/-- Lanes that passed. -/
def passesOf (r : List (Lane × Except Fail Passed)) : List (Lane × Passed) :=
  r.filterMap (fun p => match p.2 with
    | .ok x => some (p.1, x)
    | _ => none)

/-- A check that is made again later (R19, R223). -/
def waits : Except Fail Passed → Bool
  | .error .wait => true
  | _ => false

/-- The checks of an operation on memory, lane by lane, and what follows them (R229–R233, R301). -/
def State.endChecks (s : State) (o : Op) (ls : List Lane) : State :=
  let (s, r) := s.settleU.checkLanes o ls
  if r.any (fun p => waits p.2) then s
  else
  let s : State := { s with ops := s.ops.filter (fun x => x.id != o.id) }
  let s := s.trapLanes o (isWriteOp o.instr) (trapsOf r)
  let (s, ok) := s.parkLanes o (passesOf r) (parksOf r)
  s.passLanes o ok

/-- Lanes of an operation whose threads still wait for its checks. -/
def State.lanesAt (s : State) (o : Op) : List Lane :=
  o.lanes.filter (fun l => s.alive l.tid && (s.thread l.tid).waitFor == .check o.id)

/-- The checks of an operation end. -/
def State.endOp (s : State) (o : Op) (ls : List Lane) : State :=
  if ls.isEmpty then { s with ops := s.ops.filter (fun x => x.id != o.id) }
  else if isMatrixOp o.instr then s.endMatrixOp o
  else
    match o.instr with
    | .pref .. => s.endPref o ls
    | .tex .. | .texg .. | .texq .. => if o.stage = 0 then s.texDesc o ls else s
    | .trace .. | .beam .. | .cov .. => s
    | .rccfgLoad .. | .rccfgSave .. => s.endRccfg o ls
    | .csload .. => s.endCsload o ls
    | .launch .. => s.endLaunch o ls
    | .rplrun .. => s.endRplrun o ls
    | .sendam .. => s.endSendam o ls
    | _ => s.endChecks o ls

/-- FETCH_SUSPENSION_END of the operation that the subject names, once its earlier accesses let its checks be made. -/
def execFetchSuspensionEnd (s : State) : Out :=
  .next (match s.ops.find? (fun o => o.id == s.subj.id) with
    | some o =>
      let ls := s.lanesAt o
      if unitReads o.instr && !ls.all (fun l => s.readsReady l.tid) then s
      else s.endOp o ls
    | none => s)

end Sys2Proof.Machine
end

