-- ==== Sys2Proof/Machine/SaveBlock.lean ====
section
/-! DEFINITION. The team image and the save block: what a stopping team writes and a rebound team reads back (06 R109,
R117, R118; 07 R128; 21 R440–R442). -/
namespace Sys2Proof.Machine

/-! ## Sizes (R109, R440) -/

/-- Units for which a save block of a context leaves room: all 16 where its session has a matrix feature (R321). -/
def State.accRoom (s : State) (c : Nat) : Nat := if s.feature c 2 || s.feature c 3 || s.feature c 4 then 16 else 0
/-- Bytes of a save block, rounded up to a page. -/
def saveSize (scratch units : Nat) : Nat := pageUp (0x1A000 + scratch + 16384 * units)
/-- Offset of the save block from the start of a team image (R440). -/
def saveOff (groups regs : Nat) : Nat := pageUp (imageSize groups regs)
/-- Bytes of arena that a team of a launch takes: image and save block. -/
def State.teamRoom (s : State) (l : Launch) : Nat := saveOff l.groups l.regs + saveSize l.scratch (s.accRoom l.ctx)
/-- Virtual address of a team's save block. -/
def Bind.saveBase (b : Bind) : Nat := b.imageBase.toNat + saveOff b.groups b.regs

/-! ## Bytes in bulk -/

/-- Writes `n` zero words of 8 bytes. -/
def State.imageZero (s : State) (c va n : Nat) : State := (List.range n).foldl (fun s i => s.imageWrite c (va + 8 * i) 8 0) s

/-- Copies `n` sectors from one location to another, with their poison. -/
def State.copySectors (s : State) (n : Nat) (src : Nat → Nat) (dst : Nat → Nat × Nat) : State :=
  (List.range n).foldl (fun s i =>
    let (loc, leaf) := dst (32 * i)
    let bad := s.isPoisoned (sectorOf (src (32 * i)))
    let s := s.storeLeaf loc leaf (s.bytes (src (32 * i)) 32)
    if bad then s.poisonSector (sectorOf loc) else s) s

/-- Location and leaf of a byte of an arena. -/
def State.arenaDst (s : State) (c va : Nat) : Nat × Nat := (s.arenaLoc c va, s.arenaLeaf c va)

/-- Writes `n` bytes of a core's SRAM to an arena (R440). -/
def State.saveScratch (s : State) (c core base n va : Nat) : State :=
  s.copySectors (n / 32) (fun i => sramLoc core (base + i)) (fun i => s.arenaDst c (va + i))
/-- Reads them back (R441). -/
def State.loadScratch (s : State) (c core base n va : Nat) : State :=
  s.copySectors (n / 32) (fun i => s.arenaLoc c (va + i)) (fun i => (sramLoc core (base + i), 0))

/-! ## Control fields (R109, R128) -/

/-- A reconvergence entry as the image holds it (R128). -/
def RsEntry.word (e : RsEntry) : Nat := wrapInt 32 e.join * 2 ^ 32 + e.pending * 2 ^ 21
/-- A reconvergence entry from the image. -/
def RsEntry.ofWord (w now : Nat) (old : Option RsEntry) : RsEntry :=
  { join := signedOf 32 (bits w 32 32), pending := bits w 21 11,
    since := if ((old.map (·.since.isSome)).getD false) then some now else none }

/-- Writes the control fields of a group into its block (R109). -/
def State.saveGroup (s : State) (c b g : Nat) : State :=
  let s := (threadsOfGroup g).foldl (fun s t => s.saveThread c b (laneOf t) (s.thread t)) s
  let s := s.imageWrite c (b + 0x140) 8 ((s.group g).kzero.toNat % 2 ^ 64)
  let s := s.imageWrite c (b + 0x148) 8 ((s.group g).kzero.toNat / 2 ^ 64)
  ((s.imageWrite c (b + 0x11C) 4 0).imageZero c (b + 0x150) 22).imageZero c (b + 0x600) 64

/-- Writes the control fields of a team and its groups into its image (R109, R117). -/
def State.saveControl (s : State) (k : Nat) : State :=
  let m := s.team k
  let c := m.bind.ctx
  let b := m.bind.imageBase.toNat
  let s := (List.range 64).foldl (fun s n => s.imageWrite c (b + 8 * n) 8 (m.kreg n).toNat) s
  let s := (List.range 32).foldl (fun s i =>
    s.imageWrite c (b + 0x200 + 8 * i) 8 (((m.rstack[i]?).map RsEntry.word).getD 0)) s
  let s := s.imageWrite c (b + 0x300) 8 (m.rstack.length + m.bind.groups * 256 + m.bind.regs * 65536)
  let s := s.imageZero c (b + 0x308) 31
  (s.groupsOf k).foldl (fun s g => s.saveGroup c (s.groupBlock g) g) s

/-- A team's own control fields as its image holds them (R109, R118). -/
def State.loadTeam (s : State) (m : Team) : Team :=
  let c := m.bind.ctx
  let b := m.bind.imageBase.toNat
  { m with
    k := (List.range 64).map (fun n => (n, BitVec.ofNat 64 (s.imageRead c (b + 8 * n) 8))),
    rstack := (List.range (min 32 (s.imageRead c (b + 0x300) 1))).map (fun i =>
      RsEntry.ofWord (s.imageRead c (b + 0x200 + 8 * i) 8) s.clk m.rstack[i]?) }

/-- KZERO of a group as its image holds it. -/
def State.loadKzero (s : State) (c b : Nat) : BitVec 120 := BitVec.ofNat 120 (s.imageRead c (b + 0x140) 16)

/-! ## The save block (R440) -/

/-- Writes scratch, accumulators, configuration, tickets and barriers of a team (R440, R441). -/
def State.saveState (s : State) (k : Nat) : State :=
  let m := s.team k
  let c := m.bind.ctx
  let b := m.bind.saveBase
  let core := coreOfTeam k
  let ph := ((s.clusters.find m.cluster).map (·.phases)).getD 0
  let s := s.imageWrite c b 8 (m.bind.scratchSize + m.units.length * 2 ^ 32)
  let s := s.imageWrite c (b + 8) 8 (m.dn.toNat * 2 ^ 32 + m.rq.toNat)
  let s := (List.range 4).foldl (fun s i => s.imageWrite c (b + 0x10 + 4 * i) 4 ((m.bar i).n + (m.bar i).arr * 65536)) s
  let s := (s.imageWrite c (b + 0x20) 4 ph.toNat).imageWrite c (b + 0x24) 4 0
  let s := s.imageZero c (b + 0x28) 3
  let s := (List.range 8).foldl (fun s i =>
    s.imageWrite c (b + 0x40 + 8 * i) 8 (bits (m.tcb.getD 0).toNat (64 * i) 64)) s
  let s := (s.groupsOf k).foldl (fun s g => (threadsOfGroup g).foldl (fun s t =>
    s.imageWrite c (b + 0x80 + 128 * (s.group g).index + 4 * laneOf t) 4 (s.thread t).mt.toNat) s) s
  let s := s.saveScratch c core m.bind.scratchBase m.bind.scratchSize (b + 0x1A000)
  let acc := b + 0x1A000 + m.bind.scratchSize
  let s := s.meetAccs (fun key => m.units.any (fun u => decide (key / 4096 = core * 16 + u)))
  (m.units.mapIdx (fun i u => (i, u))).foldl (fun s p => (List.range 4096).foldl (fun s e =>
    let key := (core * 16 + p.2) * 4096 + e
    let va := acc + 16384 * p.1 + 4 * e
    let bad := s.accPoison.contains key
    let s := s.imageWrite c va 4 (s.acc.at' 0 key).toNat
    if bad then s.poisonSector (sectorOf (s.arenaLoc c va)) else s) s) s

/-- Reads them back for a team bound to a core, with units in the order held (R441 step 1). A sector poisoned by one
accumulator element poisons all eight (R440). -/
def State.loadState (s : State) (k : Nat) (units : List Nat) : State :=
  let m := s.team k
  let c := m.bind.ctx
  let b := m.bind.saveBase
  let core := coreOfTeam k
  let n := s.imageRead c (b + 4) 1
  let held := units.take n
  let tcb := BitVec.ofNat 512 (((List.range 8).map (fun i => s.imageRead c (b + 0x40 + 8 * i) 8 * 2 ^ (64 * i))).foldl (· + ·) 0)
  let bars := (List.range 4).map (fun i =>
    let w := s.imageRead c (b + 0x10 + 4 * i) 4
    (i, ({ n := bits w 0 16, arr := bits w 16 16, phaseOpen := (m.bar i).phaseOpen } : BarState)))
  let s := s.modTeam k (fun m =>
    { m with units := held, tcb := if m.tcb.isSome then some tcb else none, bars := bars,
             rq := BitVec.ofNat 32 (s.imageRead c (b + 8) 4), dn := BitVec.ofNat 32 (s.imageRead c (b + 12) 4) })
  let s := s.loadScratch c core m.bind.scratchBase m.bind.scratchSize (b + 0x1A000)
  let acc := b + 0x1A000 + m.bind.scratchSize
  (held.mapIdx (fun i u => (i, u))).foldl (fun s p => (List.range 4096).foldl (fun s e =>
    let va := acc + 16384 * p.1 + 4 * e
    let key := (core * 16 + p.2) * 4096 + e
    let bad := s.isPoisoned (sectorOf (s.arenaLoc c va))
    { s with acc := s.acc.put key (BitVec.ofNat 32 (s.imageRead c va 4)),
             accPoison := if bad then key :: s.accPoison.filter (· != key) else s.accPoison.filter (· != key) }) s) s

/-! ## Copies (R442) -/

/-- A copy whose slices touch scratch: as source, as destination or through a barrier. -/
def Copy.touchesScratch (c : Copy) : Bool := c.slices.any (fun x => x.ss || x.sd || x.bar.isSome || x.ack.isSome)

/-- Sectors in the quarantine buffer of a member of a cluster. -/
def State.quarOf (s : State) (cl team : Nat) : List QSector := s.quar.filter (fun q => q.cluster == cl && q.owner == team)

/-- Sectors in the quarantine buffer of a core. -/
def State.quarOn (s : State) (core : Nat) : Nat :=
  (s.quar.filter (fun q => (((s.clusters.find q.cluster).bind (fun c => c.members[q.owner]?)).map (·.core)) == some core)).length

/-- Member that owns a scratch address of a copy, and its core (R240). -/
def State.scratchOwner (s : State) (c : Copy) (a : Nat) : Nat × Nat :=
  let m := bits a 28 4
  if m = 15 then (c.bind.team, c.core)
  else (m, (((s.clusters.find c.cluster).bind (fun x => x.members[m]?)).map (·.core)).getD c.core)

/-- Receivers of a sector in scratch: the member that owns the destination, its core, and the location. -/
def State.sectorOwners (s : State) (c : Copy) (p : Part) (b : SectorBuf) : List (Nat × Nat) :=
  if p.slice.minor = 3 then b.dests.map (fun d => (d.1, sramCore d.2.loc)) else [s.scratchOwner c p.dst]

/-- A sector that the engine has read and not landed goes to the quarantine buffers of the cores that own its destination
scratch, and counts as landed; where a buffer is full it is discarded, as one for memory is (R442). -/
def State.quarantine (s : State) (id n : Nat) : State :=
  match s.copyOf id with
  | none => s
  | some c =>
    match c.buf.find? (fun b => b.n == n), c.part (n - c.prog) with
    | some b, some p =>
      let c := c.unbuffer n
      let owners := s.sectorOwners c p b
      if !p.slice.sd || n - c.prog ≥ 16 || owners.any (fun o => s.quarOn o.2 ≥ 2048) then s.setCopy c
      else
        let lo := p.dst % 32
        let qs := owners.map (fun o => ({ cluster := c.cluster, owner := o.1, team := c.bind.team, place := c.place,
                                          off := bits p.dst 0 18 / 32 * 32, mask := BitVec.ofNat 32 ((2 ^ p.n - 1) * 2 ^ lo),
                                          data := BitVec.ofNat 256 (ofBytes b.bytes * 2 ^ (8 * lo)), poison := b.bad } : QSector))
        ({ s with quar := s.quar ++ qs } : State).setCopy (({ c with poison := c.poison || b.bad } : Copy).landed p.slice (n - c.prog))
    | _, _ => s

/-- Suspends a copy (R442): it reads no more, what it has read for scratch goes to quarantine in rising order, and its
scoreboard entries, its lines and its place are free. -/
def State.suspendCopy (s : State) (c : Copy) : State :=
  if c.state == .suspended || c.state == .stamping then s
  else
    let s := (sortBy (fun a b => decide (a ≤ b)) (c.buf.map (·.n))).foldl (fun s n => s.quarantine c.id n) s
    match s.copyOf c.id with
    | some d =>
      (s.setCopy { d with state := .suspended, was := c.state, entries := [], buf := [], held := [] }).engineIdle c.core |>.placesFreed c.core
    | none => s

/-- Copy places of a core in use (R251). -/
def State.placesUsed (s : State) (core : Nat) : List Nat :=
  (s.copies.filter (fun c => c.core == core && c.state != .suspended)).map (·.place)

/-- Puts a suspended copy back on its engine, at a free place with its entries (R441 step 2), or none when too few are
free. -/
def State.resumeCopy (s : State) (c : Copy) : Option State :=
  let used := s.placesUsed c.core
  let es := if c.was == .moving || c.was == .parked then s.copyEntries c else []
  let short := (dedupBy id (es.map (·.core))).any (fun k => s.sbUsed k + (es.filter (fun e => e.core == k)).length > 32)
  match (List.range 16).find? (fun p => !used.contains p) with
  | none => none
  | some p =>
    if short then none
    else
      let was := if c.was == .parked && !s.sets.any (fun x => x.copy == some c.id) then CpState.moving else c.was
      let s := s.setCopy { c with state := was, place := p, entries := es }
      some (if c.status ≠ 0 && !c.done then s.failCopy { c with state := was, place := p, entries := es } c.status else s)

/-- The drain may have landed the last bytes of copies: their acknowledgements follow (R262, R442). -/
def State.ackDrained (s : State) (ids : List Nat) : State :=
  ids.foldl (fun s i => match s.copyOf i with
    | some c => if c.state == .moving && c.done && c.status = 0 then s.ackDone c else s
    | none => s) s

/-- Lands a quarantined sector in the scratch of its owner, with the decrements of its barrier (R441 step 3, R442). -/
def State.drainSector (s : State) (q : QSector) (c : Option Copy) : State :=
  match (s.clusters.find q.cluster).bind (fun x => x.members[q.owner]?) with
  | none => s
  | some m =>
    let base := sramLoc m.core (m.scratchBase + q.off)
    let run := (List.range 32).filter (fun i => q.mask.getLsbD i)
    let s := match run with
      | [] => s
      | lo :: _ =>
        let bs := run.map (fun i => q.data.extractLsb' (8 * i) 8)
        let s := s.storeBytes (base + lo) 0 false false bs
        let s := if q.poison then s.poisonSector (sectorOf base) else s
        s.notice (base + lo) bs.length
    match c with
    | some c =>
      let bars := (s.copyBars c).filter (fun b => c.block.minor != 3 || b.1 == q.owner)
      let s := if bars.isEmpty then s else s.publish c.core c.ctx 3 none
      bars.foldl (fun s b => s.tbarAdd b.2 (-(run.length : Int))) s
    | none => s

/-- COPYSTATE of a suspended copy in the save block at `b` (R442). -/
def State.saveCopy (s : State) (c b : Nat) (x : Copy) : State :=
  let e := b + 0x2000 + 1024 * x.place
  let s := ((x.record false).take 4).zipIdx.foldl (fun s p => s.imageWrite c (e + 8 * p.2) 8 p.1.toNat) s
  let s := (s.imageWrite c (e + 0x60) 1 1).imageWrite c (e + 0x61) 1 x.block.minor
  let s := (List.range 5).foldl (fun s i => s.imageWrite c (e + 0x80 + 8 * i) 8 (x.block.kw i)) s
  x.slices.foldl (fun s g =>
    let a := e + 0xC0 + 24 * g.group
    ((s.imageWrite c a 8 g.a.toNat).imageWrite c (a + 8) 8 g.b.toNat).imageWrite c (a + 16) 4 g.c.toNat) s

/-- QTAG and QDATA of a quarantined sector at place `i` (R442). -/
def State.saveSector (s : State) (c b i : Nat) (q : QSector) : State :=
  let tag := q.off + q.place * 2 ^ 18 + q.team * 2 ^ 22 + q.mask.toNat * 2 ^ 32
  let s := s.imageWrite c (b + 0x6000 + 8 * i) 8 tag
  let s := s.imageWrite c (b + 0xA000 + 32 * i) 32 q.data.toNat
  if q.poison then s.poisonSector (sectorOf (s.arenaLoc c (b + 0xA000 + 32 * i))) else s

/-- Suspended copies of member `i` of a cluster, and the quarantine of its scratch, go to the save block at `b` of its
context (R440, R442). -/
def State.saveCopies (s : State) (cl i c b : Nat) : State :=
  let mine := s.copies.filter (fun x => x.cluster == cl && x.bind.team == i && x.state == .suspended)
  let s := (List.range 16).foldl (fun s p => s.imageWrite c (b + 0x2000 + 1024 * p + 0x60) 1 0) s
  let s := mine.foldl (fun s x => s.saveCopy c b x) s
  let qs := s.quarOf cl i
  let s := s.imageWrite c (b + 6) 2 qs.length
  let s := qs.zipIdx.foldl (fun s p => s.saveSector c b p.2 p.1) s
  { s with quar := s.quar.filter (fun q => !(q.cluster == cl && q.owner == i)) }

/-- Quarantined sectors of a save block (R442). -/
def State.loadQuar (s : State) (cl team c b : Nat) : List QSector :=
  (List.range (min 2048 (s.imageRead c (b + 6) 2))).map (fun i =>
    let t := s.imageRead c (b + 0x6000 + 8 * i) 8
    ({ cluster := cl, owner := team, team := bits t 22 4, place := bits t 18 4, off := bits t 0 18,
       mask := BitVec.ofNat 32 (bits t 32 32), data := BitVec.ofNat 256 (s.imageRead c (b + 0xA000 + 32 * i) 32),
       poison := s.isPoisoned (sectorOf (s.arenaLoc c (b + 0xA000 + 32 * i))) } : QSector))

/-- A suspended copy as COPYSTATE holds it (R442). -/
def State.loadCopy (s : State) (c b : Nat) (x : Copy) : Copy :=
  let e := b + 0x2000 + 1024 * x.place
  let w := fun i => s.imageRead c (e + 8 * i) 8
  let kb := (List.range 5).map (fun i => BitVec.ofNat 64 (s.imageRead c (e + 0x80 + 8 * i) 8))
  let sl := x.slices.map (fun g =>
    let a := e + 0xC0 + 24 * g.group
    { g with a := BitVec.ofNat 64 (s.imageRead c a 8), b := BitVec.ofNat 64 (s.imageRead c (a + 8) 8),
             c := BitVec.ofNat 32 (s.imageRead c (a + 16) 4), k := kb.take g.k.length })
  let gather := decide (x.block.minor = 1) || decide (x.block.minor = 2)
  { x with slices := if s.imageRead c (e + 0x60) 1 = 1 then sl else x.slices, window := BitVec.ofNat 16 (bits (w 0) 16 16),
           slice := bits (w 0) 32 32, row := if gather then bits (w 1) 0 32 else x.row, count := bits (w 1) 32 24,
           prog := w 2 / 32, index := if bit (w 0) 8 then some (BitVec.ofNat 64 (w 3)) else none }

end Sys2Proof.Machine
end

