-- ==== Sys2Proof/Machine/Preempt.lean ====
section
/-! DEFINITION. Stopping at boundaries and pre-emption (06 R117, R118; 21 R439–R442; 15 R302, R311; 16 R329): the order to
a team, the stop of a team and of its cluster, the write-back for another core, and the restore of a rebound cluster. -/
namespace Sys2Proof.Machine

/-! ## Stopping (R439) -/

/-- A thread that waits so is stopped where it stands; one whose checks run, or whose request is on its way, is not. -/
def WaitFor.stops : WaitFor → Bool
  | .check _ => false
  | .result _ => false
  | _ => true

/-- A thread is in a bundle that issues or is held. -/
def State.inBundle (s : State) (t : Nat) : Bool :=
  s.issue.any (fun b => b.threads.contains t) || s.held.any (fun b => b.threads.contains t)

/-- A thread has stopped at a boundary (R439). -/
def State.stopped (s : State) (t : Nat) : Bool :=
  !s.alive t || ((s.thread t).waitFor.stops && !s.inBundle t)

/-- An operation whose lanes wait before their effect for a unit's queue or buffer: a stop takes them back before the
instruction (R439, R332, R99). -/
def waitsForUnit (i : Instr) : Bool :=
  isMatrixOp i || match i with
    | .sendam .. => true
    | _ => false

/-- Puts a thread that waits at its instruction back before it. -/
def State.putBack (s : State) (t : Nat) : State :=
  (s.wftDrop t).modThread t (fun x => { x with pc := x.runPc, waitFor := .nothing, tstate := .run })

/-- A thread whose wait at an instruction a stop discards (R439): it executes the instruction again. -/
def atRendezvous (w : WaitFor) : Bool := w == .rendezvous || w == .copySlice || w == .fence || w == .tcfg

/-- Threads of a list that run a sequence leave their bundles at the micro-op boundary (R401). -/
def State.stopXops (s : State) (ts : List Nat) : State :=
  let s := ((s.issue ++ s.held).filter (fun b => b.inXop)).foldl (fun s b =>
    (b.threads.filter (fun t => ts.contains t && s.running t)).foldl (fun s t => s.stopThread b t .nothing) s) s
  let leave := fun (l : List Bundle) => (l.map (fun b =>
    if b.inXop then { b with threads := b.threads.filter s.running } else b)).filter (fun b => !b.threads.isEmpty)
  { s with issue := leave s.issue, held := leave s.held }

/-- Takes the threads of a list back from operations that wait for a unit. -/
def State.leaveUnits (s : State) (ts : List Nat) : State :=
  let mine := s.ops.filter (fun o => waitsForUnit o.instr && o.lanes.any (fun l => ts.contains l.tid))
  let back := mine.flatMap (fun o => (o.lanes.map (·.tid)).filter (fun t =>
    ts.contains t && ((s.thread t).waitFor == .check o.id || (s.thread t).waitFor == .tcfg)))
  let ops := (s.ops.map (fun o =>
    if waitsForUnit o.instr then { o with lanes := o.lanes.filter (fun l => !ts.contains l.tid) } else o)).filter
      (fun o => !o.lanes.isEmpty)
  back.foldl (fun s t => s.putBack t) { s with ops := ops }

/-- Threads of a list that wait for a PERSIST to end go back before it, and execute it again in full (R245). -/
def State.leavePersists (s : State) (ts : List Nat) : State :=
  let mine := s.accs.filter (fun a => a.kind == .persist && ts.contains a.tid)
  mine.foldl (fun s a => s.modThread a.tid (fun x => { x with pc := a.runPc, runPc := a.runPc, waitFor := .nothing, tstate := .run }))
    { s with accs := s.accs.filter (fun a => !mine.any (fun e => e.id == a.id)) }

/-- Brings the threads of a team to their boundaries as far as they can go at once (R439). -/
def State.quiesce (s : State) (k : Nat) : State :=
  let ts := s.threadsOf k
  let s := ((s.stopXops ts).leaveUnits ts).leavePersists ts
  let s := ((s.groupsOf k).filter (fun g => (s.group g).live)).foldl (fun s g => s.modGroup g (fun x => { x with rdv := none, copyRdv := none, quads := [] })) s
  (ts.filter (fun t => atRendezvous (s.thread t).waitFor)).foldl (fun s t => s.putBack t) s

/-- Orders a team to stop. -/
def State.orderStop (s : State) (k : Nat) : State := (s.modTeam k (fun m => { m with stopping := true })).quiesce k

/-- Every thread of a team has stopped, and nothing of it is in a unit or on its way to its k registers (R174, R329, R439). -/
def State.teamQuiet (s : State) (k : Nat) : Bool :=
  (s.threadsOf k).all s.stopped && !s.accs.any (fun a => a.kind == .load && s.teamOf a.tid == k && (match a.instr with
    | .ldk .. => true
    | _ => false)) && !s.mreqs.any (fun q => q.ofTeam k) &&
  !s.ops.any (fun o => o.lanes.any (fun l => (s.groupsOf k).contains (gidOf l.tid)))

/-! ## PREEMPTION_ORDER (R117, R439, R442) -/

/-- Copies of a cluster that a pre-emption suspends: those that touch its scratch, and those whose slices are not all
there (R442). -/
def preemptsCopy (cl : Nat) (c : Copy) : Bool := c.cluster == cl && (c.touchesScratch || c.state == .gathering)

/-- Suspends the copies that a pre-emption of a cluster stops. -/
def State.suspendCluster (s : State) (cl : Nat) : State :=
  (s.copies.filter (preemptsCopy cl)).foldl (fun s c => match s.copyOf c.id with
    | some d => s.suspendCopy d
    | none => s) s

/-- A cluster that the firmware may pre-empt: running, and its context neither halted nor in an operation (R444). -/
def State.mayPreempt (s : State) (c : Cluster) : Bool :=
  c.state == .runnable && (s.launches.find c.launch).isSome && s.ctxFree (((s.launches.find c.launch).map (·.ctx)).getD 0)

/-- The firmware pre-empts a cluster: its teams are to be ordered to stop. -/
def State.preempt (s : State) (cl : Nat) : State := s.modCluster cl (fun c => { c with state := .stopping })

/-- The order reaches a team of a cluster that is being pre-empted: its entry becomes PREEMPTED and its threads stop at
boundaries (R117, R439). -/
def State.orderTeam (s : State) (k : Nat) : State :=
  let m := s.team k
  match s.clusters.find m.cluster with
  | some c =>
    if c.state == .stopping && m.kind == .user && m.bind.state == .runnable then
      let s := s.modTeam k (fun m => { m with bind := { m.bind with state := .preempted } })
      (s.orderStop k).suspendCluster m.cluster
    else s
  | none => s

/-- PREEMPTION_ORDER of the team that the subject names. -/
def execPreemptionOrder (s : State) : Out := .next (s.orderTeam s.subj.id)

/-! ## Who refers to a group, by its number (R302, R311, R438) -/

/-- New number of a group. -/
def renum (p : List (Nat × Nat)) (g : Nat) : Nat := ((p.find? (fun q => q.1 == g)).map (·.2)).getD g
/-- New number of a thread. -/
def renumThread (p : List (Nat × Nat)) (t : Nat) : Nat := threadKey (renum p (gidOf t)) (laneOf t)

/-- Waiter of a monitor under a new number: resident below 2^40, away above it. -/
def whoOf (gid lane : Nat) : MonWho :=
  if gid < 2 ^ 40 then .thread (threadKey gid lane)
  else .away ((gid - 2 ^ 40) / 512) ((gid - 2 ^ 40) / 32 % 16) ((gid - 2 ^ 40) % 32) lane

/-- Waiter of a monitor after groups have been renumbered. -/
def MonWho.renum (p : List (Nat × Nat)) : MonWho → MonWho
  | .thread t => whoOf (Machine.renum p (gidOf t)) (laneOf t)
  | .away cl k g l => whoOf (Machine.renum p (awayGid cl k g)) l
  | w => w

/-- Renumbers groups wherever sets, requests, waits, monitors and accesses in flight name them. -/
def State.renumber (s : State) (p : List (Nat × Nat)) : State :=
  { s with
    sets := s.sets.map (fun x =>
      { x with gid := renum p x.gid, lanes := x.lanes.map (fun l => { l with tid := renumThread p l.tid }) }),
    requests := s.requests.map (fun r => { r with gid := renum p r.gid }),
    wft := s.wft.map (fun e => { e with gid := renum p e.gid, tids := e.tids.map (renumThread p) }),
    monitors := s.monitors.map (fun m => { m with who := m.who.renum p }),
    accs := s.accs.map (fun a => { a with tid := renumThread p a.tid }) }

/-! ## TEAM_STOPPED (R117, R440, R441) -/

/-- Scratch of member `i` of a cluster that is on a core: its team's, or what is held for it since the team exited. -/
def State.memberSram (s : State) (cl i : Nat) (m : Member) : Option (Nat × Nat) :=
  if m.savedTeam.isSome then none
  else if m.exited then ((s.core m.core).sramHeld.find? (fun h => h.cluster == cl && h.team == i)).map (fun h => (sramLoc m.core h.base, h.size))
  else let b := (s.team (teamKey m.core m.entry)).bind; some (sramLoc m.core b.scratchBase, b.scratchSize)

/-- No member of a cluster can reach the scratch of another any more: every team of it that is on a core has been ordered to
stop and has stopped, and no access in flight lies in the scratch of a member (R241). -/
def State.clusterQuiet (s : State) (cl : Nat) (c : Cluster) : Bool :=
  c.members.zipIdx.all (fun p =>
    (p.1.exited || p.1.savedTeam.isSome ||
      (let k := teamKey p.1.core p.1.entry
       (s.team k).stopping && s.teamQuiet k)) &&
    match s.memberSram cl p.2 p.1 with
    | some r => !s.accs.any (fun a => overlaps a.pa a.size r.1 r.2)
    | none => true)

/-- A team that has been ordered to stop has stopped, and its scratch may be saved: nothing of its cluster can reach it
(R117, R241). -/
def State.teamStopped (s : State) (k : Nat) : Bool :=
  let m := s.team k
  m.kind == .user && m.bind.state == .preempted && m.stopping && s.teamQuiet k &&
  ((s.clusters.find m.cluster).map (s.clusterQuiet m.cluster)).getD true &&
  !s.copies.any (fun c => preemptsCopy m.cluster c && c.state != .suspended)

/-- The threads of a team as its core keeps them while it is away, by %group × 32 + lane. -/
def State.keepThreads (s : State) (k : Nat) : Tab Thread :=
  (s.groupsOf k).flatMap (fun g => (threadsOfGroup g).map (fun t => ((s.group g).index * 32 + laneOf t, s.thread t)))

/-- Numbers of a team's groups, resident and away. -/
def State.awayPairs (s : State) (k : Nat) : List (Nat × Nat) :=
  (s.groupsOf k).map (fun g => (g, awayGid (s.team k).cluster (s.team k).bind.team (s.group g).index))

/-- What its cluster keeps of a stopped team. -/
def State.keepTeam (s : State) (k : Nat) : State :=
  let m := s.team k
  let ts := s.keepThreads k
  let counts : Tab Nat := (s.groupsOf k).map (fun g => ((s.group g).index, (s.group g).copyCount))
  s.modCluster m.cluster (fun c => { c with members := c.members.mapIdx (fun i x =>
    if i = m.bind.team then { x with savedTeam := some { m with stopping := false }, savedThreads := ts, savedCopyCount := counts } else x) })

/-- The three things a core does when a team has stopped (R117), after its save block has been written (R441). -/
def State.stopTeam (s : State) (k : Nat) : State :=
  let m := s.team k
  let gs := s.groupsOf k
  let p := s.awayPairs k
  let s := (s.saveCopies m.cluster m.bind.team m.bind.ctx m.bind.saveBase).saveState k
  let s := s.saveControl k
  let s := gs.foldl (fun s g => s.evictGroupLines g) s
  let s := (s.keepTeam k).renumber p
  let s := { s with groups := gs.foldl (fun t g => t.del g) s.groups,
                    threads := (gs.flatMap threadsOfGroup).foldl (fun t x => t.del x) s.threads,
                    teams := s.teams.del k }
  s.leaveCore (coreOfTeam k) m.bind.ctx

/-- Scratch held for member `i` of a cluster. -/
def State.heldFor (s : State) (cl i core : Nat) : Option Held :=
  (s.core core).sramHeld.find? (fun h => h.cluster == cl && h.team == i)

/-- The scratch of a team that had exited goes to a save block of its own in the arena, where one fits (R117). -/
def State.saveExited (s : State) (cl i : Nat) (m : Member) : State :=
  match s.heldFor cl i m.core with
  | none => s
  | some h =>
    let c := s.ctxOfCluster cl
    match s.arenaTake c (saveSize h.size 0) with
    | (s, none) => s
    | (s, some off) =>
      let b := (s.ctx c).image.toNat + off
      let s := s.imageWrite c b 8 h.size
      let s := s.saveCopies cl i c b
      let s := s.saveScratch c m.core h.base h.size (b + 0x1A000)
      let s := s.modCluster cl (fun x => { x with members := x.members.mapIdx (fun j y =>
        if j = i then { y with saveBase := BitVec.ofNat 64 b } else y) })
      s.modCore m.core (fun k => { k with sramHeld := k.sramHeld.erase h })

/-- Nothing of a cluster that is being pre-empted is on its cores any more. -/
def State.clusterGone (s : State) (cl : Nat) (c : Cluster) : Bool :=
  c.members.zipIdx.all (fun p => if p.1.exited then (s.heldFor cl p.2 p.1.core).isNone else p.1.savedTeam.isSome)

/-- Ends the pre-emption of a cluster of which every live team has stopped: the scratch of its exited teams is saved, and
its launch has a cluster to place again, for which it waits from now on if it had none (R88, R89, R102, R117). -/
def State.finishPreempt (s : State) (cl : Nat) : State :=
  match s.clusters.find cl with
  | none => s
  | some c =>
    if c.state == .stopping && c.members.all (fun m => m.exited || m.savedTeam.isSome) && s.clusterQuiet cl c then
      let s := (c.members.zipIdx.filter (fun p => p.1.exited)).foldl (fun s p => s.saveExited cl p.2 p.1) s
      match s.clusters.find cl with
      | none => s
      | some c =>
        if s.clusterGone cl c then
          (s.modCluster cl (fun c => { c with state := .preempted, since := s.wall })).modLaunch c.launch (fun l =>
            if l.state == .placed then { l with state := .placing, effPrio := l.prio, ageFrom := s.wall } else l)
        else s
    else s

/-- Key of a member of a cluster on its core. -/
def State.memberKey (s : State) (cl i : Nat) : Option Nat :=
  ((s.clusters.find cl).bind (fun c => c.members[i]?)).bind (fun m =>
    if m.exited || m.savedTeam.isSome then none else some (teamKey m.core m.entry))

/-- TEAM_STOPPED of member `b` of the cluster that the subject names. -/
def execTeamStopped (s : State) : Out :=
  let cl := s.subj.id
  .next (match s.memberKey cl s.subj.b with
    | some k => if s.teamStopped k then (s.stopTeam k).finishPreempt cl else s
    | none => s.finishPreempt cl)

/-! ## REBIND_WRITEBACK_DONE (R118) -/

/-- Address range of the register lines of a team image. -/
def Member.imageRange (m : Member) : Nat × Nat :=
  match m.savedTeam with
  | some t => (m.imageBase.toNat, imageSize t.bind.groups t.bind.regs)
  | none => (0, 0)

/-- A line on a core other than the member's new one that still holds a register of it. -/
def oldLine (c : Nat) (m : Member) (l : RegLine) : Bool :=
  l.ctx == c && l.core != m.core && m.imageRange.1 ≤ l.tag && l.tag < m.imageRange.1 + m.imageRange.2

/-- The old cores write back what they still hold of a cluster that is bound on other cores, and let it go. -/
def State.writeBackOld (s : State) (cl : Nat) (c : Cluster) : State :=
  let x := s.ctxOfCluster cl
  let old := s.lines.filter (fun l => c.members.any (fun m => oldLine x m l))
  let s := (old.filter (·.dirty)).foldl (fun s l => s.writeBack l) s
  let s : State := { s with lines := s.lines.filter (fun l => !old.any (fun o => o.core == l.core && o.ctx == l.ctx && o.tag == l.tag)) }
  s.modCluster cl (fun c => { c with writeback := false })

/-- REBIND_WRITEBACK_DONE of the cluster that the subject names. -/
def execRebindWritebackDone (s : State) : Out :=
  .next (match s.clusters.find s.subj.id with
    | some c => if c.state == .bound && c.writeback then s.writeBackOld s.subj.id c else s
    | none => s)

/-! ## REBIND_RESTORE (R118, R441) -/

/-- Save block of a member of a cluster. -/
def Member.block (m : Member) : Option Nat :=
  match m.savedTeam with
  | some t => some t.bind.saveBase
  | none => if m.saveBase = 0 then none else some m.saveBase.toNat

/-- Units that a member's team held. -/
def State.unitsOfMember (s : State) (c : Nat) (m : Member) : Nat :=
  match m.savedTeam, m.block with
  | some _, some b => s.imageRead c (b + 4) 1
  | _, _ => 0

/-- Units of a core that are free, in rising order. -/
def State.unitsLeft (s : State) (core : Nat) : List Nat := (List.range 16).filter (fun u => !(s.unitsUsed core).contains u)

/-- Enough accumulator units are free on every core of a cluster that is to be restored. -/
def State.unitsRoom (s : State) (c : Nat) (cl : Cluster) : Bool :=
  cl.members.all (fun m => decide (s.unitsOfMember c m ≤ (s.unitsLeft m.core).length))

/-- Step 1 of R441 for one member: scratch, accumulators, configuration, tickets and barriers. An exited team has its
scratch alone, held again on the core of its position, and its save block is free (R117). -/
def State.restoreMember (s : State) (cl c i : Nat) (m : Member) : State :=
  match m.savedTeam, m.block with
  | some _, _ => s.loadState (teamKey m.core m.entry) (s.unitsLeft m.core)
  | none, some b =>
    match s.heldFor cl i m.core with
    | some h => s.loadScratch c m.core h.base h.size (b + 0x1A000)
    | none => s
  | none, none => s

/-- Step 2 of R441: every suspended copy of the cluster, as COPYSTATE holds it, on the engine of its team's new core. -/
def State.restoreCopies (s : State) (c cl : Nat) (ms : List Member) : Option State :=
  (s.copies.filter (fun x => x.cluster == cl && x.state == .suspended)).foldl (fun r x =>
    r.bind (fun s =>
      match ms[x.bind.team]? with
      | none => some s
      | some m =>
        let x := match m.block with
          | some b => s.loadCopy c b x
          | none => x
        let bind := { x.bind with scratchBase := m.scratchBase, imageBase := m.imageBase }
        s.resumeCopy { x with core := m.core, team := teamKey m.core m.entry, bind := bind })) (some s)

/-- Step 3 of R441: the quarantine of every member drains into its scratch; `old` are the copies as they were suspended,
with the places that the tags name. -/
def State.drainMembers (s : State) (c cl : Nat) (ms : List Member) (old : List Copy) : State :=
  let s := ms.zipIdx.foldl (fun s p =>
    let qs := s.quarOf cl p.2 ++ (match p.1.block with
      | some b => s.loadQuar cl p.2 c b
      | none => [])
    let s : State := { s with quar := s.quar.filter (fun q => !(q.cluster == cl && q.owner == p.2)) }
    qs.foldl (fun s q =>
      let x := (old.find? (fun y => y.bind.team == q.team && y.place == q.place)).bind (fun y => s.copyOf y.id)
      s.drainSector q x) s) s
  s.ackDrained (old.map (·.id))

/-- A thread as it goes on after a rebinding: one that only waited for room or for a delay runs, and what its image makes
of it stands (R118, R311). -/
def State.rebornThread (s : State) (c b lane : Nat) (queued : Bool) (t : Thread) : Thread :=
  let t := s.loadThread c b lane t
  match t.waitFor with
  | .hold => if queued then t else { t with waitFor := .nothing }
  | .lineFill => { t with waitFor := .nothing }
  | .bankFill => { t with waitFor := .nothing }
  | .yieldDelay _ => { t with waitFor := .nothing, tstate := .run }
  | _ => t

/-- Group `g` of a restored team in its slot, with its threads (R118). -/
def State.restoreGroup (s : State) (k slot g : Nat) (m : Member) (t : Team) : State :=
  let gid := groupKey (coreOfTeam k) slot
  let b := awayBlock m g
  let c := t.bind.ctx
  let s := s.setGroup gid { Group.reset with live := true, team := k, index := g, kzero := s.loadKzero c b,
                                             copyCount := m.savedCopyCount.at' 0 g }
  (List.range 32).foldl (fun s l =>
    let old := m.savedThreads.at' Thread.reset (g * 32 + l)
    let queued := s.requests.any (fun r => r.slot == 0 && r.gid == gid && r.lanes.getLsbD l)
    let t := s.rebornThread c b l queued old
    let t := { t with reads := [], mt := BitVec.ofNat 32 (s.imageRead c ((m.block.getD 0) + 0x80 + 128 * g + 4 * l) 4) }
    s.setThread (threadKey gid l) t) s

/-- OWNER and CORE of the sets of a group in their headers, after its team has moved (R410). -/
def State.rewriteOwner (s : State) (gid : Nat) : State :=
  (s.sets.filter (fun x => x.gid == gid)).foldl (fun s x =>
    let o := s.ownerOfGroup gid none
    let o := if x.unit == .copy then o / 256 * 256 else o
    let s : State := { s with sets := s.sets.map (fun y => if y.id == x.id then { y with owner := o, core := coreOfGroup gid } else y) }
    s.arenaWrite x.ctx (x.addr.toNat + 0x18) 4 (o + coreOfGroup gid * 2 ^ 16)) s

/-- Spill entries of the monitors of a group name its new place (R310). -/
def State.rewriteSpills (s : State) (gid : Nat) : State :=
  (s.monitors.filter (fun m => match m.who with
    | .thread t => gidOf t == gid
    | _ => false)).foldl (fun s m => s.writeSpill m) s

/-- Step 5 of R441 for one member: the control fields are loaded and its groups stand in their slots. -/
def State.restoreControl (s : State) (cl i : Nat) (m : Member) : State :=
  match m.savedTeam with
  | none => s
  | some _ =>
    let k := teamKey m.core m.entry
    let t := s.loadTeam (s.team k)
    let s := s.setTeam k t
    let slots := slotsOf t.bind.slots
    let s := s.renumber (slots.zipIdx.map (fun p => (awayGid cl i p.2, groupKey m.core p.1)))
    let s := slots.zipIdx.foldl (fun s p => s.restoreGroup k p.1 p.2 m t) s
    let s := slots.foldl (fun s x => (s.rewriteOwner (groupKey m.core x)).rewriteSpills (groupKey m.core x)) s
    s.modCluster cl (fun c => { c with members := c.members.mapIdx (fun j y =>
      if j = i then { y with savedTeam := none, savedThreads := [], savedCopyCount := [] } else y) })

/-- Save blocks of exited teams are free again, and no member keeps anything. -/
def State.dropBlocks (s : State) (c : Nat) (ms : List Member) : State :=
  (ms.filter (fun m => m.saveBase != 0)).foldl (fun s m => s.freeImage c m.saveBase) s

/-- Waits on transaction barriers that have ended while a team was away (R311). -/
def State.wakeTbarWaits (s : State) (k : Nat) : State :=
  (s.threadsOf k).foldl (fun s t =>
    match (s.thread t).waitFor with
    | .tbarWait a ph =>
      match s.scratchLoc k a.toNat 16 with
      | some loc => match (s.tbar loc).waitStatus ph with
        | some v => s.endWait t v
        | none => s
      | none => s
    | _ => s) s

/-- Threads that were returned with .EXIT while they were away exit now (R431). -/
def State.exitMarked (s : State) (k : Nat) : State :=
  ((s.threadsOf k).filter (fun t => (s.thread t).tstate == .exited && (s.thread t).waitFor == .trap)).foldl (fun s t =>
    (s.modThread t (fun x => { x with tstate := .run, waitFor := .nothing })).exitThread t) s

/-- The barrier waits of a team stand under the new place of its scratch in the wait-for table. -/
def State.rekeyTbarWaits (s : State) (k : Nat) : State :=
  { s with wft := s.wft.map (fun e =>
      match e.kind, e.tids with
      | .tbarWait, t :: _ =>
        match (s.thread t).waitFor with
        | .tbarWait a _ => if s.teamOf t == k then { e with obj := (s.scratchLoc k a.toNat 16).getD e.obj } else e
        | _ => e
      | _, _ => e) }

/-- What a restored team finds on its return. -/
def State.wakeTeam (s : State) (k : Nat) : State :=
  let s := ((s.rekeyTbarWaits k).wakeTbarWaits k).wakeTickets k
  s.exitMarked k

/-- Restores a rebound cluster, or leaves it waiting for units, places or scoreboard entries (R441). -/
def State.restoreCluster (s : State) (cl : Nat) (c : Cluster) : State :=
  let x := s.ctxOfCluster cl
  if !s.unitsRoom x c || !s.ctxFree x then s
  else
    let old := s.copies.filter (fun y => y.cluster == cl && y.state == .suspended)
    let s1 := c.members.zipIdx.foldl (fun s p => s.restoreMember cl x p.2 p.1) s
    match s1.restoreCopies x cl c.members with
    | none => s
    | some s2 =>
      let s3 := s2.drainMembers x cl c.members old
      let s4 := c.members.zipIdx.foldl (fun s p => s.restoreControl cl p.2 p.1) s3
      let s5 := (s4.dropBlocks x c.members).modCluster cl (fun c =>
        { c with rebound := false, members := c.members.map (fun m => { m with saveBase := 0 }) })
      let s6 := (c.members.filter (fun m => m.savedTeam.isSome)).foldl (fun s m => s.wakeTeam (teamKey m.core m.entry)) s5
      s6.cbarCheck cl

/-- REBIND_RESTORE of the cluster that the subject names. -/
def execRebindRestore (s : State) : Out :=
  .next (match s.clusters.find s.subj.id with
    | some c => if c.state == .bound && c.rebound && !c.writeback then s.restoreCluster s.subj.id c else s
    | none => s)

end Sys2Proof.Machine
end

