-- ==== Sys2Proof/Machine/Context.lean ====
section
/-! DEFINITION. Context control (21 R443–R446): halt, release and teardown of a context, and the resets of a function (01 R24)
and of the module (01 R18). -/
namespace Sys2Proof.Machine

/-- Keys of the teams of a context that cores hold. -/
def State.teamsOfCtx (s : State) (c : Nat) : List Nat :=
  (s.teams.filter (fun p => p.2.bind.ctx == c && p.2.bind.state != .free)).map (·.1)

/-- Keys of the clusters of a context. -/
def State.clustersOfCtx (s : State) (c : Nat) : List Nat :=
  (s.clusters.filter (fun p => if p.1 < 2 ^ 40 then s.ctxOfCluster p.1 == c
    else (s.team (p.1 - 2 ^ 40)).bind.ctx == c)).map (·.1)

/-! ## HALT (R443, R444) -/

/-- A halt begins: every team of the context, its handlers and its supervisor instances are ordered to stop, and every copy
is suspended. -/
def State.startHalt (s : State) (c : Nat) : State :=
  let s := s.modCtx c (fun x => { x with runBusy := true, runOp := some .halt })
  let s := (s.teamsOfCtx c).foldl (fun s k => s.orderStop k) s
  (s.copies.filter (fun x => x.ctx == c)).foldl (fun s x => match s.copyOf x.id with
    | some d => s.suspendCopy d
    | none => s) s

/-- Nothing of a context runs or is on its way any more. -/
def State.ctxQuiet (s : State) (c : Nat) : Bool :=
  (s.teamsOfCtx c).all s.teamQuiet && !s.accs.any (fun a => a.ctx == c) && !s.ops.any (fun o => o.ctx == c) &&
  !s.copies.any (fun x => x.ctx == c && x.state != .suspended) &&
  !(s.clustersOfCtx c).any (fun k => ((s.clusters.find k).map (·.state)) == some .stopping)

/-- Writes back every dirty register line of a context; the lines stay, clean. -/
def State.cleanLines (s : State) (c : Nat) : State :=
  let s := (s.lines.filter (fun l => l.ctx == c && l.dirty)).foldl (fun s l => s.writeBack l) s
  { s with lines := s.lines.map (fun l => if l.ctx == c then { l with dirty := false } else l) }

/-- Teams of a context whose groups stand on their cores. -/
def State.standing (s : State) (c : Nat) : List Nat :=
  (s.teamsOfCtx c).filter (fun k => (s.groupsOf k).any (fun g => (s.group g).live))

/-- The halt is complete: images hold the registers and the control fields, HALTED sets with STATUS 1 (R444). -/
def State.finishHalt (s : State) (c : Nat) : State :=
  let s := s.cleanLines c
  let s := (s.standing c).foldl (fun s k => s.saveControl k) s
  s.modCtx c (fun x => { x with runBusy := false, runOp := none, halted := true, runStatus := 1 })

/-! ## RESUME (R445) -/

/-- Control fields of one group, read back from its image. -/
def State.reloadGroup (s : State) (c g : Nat) : State :=
  let b := s.groupBlock g
  let s := s.modGroup g (fun x => { x with kzero := s.loadKzero c b })
  (threadsOfGroup g).foldl (fun s t => s.modThread t (fun x =>
    let x := s.loadThread c b (laneOf t) x
    if x.waitFor == .lineFill then { x with waitFor := .nothing } else x)) s

/-- A thread that its image makes EXITED exits (R445). -/
def State.exitReloaded (s : State) (was : List Nat) : State :=
  (was.filter (fun t => !s.alive t)).foldl (fun s t => (s.modThread t (fun x => { x with tstate := .run })).exitThread t) s

/-- Control fields of a team, read back from its image; the team runs again. -/
def State.reloadTeam (s : State) (k : Nat) : State :=
  let was := (s.threadsOf k).filter s.alive
  let s := s.setTeam k { s.loadTeam (s.team k) with stopping := false }
  let s := (s.groupsOf k).foldl (fun s g => s.reloadGroup (s.team k).bind.ctx g) s
  s.exitReloaded was

/-- Copies that a release puts back on their engines: not those that a pre-emption keeps in a save block. -/
def State.haltedCopies (s : State) (c : Nat) : List Copy :=
  s.copies.filter (fun x => x.ctx == c && x.state == .suspended &&
    !(match s.clusters.find x.cluster with
      | some k => (k.state == .preempted || k.rebound) && preemptsCopy x.cluster x
      | none => false))

/-- Copies resume on their engines, all of them or, while places or entries are short, none yet. -/
def State.resumeCopies (s : State) (l : List Copy) : Option State :=
  l.foldl (fun r x => r.bind (fun s => s.resumeCopy x)) (some s)

/-- The quarantine of the halted clusters drains (R442). -/
def State.drainHalted (s : State) (old : List Copy) : State :=
  let qs := s.quar.filter (fun q => old.any (fun y => y.cluster == q.cluster))
  let s : State := { s with quar := s.quar.filter (fun q => !qs.contains q) }
  let s := qs.foldl (fun s q =>
    let x := (old.find? (fun y => y.cluster == q.cluster && y.bind.team == q.team && y.place == q.place)).bind (fun y => s.copyOf y.id)
    s.drainSector q x) s
  s.ackDrained (old.map (·.id))

/-- Monitors that fired during the halt release their waiters (R445). -/
def State.releaseHits (s : State) (c : Nat) : State :=
  (s.monitors.filter (fun m => m.ctx == c && m.hit)).foldl (fun s m => s.fireMonitor m) s

/-- The release, once its copies can resume: lines dropped, control fields reloaded, quarantine drained, copies, messages
and threads go on, STATUS 1 (R445). -/
def State.finishResume (s : State) (c : Nat) : State :=
  let old := s.haltedCopies c
  let s0 : State := { s with lines := s.lines.filter (fun l => l.ctx != c) }
  match s0.resumeCopies old with
  | none => s
  | some s1 =>
    let s2 := s1.modCtx c (fun x => { x with runBusy := false, runOp := none, halted := false, runStatus := 1 })
    let s3 := (s2.standing c).foldl (fun s k => s.reloadTeam k) s2
    let s4 := (s3.teamsOfCtx c).foldl (fun s k => s.modTeam k (fun m => { m with stopping := false })) s3
    let s5 := (s4.drainHalted old).releaseHits c
    (s5.teamsOfCtx c).foldl (fun s k => s.wakeTbarWaits k) s5

/-! ## TEARDOWN (R446) -/

/-- Queue entries of a context end with TORN_DOWN (R85). -/
def State.endLaunches (s : State) (c : Nat) : State :=
  let s := (s.launches.filter (fun p => p.2.ctx == c)).foldl (fun s p => s.tearLaunch p.1) s
  { s with rejected := s.rejected.filter (fun j => j.ctx != c) }

/-- Cores whose engines hold copies of a context. -/
def State.copyCores (s : State) (c : Nat) : List Nat := dedupBy id ((s.copies.filter (fun x => x.ctx == c)).map (·.core))

/-- Copies of a context end with TORN_DOWN: ERR in their barriers, and their stamp where it can be written (R264). -/
def State.endCopies (s : State) (c : Nat) : State :=
  let s := (s.copies.filter (fun x => x.ctx == c && x.state != .stamping)).foldl (fun s x =>
    let s := s.failCopy x 8
    match s.copyOf x.id with
    | some d => s.stampCopy d
    | none => s) s
  { s with copies := s.copies.filter (fun x => x.ctx != c) }

/-- Accesses of a context in flight: loads end; a store, an atomic or a maintenance that has left its core is performed or
not, each a free choice (R446). -/
def State.dropAccesses (s : State) (c : Nat) : State :=
  State.settleMsi <| (s.accs.filter (fun a => a.ctx == c)).foldl (fun s a =>
    let (v, s) := s.free
    if a.kind == .load || v.getLsbD 0 then { s with accs := s.accs.filter (fun x => x.id != a.id) }
    else { s with accs := s.accs.map (fun x => if x.id == a.id then { x with launch := none, tid := threadKey (2 ^ 51) 0 } else x) }) s

/-- Bundles, operations and matrix requests of a context. -/
def State.dropWork (s : State) (c : Nat) : State :=
  { s with issue := s.issue.filter (fun b => s.bundleCtx b != c), held := s.held.filter (fun b => s.bundleCtx b != c),
           ops := s.ops.filter (fun o => o.ctx != c),
           mreqs := s.mreqs.filter (fun q => q.ctx != c) }

/-- What replay, monitors and waits hold for a context. -/
def State.dropWaits (s : State) (c : Nat) : State :=
  let tids := fun (t : Nat) => if gidOf t < 2 ^ 40 then s.ctxOf t == c
    else (s.awayMember (gidOf t)).any (fun p => s.ctxOfCluster p.1 == c)
  { s with sets := s.sets.filter (fun x => x.ctx != c), batches := s.batches.filter (fun b => b.ctx != c),
           requests := s.requests.filter (fun r => r.ctx != c), monitors := s.monitors.filter (fun m => m.ctx != c),
           wft := s.wft.filter (fun e => !e.tids.any tids), decls := s.decls.filter (fun d => d.ctx != c) }

/-- Teams, groups, threads, lines and clusters of a context. -/
def State.dropTeams (s : State) (c : Nat) : State :=
  let ks := s.teamsOfCtx c
  let gs := ks.flatMap (fun k => s.groupsOf k)
  let cls := s.clustersOfCtx c
  let core := fun (k : Core) =>
    { k with ctxs := k.ctxs.map (fun y => if y == c then 0xFF else y), banks := k.banks.filter (fun q => q.2 != c),
             sramHeld := k.sramHeld.filter (fun h => !cls.contains h.cluster),
             outbound := k.outbound.filter (fun m => m.ctx != c),
             ibuf := k.ibuf.filter (fun l => l.ctx % 64 != c), svCur := if k.svCur == some c then none else k.svCur,
             l1Cluster := if (k.l1Cluster.map (fun x => cls.contains x)) == some true then none else k.l1Cluster }
  { s with groups := s.groups.filter (fun p => !gs.contains p.1),
           threads := s.threads.filter (fun p => !gs.contains (gidOf p.1)),
           teams := s.teams.filter (fun p => !ks.contains p.1), lines := s.lines.filter (fun l => l.ctx != c),
           clusters := s.clusters.filter (fun p => !cls.contains p.1),
           quar := s.quar.filter (fun q => !cls.contains q.cluster),
           cores := s.cores.map (fun p => (p.1, core p.2)) }

/-- Unlocks the frames of an arena (R107). -/
def State.unlockArena (s : State) (t : Tab DWord) : State :=
  let bs := arenaBlocks t
  { s with frames := s.frames.map (fun f => if bs.contains f.block then { f with locks := f.locks - 1 } else f) }

/-- The device's own record of a context is gone: arena, bind table, Kaolin record, supervisor marks. -/
def Ctx.tornDown (x : Ctx) : Ctx :=
  { x with pinned := false, pinning := false, arena := [], spillInForce := 0, rplInForce := 0, allocs := [], binds := [],
           kImage := [], kBinds := [], svLost := [], svPending := [], svBad := [], credit := [], halted := false,
           tearNext := false, runBusy := true, runOp := some .teardown }

/-- Ends a context (R446): every thread stops without save and everything the device holds for it is discarded; the places of
its copies are free for the groups of other contexts (R251). -/
def State.startTeardown (s : State) (c : Nat) : State :=
  let cores := s.copyCores c
  let s := s.endCopies c
  let s := (s.dropAccesses c).dropWork c
  let s := s.dropWaits c
  let s := cores.foldl (fun s k => (s.engineIdle k).placesFreed k) (s.dropTeams c)
  let s := s.endLaunches c
  let s := s.release c 0 (2 ^ 45)
  let s := if s.marl.owner == some c then { s with marl := Marl.reset } else s
  let s := if (s.ctx c).pinned then s.unlockArena (s.ctx c).arena else s
  s.modCtx c Ctx.tornDown

/-- Nothing of a torn-down context is left: BUSY clears with STATUS 1. -/
def State.finishTeardown (s : State) (c : Nat) : State :=
  if s.accs.any (fun a => a.ctx == c) then s
  else s.modCtx c (fun x => { x with runBusy := false, runOp := none, runStatus := 1 })

/-! ## CTX_RUNCTL (R443) -/

/-- A write of CTX_RUNCTL by function `f`. A function that does not own the context sees no such register, and its write is
ignored. -/
def State.runCtl (s : State) (f c : Nat) (v : Nat) : State :=
  let x := s.ctx c
  let bad := fun (s : State) => s.modCtx c (fun x => { x with runStatus := 3 })
  if !s.sees f c then s
  else if x.runBusy then (if v % 8 = 1 then s.modCtx c (fun x => { x with tearNext := true }) else s)
  else
    match v % 8 with
    | 0 => s
    | 1 => s.startTeardown c
    | 2 => if x.halted then bad s else s.startHalt c
    | 4 => if x.halted then s.modCtx c (fun x => { x with runBusy := true, runOp := some .resume }) else bad s
    | _ => bad s

/-- A teardown that was asked for during an operation is taken when it ends. -/
def State.takeNext (s : State) (c : Nat) : State :=
  if (s.ctx c).tearNext && (s.ctx c).runOp.isNone then s.startTeardown c else s

/-- HALT of the context that the subject names, by the function it names. -/
def execHalt (s : State) : Out := .next (s.runCtl s.subj.f s.subj.c 2)

/-- HALT_DONE of the context that the subject names (R444). -/
def execHaltDone (s : State) : Out :=
  let c := s.subj.c
  .next (if (s.ctx c).runOp == some .halt && s.ctxQuiet c then (s.finishHalt c).takeNext c else s)

/-- RESUME of the context that the subject names: it begins with the write, and goes on until its copies have found places
(R445, R251). -/
def execResume (s : State) : Out :=
  let c := s.subj.c
  .next (let s := s.runCtl s.subj.f c 4
    if (s.ctx c).runOp == some .resume then (s.finishResume c).takeNext c else s)

/-- TEARDOWN of the context that the subject names, by the function it names. -/
def execTeardown (s : State) : Out := .next (s.runCtl s.subj.f s.subj.c 1)

/-- TEARDOWN_DONE of the context that the subject names. -/
def execTeardownDone (s : State) : Out :=
  .next (if (s.ctx s.subj.c).runOp == some .teardown then s.finishTeardown s.subj.c else s)

/-! ## Resets -/

/-- A context's registers after a reset of its function, the teardown in progress apart (R6). -/
def Ctx.afterReset (x : Ctx) : Ctx :=
  { Ctx.reset with runBusy := x.runBusy, runOp := x.runOp }

/-- Contexts that a function owns. -/
def State.ctxsOf (s : State) (f : Nat) : List Nat := (List.range 64).filter (fun c => s.ownerOf c == f)

/-- A context is torn down by a reset, at once even during an operation (R446). -/
def State.resetCtx (s : State) (c : Nat) : State :=
  let s := if (s.ctx c).runOp == some .teardown then s else s.startTeardown c
  s.modCtx c Ctx.afterReset

/-- BUDGET that a limit in watts gives every core (R105). -/
def budgetOf (limit : Nat) : Nat := min 64 (max 1 (64 * limit / 1400))

/-- Every core has the budget of the limit. -/
def State.applyBudget (s : State) : State :=
  let b := budgetOf s.dev.limitW.toNat
  (List.range coreCount).foldl (fun s c => s.modCore c (fun k => { k with budget := b }))
    (s.modDev (fun d => { d with applying := false }))

/-- The physical function's own registers after its reset: what reports the module's draw and heat stands. -/
def Dev.afterReset (d : Dev) : Dev :=
  { Dev.reset with powerNow := d.powerNow, throttled := d.throttled, tripped := d.tripped, clk100 := d.clk100,
                   temp0 := d.temp0, temp1 := d.temp1 }

/-- A reset of the physical function ends the sessions of every virtual function and tears their contexts down (R24). What
their FEAT_CTL and FEAT_ACCEPT then read is the model's choice: STATUS 0, and the word last written (log 80). -/
def State.endVirtual (s : State) : State :=
  let s := ((List.range 64).filter (fun c => s.ownerOf c != 0)).foldl (fun s c =>
    if (s.ctx c).runOp == some .teardown then s else s.startTeardown c) s
  (List.range 33).tail.foldl (fun s f => if (s.func f).session then s.modFunc f (fun x => { x with session := false, featStatus := 0 }) else s) s

/-- FUNCTION_LEVEL_RESET of the function that the subject names (R24, R446): its contexts are torn down, and its registers
return to their reset values (R6). READY and COL_READY are the physical function's: its reset clears them, and the blocks report
themselves ready again (R18; log 80). -/
def execFunctionLevelReset (s : State) : Out :=
  let f := s.subj.f
  .next (let s := (s.ctxsOf f).foldl (fun s c => s.resetCtx c) s
    let s := s.setFunc f Func.reset
    if f = 0 then
      ({ s.endVirtual with dev := s.dev.afterReset, boot := { s.boot with ready := 1, colReady := 0 } } : State).applyBudget
    else s)

/-- Bytes that a reset of the module leaves: the pool's and the host's memory. -/
def State.outerBytes (s : State) : List Host.Cell := s.mem.filter (fun p => isPool p.1 || isHostMem p.1)

/-- A sector outside the module. -/
def outerSector (sec : Nat) : Bool := isPool (sec * 32) || isHostMem (sec * 32)

/-- Everything that the module holds is at its reset value; what stands outside it, and the flash, stays. -/
def State.afterReset (s : State) : State :=
  { State.reset with
    inputs := s.inputs, subj := s.subj, freeCount := s.freeCount, nextId := s.nextId,
    boot := { Boot.reset with flash := s.boot.flash }, mem := s.outerBytes,
    poison := s.poison.filter outerSector, sectorKey := s.sectorKey.filter (fun p => outerSector p.1),
    notDurable := s.notDurable, msix := s.msix }

/-- MODULE_RESET: every register at its reset value, every ready bit clear, the boot sequence begins (R16, R18). -/
def execModuleReset (s : State) : Out := .next s.afterReset

end Sys2Proof.Machine
end

