-- ==== Sys2Proof/Machine/Boot.lean ====
section
/-! DEFINITION. Boot, readiness and the security core's mailbox (01 R16–R20; 26 R487–R490), block failures (21 R451), power
and temperature (26 R484–R486), and the loss of power (11 R226). -/
namespace Sys2Proof.Machine

/-! ## The firmware check (R16, R17) -/

/-- Enters the recovery loader with a cause: READY keeps CTL_LINK and SEC_CORE. -/
def State.recover (s : State) (cause : BitVec 4) : State :=
  s.modBoot (fun b => { b with state := 3, failCause := cause, ready := b.ready &&& 3, colReady := 0 })

/-- FAIL_CAUSE of an image that the security core refuses. -/
def refusalCause (v : Nat) : BitVec 4 := if v = 3 then 3 else 2

/-- An access to the flash may fail: a free choice at each (R17; log 5). -/
def State.flashFails (s : State) : Bool × State := ((s.free).1.getLsbD 0, (s.free).2)

/-- FIRMWARE_CHECK_DONE: the flash image passes and the scheduler cores are released, or the loader is entered. -/
def execFirmwareCheckDone (s : State) : Out :=
  .next (
    if s.boot.state != 1 then s
    else
      match s.boot.flash with
      | none => s.recover 1
      | some img =>
        let (fails, s) := s.flashFails
        if fails then s.recover 4
        else if imageVerdict img = 0 then s.modBoot (fun b => { b with state := 2, failCause := 0 })
        else s.recover (refusalCause (imageVerdict img)))

/-! ## Readiness (R18–R20) -/

/-- BLOCK_READY of READY bit `b`: any block once the firmware runs, and the security core in every boot state. The requests that
were held for a port go out with it (R19). -/
def execBlockReady (s : State) : Out :=
  .next (if s.subj.b = 1 || (2 ≤ s.subj.b && s.subj.b ≤ 12 && s.boot.state == 2) then
      let s := s.modBoot (fun b => { b with ready := b.ready ||| (1#32 <<< s.subj.b) })
      if 6 ≤ s.subj.b && s.subj.b ≤ 9 then { s with heldReqs := [] } else s
    else s)

/-- COLUMN_READY of COL_READY bit `b`: 0–11 on die 0, 16–27 on die 1. -/
def execColumnReady (s : State) : Out :=
  .next (if s.subj.b < 32 && s.subj.b % 16 < 12 && s.boot.state == 2 then
      s.modBoot (fun b => { b with colReady := b.colReady ||| (1#32 <<< s.subj.b) })
    else s)

/-- BLOCK_FAILURE of READY bit `b`, which stays set (R18, R451). -/
def execBlockFailure (s : State) : Out :=
  .next (if s.subj.b < 32 && s.boot.ready.getLsbD s.subj.b then
      { s.modDev (fun d => { d with blockFail := true }) with msix := s.msix ++ [(0, 2)] }
    else s)

/-! ## The mailbox (R487, R488) -/

/-- The message that MB_DATA holds. -/
def Func.message (x : Func) : List Byte := (List.range x.mbLen.toNat).map (x.mbData.at' 0)

/-- The function whose message is served next: the lowest that has sent one. -/
def State.mbNext (s : State) : Option Nat := (List.range 33).find? (fun f => (s.func f).mbBusy)

/-- The end of a message: STATUS, the response and its length, and BUSY 0. -/
def State.mbEnd (s : State) (f : Nat) (status : BitVec 3) (resp : List Byte) : State :=
  let r := resp.take 1792
  s.modFunc f (fun x =>
    { x with mbBusy := false, mbStatus := status, mbLen := BitVec.ofNat 11 r.length,
             mbData := (r.mapIdx (fun i b => (i, b))).foldl (fun t p => t.put p.1 p.2) x.mbData })

/-- A message of kind `k` of function `f` is the one to be served, and its kind is in scope for the function and the boot state;
otherwise it ends with STATUS 3. -/
def State.mbServe (s : State) (k : Nat) (scope : Bool) (g : State → State) : State :=
  let f := s.subj.f
  let x := s.func f
  if !x.mbBusy || x.mbKind.toNat != k || s.mbNext != some f || !s.boot.ready.getLsbD 1 then s
  else if !scope then s.mbEnd f 3 []
  else g s

/-- GO of MB_CTL: a message is sent, unless its kind or its length does not exist. -/
def State.mbSend (s : State) (f kind len : Nat) : State :=
  let s := s.modFunc f (fun x => { x with mbKind := BitVec.ofNat 4 kind, mbLen := BitVec.ofNat 11 len })
  let status := fun (n : Nat) => s.modFunc f (fun x => { x with mbStatus := BitVec.ofNat 3 n })
  if kind = 0 || kind > 5 then status 2
  else if len > 1792 then status 4
  else s.modFunc f (fun x => { x with mbBusy := true })

/-- The firmware image that runs, which SPDM measures (R489): none in the recovery loader. -/
def State.runningImage (s : State) : Option (List Byte) := if s.boot.state = 2 then s.boot.flash else none

/-- What the security core answers to an SPDM message of function `f`: it measures the running image, the feature offer and
DEVMEM_CTL (R488, R489; log 5). -/
def State.spdmAnswer (s : State) (f : Nat) : List Byte :=
  spdmResponse s.freeCount f s.runningImage (s.offer 0) s.dev.devmemGib.toNat (s.func f).message

/-- MB_SPDM of function `f`: one SPDM 1.3 message; the response is the security core's. -/
def execMbSpdm (s : State) : Out :=
  .next (s.mbServe 1 (s.boot.state != 1) (fun s => (s.free).2.mbEnd s.subj.f 1 (s.spdmAnswer s.subj.f)))

/-- MB_IMAGE_CHUNK: bytes join the image being received, or begin a new one. -/
def execMbImageChunk (s : State) : Out :=
  .next (s.mbServe 2 (s.subj.f == 0 && s.inLoader) (fun s =>
    let m := (s.func 0).message
    let s := s.modBoot (fun b => { b with rxImage := if b.state = 4 then b.rxImage ++ m else m, state := 4 })
    s.mbEnd 0 1 []))

/-- MB_IMAGE_COMMIT: the received image is checked, and written to flash if it passes (R17). The message of one whose flash
write fails ends with STATUS 1, done: the spec states the boot state alone (log 79). -/
def execMbImageCommit (s : State) : Out :=
  .next (s.mbServe 3 (s.subj.f == 0 && s.boot.state == 4) (fun s =>
    let img := s.boot.rxImage
    if imageVerdict img ≠ 0 then
      (s.modBoot (fun b => { b with state := 5, failCause := refusalCause (imageVerdict img) })).mbEnd 0 5 []
    else
      let (fails, s) := s.flashFails
      if fails then (s.modBoot (fun b => { b with state := 5, failCause := 4, flash := none })).mbEnd 0 1 []
      else (s.modBoot (fun b => { b with state := 6, failCause := 0, flash := some img })).mbEnd 0 1 []))

/-- Sectors written under a key index that have left the package: none of their bytes is held on the dies (R225). -/
def State.leftUnder (s : State) (k : Nat) : List Nat :=
  (s.sectorKey.filter (fun p => p.2 == k && !s.dir.any (fun d => overlaps d.base d.size (p.1 * 32) 32))).map (·.1)

/-- The key of an index changes: a sector that left under the old one is read by no index without a mismatch (R490). -/
def State.rekey (s : State) (k : Nat) (v : Option (BitVec 512)) : State :=
  if s.boot.keys.find k == v then s
  else
    let gone := s.leftUnder k
    let s : State := { s with sectorKey := s.sectorKey.map (fun p => if gone.contains p.1 then (p.1, 256 + k) else p) }
    s.modBoot (fun b => { b with keys := match v with | some x => b.keys.put k x | none => b.keys.del k })

/-- MB_KEY_SET: index, three reserved bytes of 0, and 64 bytes of key (R488, R490). -/
def execMbKeySet (s : State) : Out :=
  .next (s.mbServe 4 (s.subj.f == 0 && s.boot.state == 2) (fun s =>
    let m := (s.func 0).message
    if m.length ≠ 68 then s.mbEnd 0 4 []
    else if ofBytes (m.take 1) = 0 || ofBytes ((m.drop 1).take 3) ≠ 0 then s.mbEnd 0 5 []
    else (s.rekey (ofBytes (m.take 1)) (some (BitVec.ofNat 512 (ofBytes (m.drop 4))))).mbEnd 0 1 []))

/-- MB_KEY_CLEAR: index (R488, R490). -/
def execMbKeyClear (s : State) : Out :=
  .next (s.mbServe 5 (s.subj.f == 0 && s.boot.state == 2) (fun s =>
    let m := (s.func 0).message
    if m.length ≠ 1 then s.mbEnd 0 4 []
    else if ofBytes m = 0 then s.mbEnd 0 5 []
    else (s.rekey (ofBytes m) none).mbEnd 0 1 []))

/-! ## Power and temperature (R484–R486) -/

/-- A write of POWER_CTL: LIMIT_W within 600–1,400, and APPLYING. -/
def State.powerWrite (s : State) (v : Nat) : State :=
  s.modDev (fun d => { d with limitW := BitVec.ofNat 11 (max 600 (min 1400 (v % 2048))), applying := true })

/-- POWER_LIMIT_WRITE: the physical function writes `v`. -/
def execPowerLimitWrite (s : State) : Out := .next (if s.subj.f = 0 && !s.inLoader then s.powerWrite s.subj.v.toNat else s)

/-- BUDGET_APPLIED: both scheduler cores have rewritten BUDGET (R105, R485). -/
def execBudgetApplied (s : State) : Out :=
  .next (if s.dev.applying && s.boot.ready.getLsbD 2 && s.boot.ready.getLsbD 3 && !s.dev.tripped then s.applyBudget else s)

/-- The junctions reach `a` °C on die 0 and `b` °C on die 1. -/
def State.heat (s : State) : State :=
  s.modDev (fun d => { d with temp0 := BitVec.ofNat 8 s.subj.a, temp1 := BitVec.ofNat 8 s.subj.b })

/-- Sets the arithmetic clock, in units of 100 MHz. -/
def State.setClock (s : State) (n : Nat) : State :=
  s.modDev (fun d => { d with clk100 := BitVec.ofNat 8 n, throttled := n < 36 })

/-- THERMAL_THROTTLE: a junction at 105 °C or more lowers the clock by one step, to no less than 1.2 GHz. -/
def execThermalThrottle (s : State) : Out :=
  .next (let s := s.heat
    if max s.subj.a s.subj.b ≥ 105 && !s.dev.tripped then s.setClock (max 12 (s.dev.clk100.toNat - 1)) else s)

/-- THERMAL_UNTHROTTLE: both dies below 100 °C raise it by one step. -/
def execThermalUnthrottle (s : State) : Out :=
  .next (let s := s.heat
    if max s.subj.a s.subj.b < 100 && !s.dev.tripped then s.setClock (min 36 (s.dev.clk100.toNat + 1)) else s)

/-- THERMAL_TRIP: a junction at 115 °C or more stops the cores and the engines until a module reset. -/
def execThermalTrip (s : State) : Out :=
  .next (let s := s.heat
    if max s.subj.a s.subj.b ≥ 115 && !s.dev.tripped then
      { s.modDev (fun d => { d with tripped := true }) with msix := s.msix ++ [(0, 2)] }
    else s)

/-! ## Loss of power (R226, R486) -/

/-- A persistent sector that was not durable comes back with its last durable value, with one written to it later, or as it
stands: a free choice. -/
def State.loseSector (s : State) (sec : Nat) (old : List (BitVec 256)) : State :=
  let (v, s) := s.free
  match old[v.toNat % (old.length + 1)]? with
  | some x => s.setBytes (sec * 32) (bytesOf 32 x.toNat)
  | none => s

/-- Eight bytes of pool or host memory whose newest data were in the module: free values. -/
def State.loseWord (s : State) (loc : Nat) : State :=
  let (v, s) := s.free
  s.setBytes loc (bytesOf 8 v.toNat)

/-- Data that only the dies and GDDR-7 held are lost: persistent sectors are durable or newer, dirty units of frames are
whatever the memory behind them holds. -/
def State.loseData (s : State) : State :=
  let s := s.notDurable.foldl (fun s p => s.loseSector p.1 p.2) s
  s.frames.foldl (fun s f => f.dirty.foldl (fun s u =>
    (List.range 64).foldl (fun s i => s.loseWord (f.block * 65536 + u * 512 + 8 * i)) s) s) s

/-- The module without power: what it held is gone, and nothing runs until power returns with a module reset. -/
def State.powerOff (s : State) : State := { s.loseData.afterReset with powered := false, notDurable := [] }

/-- THERMAL_POWER_OFF: a junction at 125 °C or more removes the module's power. -/
def execThermalPowerOff (s : State) : Out := .next (if max s.subj.a s.subj.b ≥ 125 then s.powerOff else s.heat)

/-- LOSS_OF_POWER: the supply is lost. -/
def execLossOfPower (s : State) : Out := .next s.powerOff

end Sys2Proof.Machine
end

