-- ==== Sys2Proof/Machine/Control.lean ====
section
/-! DEFINITION. Majors 0x34, 0x35 and 0x3E and the hint words: branches, calls, exits (09 R175–R181; 07 R127–R131,
R140), the uniform instructions (09 R171–R174), and the hints (03 R47–R54). -/
namespace Sys2Proof.Machine

/-! ## Hint words (R48, R49) -/

/-- A hint may follow the hints of a run: none of its kind or a later kind stands there (R48). -/
def hintFits (h : Hints) (kind : Nat) : Bool :=
  match kind with
  | 3 => h.sched.isNone && h.mod.isNone && h.src.isNone && h.x1.isNone
  | 1 => h.mod.isNone && h.src.isNone && h.x1.isNone
  | 2 => h.src.isNone && h.x1.isNone
  | _ => h.x2.isNone

/-- The hints of a run after one more. -/
def hintAdd (h : Hints) (kind : Nat) (p : BitVec 24) : Hints :=
  if !hintFits h kind then { h with bad := true }
  else
    match kind with
    | 3 => { h with sched := some p }
    | 1 => { h with mod := some p }
    | 2 => { h with src := some p }
    | _ => if h.x1.isNone then { h with x1 := some p } else { h with x2 := some p }

/-- A hint word of the run in hand (R48, R49): it takes an issue slot and leaves the bundle as it is. A run that breaks
R48 traps as a whole at its hinted instruction (R58), or at a sixth hint word, which no run can hold. -/
def State.hintOut (s : State) (f : Hints → Hints) : Out :=
  match s.issue with
  | [] => .fault .noBundle
  | b :: rest =>
    if (b.pc - b.runPc).toNat ≥ 20 then
      .next ({ s with issue := rest }.decodeTraps b (b.threads.map (fun t => (t, Cause.illegal))))
    else .next { s with issue := { b with hints := f b.hints, pc := b.pc + 4 } :: rest }

/-- XIMM (R47). -/
def execXimm (x : BitVec 24) (s : State) : Out := s.hintOut (fun h => hintAdd h 0 x)
/-- MOD (R51). -/
def execMod (g : BitVec 3) (sn : Bool) (r : BitVec 3) (t u : Bool) (c : BitVec 3) (h : BitVec 2) (y x : BitVec 5)
    (s : State) : Out :=
  s.hintOut (fun p => hintAdd p 1 ((encode (.mod g sn r t u c h y x)).extractLsb' 0 24))
/-- SRC (R54). -/
def execSrc (v : Bool) (c : BitVec 7) (k : Bool) (q : BitVec 6) (s : State) : Out :=
  s.hintOut (fun h => hintAdd h 2 ((encode (.src v c k q)).extractLsb' 0 24))
/-- SCHED (R54). -/
def execSched (t : BitVec 4) (y : Bool) (s : State) : Out :=
  s.hintOut (fun h => hintAdd h 3 ((encode (.sched t y)).extractLsb' 0 24))

/-! ## Moving a thread -/

/-- Moves a thread to an address: the PC holds bits [56:0] (R122). -/
def State.jump (s : State) (t : Nat) (pc : Nat) : State :=
  s.modThread t (fun x => { x with pc := BitVec.ofNat 57 pc, runPc := BitVec.ofNat 57 pc })

/-- Asks for the line of an address in a core's instruction buffer, unless it is there or on its way (R124, R127); the
least recently used line makes way. -/
def State.requestLine (s : State) (core c va : Nat) : State :=
  s.modCore core (fun k =>
    if k.ibuf.any (fun l => l.ctx == c && l.va == va / 64) then k
    else
      let keep := if k.ibuf.length < ibufLines then k.ibuf
        else match minBy (fun l : ILine => l.used) (k.ibuf.filter (fun l => l.words.isSome)) with
          | some v => k.ibuf.erase v
          | none => k.ibuf.drop 1
      { k with ibuf := keep ++ [({ ctx := c, va := va / 64, words := none, used := s.clk } : ILine)] })

/-- Path order of a split (R127): the lines of the two paths are asked for, the one the hint names first. -/
def State.askPaths (s : State) (b : Bundle) (taken fall : Nat) (hint : Bool) : State :=
  let c := s.bundleFetch b
  let (x, y) := if hint then (fall, taken) else (taken, fall)
  (s.requestLine b.core c x).requestLine b.core c y

/-- Target of a WB word (R55). -/
def braTarget (b : Bundle) (o : BitVec 21) : Nat :=
  wrapInt 57 ((b.pc.toNat : Int) + 4 * signedOf 21 o.toNat)

/-- The branch of R55 for the threads of a bundle. -/
def State.branch (s : State) (b : Bundle) (act : List Nat) (p : BitVec 3) (sense hint : Bool) (o : BitVec 21) : State :=
  let tgt := braTarget b o
  let (taken, stay) := act.partition (fun t => (s.thread t).pred p.toNat != sense)
  let s := if taken.isEmpty || stay.isEmpty then s else s.askPaths b tgt (b.pc + 4).toNat hint
  taken.foldl (fun s t => s.jump t tgt) s

/-- BRA (R55, R175). -/
def execBra (p : BitVec 3) (sense hint : Bool) (o : BitVec 21) (s : State) : Out :=
  s.issueWord (.bra p sense hint o) (fun b act s => s.branch b act p sense hint o)

/-- The stack update of BRA.D for one thread (R129); `j` is the join point. -/
def State.pushEntry (s : State) (t : Nat) (j : Int) : State :=
  let k := s.teamOf t
  let m := s.team k
  let d := (s.thread t).depth
  let off := (j - m.bind.entryPc.toNat) / 4
  let fits := decide (-(2 ^ 31) ≤ off) && decide (off < 2 ^ 31)
  if fits && m.rstack.length == d && m.rstack.length < 32 then
    (s.modTeam k (fun m => { m with rstack := m.rstack ++ [{ join := off, pending := 1, since := none }] })).modThread t
      (fun x => { x with depth := d + 1 })
  else
    match m.rstack[d]? with
    | some e =>
      if fits && m.rstack.length == d + 1 && e.join == off then
        (s.modTeam k (fun m => { m with rstack := m.rstack.set d { e with pending := e.pending + 1 } })).modThread t
          (fun x => { x with depth := d + 1 })
      else s
    | none => s

/-- BRA.D (R55, R129). -/
def execBraD (p : BitVec 3) (sense hint : Bool) (o : BitVec 21) (s : State) : Out :=
  s.issueWord (.braD p sense hint o) (fun b act s =>
    let j : Int := (b.pc.toNat : Int) + 4 * signedOf 24 (hXcat b.hints)
    (act.foldl (fun s t => s.pushEntry t j) s).branch b act p sense hint o)

/-- JOIN for one thread at its address `j` (R130): a counted thread waits there. -/
def State.joinThread (s : State) (t : Nat) (j : VA) : State :=
  let k := s.teamOf t
  let m := s.team k
  let d := (s.thread t).depth
  match m.rstack.getLast? with
  | some e =>
    if d ≥ 1 && d == m.rstack.length && joinAddr m e == (j.toNat : Int) then
      let e' := { e with pending := e.pending - 1, since := some (e.since.getD s.clk) }
      let s := s.modTeam k (fun m => { m with rstack := m.rstack.set (d - 1) e' })
      let s := s.modThread t (fun x => { (x.block .join s.wall) with pc := j, runPc := j })
      s.releaseDone k 33
    else s
  | none => s

/-- JOIN (R130, R178). -/
def execJoin (s : State) : Out := s.issueWord .join (fun b act s => act.foldl (fun s t => s.joinThread t b.pc) s)

/-! ## Indirect branches (R176, R177) -/

/-- Moves a thread to a 64-bit target, with its link where it has one. -/
def State.goto64 (s : State) (b : Bundle) (t tgt : Nat) (link : Option (BitVec 7)) : State :=
  let s := match link with
    | some d => s.writeDst t d 64 (b.pc + 4).toNat
    | none => s
  s.jump t tgt

/-- The fetch fault of threads that have moved to a target with bits [63:57] set (R134, R177). -/
def State.farFault (s : State) (ts : List Nat) (tgt : Nat) : State :=
  s.trap ts .permission (BitVec.ofNat 57 tgt) (BitVec.ofNat 57 (tgt + 4)) (fun _ => { info0 := tgt, info1 := 2 })

/-- Moves threads to 64-bit targets: MISALIGN at the branch where one is no multiple of 4; with bits [63:57] set a thread
moves, and takes the fetch fault at its target (R176, R177). Threads of one group that trap here share a request (R426). -/
def State.gotoAll (s : State) (b : Bundle) (ts : List (Nat × Nat)) (link : Option (BitVec 7)) : State :=
  let (bad, good) := ts.partition (fun p => p.2 % 4 ≠ 0)
  let tgt := fun (t : Nat) => ((bad.find? (fun p => p.1 == t)).map (·.2)).getD 0
  let s := s.trapAt b (bad.map (·.1)) .misalign (fun t => { info0 := tgt t })
  let s := good.foldl (fun s p => s.goto64 b p.1 p.2 link) s
  let far := good.filter (fun p => 2 ^ 57 ≤ p.2)
  (dedupBy (·.2) far).foldl (fun s p => s.farFault ((far.filter (fun q => q.2 == p.2)).map (·.1)) p.2) s

/-- CALL (R176). -/
def execCall (d a : BitVec 7) (n : Bool) (s : State) : Out :=
  s.issueWord (.call d a n) (fun b act s =>
    let tgt := fun (t : Nat) =>
      let v := arg (s.operands b.hints t (formOf b.hints (.call d a n))) 0
      if xmodBit b.hints 0 then (b.pc.toNat + 4 * v) % 2 ^ 64 else v
    s.gotoAll b (act.map (fun t => (t, tgt t))) (some d))
/-- RET (R177). -/
def execRet (a : BitVec 7) (s : State) : Out :=
  s.issueWord (.ret a) (fun b act s =>
    s.gotoAll b (act.map (fun t => (t, arg (s.operands b.hints t (formOf b.hints (.ret a))) 0))) none)
/-- BRX (R177). -/
def execBrx (a : BitVec 7) (s : State) : Out :=
  s.issueWord (.brx a) (fun b act s =>
    s.gotoAll b (act.map (fun t => (t, arg (s.operands b.hints t (formOf b.hints (.brx a))) 0))) none)

/-! ## Exits, yields (R140, R179, R180, R181) -/

/-- A supervisor thread traps at EXIT and EXIT.H with ILLEGAL (R179); the threads left. -/
def State.exitSup (s : State) (b : Bundle) (act : List Nat) : State × List Nat :=
  let (sup, rest) := act.partition s.isSup
  (s.trapAt b sup .illegal (fun _ => { info0 := (s.bundleWord b).toNat }), rest)

/-- EXIT (R179). -/
def execExit (s : State) : Out :=
  s.issueWord .exit (fun b act s =>
    let (s, rest) := s.exitSup b act
    rest.foldl (fun s t => s.exitThread t) s)
/-- EXIT.H (R140, R179): a helper exits; another thread becomes a helper. When only helpers are left in its group they
exit. -/
def execExitH (s : State) : Out :=
  s.issueWord .exitH (fun b act s =>
    let (s, rest) := s.exitSup b act
    let (hs, ts) := rest.partition (fun t => (s.thread t).helper)
    let s := hs.foldl (fun s t => s.exitThread t) s
    let s := ts.foldl (fun s t => s.modThread t (fun x => { x with helper := true })) s
    ts.foldl (fun s t =>
      let left := (threadsOfGroup (gidOf t)).filter s.alive
      if left.all (fun u => (s.thread u).helper) then s.exitThread t else s) s)

/-- YIELD (R180). -/
def execYield (a : BitVec 7) (s : State) : Out :=
  s.issueWord (.yield a) (fun b act s => act.foldl (fun s t =>
    let s := if s.isSup t then s.modCore b.core (fun c => { c with svYield := true }) else s
    let d := min (arg (s.operands b.hints t (formOf b.hints (.yield a))) 0) 65535
    s.modThread t (fun x =>
      let x := { x with yields := true }
      if d = 0 then x
      else { x with waitFor := .yieldDelay (s.clk + d), tstate := if d ≥ 64 then .wait else x.tstate })) s)
/-- NOP (R181). -/
def execNop (s : State) : Out := s.issueWord .nop (fun _ _ s => s)

/-! ## Uniform instructions (R171–R174) -/

/-- The value of a source of major 0x3E for a team (R46, R171). -/
def kVal (m : Team) (h : Hints) (c : BitVec 7) : Nat :=
  if c.toNat < 64 then (m.kreg c.toNat).toNat
  else if c = 125#7 then (imm125 h .int 64).getD 0
  else if c = 126#7 then 0 else 2 ^ 64 - 1

/-- Teams of a list of threads. -/
def State.teamsOf (s : State) (ts : List Nat) : List Nat := dedupBy id (ts.map s.teamOf)

/-- A uniform instruction: once for each team that executes it (R125, R171). -/
def State.uniformOut (s : State) (i : Instr) (d : BitVec 7) (g : Hints → Team → Nat) : Out :=
  s.issueWord i (fun b act s => (s.teamsOf act).foldl (fun s k =>
    s.setK k d.toNat (BitVec.ofNat 64 (g b.hints (s.team k)))) s)

/-- KMOV (R171). -/
def execKmov (d a : BitVec 7) (s : State) : Out := s.uniformOut (.kmov d a) d (fun h m => kVal m h a)
/-- KADD (R171). -/
def execKadd (d a b : BitVec 7) (s : State) : Out := s.uniformOut (.kadd d a b) d (fun h m => kVal m h a + kVal m h b)
/-- KADDI (R171). -/
def execKaddi (d a i : BitVec 7) (s : State) : Out :=
  s.uniformOut (.kaddi d a i) d (fun h m => kVal m h a + immField h 7 i.toNat)
/-- KSHL (R171). -/
def execKshl (d a b : BitVec 7) (s : State) : Out :=
  s.uniformOut (.kshl d a b) d (fun h m => if kVal m h b ≥ 64 then 0 else kVal m h a * 2 ^ kVal m h b)
/-- KAND (R171). -/
def execKand (d a b : BitVec 7) (s : State) : Out :=
  s.uniformOut (.kand d a b) d (fun h m => Nat.land (kVal m h a) (kVal m h b))
/-- KFROMV (R173): for each team, from its thread in the lowest lane of the bundle. -/
def execKfromv (d a : BitVec 7) (s : State) : Out :=
  s.issueWord (.kfromv d a) (fun b act s => (s.teamsOf act).foldl (fun s k =>
    match minBy laneOf (act.filter (fun t => s.teamOf t == k)) with
    | none => s
    | some t =>
      let v := arg (s.operands b.hints t (formOf b.hints (.kfromv d a))) 0
      s.setK k d.toNat (BitVec.ofNat 64 (if hTy b.hints 7 = 3 then sext 32 64 v else v))) s)

end Sys2Proof.Machine
end

