-- ==== Sys2Proof/Machine/Placement.lean ====
section
/-! DEFINITION. What the scheduler cores' firmware and dispatch do (04 R64, R65, R69–R71; 05 R88–R95, R99; 06 R104, R105, R119;
15 R311): the placement round, dispatch, and the choice of clusters to pre-empt. -/
namespace Sys2Proof.Machine

/-! ## The order of clusters (R70, R71) -/

/-- Bits 0, 2, 4 … of a number, packed towards bit 0. -/
def evenBits (d : Nat) : Nat := ((List.range 6).map (fun i => b2n (bit d (2 * i)) * 2 ^ i)).foldl (· + ·) 0

/-- The Hilbert position of index `d`: `n` passes from q, with what the passes before have left (R71). -/
def hilbert (t : Nat) : Nat → Nat → Nat → Nat → Nat × Nat
  | 0, _, x, y => (x, y)
  | n + 1, q, x, y =>
    let rx := t / 2 % 2
    let ry := Nat.xor t rx % 2
    let (x, y) := if ry = 0 then (let (x, y) := if rx = 1 then (q - 1 - x, q - 1 - y) else (x, y); (y, x)) else (x, y)
    hilbert (t / 4) n (2 * q) (x + q * rx) (y + q * ry)

/-- Position of index `d` on the curve of an ORDER in a tile of side `s` (R71). -/
def curve (order s d : Nat) : Nat × Nat :=
  if order = 2 then (evenBits d, evenBits (d / 2)) else hilbert d (Nat.log2 s) 1 0 0

/-- Coordinates of cluster number `n` of a grid's sequence (R70). -/
def clusterAt (order s gx gy n : Nat) : Nat × Nat × Nat :=
  let z := n / (gx * gy)
  let r := n % (gx * gy)
  match order with
  | 0 =>
    let x0 := r / (s * gy) * s
    let w := min s (gx - x0)
    let r := r - x0 * gy
    (x0 + r % w, r / w, z)
  | 1 =>
    let y0 := r / (s * gx) * s
    let h := min s (gy - y0)
    let r := r - y0 * gx
    (r / h, y0 + r % h, z)
  | _ =>
    let ty := r / (s * gx) * s
    let h := min s (gy - ty)
    let r := r - ty * gx
    let tx := r / (s * h) * s
    let w := min s (gx - tx)
    let r := r - tx * h
    let (u, v) := (((List.range (s * s)).map (curve order s)).filter (fun p => decide (p.1 < w ∧ p.2 < h))).getD r (0, 0)
    (tx + u, ty + v, z)

/-! ## Room on a core (R104), some clusters set aside -/

/-- Slot-table entries and the handler of a core that are no part of the clusters set aside. -/
def State.holders (s : State) (core : Nat) (ex : List Nat) : List Team :=
  ((s.teamsOn core).filter (fun k => entryOfTeam k < 128 && !ex.contains (s.team k).cluster)).map s.team

/-- The user teams among them: the entries that RESIDENT counts. -/
def State.residents (s : State) (core : Nat) (ex : List Nat) : List Team :=
  (s.holders core ex).filter (fun m => m.kind == .user)

/-- USED of a core (R93). -/
def State.usedOn (s : State) (core : Nat) (ex : List Nat) : Nat :=
  ((s.residents core ex).map (fun m => weightOf m.bind.cls)).foldl (· + ·) 0

/-- Group slots of a core that are free. -/
def State.slotsLeft (s : State) (core : Nat) (ex : List Nat) : List Nat :=
  let used := (s.holders core ex).foldl (fun m t => m ||| t.bind.slots) 0
  (List.range 128).filter (fun i => !used.getLsbD i)

/-- A position for a context on a core. -/
def State.positionLeft (s : State) (core c : Nat) (ex : List Nat) : Bool :=
  let cs := dedupBy id ((s.holders core ex).map (fun m => m.bind.ctx))
  cs.contains c || decide (cs.length < 4)

/-- Bytes of a core's SRAM that are taken: teams' scratch, scratch held for exited teams, and pages pinned to it. -/
def State.sramTaken (s : State) (core : Nat) (ex : List Nat) : List (Nat × Nat) :=
  (s.residents core ex).map (fun m => (m.bind.scratchBase, m.bind.scratchSize)) ++
  ((s.core core).sramHeld.filter (fun h => !ex.contains h.cluster)).map (fun h => (h.base, h.size)) ++
  (s.claims.filter (fun k => isSram k.loc && sramCore k.loc == core)).map (fun k => ((k.loc - sramBase) % 2 ^ 18, 4096))

/-- Bases at which scratch of a size fits. -/
def State.scratchSpots (s : State) (core size : Nat) (ex : List Nat) : List Nat :=
  if size = 0 then [0]
  else
    let taken := s.sramTaken core ex
    ((List.range 256).map (1024 * ·)).filter (fun b =>
      decide (b + size ≤ 2 ^ 18) && !taken.any (fun r => overlaps r.1 r.2 b size))

/-- What a cluster asks of one core: nothing but scratch for a team that has exited (R117). -/
structure Need where
  team : Bool
  scratch : Nat
  /-- accumulator units that the team held (R321) -/
  units : Nat := 0
  deriving DecidableEq, Repr

/-- What the firmware places: the next cluster of a launch, or one of its that was pre-empted (R91). -/
structure Item where
  q : Nat
  /-- the pre-empted cluster; none for the next of the sequence -/
  again : Option Nat
  ctx : Nat
  w : Nat
  h : Nat
  groups : Nat
  weight : Nat
  needs : List Need
  /-- bytes of arena for each team that needs an image -/
  image : Nat
  deriving DecidableEq, Repr

/-- Accumulator units of a core that teams hold or will hold again once they are restored, some clusters set aside (R321). -/
def State.unitsTaken (s : State) (core : Nat) (ex : List Nat) : Nat :=
  ((s.holders core ex).map (fun m => m.units.length)).foldl (· + ·) 0 +
  (dedupBy id ((s.mreqs.filter (fun q => q.core == core && q.team.isNone)).flatMap (·.units))).length +
  ((s.clusters.filter (fun p => p.2.rebound && !ex.contains p.1)).flatMap (fun p =>
    (p.2.members.filter (fun m => m.core == core)).map (s.unitsOfMember (s.ctxOfCluster p.1)))).foldl (· + ·) 0

/-- A core takes a member of a cluster, some clusters set aside (R104, R20, R121, R321). -/
def State.coreTakes (s : State) (i : Item) (core : Nat) (n : Need) (ex : List Nat) : Bool :=
  let x := s.ctx i.ctx
  s.columnReady core && !(s.scratchSpots core n.scratch ex).isEmpty &&
  (!n.team ||
    (decide (s.usedOn core ex + i.weight ≤ (s.core core).budget) && decide ((s.residents core ex).length < 64) &&
     decide (i.groups ≤ (s.slotsLeft core ex).length) && s.positionLeft core i.ctx ex &&
     decide (n.units = 0 ∨ s.unitsTaken core ex + n.units ≤ 16) &&
     (s.hasInstance core i.ctx || (!x.svBad.contains core && (x.svPending.find core).isNone))))

/-- Room in an arena for `n` allocations of a length. -/
def State.arenaHolds (s : State) (c len : Nat) : Nat → Bool
  | 0 => true
  | n + 1 =>
    match s.arenaSpots c len with
    | [] => false
    | o :: _ => (s.modCtx c (fun x => { x with allocs := x.allocs ++ [{ off := o, len := len }] })).arenaHolds c len n

/-- Cores of a rectangle of a die, in %team order (R64). -/
def rectCores (die origin w h : Nat) : List Nat :=
  (List.range h).flatMap (fun i => (List.range w).map (fun j => die * coresPerDie + origin + 12 * i + j))

/-- A rectangle lies within the mesh. -/
def rectFits (origin w h : Nat) : Bool := decide (origin % 12 + w ≤ 12) && decide (origin / 12 + h ≤ 12)

/-- A cluster fits a rectangle of a die. -/
def State.fitsAt (s : State) (i : Item) (die origin : Nat) (ex : List Nat) : Bool :=
  rectFits origin i.w i.h && ((rectCores die origin i.w i.h).zip i.needs).all (fun p => s.coreTakes i p.1 p.2 ex)

/-- The context of a cluster may have it placed: its arena is pinned with room, its function has a session, no halt holds
it (R22, R104, R444). -/
def State.itemReady (s : State) (i : Item) : Bool :=
  let x := s.ctx i.ctx
  x.pinned && s.ctxFree i.ctx && (s.func (s.ownerOf i.ctx)).session &&
  (i.again.isSome || s.arenaHolds i.ctx i.image i.needs.length)

/-- Origins of a die at which a cluster fits (R104). -/
def State.spots (s : State) (i : Item) (die : Nat) (ex : List Nat) : List Nat :=
  if s.boot.ready.getLsbD (2 + die) && s.itemReady i then (List.range coresPerDie).filter (fun o => s.fitsAt i die o ex) else []

/-! ## What a launch wants placed (R89, R91, R311) -/

/-- The threads of a pre-empted cluster all wait for what only another agent can bring, and nothing of its own is
suspended. -/
def State.dormant (s : State) (cl : Nat) (c : Cluster) : Bool :=
  !s.copies.any (fun x => x.cluster == cl && x.state == .suspended) &&
  c.members.all (fun m => m.savedThreads.all (fun p =>
    p.2.tstate == .exited && p.2.waitFor != .trap || (p.2.tstate == .wait && match p.2.waitFor with
      | .waitc _ => true
      | .tbarWait .. => true
      | .bar _ => true
      | .cbar _ => true
      | _ => false)))

/-- What a member of a pre-empted cluster needs. -/
def State.needOf (s : State) (c : Nat) (m : Member) : Need :=
  match m.savedTeam with
  | some t => { team := true, scratch := t.bind.scratchSize, units := s.unitsOfMember c m }
  | none => { team := false, scratch := if m.saveBase = 0 then 0 else s.imageRead c m.saveBase.toNat 4 }

/-- The next item of a launch: a pre-empted cluster before an unplaced one (R91); a dormant one alone is left for last,
since nothing of it can run (R311). `last` asks for those. -/
def State.nextItem (s : State) (q : Nat) (l : Launch) (last : Bool) : Option Item :=
  let gone := s.clusters.filter (fun p => p.2.launch == q && p.2.state == .preempted)
  let gone := sortBy (fun a b => decide (a.2.boundSeq ≤ b.2.boundSeq)) gone
  let more := decide (l.next < l.total)
  let pick := if more then gone else gone.filter (fun p => s.dormant p.1 p.2 == last)
  let base : Item :=
    { q := q, again := none, ctx := l.ctx, w := l.w, h := l.h, groups := l.groups, weight := weightOf l.cls,
      needs := List.replicate (l.w * l.h) { team := true, scratch := l.scratch }, image := s.teamRoom l }
  match pick with
  | (cl, c) :: _ => if last && more then none else some { base with again := some cl, needs := c.members.map (s.needOf l.ctx) }
  | [] => if more && !last then some base else none

/-- Launches that want a cluster placed, in acceptance order. -/
def State.wanting (s : State) : List (Nat × Launch) :=
  sortBy (fun a b => decide (a.2.seq ≤ b.2.seq)) (s.launches.filter (fun p => p.2.state == .eligible || p.2.state == .placing))

/-- Dies on which a launch's cluster is placed now: its queue's, and the other when DIE_SEL is 0 and its own has no
rectangle (R92). -/
def State.diesFor (s : State) (q : Nat) (l : Launch) (i : Item) (ex : List Nat) : List Nat :=
  let own := q / 1024
  if l.dieSel ≠ 0 then [own] else if (s.spots i own ex).isEmpty then [1 - own] else [own]

/-- Items that die `d` may place at an effective level, in acceptance order, with the rectangles they fit. Level 8 stands
for the dormant ones, which come after every other. -/
def State.itemsAt (s : State) (d lev c : Nat) : List (Item × List Nat) :=
  s.wanting.filterMap (fun p =>
    if p.2.ctx ≠ c || (lev ≠ 8 && p.2.effPrio ≠ lev) then none
    else (s.nextItem p.1 p.2 (lev == 8)).bind (fun i =>
      if (s.diesFor p.1 p.2 i []).contains d then some (i, s.spots i d []) else none))

/-- Rectangles that launches of higher levels can use (R89). -/
def State.claimedAbove (s : State) (d : Nat) (levs : List Nat) : List (List Nat) :=
  levs.flatMap (fun lev => (List.range 64).flatMap (fun c => (s.itemsAt d lev c).flatMap (fun p =>
    p.2.map (fun o => rectCores d o p.1.w p.1.h))))

/-- A rectangle that no launch of a higher level can use any part of. -/
def rectClear (above : List (List Nat)) (d o w h : Nat) : Bool :=
  !above.any (fun r => (rectCores d o w h).any (fun c => r.contains c))

/-! ## Binding (R65, R93, R94, R104) -/

/-- Picks an element of a list by a free value. -/
def State.pick (s : State) (l : List Nat) : Nat × State :=
  let (v, s) := s.free
  (l.getD (v.toNat % l.length) (l.headD 0), s)

/-- Picks `n` elements of a list, from a place given by a free value. -/
def State.pickSome (s : State) (n : Nat) (l : List Nat) : List Nat × State :=
  let (v, s) := s.free
  let i := v.toNat % (l.length + 1)
  ((l.drop i ++ l.take i).take n, s)

/-- Mask of group slots. -/
def slotMask (l : List Nat) : BitVec 128 := l.foldl (fun m i => m ||| (1#128 <<< i)) 0

/-- Writes the BOUND record of one new team of a launch: its image is taken from the arena, its entry, slots and scratch are
any that are free (log 30). -/
def State.bindFresh (s : State) (cl q : Nat) (l : Launch) (origin : Nat) (xyz : Nat × Nat × Nat) (team core : Nat) : State :=
  let (entry, s) := s.pick ((List.range 64).filter (fun e => (s.teams.find (teamKey core e)).isNone))
  let (slots, s) := s.pickSome l.groups (s.slotsLeft core [])
  let (base, s) := s.pick (s.scratchSpots core l.scratch [])
  let (s, off) := s.arenaTake l.ctx (s.teamRoom l)
  let image := BitVec.ofNat 64 ((s.ctx l.ctx).image.toNat + off.getD 0)
  let b : Bind :=
    { state := .bound, ctx := l.ctx, launch := q, team := team, groups := l.groups, cls := l.cls, prio := l.effPrio,
      origin := origin, w := l.w, h := l.h, regs := l.regs, cx := xyz.1, cy := xyz.2.1, cz := xyz.2.2, entryPc := l.entryPc,
      imageBase := image, scratchBase := base, scratchSize := l.scratch, slots := slotMask slots }
  let s := (s.enterCtx core l.ctx).setTeam (teamKey core entry)
    { Team.reset with bind := b, code := l.code, cluster := cl, k := (l.kargs.zipIdx.map (fun p => (p.2, p.1))) }
  let m : Member :=
    { core := core, entry := entry, imageBase := image, scratchBase := base, exited := false, savedTeam := none, savedThreads := [],
      savedCopyCount := [], saveBase := 0 }
  s.modCluster cl (fun c => { c with members := c.members ++ [m] })

/-- Writes the BOUND record of a team that comes back, or holds the scratch of one that has exited (R117, R118). -/
def State.bindAgain (s : State) (cl : Nat) (l : Launch) (origin i : Nat) (m : Member) (core : Nat) : State :=
  let n := s.needOf l.ctx m
  let (base, s) := s.pick (s.scratchSpots core n.scratch [])
  let put := fun (s : State) (f : Member → Member) =>
    s.modCluster cl (fun c => { c with members := c.members.mapIdx (fun j x => if j = i then f x else x) })
  match m.savedTeam with
  | some t =>
    let (entry, s) := s.pick ((List.range 64).filter (fun e => (s.teams.find (teamKey core e)).isNone))
    let (slots, s) := s.pickSome t.bind.groups (s.slotsLeft core [])
    let b := { t.bind with state := .bound, prio := l.effPrio, origin := origin, scratchBase := base, slots := slotMask slots }
    let s := (s.enterCtx core l.ctx).setTeam (teamKey core entry) { t with bind := b, units := [] }
    put s (fun x => { x with core := core, entry := entry, scratchBase := base })
  | none =>
    let s := s.modCore core (fun k => { k with sramHeld := k.sramHeld ++
      (if n.scratch = 0 then [] else [({ base := base, size := n.scratch, cluster := cl, team := i } : Held)]) })
    put s (fun x => { x with core := core, scratchBase := base })

/-- What a placement changes in its launch (R88, R89, R454). -/
def Launch.placed (l : Launch) (fresh : Bool) (cores : List Nat) (others : Bool) (now : Nat) : Launch :=
  let next := if fresh then l.next + 1 else l.next
  { l with next := next, effPrio := l.prio, ageFrom := now, served := dedupBy id (l.served ++ cores),
           state := if next < l.total || others then .placing else .placed }

/-- Places an item at an origin of a die. An instance of the context is created on each core first (R119); where the check
of its code fails or waits, the cluster is not bound (R121). -/
def State.placeItem (s : State) (i : Item) (d origin : Nat) : State :=
  match s.launches.find i.q with
  | none => s
  | some l =>
    let cores := rectCores d origin i.w i.h
    let mine := (cores.zip i.needs).filterMap (fun p => if p.2.team then some p.1 else none)
    let s := mine.foldl (fun s c => s.createInstance c i.ctx) s
    if !mine.all (fun c => s.hasInstance c i.ctx) then s
    else
      let others := s.clusters.any (fun p => p.2.launch == i.q && p.2.state == .preempted && some p.1 != i.again)
      let s := s.modLaunch i.q (fun l => l.placed i.again.isNone cores others s.wall)
      match i.again with
      | none =>
        let cl := s.nextId
        let xyz := clusterAt l.order l.swizzle l.gx l.gy l.next
        let c : Cluster :=
          { launch := i.q, x := xyz.1, y := xyz.2.1, z := xyz.2.2, die := d, origin := origin, state := .bound, boundSeq := cl, phases := 0,
            members := [], writeback := false, rebound := false }
        let s : State := { s with nextId := cl + 1, clusters := s.clusters.put cl c }
        cores.zipIdx.foldl (fun s p => s.bindFresh cl i.q l origin xyz p.2 p.1) s
      | some cl =>
        match s.clusters.find cl with
        | none => s
        | some c =>
          let moved := (c.members.zip cores).any (fun p => p.1.core != p.2 && p.1.savedTeam.isSome)
          let s := (c.members.zip cores).zipIdx.foldl (fun s p => s.bindAgain cl l origin p.2 p.1.1 p.1.2) s
          let n := s.nextId
          ({ s with nextId := n + 1 } : State).modCluster cl (fun c =>
            { c with state := .bound, rebound := true, writeback := moved, die := d, origin := origin, boundSeq := n })

/-! ## The round (R89, R90) -/

/-- Key of a context's credit at a level of a die. -/
def creditKey (d lev : Nat) : Nat := d * 16 + lev

/-- Cost of a cluster (R90). -/
def Item.cost (i : Item) : Nat := i.w * i.h * i.weight

/-- The first item of a context at a level that fits a rectangle, with the origins it fits (R89). -/
def State.firstFit (s : State) (d lev c : Nat) (above : List (List Nat)) : Option (Item × List Nat) :=
  ((s.itemsAt d lev c).filterMap (fun p =>
      match p.2.filter (fun o => rectClear above d o p.1.w p.1.h) with
      | [] => none
      | os => some (p.1, os))).head?

/-- Clusters of a launch that are bound and not dispatched. -/
def State.boundCount (s : State) (q : Nat) : Nat :=
  (s.clusters.filter (fun p => p.2.launch == q && p.2.state == .bound)).length

/-- A context places clusters at a level while its credit covers the cost and a rectangle fits; `n` bounds the clusters. -/
def State.spend (s : State) (d lev c : Nat) (above : List (List Nat)) : Nat → State
  | 0 => s
  | n + 1 =>
    match s.firstFit d lev c above with
    | none => s
    | some (i, os) =>
      let have_ := (s.ctx c).credit.at' 0 (creditKey d lev)
      if have_ < i.cost then s
      else
        let (o, s1) := s.pick os
        let s2 := s1.placeItem i d o
        if s2.boundCount i.q = s.boundCount i.q then s2.spend d lev c above n
        else (s2.modCtx c (fun x => { x with credit := x.credit.put (creditKey d lev) (have_ - i.cost) })).spend d lev c above n

/-- Rounds that a context still needs to cover the cost of what it could place: 1 or more, or none that would do. -/
def State.roundsFor (s : State) (d lev c : Nat) (above : List (List Nat)) : Option Nat :=
  (s.firstFit d lev c above).map (fun p =>
    let x := s.ctx c
    max 1 ((p.1.cost - x.credit.at' 0 (creditKey d lev) + x.weight.toNat - 1) / max 1 x.weight.toNat))

/-- A context has an eligible launch at a level of a die: one of the die's own queue, or one that the other die offers for want
of a rectangle (R90, R92). -/
def State.wantsAt (s : State) (d lev c : Nat) : Bool :=
  s.wanting.any (fun p => p.2.ctx == c && (lev == 8 || p.2.effPrio == lev) &&
    match s.nextItem p.1 p.2 (lev == 8) with
    | none => false
    | some i => p.1 / 1024 == d || (p.2.dieSel == 0 && (s.spots i (1 - d) []).isEmpty))

/-- One context's turn in `r` rounds at a level, of which the last alone can place (R90). -/
def State.turn (s : State) (d lev c r : Nat) (above : List (List Nat)) : State :=
  let k := creditKey d lev
  if !s.wantsAt d lev c then
    if ((s.ctx c).credit.find k).isNone then s else s.modCtx c (fun x => { x with credit := x.credit.del k })
  else
    let s := s.modCtx c (fun x => { x with credit := x.credit.put k (x.credit.at' 0 k + r * x.weight.toNat) })
    s.spend d lev c above ((s.ctx c).credit.at' 0 k + 1)

/-- Contexts that have launches or credit: the others take no turn. -/
def State.turnCtxs (s : State) : List Nat :=
  (List.range 64).filter (fun c => s.launches.any (fun p => p.2.ctx == c) || !(s.ctx c).credit.isEmpty)

/-- The rounds of one level until one can place a cluster, every context in ascending number (R90); while no cluster fits
there is no round, and the credit of a context that has no eligible launch there is cleared. -/
def State.levelRound (s : State) (d lev : Nat) (levs : List Nat) : State :=
  let above := s.claimedAbove d levs
  let r := (minBy id (s.turnCtxs.filterMap (fun c => s.roundsFor d lev c above))).getD 0
  s.turnCtxs.foldl (fun s c => s.turn d lev c r above) s

/-- PLACEMENT_ROUND of the die that the subject names: the levels from 7 down, and dormant clusters last (R89, R90). -/
def execPlacementRound (s : State) : Out :=
  let d := s.subj.id
  .next (if d > 1 || !s.boot.ready.getLsbD (2 + d) then s
    else ([7, 6, 5, 4, 3, 2, 1, 0, 8] : List Nat).foldl (fun s lev =>
      s.levelRound d lev (([7, 6, 5, 4, 3, 2, 1, 0] : List Nat).filter (fun x => lev == 8 || decide (x > lev)))) s)

/-! ## Dispatch (R69, R95) -/

/-- A record that dispatch refuses: its slots overlap another live record, or USED is above BUDGET (R95). -/
def State.refused (s : State) (k : Nat) : Bool :=
  let m := s.team k
  let core := coreOfTeam k
  s.usedOn core [] > (s.core core).budget ||
  (s.teamsOn core).any (fun j => j != k && entryOfTeam j < 128 && (s.team j).bind.slots &&& m.bind.slots != 0)

/-- BIND_ERR takes the index of a refused record, and its event is raised. -/
def State.bindRefused (s : State) (k : Nat) : State :=
  let core := coreOfTeam k
  (s.modCore core (fun c => { c with bindErr := entryOfTeam k })).raiseEvent (s.ownerOf (s.team k).bind.ctx) 3 (s.team k).bind.ctx core

/-- A core comes to serve a cluster: its L1 slice is written back and emptied (R217). -/
def State.serveCluster (s : State) (core cl : Nat) : State :=
  if (s.core core).l1Cluster == some cl then s
  else
    let b : BitVec 290 := 1#290 <<< (core % coresPerDie)
    let dir := s.dir.map (fun d => if d.die == dieOf core && d.sharers &&& b != 0 then
      { d with sharers := d.sharers &&& ~~~b, st := if d.st == .o then .s else d.st } else d)
    ({ s with dir := dir, stale := s.stale.filter (fun x => x.core != core) } : State).modCore core (fun k => { k with l1Cluster := some cl })

/-- TEAM_START of a record that turns RUNNABLE for the first time: its scratch reads as zero (R69, R110, R240). -/
def State.startTeam (s : State) (k : Nat) : State :=
  let m := s.team k
  let s := s.clearRange (sramLoc (coreOfTeam k) m.bind.scratchBase) m.bind.scratchSize
  (slotsOf m.bind.slots).zipIdx.foldl (fun s p => s.startGroup k p.1 p.2 (m.bind.entryPc.extractLsb' 0 57)) s

/-- A record turns RUNNABLE: its groups start, or, restored, go on, the times of its reconvergence entries anew (R131). -/
def State.runTeam (s : State) (k : Nat) : State :=
  let fresh := !(s.groupsOf k).any (fun g => (s.group g).live)
  let s := if fresh then s.startTeam k
    else s.modTeam k (fun m => { m with rstack := m.rstack.map (fun e => { e with since := e.since.map (fun _ => s.clk) }) })
  (s.modTeam k (fun m => { m with bind := { m.bind with state := .runnable } })).serveCluster (coreOfTeam k) (s.team k).cluster

/-- Keys of the members of a cluster that have records. -/
def liveKeys (c : Cluster) : List Nat := (c.members.filter (fun m => !m.exited)).map (fun m => teamKey m.core m.entry)

/-- DISPATCH_RUNNABLE of the cluster that the subject names: all of its records, or none (R65, R95). Each refused record is
reported once, until it is refused anew. -/
def State.dispatch (s : State) (cl : Nat) (c : Cluster) : State :=
  let ks := liveKeys c
  match ks.filter s.refused with
  | [] => (ks.foldl (fun s k => s.runTeam k) s).modCluster cl (fun c => { c with state := .runnable, refused := [] })
  | bad =>
    ((bad.filter (fun k => !c.refused.contains k)).foldl (fun s k => s.bindRefused k) s).modCluster cl (fun c => { c with refused := bad })

/-- DISPATCH_RUNNABLE. -/
def execDispatchRunnable (s : State) : Out :=
  .next (match s.clusters.find s.subj.id with
    | some c =>
      if c.state == .bound && !c.rebound && !c.writeback && s.ctxFree (s.ctxOfCluster s.subj.id) then s.dispatch s.subj.id c else s
    | none => s)

/-! ## Whom the firmware pre-empts (R91, R99, R311) -/

/-- 50 µs, after which a waiting cluster is idle (R311). -/
def idleTime : Nat := 50 * oneUs
/-- 20 µs, after which a message's wait moves a team (R99). -/
def amTime : Nat := 20 * oneUs

/-- A thread has waited long enough for its cluster to be idle. -/
def idleThread (now : Nat) (t : Thread) : Bool :=
  t.tstate == .exited ||
  (t.tstate == .wait && decide (t.armedAt + idleTime ≤ now) && match t.waitFor with
    | .waitc _ => true
    | .tbarWait .. => true
    | .bar _ => true
    | .cbar _ => true
    | _ => false)

/-- A cluster is idle (R311). -/
def State.idle (s : State) (c : Cluster) : Bool :=
  c.state == .runnable &&
  (c.members.filter (fun m => !m.exited)).all (fun m => (s.threadsOf (teamKey m.core m.entry)).all (fun t => idleThread s.wall (s.thread t)))

/-- Clusters in the order of their binding, the most recent first. -/
def State.byBinding (_s : State) (l : List (Nat × Cluster)) : List (Nat × Cluster) :=
  sortBy (fun a b => decide (b.2.boundSeq ≤ a.2.boundSeq)) l

/-- Clusters of the given dies that the firmware may pre-empt: the idle ones. -/
def State.idleVictims (s : State) (dies : List Nat) : List Nat :=
  (s.byBinding (s.clusters.filter (fun p => dies.contains p.2.die && s.mayPreempt p.2 && s.idle p.2))).map (·.1)

/-- Clusters of launches at levels below 7. -/
def State.lowerVictims (s : State) (dies : List Nat) : List Nat :=
  (s.byBinding (s.clusters.filter (fun p => dies.contains p.2.die && s.mayPreempt p.2 && !s.idle p.2 &&
    ((s.launches.find p.2.launch).map (fun l => decide (l.effPrio < 7))).getD false))).map (·.1)

/-- Clusters that are being pre-empted already. -/
def State.leaving (s : State) : List Nat := (s.clusters.filter (fun p => p.2.state == .stopping)).map (·.1)

/-- The next cluster of a launch has a rectangle once the clusters `ex` are gone. -/
def State.fitsWithout (s : State) (l : Launch) (i : Item) (ex : List Nat) : Bool :=
  (diesOf l.dieSel).any (fun d => !(s.spots i d ex).isEmpty)

/-- The shortest beginning of a list of victims that makes room for a cluster; none of them when all do not. -/
def State.enough (s : State) (l : Launch) (i : Item) (ex done : List Nat) : List Nat → List Nat
  | [] => if s.fitsWithout l i (ex ++ done) then done else []
  | v :: r => if s.fitsWithout l i (ex ++ done) then done else s.enough l i ex (done ++ [v]) r

/-- Clusters that the firmware pre-empts for a launch: idle ones, and at level 7 after a further 10 ms those of lower levels
too (R91, R311). -/
def State.victimsFor (s : State) (q : Nat) (l : Launch) : List Nat :=
  match s.nextItem q l false with
  | none => []
  | some i =>
    let dies := diesOf l.dieSel
    let idle := s.enough l i s.leaving [] (s.idleVictims dies)
    if !idle.isEmpty || s.fitsWithout l i s.leaving then idle
    else if l.effPrio = 7 && l.ageFrom + tenMs ≤ s.wall then
      s.enough l i s.leaving [] (s.idleVictims dies ++ s.lowerVictims dies)
    else []

/-- CLUSTER_IDLE of the cluster that the subject names: some launch cannot place a cluster without it (R311). -/
def execClusterIdle (s : State) : Out :=
  .next (match s.clusters.find s.subj.id with
    | some c =>
      if s.mayPreempt c && s.idle c && s.wanting.any (fun p => (s.victimsFor p.1 p.2).contains s.subj.id) then s.preempt s.subj.id
      else s
    | none => s)

/-- LEVEL7_PREEMPTION for the queue entry that the subject names (R91). -/
def execLevel7Preemption (s : State) : Out :=
  .next (match s.launches.find s.subj.id with
    | some l =>
      if (l.state == .eligible || l.state == .placing) && l.effPrio = 7 && l.ageFrom + tenMs ≤ s.wall then
        (s.victimsFor s.subj.id l).foldl (fun s cl => s.preempt cl) s
      else s
    | none => s)

/-- The team that leaves a core for a message: the lowest effective priority, the most recently bound (R99). -/
def State.amVictim (s : State) (core : Nat) : Option Nat :=
  let cls := s.clusters.filter (fun p => s.mayPreempt p.2 && p.2.members.any (fun m => m.core == core && !m.exited))
  let prio := fun (p : Nat × Cluster) => ((s.launches.find p.2.launch).map (·.effPrio)).getD 0
  (minBy prio (s.byBinding cls)).map (·.1)

/-- The core on which a message has waited 20 µs for a slot or a position (R99). -/
def State.amStarved (s : State) (die : Nat) (m : Msg) : Option Nat :=
  if !(m.since.any (fun t => decide (t + amTime ≤ s.wall))) then none
  else (s.amLack die m).filter (fun core =>
    !s.clusters.any (fun p => p.2.state == .stopping && p.2.members.any (fun x => x.core == core)))

/-- AM_WAIT_PREEMPTION for the message of the inboxes that the subject names (R99). -/
def execAmWaitPreemption (s : State) : Out :=
  .next (match s.inbox[s.subj.id]? with
    | some (die, m) =>
      match (s.amStarved die m).bind s.amVictim with
      | some cl => s.preempt cl
      | none => s
    | none => s)

end Sys2Proof.Machine
end

