-- ==== Sys2Proof/Machine/WaitWalk.lean ====
section
/-! DEFINITION. Deadlock breaking (15 R315–R320; 07 R139; 13 R269; 16 R332): the expected signallers of a wait, the agents that
are blocked, the walk of the wait-for tables and the completion of a wait. -/
namespace Sys2Proof.Machine

/-! ## Agents (R316, R318) -/

/-- The agent that is a team: its cluster and %team. -/
def teamAgent (cl i : Nat) : Nat := 4 * (cl * 16 + i)
/-- The agent that is a copy waiting for slices. -/
def copyAgent (id : Nat) : Nat := 4 * id + 1
/-- The agent that is a queue entry. -/
def queueAgent (q : Nat) : Nat := 4 * q + 2
/-- An agent that is never blocked: the host, another module, a launch that may still be placed. -/
def freeAgent : Nat := 3

/-- Cluster and %team of a group, resident or away. -/
def State.placeOf (s : State) (gid : Nat) : Nat × Nat :=
  if gid < 2 ^ 40 then let m := s.team (s.group gid).team; (m.cluster, m.bind.team)
  else ((gid - 2 ^ 40) / 512, (gid - 2 ^ 40) / 32 % 16)

/-- Teams of a cluster as agents. -/
def State.clusterAgents (s : State) (cl : Nat) : List Nat :=
  match s.clusters.find cl with
  | some c => (List.range c.members.length).map (teamAgent cl)
  | none => []

/-- 100 ms (R102). -/
def placeBound : Nat := 100000 * oneUs

/-- Every unplaced cluster of a launch has waited for longer than the bound of R102: the next of its sequence since the launch's
last placement, a pre-empted one since it was pre-empted. -/
def State.overdue (s : State) (q : Nat) (l : Launch) : Bool :=
  let others := (s.launches.filter (fun p => p.1 != q && p.2.effPrio == 7 && (p.2.state == .eligible || p.2.state == .placing))).length
  let bound := placeBound + others * tenMs
  (decide (l.total ≤ l.next) || decide (bound < (s.wall - l.ageFrom) + (l.effPrio - l.prio) * tenMs)) &&
  (s.clusters.filter (fun p => p.2.launch == q && p.2.state == .preempted)).all (fun p => decide (bound < s.wall - p.2.since))

/-- Every team of a launch, with an agent that is not blocked while it may still be placed in time. -/
def State.launchAgents (s : State) (q : Nat) : List Nat :=
  match s.launches.find q with
  | none => [freeAgent]
  | some l =>
    if l.state == .waiting then [queueAgent q]
    else (s.clusters.filter (fun p => p.2.launch == q)).flatMap (fun p => s.clusterAgents p.1) ++
      (if s.overdue q l then [] else [freeAgent])

/-- The agents that a declaration names (R317). -/
def State.declAgents (s : State) (d : Decl) : List Nat :=
  let g := d.code.toNat
  match bits g 29 3 with
  | 1 => [teamAgent d.cluster (bits g 0 4)]
  | 2 => s.clusterAgents d.cluster
  | 3 => s.launchAgents d.launch
  | 4 => s.launchAgents (bits g 10 1 * 1024 + bits g 0 10)
  | _ => [freeAgent]

/-! ## Expected signallers (R316) -/

/-- Location of a byte of a context, where its page is mapped. -/
def State.vaLoc (s : State) (c va : Nat) : Option Nat :=
  match s.walk 0 c va with
  | .leaf e vpn _ => some (leafLoc e ((va / 4096 - vpn) * 4096 + va % 4096))
  | _ => none

/-- A word of 8 bytes at a virtual address of a context holds an element of `n` bytes. -/
def State.holds (s : State) (c va pa n : Nat) : Bool :=
  va != 0 && ((s.vaLoc c va).map (fun l => overlaps l 8 pa n)).getD false

/-- Signallers of a wait on an element of memory: copies whose stamp holds it, queued launches whose DONE_ADDR holds it, and
those declared for its object. -/
def State.elementAgents (s : State) (pa n : Nat) : List Nat :=
  (s.copies.filter (fun x => s.holds x.ctx x.block.stamp pa n)).map (fun x => copyAgent x.id) ++
  (s.launches.filter (fun p => s.holds p.2.ctx p.2.doneAddr.toNat pa n)).flatMap (fun p => s.launchAgents p.1) ++
  (s.decls.filter (fun d => d.pa == pa / 8 * 8)).flatMap s.declAgents

/-- Bytes of the element that a thread waits on. -/
def State.elementSize (s : State) (e : WEntry) : Nat :=
  let who := whoOf e.gid (laneOf (e.tids.headD 0))
  ((s.monitors.find? (fun m => m.who == who)).map (·.size)).getD 8

/-- Threads that a rendezvous of a group at an address names and that have not arrived: of a copy's, every thread that has
not exited (R139, R248). -/
def State.rdvMissing (s : State) (g pc : Nat) : List Nat :=
  let x := s.group g
  let late := fun (r : Rdv) (ts : List Nat) =>
    if r.pc.toNat != pc then [] else ts.filter (fun t => !r.arrivals.any (fun a => a.lane == laneOf t))
  let named := fun (r : Rdv) => (lanesOf r.mask).map (threadKey g)
  ((x.rdv.map (fun r => late r (named r))).getD []) ++ x.quads.flatMap (fun q => late q.2 (named q.2)) ++
  ((x.copyRdv.map (fun r => late r ((threadsOfGroup g).filter s.alive))).getD [])

/-- Member of a cluster and offset that a scratch address names for a team of it (R240). -/
def barKey (i a : Nat) : Nat × Nat := (if bits a 28 4 = 15 then i else bits a 28 4, bits a 0 18)

/-- Barriers that a copy names. -/
def Copy.barKeys (c : Copy) : List (Nat × Nat) :=
  let b := c.block
  (match b.bar with
    | some a => if b.minor = 3 then b.receivers.map (fun m => (m, bits a 0 18)) else [barKey c.bind.team a]
    | none => []) ++
  (match b.ack with
    | some a => [barKey c.bind.team a]
    | none => [])

/-- Location of an offset in the scratch of a member of a cluster, in its save block while that is where it is. -/
def State.memberLoc (s : State) (cl i off : Nat) : Nat :=
  match (s.clusters.find cl).bind (fun c => c.members[i]?) with
  | none => 0
  | some m =>
    match m.block with
    | some b => s.arenaLoc (s.ctxOfCluster cl) (b + 0x1A000 + off)
    | none => sramLoc m.core (m.scratchBase + off)

/-- Signallers of a wait on a transaction barrier (R269). -/
def State.tbarAgents (s : State) (cl i a : Nat) : List Nat :=
  let key := barKey i a
  (s.copies.filter (fun c => c.cluster == cl && c.barKeys.contains key)).map (fun c => copyAgent c.id) ++
  (if (s.tbar (s.memberLoc cl key.1 key.2)).pend > 0 then s.clusterAgents cl else [])

/-- Teams of a cluster that have not arrived at a phase (R313). -/
def State.lateAgents (s : State) (cl : Nat) (p : BitVec 32) : List Nat :=
  match s.clusters.find cl with
  | none => []
  | some c => (c.members.zipIdx.filter (fun q => !s.memberArrived q.1 p)).map (fun q => teamAgent cl q.2)

/-- Other teams of a core that hold accumulator units (R332). -/
def State.unitAgents (s : State) (core k : Nat) : List Nat :=
  ((s.teamsOn core).filter (fun j => j != k && !(s.team j).units.isEmpty)).map (fun j =>
    teamAgent (s.team j).cluster (s.team j).bind.team)

/-- A thread of an entry, by the control state that it has where it is. -/
def State.waiterOf (s : State) (e : WEntry) : Thread := s.threadAt e.gid (laneOf (e.tids.headD 0))

/-- A thread waits in a tracked wait. -/
def State.tracked (s : State) (t : Nat) : Bool := s.wft.any (fun e => e.tids.contains t)

/-- The expected signallers of a rendezvous: the threads that have not arrived. They are their team, unless one of them is in
no tracked wait, and so may still arrive (R139, R318). -/
def State.rdvAgents (s : State) (cl i g pc : Nat) : List Nat :=
  if (s.rdvMissing g pc).all s.tracked then [teamAgent cl i] else [freeAgent]

/-- The expected signallers of an entry (R316). -/
def State.signallers (s : State) (e : WEntry) : List Nat :=
  let (cl, i) := s.placeOf e.gid
  match e.kind, (s.waiterOf e).waitFor with
  | .waitc, _ => s.elementAgents e.obj (s.elementSize e)
  | .tbarWait, .tbarWait a _ => s.tbarAgents cl i a.toNat
  | .tbarWait, _ => []
  | .bar, _ => [teamAgent cl i]
  | .cbar, .cbar a => s.lateAgents cl a
  | .cbar, _ => []
  | .group, _ => s.rdvAgents cl i e.gid e.obj
  | .units, _ => s.unitAgents (coreOfGroup e.gid) (s.group e.gid).team

/-! ## Blocked agents and the cycle (R318, R319) -/

/-- A member of a cluster is blocked: every thread of it that has not exited and is no helper is in a tracked wait. A team
that has not started is not. -/
def State.memberBlocked (s : State) (cl i : Nat) (c : Cluster) (m : Member) : Bool :=
  m.exited ||
  match m.savedTeam with
  | some _ => m.savedThreads.all (fun p => p.2.tstate == .exited || p.2.helper ||
      s.tracked (threadKey (awayGid cl i (p.1 / 32)) (p.1 % 32)))
  | none => c.state != .bound && (s.threadsOf (teamKey m.core m.entry)).all (fun t =>
      !s.alive t || (s.thread t).helper || s.tracked t)

/-- A team is blocked; one of a cluster that is over has exited. -/
def State.teamBlocked (s : State) (n : Nat) : Bool :=
  match s.clusters.find (n / 16) with
  | none => true
  | some c => match c.members[n % 16]? with
    | some m => s.memberBlocked (n / 16) (n % 16) c m
    | none => true

/-- A copy is blocked: it waits for slices, and its team, whose slices are missing, is blocked. -/
def State.copyBlocked (s : State) (id : Nat) : Bool :=
  match s.copyOf id with
  | some c => (c.state == .gathering || (c.state == .suspended && c.was == .gathering)) &&
      s.teamBlocked (c.cluster * 16 + c.bind.team)
  | none => false

/-- An agent is blocked (R318). -/
def State.agentBlocked (s : State) (a : Nat) : Bool :=
  match a % 4 with
  | 0 => s.teamBlocked (a / 4)
  | 1 => s.copyBlocked (a / 4)
  | 2 => ((s.launches.find (a / 4)).map (fun l => l.state == .waiting)).getD false
  | _ => false

/-- A wait: the agent that holds it, its expected signallers, and the entry, where it has one that can be completed. -/
structure Wait where
  holder : Nat
  sigs : List Nat
  entry : Option WEntry
  deriving DecidableEq, Repr

/-- The waits of entries, of copies that wait for slices, and of queue entries that wait for their start stamp. -/
def State.waits (s : State) : List Wait :=
  s.wft.map (fun e =>
    let p := s.placeOf e.gid
    ({ holder := teamAgent p.1 p.2, sigs := s.signallers e, entry := some e } : Wait)) ++
  (s.copies.filter (fun c => c.state == .gathering || (c.state == .suspended && c.was == .gathering))).map (fun c =>
    ({ holder := copyAgent c.id, sigs := [teamAgent c.cluster c.bind.team], entry := none } : Wait)) ++
  s.monitors.filterMap (fun m => match m.who with
    | .launch q => some ({ holder := queueAgent q, sigs := s.elementAgents m.pa m.size, entry := none } : Wait)
    | _ => none)

/-- Takes from a set the agents of which some wait, holder and signallers, has a signaller outside it, `n` times over. -/
def shrink (ws : List (Nat × List Nat)) : Nat → List Nat → List Nat
  | 0, d => d
  | n + 1, d => shrink ws n (d.filter (fun a => ws.all (fun w => w.1 != a || w.2.all (fun x => d.contains x))))

/-- Holder and signallers of the waits. -/
def State.waitPairs (s : State) : List (Nat × List Nat) := s.waits.map (fun w => (w.holder, w.sigs))

/-- The largest cycle: the largest set of blocked agents whose waits have all of their expected signallers in the set. Every
cycle lies in it (R319). -/
def State.cycle (s : State) : List Nat :=
  let ws := s.waitPairs
  let d := (dedupBy id (ws.flatMap (fun w => w.1 :: w.2))).filter s.agentBlocked
  sortBy (fun a b => decide (a ≤ b)) (shrink ws d.length d)

/-- The largest set that is a cycle now and was one at the last walk (R319). -/
def State.cycleTwice (s : State) : List Nat :=
  let d := s.cycle.filter s.lastCycle.contains
  shrink (s.waitPairs ++ s.lastWaits) d.length d

/-- The wait of D that was armed most recently among those that can be completed: a wait with no expected signaller is never
broken (R316, R319). -/
def State.youngest (s : State) (d : List Nat) : Option WEntry :=
  maxBy (fun e : WEntry => e.seq) (s.waits.filterMap (fun w =>
    if d.contains w.holder && !w.sigs.isEmpty then w.entry else none))

/-! ## Completion with DEADLOCK (R320, R139, R332) -/

/-- Ends the wait of one thread of an entry with status 1. -/
def State.breakThread (s : State) (t : Nat) : State :=
  let who := whoOf (gidOf t) (laneOf t)
  let ms := s.monitors.filter (fun m => m.who == who)
  let s := ms.foldl (fun s m => s.freeSpill m) { s with monitors := s.monitors.filter (fun m => m.who != who) }
  if gidOf t < 2 ^ 40 then s.endWait t 1
  else
    let p := s.placeOf (gidOf t)
    s.endWaitAway p.1 p.2 ((gidOf t - 2 ^ 40) % 32) (laneOf t) (s.threadAt (gidOf t) (laneOf t)).waitDst 1

/-- Ends the wait of a TCFG for units: status 1, configuration and units unchanged (R332). -/
def State.breakUnits (s : State) (t : Nat) : State :=
  match s.ops.find? (fun o => isMatrixOp o.instr && o.lanes.any (fun l => l.tid == t) && (s.thread t).waitFor == .tcfg) with
  | some o => (((s.wftDrop t).passThread o t).status o.instr o.hints t 1).closeOp o
  | none => s.wftDrop t

/-- Fails the rendezvous of a group that stands at an address (R139). -/
def State.breakRdv (s : State) (g pc : Nat) : State :=
  let at_ := fun (r : Rdv) => r.pc.toNat == pc
  let x := s.group g
  if (x.rdv.map at_) == some true then s.failRdv g [] 0
  else if (x.copyRdv.map at_) == some true then s.failCopyRdv g [] 0
  else (x.quads.filter (fun q => at_ q.2)).foldl (fun s q => s.failQuad g q.1 [] 0) s

/-- Completes the wait of an entry. -/
def State.breakWait (s : State) (e : WEntry) : State :=
  match e.kind with
  | .group => s.breakRdv e.gid e.obj
  | .units => e.tids.foldl (fun s t => s.breakUnits t) s
  | _ => e.tids.foldl (fun s t => s.breakThread t) s

/-- Code and object of a DEADLOCK event (R425): a wait for units has none in the spec, and takes free values. -/
def State.deadlockInfo (s : State) (e : WEntry) : State × Nat × Nat :=
  match e.kind with
  | .waitc => (s, 1, e.obj)
  | .tbarWait => (s, 2, match (s.waiterOf e).waitFor with
    | .tbarWait a _ => a.toNat
    | _ => 0)
  | .bar => (s, 3, e.obj)
  | .cbar => (s, 4, 0)
  | .group => (s, 5, e.obj)
  | .units =>
    let (v, s) := s.free
    let (w, s) := s.free
    (s, v.toNat % 16, w.toNat)

/-- Core and context of a group's wait. -/
def State.coreOfWait (s : State) (gid : Nat) : Nat × Nat :=
  if gid < 2 ^ 40 then (coreOfGroup gid, s.ctxOfGroup gid)
  else match s.awayMember gid with
    | some (cl, _, m) => (m.core, s.ctxOfCluster cl)
    | none => (0, 0)

/-- DEADLOCK_COMPLETION: the wait is completed, its launch marked, and the supervisor told (R319, R455). -/
def State.breakDeadlock (s : State) (e : WEntry) : State :=
  let (core, c) := s.coreOfWait e.gid
  let (s, code, obj) := s.deadlockInfo e
  let mask := maskOf (e.tids.map laneOf)
  let p := s.placeOf e.gid
  let q := (s.clusters.find p.1).map (·.launch)
  let s := s.svEvent c core 1 e.gid mask obj (code + mask.toNat * 2 ^ 32)
  let s := s.breakWait e
  match q with
  | some q => s.modLaunch q (fun l => { l with deadlock := true })
  | none => s

/-- Time between two walks: 100 µs (R319). -/
def walkTime : Nat := 100 * oneUs

/-- WAIT_FOR_WALK: the tables of both dies are walked, and of what has been a cycle at two walks in a row the youngest wait is
completed. -/
def execWaitForWalk (s : State) : Out :=
  .next (if s.wall < s.nextWalk then s
    else
      let d := s.cycle
      let s' : State :=
        { s with nextWalk := s.wall + walkTime, lastCycle := d, lastWaits := s.waitPairs.filter (fun w => d.contains w.1) }
      match s.youngest s.cycleTwice with
      | some e => s'.breakDeadlock e
      | none => s')

end Sys2Proof.Machine
end

