-- ==== Sys2Proof/Machine/Formation.lean ====
section
/-! DEFINITION. Bundle formation (07 R123–R127, R134; 06 R111, R119): which threads are ready, the bundles of a clk, the
arrival of instruction and register lines, and the ends of the delays that keep a thread from being ready. -/
namespace Sys2Proof.Machine

/-! ## The run ahead of a thread (R48, R124) -/

/-- A hint word joins the hints of its run (R48): none when the word is no WH word. -/
def hintOf (h : Hints) (w : Word) : Option Hints :=
  if w.extractLsb' 26 6 != 0x3F#6 then none
  else
    match decode h w with
    | .ok _ => some (hintAdd h (w.extractLsb' 24 2).toNat (w.extractLsb' 0 24))
    | .error _ => some { h with bad := true }

/-- What stands at a PC: a word that is not in the buffer, or a whole run. -/
inductive Ahead where
  | missing (va : Nat)
  | run (h : Hints) (pc : Nat) (w : Word)
  deriving DecidableEq, Repr

/-- Follows a run from an address with the hints it already has; at most six words make one. -/
def peekRun (words : Nat → Option Word) : Nat → Hints → Nat → Ahead
  | 0, h, pc => .run { h with bad := true } pc 0
  | n + 1, h, pc =>
    match words pc with
    | none => .missing pc
    | some w =>
      match hintOf h w with
      | some h' => peekRun words n h' ((pc + 4) % 2 ^ 57)
      | none => .run h pc w

/-- The run ahead of a thread from an address. -/
def State.ahead (s : State) (t : Nat) (h : Hints) (pc : VA) : Ahead :=
  peekRun (s.ibufWord (coreOf t) (s.fetchCtx t)) 6 h pc.toNat

/-! ## Readiness (R124) -/

/-- A thread's earlier loads, atomics and operations still write registers that a run names. -/
def State.resultsDue (s : State) (t : Nat) (regs : List Nat) : Bool :=
  s.accs.any (fun a => a.tid == t && a.kind != .store && (regsWritten (formOf a.hints a.instr)).any regs.contains) ||
  s.ops.any (fun o => o.lanes.any (fun l => l.tid == t) && (regsWritten (formOf o.hints o.instr)).any regs.contains)

/-- A run names k register `n`, as a source or as its destination; a sequence and a copy are taken to name every one (R125, R174,
R247, R395). -/
def namesK (h : Hints) (i : Instr) (n : Nat) : Bool :=
  (hKv h && decide (hKsel h = n)) ||
  match i with
  | .ld _ k _ _ | .st _ k _ _ | .lds _ k _ _ | .sts _ k _ _ | .pref k _ _ | .cflush k _ _ | .cinv k _ _ | .persist k _ _ =>
    decide (k.toNat = n)
  | .ldk d k _ => decide (d.toNat = n ∨ k.toNat = n)
  | .kfromv d _ => decide (d.toNat = n)
  | .kmov d a .. | .kaddi d a .. => decide (d.toNat = n ∨ a.toNat = n)
  | .kadd d a b .. | .kshl d a b .. | .kand d a b .. => decide (d.toNat = n ∨ a.toNat = n ∨ b.toNat = n)
  | .xop .. | .cpy .. | .cpyg .. | .cpys .. | .cpym .. | .tex .. | .texg .. | .texq .. | .trace .. | .beam .. | .cov .. | .ubr .. => true
  | _ => false

/-- k register that an LDK writes. -/
def ldkDst (i : Instr) : Option Nat :=
  match i with
  | .ldk d _ _ => some d.toNat
  | _ => none

/-- An LDK of a thread's team has issued and not yet written a k register that the run names (R174, R242). -/
def State.kLoads (s : State) (t : Nat) (h : Hints) (i : Instr) : Bool :=
  let due := fun (j : Instr) (u : Nat) => s.teamOf u == s.teamOf t && (ldkDst j).any (namesK h i)
  s.accs.any (fun a => due a.instr a.tid) || s.ops.any (fun o => o.lanes.any (fun l => due o.instr l.tid))

/-- Whether a thread is ready, and what it lacks. -/
inductive Ready where
  | yes
  /-- a word of its run is not in the buffer (R124) -/
  | line (va : Nat)
  /-- register lines are not present for its lane (R111) -/
  | fills (regs : List Nat)
  | no
  deriving DecidableEq, Repr

/-- A thread's own state lets it issue: its TSTATE is RUN, its last SCHED hint's STALL has elapsed, and it waits for
nothing; a supervisor's instance must hold the slot (R119, R124). -/
def State.awake (s : State) (t : Nat) : Bool :=
  let x := s.thread t
  let m := s.team (s.teamOf t)
  x.tstate == .run && x.waitFor == .nothing && x.stallTill == 0 && m.bind.state != .free && m.bind.state != .bound &&
  (m.kind != .supervisor || (s.core (coreOf t)).svCur == some m.bind.ctx)

/-- Threads of a STORE set replay when all of its MASK are ready (R413). -/
def State.storeSetReady (s : State) (t : Nat) : Bool :=
  match s.replaying t with
  | some x => x.unit != .store || (lanesOf x.mask).all (fun l => s.awake (threadKey x.gid l))
  | none => true

/-- Readiness of a thread for the run at an address, with the hints it already has. -/
def State.readyAt (s : State) (t : Nat) (h : Hints) (pc : VA) : Ready :=
  if !s.awake t then .no
  else
    match s.ahead t h pc with
    | .missing va => .line va
    | .run h _ w =>
      if h.bad then .yes
      else
        match decode h w with
        | .error _ => .yes
        | .ok i =>
          let f := s.formAt (s.ctxOf t) h i
          let n := s.regsOf (gidOf t)
          let reads := if s.frozen t then [] else (regsRead h f).filter (fun r => decide (r < n))
          let writes := (regsWritten f).filter (fun r => decide (r < n))
          if s.resultsDue t (reads ++ writes) || s.matrixLocked t reads writes || s.kLoads t h i ||
              s.fileTight (coreOf t) || !s.storeSetReady t then .no
          else
            let miss := reads.filter (s.regMissing t)
            if miss.isEmpty then .yes else .fills miss

/-- A thread stands in a held bundle. -/
def State.inHeld (s : State) (t : Nat) : Bool := s.held.any (fun b => b.threads.contains t)

/-- Readiness of a thread outside a held bundle: its team is not ordered to stop (R439). -/
def State.ready (s : State) (t : Nat) : Ready :=
  if (s.team (s.teamOf t)).stopping || s.inHeld t then .no else s.readyAt t Hints.none (s.thread t).pc

/-- Readiness of a thread of a held bundle: inside a sequence it issues the next micro-op (R134, R400). -/
def State.readyHeld (s : State) (b : Bundle) (t : Nat) : Ready :=
  if b.inXop then .yes else s.readyAt t b.hints b.pc

/-- Threads of the groups that a core holds, which have not exited. -/
def State.threadsOn (s : State) (core : Nat) : List Nat :=
  ((s.groups.filter (fun p => coreOfGroup p.1 == core && p.2.live)).flatMap (fun p => threadsOfGroup p.1)).filter s.alive

/-- Every thread of a core with its readiness. -/
def State.readiness (s : State) (core : Nat) : List (Nat × Ready) :=
  (s.threadsOn core).map (fun t =>
    match s.held.find? (fun b => b.threads.contains t) with
    | some b => (t, s.readyHeld b t)
    | none => (t, s.ready t))

/-! ## Order (R124) -/

/-- A thread ranks before another: no YIELD, then the older stamp, the lower slot, the lower lane. -/
def State.older (s : State) (a b : Nat) : Bool :=
  let x := s.thread a
  let y := s.thread b
  if x.yields != y.yields then y.yields
  else if x.age != y.age then decide (x.age < y.age) else decide (a ≤ b)

/-- Threads in the order in which a formation takes them. -/
def State.byAge (s : State) (l : List Nat) : List Nat := sortBy s.older l

/-! ## Bundles of one clk (R123, R124) -/

/-- A thread may join a bundle. -/
def State.admits (s : State) (b : Bundle) (t : Nat) : Bool :=
  match b.threads with
  | [] => false
  | u :: _ =>
    let m := s.team (s.teamOf t)
    let n := s.team (s.teamOf u)
    !b.inXop && m.bind.ctx == n.bind.ctx && m.kind == n.kind && m.code == n.code &&
    (m.kind != .supervisor || s.teamOf t == s.teamOf u) && (s.thread t).pc == b.pc &&
    b.threads.all (fun v => laneOf v != laneOf t)

/-- A bundle of one thread. -/
def State.newBundle (s : State) (t : Nat) : Bundle :=
  { core := coreOf t, threads := [t], runPc := (s.thread t).pc, pc := (s.thread t).pc, hints := Hints.none, l0 := 0, l1 := 0,
    l2 := 0, l3 := 0, inXop := false }

/-- Places a thread, in order of age: in the first bundle that admits it, else in a new one while a port is left. -/
def State.placeThread (s : State) (ports : Nat) (sup : Bool) (bs : List Bundle) (t : Nat) : List Bundle :=
  match bs.findIdx? (fun b => s.admits b t) with
  | some i => bs.modify i (fun b => { b with threads := b.threads ++ [t] })
  | none =>
    if bs.length ≥ ports || (s.isSup t && (sup || bs.any (fun b => b.threads.any s.isSup))) then bs
    else bs ++ [s.newBundle t]

/-- Held bundles that issue: those whose threads are all ready, oldest first, at most four, and at most one of the
supervisor. -/
def State.heldReady (s : State) (core : Nat) (rs : List (Nat × Ready)) : List Bundle :=
  let mine := s.held.filter (fun b => b.core == core && b.threads.all (fun t => rs.contains (t, Ready.yes)))
  let key := fun (b : Bundle) => (s.byAge b.threads).headD 0
  (sortBy (fun a b => s.older (key a) (key b)) mine).foldl (fun l b =>
    if l.length ≥ 4 || (b.threads.any s.isSup && l.any (fun (c : Bundle) => c.threads.any s.isSup)) then l else l ++ [b]) []

/-- The lines that a bundle's words lie in are the most recently used. -/
def State.touchLines (s : State) (b : Bundle) : State :=
  let c := s.bundleFetch b
  s.modCore b.core (fun k => { k with ibuf := k.ibuf.map (fun l =>
    if l.ctx == c && b.pc.toNat / 64 ≤ l.va && l.va ≤ (b.pc.toNat + 20) / 64 then { l with used := s.clk } else l) })

/-- Asks for the lines that threads lack, the oldest first; as many at once as leave the lines of the bundles in place. -/
def State.askLines (s : State) (core : Nat) (rs : List (Nat × Ready)) : State :=
  let want := rs.filterMap (fun p => match p.2 with | .line va => some (p.1, va) | _ => none)
  ((s.byAge (want.map (·.1))).take 16).foldl (fun s t =>
    match want.find? (fun p => p.1 == t) with
    | some (_, va) => s.requestLine core (s.fetchCtx t) va
    | none => s) s

/-- Asks for the register lines that threads lack: a missing thread is not ready until the fill arrives (R111). -/
def State.askFills (s : State) (rs : List (Nat × Ready)) : State :=
  rs.foldl (fun s p => match p.2 with
    | .fills l => (l.foldl (fun s n => s.requestFill p.1 n) s).modThread p.1 (fun x => x.suspend .lineFill)
    | _ => s) s

/-- The bundles of a core in one clk. -/
def State.formCore (s : State) (core : Nat) : State :=
  let rs := s.readiness core
  let held := s.heldReady core rs
  let free := s.byAge ((rs.filter (fun p => p.2 == .yes && !s.inHeld p.1)).map (·.1))
  let new := free.foldl (s.placeThread (4 - held.length) (held.any (fun b => b.threads.any s.isSup))) []
  let s := free.foldl (fun s t => s.modThread t (fun x => { x with yields := false })) s
  let s : State := { s with issue := s.issue ++ held ++ new, held := s.held.filter (fun b => !held.contains b) }
  let s := (held ++ new).foldl (fun s b => s.touchLines b) s
  (s.askLines core rs).askFills rs

/-! ## Before a formation -/

/-- A thread has trapped: its request is in the mailbox, or waits for a slot. -/
def State.inTrap (s : State) (t : Nat) : Bool :=
  (s.thread t).waitFor == .trap || ((s.thread t).waitFor == .hold &&
    s.requests.any (fun r => !r.event && r.slot == 0 && r.gid == gidOf t && r.lanes.getLsbD (laneOf t)))

/-- Threads that trap leave their held bundles, with their latch values in the image; the others stay (R134). -/
def State.leaveHeld (s : State) (ts : List Nat) : State :=
  let s := s.held.foldl (fun s b => s.leaveWindow b (b.threads.filter ts.contains)) s
  { s with held := (s.held.map (fun b => { b with threads := b.threads.filter (fun t => !ts.contains t) })).filter
                     (fun b => !b.threads.isEmpty) }

/-- Threads that have exited or trapped leave their held bundles (R134), and a team that is ordered to stop leaves its
sequences (R401). -/
def State.trimHeld (s : State) : State :=
  let s := s.leaveHeld ((s.held.flatMap (·.threads)).filter s.inTrap)
  let s : State := { s with held := (s.held.map (fun b => { b with threads := b.threads.filter s.alive })).filter
                                      (fun b => !b.threads.isEmpty) }
  let stop := (s.held.filter (·.inXop)).flatMap (fun b => b.threads.filter (fun t => (s.team (s.teamOf t)).stopping))
  if stop.isEmpty then s else s.stopXops stop

/-- A thread that a FETCH set lists leaves it once its words are there (R413, R417). -/
def State.leaveFetchSets (s : State) (core : Nat) : State :=
  (s.threadsOn core).foldl (fun s t =>
    match s.replaying t with
    | some x =>
      if x.unit == .fetch && s.awake t then
        match s.ahead t Hints.none (s.thread t).pc with
        | .missing _ => s
        | .run _ _ _ => s.leaveSet t
      else s
    | none => s) s

/-- Contexts whose instances on a core have a thread to run, in ascending order. -/
def State.svRunnable (s : State) (core : Nat) : List Nat :=
  (List.range 64).filter (fun c =>
    let m := s.team (teamKey core (128 + c))
    m.kind == .supervisor && m.bind.state == .runnable && !m.stopping &&
    (threadsOfGroup (groupKey core (128 + c))).any (fun t => (s.thread t).tstate == .run))

/-- The instance that holds slot 128 changes only when the current one waits, has yielded or has executed SVRET; the lines
of the outgoing one become evictable (R119). -/
def State.svSwitch (s : State) (core : Nat) : State :=
  let k := s.core core
  let l := s.svRunnable core
  let stays := match k.svCur with
    | some c => l.contains c && !k.svYield
    | none => false
  if stays then s
  else
    let next := match k.svCur with
      | some c => match l.find? (fun x => decide (c < x)) with
        | some x => some x
        | none => l.head?
      | none => l.head?
    match next with
    | none => s.modCore core (fun x => { x with svYield := false })
    | some c =>
      let s := match k.svCur with
        | some o => if o == c then s else s.evictGroupLines (groupKey core (128 + o))
        | none => s
      s.modCore core (fun x => { x with svCur := some c, svYield := false })

/-- Cores that hold a team. -/
def State.busyCores (s : State) : List Nat :=
  sortBy (fun a b => decide (a ≤ b))
    (dedupBy id ((s.teams.filter (fun p => p.2.bind.state != .free)).map (fun p => coreOfTeam p.1)))

/-- BUNDLE_FORMATION: the next clk begins, and every core forms its bundles for it (R124); checks of supervisor code that
waited for a page are made again (R121). A tripped module forms none (R485). -/
def execBundleFormation (s : State) : Out :=
  .next (
    let s := s.nextClk
    if s.dev.tripped || !s.issue.isEmpty then s
    else
      let s := s.retryInstances.trimHeld
      s.busyCores.foldl (fun s c => ((s.leaveFetchSets c).svSwitch c).formCore c) s)

/-! ## Lines arrive -/

/-- The 16 words of a line, read for a fetch context on a core (R135, R208). -/
inductive Fetched where
  | words (l : List Word)
  | fail (f : Fail)
  | wait
  deriving DecidableEq, Repr

/-- Fetches a line: an execute access, and both its sectors are read (R208, R450). On a page of HOME 3 nothing is fetched
ahead of the threads that need it (R224). -/
def State.fetchLine (s : State) (core fc va : Nat) (ahead : Bool) : State × Fetched :=
  match s.check core (fc % 64) (fc ≥ 64) .fetch (64 * va) with
  | (s, .error .wait) => (s, .wait)
  | (s, .error f) => (s, .fail f)
  | (s, .ok p) =>
    if ahead && pteHome p.leaf == 3 then (s, .fail (.trap .permission))
    else if !s.answers p.loc then (s.holdFor p.loc, .wait)
    else
      let (s, ok) := s.settleU.consume p.loc (pteKey p.leaf)
      let (s, ok') := s.consume (p.loc + 32) (pteKey p.leaf)
      if !ok || !ok' then (s, .fail (.trap .poison))
      else
        let s := s.noteRead core p.leaf p.loc
        (s, .words ((List.range 16).map (fun i => BitVec.ofNat 32 (s.readN (p.loc + 4 * i) 4))))

/-- Threads that would issue and lack a word of a line. -/
def State.lackLine (s : State) (core fc va : Nat) : List (Nat × Nat) :=
  (s.readiness core).filterMap (fun p => match p.2 with
    | .line a => if a / 64 == va && s.fetchCtx p.1 == fc then some (p.1, a) else none
    | _ => none)

/-- Parks the threads of one group on the page of a line (R408, R417): unit FETCH. -/
def State.parkFetch (s : State) (core fc page : Nat) (r : Reason) (ts : List Nat) : State :=
  match ts with
  | [] => s
  | t :: _ =>
    let pc := (s.thread t).pc
    s.park { ctx := fc % 64, core := core, gid := gidOf t, unit := .fetch, instr := .nop, hints := Hints.none, word := 0,
             pc := pc, next := pc, lanes := ts.map (fun u => addrLane u 0), data := [],
             pages := [{ lane := laneOf t, page := page, reason := r, write := false, fetch := true }], copy := none,
             cands := [page + 4096] }

/-- Threads of a list that stand in the same group at the same PC, the first of each. -/
def State.parties (s : State) (ts : List Nat) : List (List Nat) :=
  let key := fun (t : Nat) => gidOf t * 2 ^ 57 + (s.thread t).pc.toNat
  (dedupBy key ts).map (fun t => sortBy (fun a b => decide (a ≤ b)) (ts.filter (fun u => key u == key t)))

/-- A fetch that failed is taken by the threads that need the line now, and by none if none does (R135). -/
def State.fetchFault (s : State) (core fc va : Nat) (f : Fail) : State :=
  let who := s.lackLine core fc va
  let ts := who.map (·.1)
  let s := match f with
    | .trap _ => s.leaveHeld ts
    | _ => s
  (s.parties ts).foldl (fun s l =>
    match f, l with
    | _, [] | .wait, _ => s
    | .trap c, t :: _ =>
      let a := ((who.find? (fun p => p.1 == t)).map (·.2)).getD (64 * va)
      s.trapIn l c (s.thread t).pc (s.thread t).pc (fun _ => { info0 := a, info1 := 2 })
    | .park r, _ => s.parkFetch core fc (64 * va / 4096 * 4096) r l) s

/-- INSTRUCTION_LINE_ARRIVAL: the line `a` of fetch context `c` arrives in the buffer of core `id`, or its fetch fails
(R124, R127, R135). A line fetched ahead that fails leaves no record. -/
def execInstructionLineArrival (s : State) : Out :=
  .next (
    let core := s.subj.id
    let fc := s.subj.c
    let va := s.subj.a
    let mine := fun (l : ILine) => l.ctx == fc && l.va == va && l.words.isNone
    if !(s.core core).ibuf.any mine then s
    else
      let ahead := (s.lackLine core fc va).isEmpty
      match s.fetchLine core fc va ahead with
      | (s, .wait) => s
      | (s, .words ws) =>
        s.modCore core (fun k => { k with ibuf := k.ibuf.map (fun l => if mine l then { l with words := some ws } else l) })
      | (s', .fail f) =>
        (if ahead then s else s'.fetchFault core fc va f).modCore core (fun k =>
          { k with ibuf := k.ibuf.filter (fun l => !mine l) }))

/-- REGISTER_FILL: the line with tag `a` of context `c` arrives on core `id`; threads of its group that waited for lines
may be ready (R111). -/
def execRegisterFill (s : State) : Out :=
  .next (
    match s.line s.subj.id s.subj.c s.subj.a with
    | none => s
    | some l =>
      if !l.filling then s
      else
        let g := s.groupOfLine l
        let s := s.mergeFill l
        match g with
        | none => s
        | some g => (threadsOfGroup g).foldl (fun s t => s.modThread t (fun x =>
            if x.waitFor == .lineFill then { x with waitFor := .nothing } else x)) s)

/-! ## Times (R54, R130, R180) -/

/-- The top entry of a running team has kept a thread waiting for 16,384 clk (R130, R131). -/
def State.joinLate (s : State) (k : Nat) : Bool :=
  (s.team k).bind.state == .runnable && !(s.team k).stopping &&
  match (s.team k).rstack.getLast? with
  | some e => match e.since with
    | some n => decide (n + 16384 ≤ s.clk)
    | none => false
  | none => false

/-- RECONVERGENCE_TIMEOUT of team `id`: its top entry is released (R130). -/
def execReconvergenceTimeout (s : State) : Out :=
  .next (if s.joinLate s.subj.id then (s.releaseTop s.subj.id).releaseDone s.subj.id 33 else s)

/-- STALL_EXPIRY of thread `id` (R54). -/
def execStallExpiry (s : State) : Out :=
  .next (
    let x := s.thread s.subj.id
    if x.stallTill ≠ 0 && x.stallTill ≤ s.clk then s.setThread s.subj.id { x with stallTill := 0 } else s)

/-- YIELD_DELAY_END of thread `id` (R180). -/
def execYieldDelayEnd (s : State) : Out :=
  .next (
    let x := s.thread s.subj.id
    match x.waitFor with
    | .yieldDelay till => if till ≤ s.clk then s.setThread s.subj.id { x with waitFor := .nothing, tstate := .run } else s
    | _ => s)

end Sys2Proof.Machine
end

