-- ==== Sys2Proof/Machine/Inval.lean ====
section
/-! DEFINITION. What hosts do to translations, device memory and the lines they own (11 R212–R223), and what the links bring
(01 R19; 21 R450): invalidations, bias flips, the carve-out, snoops, host accesses, poison. -/
namespace Sys2Proof.Machine

/-! ## Invalidation (R212, R213) -/

/-- What an invalidation of a range of pages covers: the range, and the pages of every entry that it removes (R213). -/
def State.removed (s : State) (c vpn n : Nat) : List (Nat × Nat) :=
  let gone := (s.tlb2.map (·.2) ++ s.cores.flatMap (fun p => p.2.tlb)).filter (fun t => t.ctx == c && overlaps t.vpn t.span vpn n)
  (vpn, n) :: gone.map (fun t => (t.vpn, t.span))

/-- An address lies in a page of a list of ranges. -/
def pagesHold (l : List (Nat × Nat)) (va : Nat) : Bool := l.any (fun r => overlaps (va / 4096) 1 r.1 r.2)

/-- Accesses of a context in flight under translations of some ranges of pages, and copies whose engine holds sectors that go
there. -/
def State.accsUnder (s : State) (c : Nat) (l : List (Nat × Nat)) : List Nat :=
  (s.accs.filter (fun a => a.ctx == c && a.leaf != 0 && pagesHold l a.va.toNat)).map (·.id) ++
  (s.copies.filter (fun x => x.ctx == c && x.buf.any (fun b =>
    ((x.part (b.n - x.prog)).map (fun p => !p.slice.sd && pagesHold l p.dst)).getD false))).map (·.id)

/-- Threads of a context whose sequences hold a location that they translated in some ranges of pages (R397). -/
def State.seqsUnder (s : State) (c : Nat) (l : List (Nat × Nat)) : List Nat :=
  (s.threads.filter (fun p => s.running p.1 && s.ctxOf p.1 == c &&
    (match p.2.xop with
      | some k => k.probes.any (fun q => pagesHold l q.va.toNat)
      | none => false))).map (·.1)

/-- An invalidation starts: the translations go at once, and BUSY stands until what uses them has ended. -/
def State.invStart (s : State) (f c op vpn n : Nat) : State :=
  let l := s.removed c vpn n
  let job : InvJob := { ctx := c, op := op, vpn := vpn, n := n, waits := s.accsUnder c l, seqs := s.seqsUnder c l }
  (s.tlbDrop c vpn n).modFunc f (fun x => { x with inv := some job })

/-- GO of INV_CTL with an operation for a context, by function `f`. -/
def State.invGo (s : State) (f c op : Nat) : State :=
  let x := s.func f
  let status := fun (n : Nat) => s.modFunc f (fun x => { x with invStatus := BitVec.ofNat 3 n })
  let pages := x.invPages.toNat
  if x.inv.isSome then s
  else if !s.sees f c then status 2
  else if op = 3 || (op < 2 && (pages = 0 || x.invVa.toNat + 4096 * pages > 2 ^ 57)) then status 3
  else if op = 2 then s.invStart f c op 0 (2 ^ 45)
  else s.invStart f c op (x.invVa.toNat / 4096) pages

/-- A write of INV_CTL. -/
def State.invWrite (s : State) (f v : Nat) : State :=
  let s := s.modFunc f (fun x => { x with invCtx := BitVec.ofNat 6 (v / 256), invOp := BitVec.ofNat 2 (v / 2) })
  if v % 2 = 1 then s.invGo f (v / 256 % 64) (v / 2 % 4) else s

/-- INV_RANGE: function `f` writes OP 0 and GO for context `c`. -/
def execInvRange (s : State) : Out := .next (if s.inLoader then s else s.invWrite s.subj.f (s.subj.c % 64 * 256 + 1))
/-- INV_RANGE_RELEASE: function `f` writes OP 1 and GO for context `c`. -/
def execInvRangeRelease (s : State) : Out :=
  .next (if s.inLoader then s else s.invWrite s.subj.f (s.subj.c % 64 * 256 + 3))
/-- INV_CONTEXT: function `f` writes OP 2 and GO for context `c`. -/
def execInvContext (s : State) : Out := .next (if s.inLoader then s else s.invWrite s.subj.f (s.subj.c % 64 * 256 + 5))

/-- Everything that an invalidation waits for has completed or has parked. -/
def State.invOver (s : State) (j : InvJob) : Bool :=
  !s.accs.any (fun a => j.waits.contains a.id) && !s.copies.any (fun c => j.waits.contains c.id && !c.buf.isEmpty) &&
  !j.seqs.any s.running

/-- INVALIDATION_DONE of function `f`: OP 1 releases the locations of the range, and BUSY clears with STATUS 1. -/
def execInvalidationDone (s : State) : Out :=
  .next (
    match (s.func s.subj.f).inv with
    | none => s
    | some j =>
      if !s.invOver j then s
      else
        let s := if j.op = 1 then s.release j.ctx j.vpn j.n else s
        s.modFunc s.subj.f (fun x => { x with inv := none, invStatus := 1 }))

/-! ## Bias (R222, R223) and the carve-out (R215) -/

/-- GO of BIAS_CTL with a direction. -/
def State.biasGo (s : State) (dev : Bool) : State :=
  let pa := s.dev.biasPa.toNat
  let status := fun (n : Nat) => s.modDev (fun d => { d with biasStatus := BitVec.ofNat 3 n })
  if s.dev.flip.isSome then s
  else if !isDevmem pa || pa ≥ 2 ^ 46 + s.carveout then status 2
  else if !((s.func 0).session && (s.func 0).accept.getLsbD 11) then status 3
  else if s.deviceBias pa == dev then status 4
  else s.modDev (fun d => { d with flip := some (pa / 4096, dev) })

/-- A write of BIAS_CTL. -/
def State.biasWrite (s : State) (v : Nat) : State :=
  let s := s.modDev (fun d => { d with toDevice := bit v 1 })
  if v % 2 = 1 then s.biasGo (bit v 1) else s

/-- BIAS_TO_DEVICE: the physical function writes TO_DEVICE 1 and GO. -/
def execBiasToDevice (s : State) : Out := .next (if s.subj.f = 0 && !s.inLoader then s.biasWrite 3 else s)
/-- BIAS_TO_HOST: the physical function writes TO_DEVICE 0 and GO. -/
def execBiasToHost (s : State) : Out := .next (if s.subj.f = 0 && !s.inLoader then s.biasWrite 1 else s)

/-- Every copy of a range of bytes is recalled, update-only ones combined first, and the units of frames with it (R218, R221,
R304). -/
def State.recall (s : State) (base n : Nat) : State :=
  let s := (s.combineWhere (fun u => overlaps u.pa 8 base n)).dirRecall base n
  let out := fun (f : Frame) (u : Nat) => overlaps (f.block * 65536 + 512 * u) 512 base n
  { s with frames := s.frames.map (fun f =>
      { f with dirty := f.dirty.filter (fun u => !out f u), filled := f.filled.filter (fun u => !out f u) }) }

/-- An access of the device to a page may be served as it stands, before its bias changes (R223). -/
def State.pageBusy (s : State) (page : Nat) : Bool :=
  s.accs.any (fun a => a.pa / 4096 == page && s.mayPerform a) ||
  s.copies.any (fun c => c.buf.any (fun b => b.dests.any (fun d => d.2.loc / 4096 == page)))

/-- The scheduler core that performs a flip is running, what is on its way to the page has been served, and no engine has a
line of it in progress (R223, R258, R486). -/
def State.flipReady (s : State) (page : Nat) : Bool :=
  s.boot.ready.getLsbD (2 + homeDie (page * 4096)) && !s.dev.tripped && !s.pageBusy page

/-- BIAS_FLIP_DONE: the page's copies are recalled, its bit changes, and BUSY clears with STATUS 1. -/
def execBiasFlipDone (s : State) : Out :=
  .next (
    match s.dev.flip with
    | none => s
    | some (page, dev) =>
      if !s.flipReady page then s
      else
        let s := s.recall (page * 4096) 4096
        let rest := s.bias.filter (· != page)
        let s : State := { s with bias := if dev then insertBy (fun a b => decide (a ≤ b)) page rest else rest }
        s.modDev (fun d => { d with flip := none, biasStatus := 1 }))

/-- A write of DEVMEM_CTL: ignored while any function has a session, or when DEVMEM is not offered. -/
def State.devmemWrite (s : State) (v : Nat) : State :=
  if s.funcs.any (fun p => p.2.session) || !(s.offer 0).getLsbD 11 then s
  else s.modDev (fun d => { d with devmemGib := BitVec.ofNat 6 (min 32 (v % 64)) })

/-- DEVMEM_CTL_WRITE: the physical function writes `v`. -/
def execDevmemCtlWrite (s : State) : Out := .next (if s.subj.f = 0 && !s.inLoader then s.devmemWrite s.subj.v.toNat else s)

/-! ## Bytes that come from outside (R221, R222) -/

/-- Bytes of one sector as an external home now has them: a whole sector loses its poison and its key, and what the memory
devices hold is durable (R225, R226, R450). -/
def State.outerStore (s : State) (loc : Nat) (bs : List Byte) : State :=
  let sec := sectorOf loc
  let s := if bs.length == 32 then { s.cleanSector sec with sectorKey := s.sectorKey.put sec 0 } else s
  ({ s with notDurable := s.notDurable.del sec } : State).setBytes loc bs

/-- Bytes of one sector stored by a host into device memory (R222). -/
def State.hostStore (s : State) (loc : Nat) (bs : List Byte) : State :=
  s.storeBytes loc (if bs.length == 32 then 0 else s.sectorKey.at' 0 (sectorOf loc)) false false bs

/-- Stores bytes sector by sector. -/
def State.bySector (s : State) (f : State → Nat → List Byte → State) : Nat → Nat → List Byte → State
  | 0, _, _ => s
  | n + 1, loc, bs =>
    if bs.isEmpty then s
    else
      let k := 32 - loc % 32
      (f s loc (bs.take k)).bySector f n (loc + k) (bs.drop k)

/-- A sector as it stands outside the package: encrypted under the key that it was written with, the sector's number its tweak
(R225). -/
def State.outside (s : State) (sec : Nat) : BitVec 256 :=
  let plain := BitVec.ofNat 256 (s.readN (sec * 32) 32)
  match s.sectorKey.at' 0 sec with
  | 0 => plain
  | k => aesXts (s.boot.keys.at' 0 k) (BitVec.ofNat 47 sec) plain

/-- `n` bytes of a location as they stand outside the package. -/
def State.outsideN (s : State) (loc n : Nat) : Nat :=
  ofBytes ((List.range n).map (fun i => (s.outside (sectorOf (loc + i))).extractLsb' (8 * ((loc + i) % 32)) 8))

/-- What a host does waits: a port is not trained, the bias of its page is being flipped, or an engine has a line of it in
progress (R19, R223, R258). -/
def State.hostWaits (s : State) (a n : Nat) : Bool :=
  !s.linkUp a || !s.linkUp (a + n - 1) || s.flipping a || s.flipping (a + n - 1) || s.inProgress a n

/-- The event in hand waits, and is tried again until it can happen. -/
def State.defer (s : State) (i : Instr) : State :=
  if s.waiting.contains (i, s.subj) then s else { s with waiting := s.waiting ++ [(i, s.subj)] }

/-- The event in hand waits no more. -/
def State.served (s : State) (i : Instr) : State := { s with waiting := s.waiting.erase (i, s.subj) }

/-- The device holds newer data than the home in a range of bytes: in a cache, or in a frame unit (R214, R218). -/
def State.holdsDirty (s : State) (base n : Nat) : Bool :=
  s.dir.any (fun d => d.st == .o && overlaps d.base d.size base n) ||
  s.frames.any (fun f => f.dirty.any (fun u => overlaps (f.block * 65536 + 512 * u) 512 base n))

/-- EXTERNAL_SNOOP of the lines from `a`: every copy on the device is recalled, and the device answers with what it held newer
than the home; the home's bytes are those in `data` from then on, and the monitors on the lines are evaluated (R221, R308). An
empty `data` changes no byte. A line of a pool page has 128 bytes, one of a host page 64. -/
def execExternalSnoop (s : State) : Out :=
  .next (
    let a := s.subj.a
    let n := max 1 s.subj.data.length
    let ok := (isPool a && isPool (a + n - 1)) || (isHostMem a && isHostMem (a + n - 1))
    let line := if isPool a then 128 else 64
    let base := a / line * line
    let len := (a + n + line - 1) / line * line - base
    if !ok then s
    else if s.inProgress base len then s.defer .externalSnoop
    else
      let s := s.served .externalSnoop
      let s := if s.holdsDirty base len then { s with hostData := BitVec.ofNat 64 (s.outsideN a 8) } else s
      let s := s.recall base len
      let s := s.bySector State.outerStore (s.subj.data.length + 1) a s.subj.data
      s.fireMonitors base len)

/-- HOST_CXL_MEM_ACCESS to device memory at `a`: a write of `data`, or a read of `b` bytes, at most 8; the device recalls its
copies of the lines of 64 bytes, the host's copies of them are recorded by the host bit, and a page whose bias is being
flipped makes the access wait (R218, R222, R223). A read sees what stands outside the package (R225). -/
def execHostCxlMemAccess (s : State) : Out :=
  .next (
    let a := s.subj.a
    let n := if s.subj.w then s.subj.data.length else min 8 s.subj.b
    if n = 0 || !isDevmem a || a + n > 2 ^ 46 + s.carveout then s
    else if s.hostWaits a n then s.defer .hostCxlMemAccess
    else
      let s := s.served .hostCxlMemAccess
      let base := a / 64 * 64
      let len := (a + n + 63) / 64 * 64 - base
      let s := s.recall base len
      let secs := (List.range (len / 32)).map (fun i => base + 32 * i)
      if s.subj.w then
        let s := secs.foldl (fun s p => s.dirWrite (homeDie p) 145 p 0) s
        (s.bySector State.hostStore (n + 1) a s.subj.data).fireMonitors a n
      else
        let s := secs.foldl (fun s p => s.dirRead (homeDie p) (some 145) p 0) s
        { s with hostData := BitVec.ofNat 64 (s.outsideN a n) })

/-! ## Poisoned responses (R19, R450) -/

/-- A poisoned response for a sector arrives from a link. -/
def State.linkPoison (s : State) (a : Nat) : State := (s.logLasting 10 (sectorOf a) true).poisonSector (sectorOf a)

/-- LINK_POISON_RESPONSE for the sector of `a` (R450). -/
def execLinkPoisonResponse (s : State) : Out :=
  .next (if isPool s.subj.a || isHostMem s.subj.a then s.linkPoison s.subj.a else s)

/-- 100 ms of wall-clock time (R19). -/
def heldTime : Nat := 100000 * oneUs

/-- CXL_REQUEST_TIMEOUT of the request for location `a`, held for 100 ms for a port that is not trained: it completes with a
poisoned response, and whatever waits for the sector goes on with it (R19). -/
def execCxlRequestTimeout (s : State) : Out :=
  let sec := sectorOf s.subj.a
  .next (match s.heldReqs.find sec with
    | some since =>
      if s.linkUp s.subj.a || s.wall < since + heldTime then s
      else ({ s with heldReqs := s.heldReqs.del sec } : State).linkPoison s.subj.a
    | none => s)

end Sys2Proof.Machine
end

