-- ==== Sys2Proof/Machine/Registers.lean ====
section
/-! DEFINITION. The control registers of a function (01 R15, R21–R24; 05 R78, R80, R81; 06 R106; 10 R201; 11 R204, R212–R222;
15 R300, R309; 18 R390; 20 R409; 21 R443, R451; 26 R484–R487): what each reads as and what a write of it does, feature
negotiation, and the event queue. -/
namespace Sys2Proof.Machine

/-! ## Features (R21, R22) -/

/-- STATUS that a commit of the accepted word gives outside a session. -/
def State.commitStatus (s : State) (f : Nat) : BitVec 3 :=
  let a := (s.func f).accept
  if !a.getLsbD 0 then 2
  else if a &&& ~~~(s.offer f) ≠ 0 then 3
  else if a.getLsbD 6 && !a.getLsbD 5 then 4
  else 1

/-- COMMIT: a session begins, or the status says why not; during a session it is LOCKED. -/
def State.commit (s : State) (f : Nat) : State :=
  let st := s.commitStatus f
  if (s.func f).session then s.modFunc f (fun x => { x with featStatus := 5 })
  else s.modFunc f (fun x => { x with featStatus := st, session := st == 1 })

/-- FEAT_COMMIT of function `f`. -/
def execFeatCommit (s : State) : Out := .next (if s.subj.f ≤ 32 && !s.inLoader then s.commit s.subj.f else s)

/-! ## The event queue (R78) -/

/-- POP_ARM: function `f` writes `v`. -/
def execPopArm (s : State) : Out :=
  .next (if s.subj.v = 1 && !s.inLoader then s.modFunc s.subj.f (fun x => { x with armed := true }) else s)

/-- POP_DATA: the read of function `f` returns the head record, with bit 63 when one was discarded before it, if the queue is
armed, and consumes the arm. -/
def execPopData (s : State) : Out :=
  .next (
    let x := s.func s.subj.f
    match x.armed, x.events with
    | true, r :: rest =>
      { s.modFunc s.subj.f (fun x => { x with armed := false, events := rest, lost := false }) with
        hostData := if x.lost then r ||| 0x8000000000000000 else r }
    | true, [] => { s.modFunc s.subj.f (fun x => { x with armed := false }) with hostData := 0 }
    | false, _ => { s with hostData := 0 })

/-! ## Where registers lie -/

/-- Offsets in a context block whose registers have 8 bytes (R80, R106, R204). -/
def wideInBlock (o : Nat) : Bool := !([0x00, 0x08, 0x18, 0x28, 0x38] : List Nat).all (· != o)

/-- First byte and size of the register that a byte of BAR 0 belongs to. -/
def regAt (a : Nat) : Nat × Nat :=
  let w := a / 8 * 8
  let wide :=
    if w < 0x1000 then w == 0x200 || w == 0x210 || w == 0x260
    else if w < 0x2000 then wideInBlock (w % 64)
    else w < 0x3000 && w % 64 == 0
  if wide then (w, 8) else (a / 4 * 4, 4)

/-! ## Reading -/

/-- A context block of R80 (R81, R106, R201, R204, R309). -/
def Ctx.readBlock (x : Ctx) (o : Nat) : Nat :=
  match o with
  | 0x00 => x.lpage.toNat
  | 0x08 => x.htab.toNat
  | 0x10 => x.amGroup.toNat * 2 ^ 16 + x.weight.toNat * 2 ^ 8 + x.owner.toNat * 4 + b2n x.launchUser * 2
  | 0x14 => x.amNack.toNat
  | 0x18 => x.image.toNat
  | 0x20 => b2n x.pinned * 2 ^ 31 + b2n x.pinErr * 2 ^ 30 + x.errCause.toNat * 2 ^ 28 + b2n x.pinning * 2 ^ 27 + x.imageSize.toNat
  | 0x24 => x.home.toNat
  | 0x28 => x.svcode.toNat
  | 0x30 => x.fpstat.toNat
  | 0x34 => x.monSpill.toNat
  | 0x38 => x.ptroot.toNat
  | _ => 0

/-- A context block of R409. -/
def Ctx.readFq (x : Ctx) (o : Nat) : Nat :=
  match o with
  | 0x00 => x.fqBase.toNat
  | 0x08 => b2n x.fqEnable * 2 ^ 31 + x.fqSize.toNat
  | 0x0C => x.fqTail.toNat
  | 0x10 => x.rplUnits.toNat
  | _ => 0

/-- CTX_RUNCTL (R443). -/
def Ctx.readRun (x : Ctx) : Nat := b2n x.runBusy * 2 ^ 31 + x.runStatus.toNat * 2 ^ 28 + b2n x.halted * 8

/-- MB_CTL (R487). -/
def Func.readMb (x : Func) : Nat := b2n x.mbBusy * 2 ^ 31 + x.mbStatus.toNat * 2 ^ 28 + x.mbKind.toNat * 2 ^ 24 + x.mbLen.toNat
/-- INV_CTL (R212). -/
def Func.readInv (x : Func) : Nat :=
  b2n x.inv.isSome * 2 ^ 31 + x.invStatus.toNat * 2 ^ 28 + x.invCtx.toNat * 2 ^ 8 + x.invOp.toNat * 2

/-- The registers of the physical function alone (R17, R212–R222, R300, R390, R451, R484, R486). -/
def State.readPf (s : State) (a : Nat) : Nat :=
  let d := s.dev
  let m := if s.marlReady then s.marl else Marl.reset
  match a with
  | 0x0000 => s.boot.failCause.toNat * 16 + s.boot.state.toNat
  | 0x0210 => d.biasPa.toNat
  | 0x0218 => b2n d.flip.isSome * 2 ^ 31 + d.biasStatus.toNat * 2 ^ 28 + b2n d.toDevice * 2
  | 0x021C => d.devmemGib.toNat
  | 0x0220 => b2n d.hostAop
  | 0x0224 => d.wftOvf1.toNat * 2 ^ 16 + d.wftOvf0.toNat
  | 0x0230 => match m.owner with
    | some c => 2 ^ 31 + c
    | none => 0
  | 0x0234 => m.die0.gen.toNat
  | 0x0238 => m.die0.appended.toNat
  | 0x023C => m.die1.appended.toNat
  | 0x0240 => m.die0.dropped.toNat
  | 0x0244 => m.die1.dropped.toNat
  | 0x0250 => d.logUnit.toNat * 2 ^ 16 + b2n d.blockFail * 4 + b2n d.poisoned * 2 + b2n d.lasting
  | 0x0254 => d.errCe.toNat
  | 0x0258 => d.errTransient.toNat
  | 0x025C => d.errLasting.toNat
  | 0x0260 => d.errLogPa.toNat
  | 0x0270 => d.powerNow.toNat * 2 ^ 16 + b2n d.applying * 2 ^ 15 + d.limitW.toNat
  | 0x0274 => b2n d.throttled * 2 ^ 31 + b2n d.tripped * 2 ^ 30 + d.clk100.toNat * 2 ^ 16 + d.temp1.toNat * 2 ^ 8 + d.temp0.toNat
  | _ => 0

/-- The registers that every function has (R15, R18, R20–R22, R212, R487). -/
def State.readFn (s : State) (f a : Nat) : Nat :=
  let x := s.func f
  if a = 0x10 then s.boot.ready.toNat
  else if a = 0x14 then s.boot.colReady.toNat
  else if 0x100 ≤ a && a < 0x120 then bits (s.offer f).toNat (32 * ((a - 0x100) / 4)) 32
  else if 0x120 ≤ a && a < 0x140 then bits x.accept.toNat (32 * ((a - 0x120) / 4)) 32
  else if a = 0x140 then x.featStatus.toNat * 2
  else if a = 0x200 then x.invVa.toNat
  else if a = 0x208 then x.invPages.toNat
  else if a = 0x20C then x.readInv
  else if f = 0 then s.readPf a
  else 0

/-- The recovery loader leaves BOOT_STATE, READY, COL_READY and the mailbox alone in operation (R17). -/
def State.regOn (s : State) (a : Nat) : Bool := !s.inLoader || a < 0x18 || (0x800 ≤ a && a < 0x1000)

/-- What the register at offset `a` of BAR 0 of function `f` reads as; `a` is its first byte. -/
def State.readReg0 (s : State) (f a : Nat) : Nat :=
  if !s.regOn a then 0
  else if a < 0x800 then s.readFn f a
  else if a < 0x1000 then
    if !s.boot.ready.getLsbD 1 then 0
    else if a = 0x800 then (s.func f).readMb
    else if 0x900 ≤ a then ofBytes ((List.range 4).map (fun i => (s.func f).mbData.at' 0 (a - 0x900 + i)))
    else 0
  else
    let c := a % 0x1000 / 64
    if a ≥ 0x4000 || !s.sees f c then 0
    else if a < 0x2000 then (s.ctx c).readBlock (a % 64)
    else if a < 0x3000 then (if s.boot.ready.getLsbD 10 then (s.ctx c).readFq (a % 64) else 0)
    else if a % 64 = 0 then (s.ctx c).readRun else 0

/-! ## Writing -/

/-- A write of CTX_CFG: OWNER only by the physical function, a WEIGHT of 0 stored as 1 (R81). -/
def Ctx.writeCfg (x : Ctx) (f v : Nat) : Ctx :=
  let w := v / 2 ^ 8 % 2 ^ 8
  { x with amGroup := BitVec.ofNat 16 (v / 2 ^ 16), weight := BitVec.ofNat 8 (if w = 0 then 1 else w),
           owner := if f = 0 then BitVec.ofNat 6 (v / 4) else x.owner, launchUser := bit v 1 }

/-- Write of a register of a context block: `w` holds the bytes written alone, `m` with the others as they read. -/
def State.writeBlock (s : State) (f c o w m : Nat) : State :=
  let x := s.ctx c
  let fixed := x.pinned || x.pinning
  match o with
  | 0x00 => s.lpageWrite c m
  | 0x08 => s.modCtx c (fun x => { x with htab := BitVec.ofNat 64 (bits m 6 51 * 64) })
  | 0x10 => s.modCtx c (fun x => x.writeCfg f m)
  | 0x14 => s.modCtx c (fun x => { x with amNack := x.amNack &&& ~~~(BitVec.ofNat 32 w) })
  | 0x18 => if fixed then s else s.modCtx c (fun x => { x with image := BitVec.ofNat 64 (m / 65536 * 65536) })
  | 0x20 => s.startPinning c (BitVec.ofNat 16 m)
  | 0x24 => if fixed then s else s.modCtx c (fun x => { x with home := BitVec.ofNat 9 m })
  | 0x28 => s.svcodeWrite c m
  | 0x30 => s.modCtx c (fun x => { x with fpstat := x.fpstat &&& ~~~(BitVec.ofNat 5 w) })
  | 0x34 => if x.pinned then s else s.modCtx c (fun x => { x with monSpill := BitVec.ofNat 16 m })
  | 0x38 => if x.pinned then s else s.modCtx c (fun x => { x with ptroot := BitVec.ofNat 64 (bits m 10 42 * 1024) })
  | _ => s

/-- Write of a register of a context's fault-queue block (R409). -/
def State.writeFq (s : State) (c o m : Nat) : State :=
  let x := s.ctx c
  match o with
  | 0x00 => if x.fqEnable then s else s.modCtx c (fun x => { x with fqBase := BitVec.ofNat 64 (m / 4096 * 4096) })
  | 0x08 => s.modCtx c (fun x => x.writeFqCtl (BitVec.ofNat 64 m))
  | 0x10 => if x.pinned then s else s.modCtx c (fun x => { x with rplUnits := BitVec.ofNat 16 m })
  | _ => s

/-- Write of a register of the physical function alone. -/
def State.writePf (s : State) (a w m : Nat) : State :=
  match a with
  | 0x0210 => s.modDev (fun d => { d with biasPa := BitVec.ofNat 64 (m / 4096 * 4096) })
  | 0x0218 => s.biasWrite (m / 2 % 2 * 2 + w % 2)
  | 0x021C => s.devmemWrite m
  | 0x0220 => s.modDev (fun d => { d with hostAop := bit m 0 })
  | 0x0250 => s.modDev (fun d =>
      { d with blockFail := d.blockFail && !bit w 2, poisoned := d.poisoned && !bit w 1, lasting := d.lasting && !bit w 0 })
  | 0x0254 => s.modDev (fun d => { d with errCe := d.errCe &&& ~~~(BitVec.ofNat 32 w) })
  | 0x0258 => s.modDev (fun d => { d with errTransient := d.errTransient &&& ~~~(BitVec.ofNat 32 w) })
  | 0x025C => s.modDev (fun d => { d with errLasting := d.errLasting &&& ~~~(BitVec.ofNat 32 w) })
  | 0x0270 => s.powerWrite m
  | _ => s

/-- A word of FEAT_ACCEPT replaced. -/
def setWord (x : BitVec 256) (i v : Nat) : BitVec 256 :=
  BitVec.ofNat 256 (x.toNat - bits x.toNat (32 * i) 32 * 2 ^ (32 * i) + v % 2 ^ 32 * 2 ^ (32 * i))

/-- Write of a register that every function has. -/
def State.writeFn (s : State) (f a w m : Nat) : State :=
  if 0x120 ≤ a && a < 0x140 then
    s.modFunc f (fun x => if x.session then x else { x with accept := setWord x.accept ((a - 0x120) / 4) m })
  else if a = 0x140 then (if w % 2 = 1 then s.commit f else s)
  else if a = 0x200 then s.modFunc f (fun x => { x with invVa := BitVec.ofNat 64 (m / 4096 * 4096) })
  else if a = 0x208 then s.modFunc f (fun x => { x with invPages := BitVec.ofNat 32 m })
  else if a = 0x20C then s.invWrite f (m / 2 * 2 + w % 2)
  else if f = 0 then s.writePf a w m
  else s

/-- Write of MB_CTL: GO sends a message unless one is being served (R487). -/
def State.writeMb (s : State) (f w m : Nat) : State :=
  if (s.func f).mbBusy then s
  else if bit w 23 then s.mbSend f (m / 2 ^ 24 % 16) (m % 2048)
  else s.modFunc f (fun x => { x with mbKind := BitVec.ofNat 4 (m / 2 ^ 24), mbLen := BitVec.ofNat 11 m })

/-- Write of MB_DATA, ignored while a message is being served. -/
def State.writeMbData (s : State) (f o m : Nat) : State :=
  s.modFunc f (fun x => if x.mbBusy then x else
    { x with mbData := (List.range 4).foldl (fun t i => t.put (o + i) (BitVec.ofNat 8 (m / 2 ^ (8 * i)))) x.mbData })

/-- Write of the register whose first byte is at offset `a`. -/
def State.writeReg0 (s : State) (f a w m : Nat) : State :=
  if !s.regOn a then s
  else if a < 0x800 then s.writeFn f a w m
  else if a < 0x1000 then
    if !s.boot.ready.getLsbD 1 then s
    else if a = 0x800 then s.writeMb f w m
    else if 0x900 ≤ a then s.writeMbData f (a - 0x900) m
    else s
  else
    let c := a % 0x1000 / 64
    if a ≥ 0x4000 || !s.sees f c then s
    else if a < 0x2000 then s.writeBlock f c (a % 64) w m
    else if a < 0x3000 then (if s.boot.ready.getLsbD 10 then s.writeFq c (a % 64) m else s)
    else if a % 64 = 0 then s.runCtl f c w else s

/-- The bytes of a write that fall into a register, the others as `old` has them. -/
def mixBytes (a n v base size old : Nat) : Nat :=
  ofBytes ((List.range size).map (fun i =>
    let p := base + i
    BitVec.ofNat 8 (if a ≤ p && p < a + n then v / 2 ^ (8 * (p - a)) else old / 2 ^ (8 * i))))

/-- A write of `n` bytes at offset `a` of BAR 0, register by register. -/
def State.barWrite (s : State) (f a n v : Nat) : State :=
  (dedupBy (·.1) ((List.range n).map (fun i => regAt (a + i)))).foldl (fun s r =>
    s.writeReg0 f r.1 (mixBytes a n v r.1 r.2 0) (mixBytes a n v r.1 r.2 (s.readReg0 f r.1))) s

/-- The byte at offset `a` of BAR 0 of function `f`. -/
def State.barByte (s : State) (f a : Nat) : Byte :=
  let r := regAt a
  BitVec.ofNat 8 (s.readReg0 f r.1 / 2 ^ (8 * (a - r.1)))

/-! ## The window on the slot tables (R75, R93, R94) -/

/-- STATE of a bind record (R94). -/
def SlotState.code : SlotState → Nat
  | .free => 0 | .bound => 1 | .runnable => 2 | .preempted => 3

/-- A bind record, its 64 bytes as a number (R94). -/
def Bind.record (b : Bind) : Nat :=
  b.state.code + b.ctx * 2 ^ 8 + (b.launch % 1024 + b.launch / 1024 % 2 * 1024) * 2 ^ 16 + b.team * 2 ^ 32 + b.groups * 2 ^ 40 +
  b.cls * 2 ^ 48 + b.prio * 2 ^ 56 + b.origin * 2 ^ 64 + (b.w * 16 + b.h) * 2 ^ 72 + b.regs * 2 ^ 80 +
  b.cx * 2 ^ 96 + b.cy * 2 ^ 128 + b.cz * 2 ^ 160 + b.entryPc.toNat * 2 ^ 192 + b.imageBase.toNat * 2 ^ 256 +
  b.scratchBase * 2 ^ 320 + b.scratchSize * 2 ^ 352 + b.slots.toNat * 2 ^ 384

/-- The header of a core's slot table, its 64 bytes as a number (R93). -/
def State.slotHeader (s : State) (core : Nat) : Nat :=
  let c := s.core core
  c.budget + s.usedOn core [] * 2 ^ 8 + (s.residents core []).length * 2 ^ 16 + c.bindErr * 2 ^ 24 +
  ((c.ctxs.take 4).mapIdx (fun i x => x * 2 ^ (32 + 8 * i))).foldl (· + ·) 0

/-- The byte at offset `a` of BAR 2: core `a / 0x2000`, its header, team entries and handler entry (R93). -/
def State.windowByte (s : State) (a : Nat) : Byte :=
  let core := a / 0x2000
  let o := a % 0x2000
  let rec64 := if o < 0x40 then s.slotHeader core
    else if o < 0x1080 then (s.team (teamKey core (o / 64 - 1))).bind.record else 0
  if core < coreCount then BitVec.ofNat 8 (rec64 / 2 ^ (8 * (o % 64))) else 0

/-- What function `f` reads in `n` bytes at offset `a` of a BAR: the window is the physical function's alone (R75). -/
def State.barRead (s : State) (f bar a n : Nat) : Nat :=
  ofBytes ((List.range n).map (fun i =>
    if bar = 0 then s.barByte f (a + i)
    else if bar = 2 && f = 0 && !s.inLoader then s.windowByte (a + i) else 0))

/-- A read of POWER_CTL finds in POWER_NOW what the module draws: a measure of which nothing is known (R484; log 94). -/
def State.measurePower (s : State) (f bar a n : Nat) : State :=
  if f = 0 && bar = 0 && a < 0x274 && 0x270 < a + n && !s.inLoader then
    let (v, s) := s.free
    s.modDev (fun d => { d with powerNow := v.setWidth 11 })
  else s

/-- REGISTER_WRITE: function `f` writes the low `b` bytes of `v`, at most 8, at offset `a` of its BAR 0 (R6, R15). With `w` it
reads them there, in the BAR that `c` names: what it has written before has taken effect (R75, R76). -/
def execRegisterWrite (s : State) : Out :=
  let n := min 8 s.subj.b
  .next (if s.subj.f > 32 then s
    else if s.subj.w then
      let s := s.measurePower s.subj.f s.subj.c s.subj.a n
      { s with hostData := BitVec.ofNat 64 (s.barRead s.subj.f s.subj.c s.subj.a n) }
    else s.barWrite s.subj.f s.subj.a n s.subj.v.toNat)

end Sys2Proof.Machine
end

