-- ==== Sys2Proof/Machine/Dispatch.lean ====
section
/-! DEFINITION. The dispatcher: one arm for each step of the part, each a direct call of its meaning. -/
namespace Sys2Proof.Machine

/-- The meaning of a step in a state. -/
def exec (i : Instr) (s : State) : Host.Outcome State Fault Refusal :=
  match i with
  | .ximm x => Sys2Proof.Machine.execXimm x s
  | .mod g sv r t u c h y x => Sys2Proof.Machine.execMod g sv r t u c h y x s
  | .src v sv k q => Sys2Proof.Machine.execSrc v sv k q s
  | .sched t y => Sys2Proof.Machine.execSched t y s
  | .iadd d a b n => Sys2Proof.Machine.execIadd d a b n s
  | .isub d a b n => Sys2Proof.Machine.execIsub d a b n s
  | .imul d a b n => Sys2Proof.Machine.execImul d a b n s
  | .imulh d a b n => Sys2Proof.Machine.execImulh d a b n s
  | .imad d a b n => Sys2Proof.Machine.execImad d a b n s
  | .iabs d a n => Sys2Proof.Machine.execIabs d a n s
  | .imin d a b n => Sys2Proof.Machine.execImin d a b n s
  | .imax d a b n => Sys2Proof.Machine.execImax d a b n s
  | .isad d a b n => Sys2Proof.Machine.execIsad d a b n s
  | .lea d a b n => Sys2Proof.Machine.execLea d a b n s
  | .iaddi d a imm => Sys2Proof.Machine.execIaddi d a imm s
  | .and d a b n => Sys2Proof.Machine.execAnd d a b n s
  | .or d a b n => Sys2Proof.Machine.execOr d a b n s
  | .xor d a b n => Sys2Proof.Machine.execXor d a b n s
  | .andn d a b n => Sys2Proof.Machine.execAndn d a b n s
  | .shl d a b n => Sys2Proof.Machine.execShl d a b n s
  | .shr d a b n => Sys2Proof.Machine.execShr d a b n s
  | .sar d a b n => Sys2Proof.Machine.execSar d a b n s
  | .rot d a b n => Sys2Proof.Machine.execRot d a b n s
  | .fshf d a b n => Sys2Proof.Machine.execFshf d a b n s
  | .bfx d a b n => Sys2Proof.Machine.execBfx d a b n s
  | .bfi d a b n => Sys2Proof.Machine.execBfi d a b n s
  | .bperm d a b n => Sys2Proof.Machine.execBperm d a b n s
  | .popc d a n => Sys2Proof.Machine.execPopc d a n s
  | .clz d a n => Sys2Proof.Machine.execClz d a n s
  | .ctz d a n => Sys2Proof.Machine.execCtz d a n s
  | .brev d a n => Sys2Proof.Machine.execBrev d a n s
  | .plop p l q r => Sys2Proof.Machine.execPlop p l q r s
  | .sel d a b n => Sys2Proof.Machine.execSel d a b n s
  | .mov d a n => Sys2Proof.Machine.execMov d a n s
  | .movs d sv n => Sys2Proof.Machine.execMovs d sv n s
  | .isetp p a b c => Sys2Proof.Machine.execIsetp p a b c s
  | .fadd d a b n => Sys2Proof.Machine.execFadd d a b n s
  | .fsub d a b n => Sys2Proof.Machine.execFsub d a b n s
  | .fmul d a b n => Sys2Proof.Machine.execFmul d a b n s
  | .ffma d a b n => Sys2Proof.Machine.execFfma d a b n s
  | .fmin d a b n => Sys2Proof.Machine.execFmin d a b n s
  | .fmax d a b n => Sys2Proof.Machine.execFmax d a b n s
  | .fclass d a n => Sys2Proof.Machine.execFclass d a n s
  | .fscale d a b n => Sys2Proof.Machine.execFscale d a b n s
  | .frnd d a n => Sys2Proof.Machine.execFrnd d a n s
  | .fdp2 d a b n => Sys2Proof.Machine.execFdp2 d a b n s
  | .dp4a d a b n => Sys2Proof.Machine.execDp4a d a b n s
  | .hadd2 d a b n => Sys2Proof.Machine.execHadd2 d a b n s
  | .hmul2 d a b n => Sys2Proof.Machine.execHmul2 d a b n s
  | .hfma2 d a b n => Sys2Proof.Machine.execHfma2 d a b n s
  | .hmax2 d a b n => Sys2Proof.Machine.execHmax2 d a b n s
  | .fsetp p a b c => Sys2Proof.Machine.execFsetp p a b c s
  | .dadd d a b n => Sys2Proof.Machine.execDadd d a b n s
  | .dmul d a b n => Sys2Proof.Machine.execDmul d a b n s
  | .dfma d a b n => Sys2Proof.Machine.execDfma d a b n s
  | .dmin d a b n => Sys2Proof.Machine.execDmin d a b n s
  | .dmax d a b n => Sys2Proof.Machine.execDmax d a b n s
  | .drcp d a n => Sys2Proof.Machine.execDrcp d a n s
  | .drsq d a n => Sys2Proof.Machine.execDrsq d a n s
  | .dsetp p a b c => Sys2Proof.Machine.execDsetp p a b c s
  | .frcp d a n => Sys2Proof.Machine.execFrcp d a n s
  | .frsq d a n => Sys2Proof.Machine.execFrsq d a n s
  | .fsqrt d a n => Sys2Proof.Machine.execFsqrt d a n s
  | .fex2 d a n => Sys2Proof.Machine.execFex2 d a n s
  | .flg2 d a n => Sys2Proof.Machine.execFlg2 d a n s
  | .fsin d a n => Sys2Proof.Machine.execFsin d a n s
  | .fcos d a n => Sys2Proof.Machine.execFcos d a n s
  | .ftanh d a n => Sys2Proof.Machine.execFtanh d a n s
  | .f2i d a n => Sys2Proof.Machine.execF2i d a n s
  | .i2f d a n => Sys2Proof.Machine.execI2f d a n s
  | .f2f d a n => Sys2Proof.Machine.execF2f d a n s
  | .fpack d a b n => Sys2Proof.Machine.execFpack d a b n s
  | .d2f d a n => Sys2Proof.Machine.execD2f d a n s
  | .f2d d a n => Sys2Proof.Machine.execF2d d a n s
  | .ld d k o imm => Sys2Proof.Machine.execLd d k o imm s
  | .st d k o imm => Sys2Proof.Machine.execSt d k o imm s
  | .lds d k o imm => Sys2Proof.Machine.execLds d k o imm s
  | .sts d k o imm => Sys2Proof.Machine.execSts d k o imm s
  | .ldk d k imm => Sys2Proof.Machine.execLdk d k imm s
  | .pref k o imm => Sys2Proof.Machine.execPref k o imm s
  | .cflush k o imm => Sys2Proof.Machine.execCflush k o imm s
  | .cinv k o imm => Sys2Proof.Machine.execCinv k o imm s
  | .persist k o imm => Sys2Proof.Machine.execPersist k o imm s
  | .atom d a b o => Sys2Proof.Machine.execAtom d a b o s
  | .red a b o => Sys2Proof.Machine.execRed a b o s
  | .atoms d a b o => Sys2Proof.Machine.execAtoms d a b o s
  | .reds a b o => Sys2Proof.Machine.execReds a b o s
  | .atomcas d a b => Sys2Proof.Machine.execAtomcas d a b s
  | .atomscas d a b => Sys2Proof.Machine.execAtomscas d a b s
  | .waitc d a b n => Sys2Proof.Machine.execWaitc d a b n s
  | .wdecl d a b n => Sys2Proof.Machine.execWdecl d a b n s
  | .fence => Sys2Proof.Machine.execFence s
  | .bind d a b n => Sys2Proof.Machine.execBind d a b n s
  | .unbind d a b n => Sys2Proof.Machine.execUnbind d a b n s
  | .acq d a n => Sys2Proof.Machine.execAcq d a n s
  | .rel a b => Sys2Proof.Machine.execRel a b s
  | .bar d a n => Sys2Proof.Machine.execBar d a n s
  | .cbarArv d n => Sys2Proof.Machine.execCbarArv d n s
  | .cbarWait d a n => Sys2Proof.Machine.execCbarWait d a n s
  | .cpy a b => Sys2Proof.Machine.execCpy a b s
  | .cpyg a b => Sys2Proof.Machine.execCpyg a b s
  | .cpys a b => Sys2Proof.Machine.execCpys a b s
  | .cpym a b => Sys2Proof.Machine.execCpym a b s
  | .tbarInit a b => Sys2Proof.Machine.execTbarInit a b s
  | .tbarExp a b => Sys2Proof.Machine.execTbarExp a b s
  | .tbarAck a => Sys2Proof.Machine.execTbarAck a s
  | .tbarWait d a b n => Sys2Proof.Machine.execTbarWait d a b n s
  | .tcfg d a n => Sys2Proof.Machine.execTcfg d a n s
  | .tzero d a n => Sys2Proof.Machine.execTzero d a n s
  | .tld d a b n => Sys2Proof.Machine.execTld d a b n s
  | .tst a b => Sys2Proof.Machine.execTst a b s
  | .mma d a n => Sys2Proof.Machine.execMma d a n s
  | .tact d a n => Sys2Proof.Machine.execTact d a n s
  | .twait d a n => Sys2Proof.Machine.execTwait d a n s
  | .bxu d a b => Sys2Proof.Machine.execBxu d a b s
  | .bsah d a b => Sys2Proof.Machine.execBsah d a b s
  | .npack d a b => Sys2Proof.Machine.execNpack d a b s
  | .trace d a => Sys2Proof.Machine.execTrace d a s
  | .beam d a n => Sys2Proof.Machine.execBeam d a n s
  | .cov d a n => Sys2Proof.Machine.execCov d a n s
  | .tex d a b => Sys2Proof.Machine.execTex d a b s
  | .texg d a b => Sys2Proof.Machine.execTexg d a b s
  | .texq d a b => Sys2Proof.Machine.execTexq d a b s
  | .qrc d a => Sys2Proof.Machine.execQrc d a s
  | .rccfgLoad d a n => Sys2Proof.Machine.execRccfgLoad d a n s
  | .rccfgSave d a n => Sys2Proof.Machine.execRccfgSave d a n s
  | .rccfgRelease d a n => Sys2Proof.Machine.execRccfgRelease d a n s
  | .rcgen d n => Sys2Proof.Machine.execRcgen d n s
  | .bra p sv h o => Sys2Proof.Machine.execBra p sv h o s
  | .braD p sv h o => Sys2Proof.Machine.execBraD p sv h o s
  | .join => Sys2Proof.Machine.execJoin s
  | .call d a n => Sys2Proof.Machine.execCall d a n s
  | .ret a => Sys2Proof.Machine.execRet a s
  | .exit => Sys2Proof.Machine.execExit s
  | .exitH => Sys2Proof.Machine.execExitH s
  | .yield a => Sys2Proof.Machine.execYield a s
  | .nop => Sys2Proof.Machine.execNop s
  | .brx a => Sys2Proof.Machine.execBrx a s
  | .trap d a b n => Sys2Proof.Machine.execTrap d a b n s
  | .svret d a b n => Sys2Proof.Machine.execSvret d a b n s
  | .bpt b => Sys2Proof.Machine.execBpt b s
  | .launch d a n => Sys2Proof.Machine.execLaunch d a n s
  | .sendam d a b n => Sys2Proof.Machine.execSendam d a b n s
  | .csrr d a => Sys2Proof.Machine.execCsrr d a s
  | .csrw a b => Sys2Proof.Machine.execCsrw a b s
  | .rplget d a => Sys2Proof.Machine.execRplget d a s
  | .rplrun d a n => Sys2Proof.Machine.execRplrun d a n s
  | .csload d a n => Sys2Proof.Machine.execCsload d a n s
  | .csloadClear d n => Sys2Proof.Machine.execCsloadClear d n s
  | .vote d a imm v n => Sys2Proof.Machine.execVote d a imm v n s
  | .matchVal d a b n => Sys2Proof.Machine.execMatchVal d a b n s
  | .shfl d a b n => Sys2Proof.Machine.execShfl d a b n s
  | .gred d a b n => Sys2Proof.Machine.execGred d a b n s
  | .elect d a n => Sys2Proof.Machine.execElect d a n s
  | .xop j d a b n imm => Sys2Proof.Machine.execXop j d a b n imm s
  | .kmov d a => Sys2Proof.Machine.execKmov d a s
  | .kadd d a b => Sys2Proof.Machine.execKadd d a b s
  | .kaddi d a imm => Sys2Proof.Machine.execKaddi d a imm s
  | .kshl d a b => Sys2Proof.Machine.execKshl d a b s
  | .kand d a b => Sys2Proof.Machine.execKand d a b s
  | .kfromv d a => Sys2Proof.Machine.execKfromv d a s
  | .uadd d a b => Sys2Proof.Machine.execUadd d a b s
  | .usub d a b => Sys2Proof.Machine.execUsub d a b s
  | .uand d a b => Sys2Proof.Machine.execUand d a b s
  | .uor d a b => Sys2Proof.Machine.execUor d a b s
  | .uxor d a b => Sys2Proof.Machine.execUxor d a b s
  | .ushl d a b => Sys2Proof.Machine.execUshl d a b s
  | .ushr d a b => Sys2Proof.Machine.execUshr d a b s
  | .usar d a b => Sys2Proof.Machine.execUsar d a b s
  | .umul d a b => Sys2Proof.Machine.execUmul d a b s
  | .uaddi d a imm => Sys2Proof.Machine.execUaddi d a imm s
  | .umovi d imm => Sys2Proof.Machine.execUmovi d imm s
  | .uhi d a imm => Sys2Proof.Machine.execUhi d a imm s
  | .ufadd d a b t r sv => Sys2Proof.Machine.execUfadd d a b t r sv s
  | .ufsub d a b t r sv => Sys2Proof.Machine.execUfsub d a b t r sv s
  | .ufmul d a b t r sv => Sys2Proof.Machine.execUfmul d a b t r sv s
  | .ufma d a b t r sv => Sys2Proof.Machine.execUfma d a b t r sv s
  | .ufmin d a b t => Sys2Proof.Machine.execUfmin d a b t s
  | .ufmax d a b t => Sys2Proof.Machine.execUfmax d a b t s
  | .ucvt d a t r sv u => Sys2Proof.Machine.execUcvt d a t r sv u s
  | .ucmp d a b t c => Sys2Proof.Machine.execUcmp d a b t c s
  | .urdv h sv o w => Sys2Proof.Machine.execUrdv h sv o w s
  | .uwrv h o w => Sys2Proof.Machine.execUwrv h o w s
  | .urdk h k => Sys2Proof.Machine.execUrdk h k s
  | .uld h a z imm => Sys2Proof.Machine.execUld h a z imm s
  | .uprobe a z imm => Sys2Proof.Machine.execUprobe a z imm s
  | .ust h a z imm => Sys2Proof.Machine.execUst h a z imm s
  | .ubr a c o => Sys2Proof.Machine.execUbr a c o s
  | .uloop a m l => Sys2Proof.Machine.execUloop a m l s
  | .uend => Sys2Proof.Machine.execUend s
  | .utrap c => Sys2Proof.Machine.execUtrap c s
  | .moduleReset => Sys2Proof.Machine.execModuleReset s
  | .functionLevelReset => Sys2Proof.Machine.execFunctionLevelReset s
  | .firmwareCheckDone => Sys2Proof.Machine.execFirmwareCheckDone s
  | .blockReady => Sys2Proof.Machine.execBlockReady s
  | .columnReady => Sys2Proof.Machine.execColumnReady s
  | .cxlRequestTimeout => Sys2Proof.Machine.execCxlRequestTimeout s
  | .blockFailure => Sys2Proof.Machine.execBlockFailure s
  | .featCommit => Sys2Proof.Machine.execFeatCommit s
  | .popArm => Sys2Proof.Machine.execPopArm s
  | .popData => Sys2Proof.Machine.execPopData s
  | .ctxLpageWrite => Sys2Proof.Machine.execCtxLpageWrite s
  | .ctxSvcodeWrite => Sys2Proof.Machine.execCtxSvcodeWrite s
  | .arenaPinningStart => Sys2Proof.Machine.execArenaPinningStart s
  | .arenaPinningEnd => Sys2Proof.Machine.execArenaPinningEnd s
  | .invRange => Sys2Proof.Machine.execInvRange s
  | .invRangeRelease => Sys2Proof.Machine.execInvRangeRelease s
  | .invContext => Sys2Proof.Machine.execInvContext s
  | .invalidationDone => Sys2Proof.Machine.execInvalidationDone s
  | .biasToDevice => Sys2Proof.Machine.execBiasToDevice s
  | .biasToHost => Sys2Proof.Machine.execBiasToHost s
  | .biasFlipDone => Sys2Proof.Machine.execBiasFlipDone s
  | .devmemCtlWrite => Sys2Proof.Machine.execDevmemCtlWrite s
  | .ctxFqCtlWrite => Sys2Proof.Machine.execCtxFqCtlWrite s
  | .registerWrite => Sys2Proof.Machine.execRegisterWrite s
  | .startStampObserved => Sys2Proof.Machine.execStartStampObserved s
  | .priorityAging => Sys2Proof.Machine.execPriorityAging s
  | .placementRound => Sys2Proof.Machine.execPlacementRound s
  | .level7Preemption => Sys2Proof.Machine.execLevel7Preemption s
  | .dispatchRunnable => Sys2Proof.Machine.execDispatchRunnable s
  | .rebindWritebackDone => Sys2Proof.Machine.execRebindWritebackDone s
  | .amArrival => Sys2Proof.Machine.execAmArrival s
  | .handlerStart => Sys2Proof.Machine.execHandlerStart s
  | .amWaitPreemption => Sys2Proof.Machine.execAmWaitPreemption s
  | .bundleFormation => Sys2Proof.Machine.execBundleFormation s
  | .instructionLineArrival => Sys2Proof.Machine.execInstructionLineArrival s
  | .registerFill => Sys2Proof.Machine.execRegisterFill s
  | .reconvergenceTimeout => Sys2Proof.Machine.execReconvergenceTimeout s
  | .stallExpiry => Sys2Proof.Machine.execStallExpiry s
  | .yieldDelayEnd => Sys2Proof.Machine.execYieldDelayEnd s
  | .fetchSuspensionEnd => Sys2Proof.Machine.execFetchSuspensionEnd s
  | .loadDataReturn => Sys2Proof.Machine.execLoadDataReturn s
  | .storePerformed => Sys2Proof.Machine.execStorePerformed s
  | .externalSnoop => Sys2Proof.Machine.execExternalSnoop s
  | .hostCxlMemAccess => Sys2Proof.Machine.execHostCxlMemAccess s
  | .monitorPoll => Sys2Proof.Machine.execMonitorPoll s
  | .atomicLaneApplied => Sys2Proof.Machine.execAtomicLaneApplied s
  | .cacheMaintenanceDone => Sys2Proof.Machine.execCacheMaintenanceDone s
  | .persistDone => Sys2Proof.Machine.execPersistDone s
  | .copyStart => Sys2Proof.Machine.execCopyStart s
  | .copySectorLanded => Sys2Proof.Machine.execCopySectorLanded s
  | .copyPark => Sys2Proof.Machine.execCopyPark s
  | .copyStampWrite => Sys2Proof.Machine.execCopyStampWrite s
  | .copyRetire => Sys2Proof.Machine.execCopyRetire s
  | .waitForWalk => Sys2Proof.Machine.execWaitForWalk s
  | .clusterIdle => Sys2Proof.Machine.execClusterIdle s
  | .matrixRequestComplete => Sys2Proof.Machine.execMatrixRequestComplete s
  | .tcfgUnitsGranted => Sys2Proof.Machine.execTcfgUnitsGranted s
  | .walkEnd => Sys2Proof.Machine.execWalkEnd s
  | .textureSampleEnd => Sys2Proof.Machine.execTextureSampleEnd s
  | .optimiserStep => Sys2Proof.Machine.execOptimiserStep s
  | .radianceCommit => Sys2Proof.Machine.execRadianceCommit s
  | .generationSwitch => Sys2Proof.Machine.execGenerationSwitch s
  | .controlStoreBankFill => Sys2Proof.Machine.execControlStoreBankFill s
  | .loessBatchPost => Sys2Proof.Machine.execLoessBatchPost s
  | .batchDoneObserved => Sys2Proof.Machine.execBatchDoneObserved s
  | .preemptionOrder => Sys2Proof.Machine.execPreemptionOrder s
  | .teamStopped => Sys2Proof.Machine.execTeamStopped s
  | .rebindRestore => Sys2Proof.Machine.execRebindRestore s
  | .halt => Sys2Proof.Machine.execHalt s
  | .haltDone => Sys2Proof.Machine.execHaltDone s
  | .resume => Sys2Proof.Machine.execResume s
  | .teardown => Sys2Proof.Machine.execTeardown s
  | .teardownDone => Sys2Proof.Machine.execTeardownDone s
  | .linkPoisonResponse => Sys2Proof.Machine.execLinkPoisonResponse s
  | .launchComplete => Sys2Proof.Machine.execLaunchComplete s
  | .powerLimitWrite => Sys2Proof.Machine.execPowerLimitWrite s
  | .budgetApplied => Sys2Proof.Machine.execBudgetApplied s
  | .thermalThrottle => Sys2Proof.Machine.execThermalThrottle s
  | .thermalUnthrottle => Sys2Proof.Machine.execThermalUnthrottle s
  | .thermalTrip => Sys2Proof.Machine.execThermalTrip s
  | .thermalPowerOff => Sys2Proof.Machine.execThermalPowerOff s
  | .mbSpdm => Sys2Proof.Machine.execMbSpdm s
  | .mbImageChunk => Sys2Proof.Machine.execMbImageChunk s
  | .mbImageCommit => Sys2Proof.Machine.execMbImageCommit s
  | .mbKeySet => Sys2Proof.Machine.execMbKeySet s
  | .mbKeyClear => Sys2Proof.Machine.execMbKeyClear s
  | .lossOfPower => Sys2Proof.Machine.execLossOfPower s

end Sys2Proof.Machine
end

