-- ==== Sys2Proof/Machine/Sched.lean ====
section
/-! DEFINITION. Which step comes next (log 2): the word that a bundle has come to, or an event. External events stand in the
agenda; the rest follow from the state, and the formation of the next bundles comes when nothing else is due. An agenda may
also name an event that is due, so that every order of the device's own events is the run of some agenda. -/
namespace Sys2Proof.Machine

/-! ## Words (R49, R57, R58, R400) -/

/-- A word that no instruction has: ILLEGAL, or LATCH where only a latch code stands in the way (R57, R58). -/
def State.refuseWord (s : State) (b : Bundle) (rest : List Bundle) (r : Reject) : State :=
  let cause := fun (t : Nat) => match r with
    | .illegal => Cause.illegal
    | .latch i => if s.decodeFail b i t == some .illegal then .illegal else .latch
  ({ s with issue := rest } : State).decodeTraps b (b.threads.map (fun t => (t, cause t)))

/-- A bundle whose line has left the buffer forms again: its threads still stand at the first word of the run (R49). -/
def State.reform (s : State) (b : Bundle) (rest : List Bundle) : State :=
  if b.l0 = 0 && b.l1 = 0 && b.l2 = 0 && b.l3 = 0 then { s with issue := rest }
  else { s with issue := rest, held := s.held ++ [{ b with pc := b.runPc, hints := Hints.none }] }

/-- Threads of a sequence that has run past its last micro-op trap with ILLEGAL. -/
def State.runOff (s : State) (b : Bundle) (rest : List Bundle) (ts : List Nat) : State :=
  ({ s with issue := rest } : State).trapAt b ts .illegal (fun _ => { info0 := b.word.toNat })

/-- The micro-op that a bundle inside a sequence issues (R400). -/
def State.stepMicro (s : State) (b : Bundle) (rest : List Bundle) : Out :=
  match s.microThreads b with
  | [] => .next { s with issue := rest }
  | t :: ts =>
    match ((s.thread t).xop).bind (fun k => s.microWord (s.ctxOf t) k.idx k.i) with
    | none => .next (s.runOff b rest (t :: ts))
    | some w =>
      match decodeMicro w with
      | some i => exec i s
      | none => .next (s.runOff b rest (t :: ts))

/-- The word that a bundle has come to is decoded and issued. -/
def State.stepWord (s : State) (b : Bundle) (rest : List Bundle) : Out :=
  match s.wordAt b with
  | none => .next (s.reform b rest)
  | some w =>
    match decode b.hints w with
    | .ok i => exec i s
    | .error r =>
      if w.extractLsb' 26 6 == 0x3F#6 then s.hintOut (fun h => { h with bad := true })
      else .next (s.refuseWord b rest r)

/-- Threads that data still to come have brought a trap leave their bundle with it, at the run they have come to; inside
a sequence they go on to its end (R237, R299; log 74). -/
def State.takeLate (s : State) (b : Bundle) (rest : List Bundle) : State :=
  let late := b.threads.filter (fun t => (s.thread t).late.isSome)
  let left := b.threads.filter (fun t => !late.contains t)
  let s : State := { s with issue := if left.isEmpty then rest else { b with threads := left } :: rest }
  late.foldl (fun s t =>
    match (s.thread t).late with
    | some x =>
      (s.modThread t (fun y => { y with late := none })).trapIn [t] x.cause b.runPc b.runPc (fun _ =>
        { info0 := x.va.toNat, info1 := b2n x.write })
    | none => s) s

/-- One issue slot of the first bundle; threads that have exited are no part of it. -/
def State.stepBundle (s : State) (b : Bundle) (rest : List Bundle) : Out :=
  if !b.inXop && b.threads.any (fun t => (s.thread t).late.isSome && s.alive t) then .next (s.takeLate b rest)
  else if !b.threads.all s.alive then
    let ts := b.threads.filter s.alive
    .next { s with issue := if ts.isEmpty then rest else { b with threads := ts } :: rest }
  else if b.threads.isEmpty then .next { s with issue := rest }
  else if b.inXop then s.stepMicro b rest
  else s.stepWord b rest

/-! ## Events that the state makes due -/

/-- A subject that names nothing. -/
def noSubj : Subject := {}
/-- A subject that is a number. -/
def subjOf (i : Nat) : Subject := { id := i }

/-- LAUNCH. -/
def isLaunch (i : Instr) : Bool :=
  match i with
  | .launch .. => true
  | _ => false

/-- Ends of operations under check; those of LAUNCH in ascending order of the cores (R87). -/
def State.opEvents (s : State) : List (Instr × Subject) :=
  let (ls, os) := s.ops.partition (fun o => isLaunch o.instr)
  (os ++ sortBy (fun a b => decide (a.core ≤ b.core)) ls).flatMap (fun o =>
    [(.fetchSuspensionEnd, subjOf o.id), (.walkEnd, subjOf o.id), (.textureSampleEnd, subjOf o.id), (.tcfgUnitsGranted, subjOf o.id)])

/-- Ends of accesses in flight, the oldest first. -/
def State.accEvents (s : State) : List (Instr × Subject) :=
  s.accs.map (fun a => match a.kind with
    | .load => (.loadDataReturn, subjOf a.id)
    | .store => (.storePerformed, subjOf a.id)
    | .atomic => (.atomicLaneApplied, subjOf a.id)
    | .maintain => (.cacheMaintenanceDone, subjOf a.op)
    | .persist => (.persistDone, subjOf a.op))

/-- Landings of the sectors that an engine holds (R258). -/
def Copy.landings (c : Copy) : List (Instr × Subject) :=
  c.buf.map (fun b => (.copySectorLanded, { id := c.id, a := b.n - c.prog }))

/-- Steps of the copy engines. -/
def State.copyEvents (s : State) : List (Instr × Subject) :=
  s.copies.flatMap (fun c => match c.state with
    | .waiting => [(.copyStart, subjOf c.id)]
    | .moving => c.landings ++ [(.copySectorLanded, subjOf c.id), (.copyPark, subjOf c.id), (.copyStampWrite, subjOf c.id)]
    | .parked => c.landings
    | .stamping => [(.copyRetire, subjOf c.id)]
    | _ => [])

/-- Lines and banks on their way. -/
def State.fillEvents (s : State) : List (Instr × Subject) :=
  s.cores.flatMap (fun p =>
    (p.2.ibuf.filter (fun l => l.words.isNone)).map (fun l => (.instructionLineArrival, { id := p.1, c := l.ctx, a := l.va })) ++
    (p.2.ctxs.zipIdx.filter (fun q => q.1 != 0xFF && !s.bankReady p.1 q.1)).map
      (fun q => (.controlStoreBankFill, { id := p.1, a := q.2 }))) ++
  (s.lines.filter (·.filling)).map (fun l => (.registerFill, { id := l.core, c := l.ctx, a := l.tag }))

/-- Times that have come. -/
def State.timeEvents (s : State) : List (Instr × Subject) :=
  (s.threads.filter (fun p => p.2.stallTill ≠ 0 && p.2.stallTill ≤ s.clk)).map (fun p => (.stallExpiry, subjOf p.1)) ++
  (s.threads.filter (fun p => match p.2.waitFor with
    | .yieldDelay till => decide (till ≤ s.clk)
    | _ => false)).map (fun p => (.yieldDelayEnd, subjOf p.1)) ++
  (s.monitors.filter (fun m => match m.place with
    | .poll due => decide (due ≤ s.wall)
    | _ => false)).map (fun m => (.monitorPoll, subjOf m.id)) ++
  (s.teams.filter (fun p => s.joinLate p.1)).map (fun p => (.reconvergenceTimeout, subjOf p.1)) ++
  (s.heldReqs.filter (fun p => p.2 + heldTime ≤ s.wall)).map (fun p => (.cxlRequestTimeout, { a := p.1 * 32 }))

/-- Steps of the matrix engines and of the radiance cache. -/
def State.engineEvents (s : State) : List (Instr × Subject) :=
  (dedupBy id (s.mreqs.map (·.core))).map (fun c => (.matrixRequestComplete, subjOf c)) ++
  (if s.marl.cfg.isNone then []
    else [(.radianceCommit, noSubj), (.generationSwitch, subjOf 0), (.generationSwitch, subjOf 1), (.optimiserStep, subjOf 0),
      (.optimiserStep, subjOf 1)])

/-- Clusters that stop, come back or are dispatched. -/
def State.clusterEvents (s : State) : List (Instr × Subject) :=
  s.clusters.flatMap (fun p => match p.2.state with
    | .stopping => p.2.members.map (fun m => (.preemptionOrder, subjOf (teamKey m.core m.entry))) ++
        (List.range p.2.members.length).map (fun i => (.teamStopped, { id := p.1, b := i }))
    | .bound => [(.rebindWritebackDone, subjOf p.1), (.rebindRestore, subjOf p.1), (.dispatchRunnable, subjOf p.1)]
    | _ => [])

/-- Operations of CTX_RUNCTL, pinnings, invalidations, the budget and the mailbox. -/
def State.registerEvents (s : State) : List (Instr × Subject) :=
  s.ctxs.flatMap (fun p =>
    (match p.2.runOp with
      | some .halt => [(.haltDone, { c := p.1 })]
      | some .resume => [(.resume, { c := p.1, f := p.2.owner.toNat })]
      | some .teardown => [(.teardownDone, { c := p.1 })]
      | none => []) ++ (if p.2.pinning then [(.arenaPinningEnd, { c := p.1 })] else [])) ++
  (s.funcs.filter (fun p => p.2.inv.isSome)).map (fun p => (.invalidationDone, { f := p.1 })) ++
  (if s.dev.applying then [(.budgetApplied, noSubj)] else []) ++
  (match s.mbNext with
    | none => []
    | some f => match (s.func f).mbKind.toNat with
      | 1 => [(.mbSpdm, { f := f })]
      | 2 => [(.mbImageChunk, { f := f })]
      | 3 => [(.mbImageCommit, { f := f })]
      | 4 => [(.mbKeySet, { f := f })]
      | _ => [(.mbKeyClear, { f := f })])

/-- Faults, launches, placement and messages. -/
def State.launchEvents (s : State) : List (Instr × Subject) :=
  s.batches.flatMap (fun b => [(.batchDoneObserved, subjOf b.id), (.loessBatchPost, subjOf b.id)]) ++
  s.launches.flatMap (fun p => [(.launchComplete, subjOf p.1), (.startStampObserved, subjOf p.1), (.priorityAging, subjOf p.1)]) ++
  s.rejected.map (fun j => (.launchComplete, subjOf (rejBase + j.id))) ++
  (if s.wanting.isEmpty && s.ctxs.all (fun p => p.2.credit.isEmpty) then []
    else [(.placementRound, subjOf 0), (.placementRound, subjOf 1)] ++ s.clusters.map (fun p => (.clusterIdle, subjOf p.1)) ++
      s.launches.map (fun p => (.level7Preemption, subjOf p.1))) ++
  (s.cores.filter (fun p => !p.2.outbound.isEmpty)).map (fun p => (.amArrival, subjOf p.1)) ++
  (List.range s.inbox.length).flatMap (fun i => [(.handlerStart, subjOf i), (.amWaitPreemption, subjOf i)]) ++
  (if s.wft.isEmpty && s.lastCycle.isEmpty then [] else [(.waitForWalk, noSubj)])

/-- The events that may be due, in the order in which they are tried. -/
def State.events (s : State) : List (Instr × Subject) :=
  s.waiting ++ s.opEvents ++ s.accEvents ++ s.copyEvents ++ s.fillEvents ++ s.timeEvents ++ s.engineEvents ++ s.clusterEvents ++
  s.registerEvents ++ s.launchEvents

/-! ## A trip (R486) -/

/-- Events of the cores, engines and scheduler cores that a trip stops. -/
def stopsAtTrip (i : Instr) : Bool :=
  ([.fetchSuspensionEnd, .walkEnd, .textureSampleEnd, .tcfgUnitsGranted, .copyStart, .copySectorLanded, .copyPark, .copyStampWrite,
    .copyRetire, .stallExpiry, .yieldDelayEnd, .reconvergenceTimeout, .matrixRequestComplete, .radianceCommit, .generationSwitch,
    .optimiserStep, .preemptionOrder, .teamStopped, .rebindWritebackDone, .rebindRestore, .dispatchRunnable, .haltDone, .resume,
    .teardownDone, .arenaPinningEnd, .budgetApplied, .biasFlipDone, .loessBatchPost, .launchComplete, .startStampObserved,
    .priorityAging, .placementRound, .clusterIdle, .level7Preemption, .amArrival, .handlerStart, .amWaitPreemption,
    .waitForWalk] : List Instr).contains i

/-- An event that can happen: no instruction word or micro-op, and nothing that a trip has stopped. -/
def State.happens (s : State) (i : Instr) : Bool := !i.isWord && !i.isMicro && !(s.dev.tripped && stopsAtTrip i)

/-! ## The next step -/

/-- A placement round that bound nothing and asked for nothing is none: rounds without an outcome are not steps. -/
def State.sansCredit (s : State) : State := { s with freeCount := 0, ctxs := s.ctxs.map (fun p => (p.1, { p.2 with credit := [] })) }

/-- Some context's credit at a level has been cleared (R90). -/
def State.creditCleared (s t : State) : Bool :=
  s.ctxs.any (fun p => p.2.credit.any (fun q => q.2 != 0 && ((t.ctx p.1).credit.find q.1).isNone))

/-- An event did something. -/
def State.progress (i : Instr) (s t : State) : Bool :=
  match i with
  | .placementRound => decide (t.sansCredit ≠ s.sansCredit) || s.creditCleared t
  | _ => decide (t ≠ s)

/-- The first event of a list that does something. -/
def State.firstDue (s : State) : List (Instr × Subject) → Option State
  | [] => none
  | (i, x) :: r =>
    let s0 : State := { s with subj := x }
    if !s.happens i then s.firstDue r
    else
      match exec i s0 with
      | .next t => if State.progress i s0 t then some t else s.firstDue r
      | _ => s.firstDue r

/-- An entry of the agenda happens; one that names no event passes. -/
def State.takeInput (s : State) (i : Instr) (x : Subject) (r : List (Instr × Subject)) : Out :=
  let s : State := { s with inputs := r, subj := x }
  if s.happens i then exec i s else .next s

/-- A module without power waits for its reset (R226, R486). -/
def State.tickOff (s : State) : Out :=
  match s.inputs with
  | (.moduleReset, x) :: r => s.takeInput .moduleReset x r
  | _ => .fault .poweredOff

/-- Nothing is issued: the first event that is due, else the next clk. -/
def State.tickIdle (s : State) : Out :=
  match s.firstDue s.events with
  | some t => .next t
  | none => exec .bundleFormation s

/-- The next step of the machine. -/
def State.tick (s : State) : Out :=
  if !s.powered then s.tickOff
  else if s.dev.flip.isSome && s.happens .biasFlipDone && s.flipReady ((s.dev.flip.map (·.1)).getD 0) then exec .biasFlipDone s
  else
    match s.inputs with
    | (i, x) :: r => s.takeInput i x r
    | [] =>
      if s.dev.tripped then s.tickIdle
      else
        match s.issue with
        | b :: rest => s.stepBundle b rest
        | [] => s.tickIdle

end Sys2Proof.Machine
end

