-- ==== Sys2Proof/Machine/Step.lean ====
section
/-! DEFINITION. One step of the machine, and the placement of a word where the next step fetches it. -/
namespace Sys2Proof.Machine

/-- One step: what the scheduler of steps says comes next. -/
def step (s : State) : Out := s.tick

/-- The bind record of the team that runs a placed word: one group of context 0 in slot 0 of core 0, REGS 120. -/
def probeBind : Bind :=
  { Bind.reset with state := .runnable, groups := 1, w := 1, h := 1, regs := 120, slots := 1 }

/-- The XOP sequence that a placed micro-op stands in: it is micro-op 0. -/
def probeCont : Cont :=
  { idx := 0, i := 0, h := [], loops := 0, body := 0, bodyLen := 0, probes := [], stopped := false }

/-- `s` with a word where the next step fetches: the instruction buffer of core 0, at PC 0 of a thread in lane 0 that has
just started there, in a bundle of its own; the function of its context has a session with every feature offered, and the
ports answer. A word that is a micro-op alone stands in the control-store image of context 0. -/
def State.withFetchWord (s : State) (nbits w : Nat) : State :=
  let v : Word := BitVec.ofNat 32 (w % 2 ^ nbits)
  let micro := (decodePlain Hints.none v).isNone && (decodeMicro v).isSome
  let t : Thread := { Thread.reset with tstate := .run, xop := if micro then some probeCont else none }
  let b : Bundle :=
    { core := 0, threads := [0], runPc := 0, pc := 0, hints := Hints.none, l0 := 0, l1 := 0, l2 := 0, l3 := 0, inXop := micro }
  let k : KBind :=
    { start := 0, len := 1, d := FieldUse.reset, a := FieldUse.reset, b := FieldUse.reset, c := FieldUse.reset }
  let line : ILine := { ctx := 0, va := 0, words := some (v :: List.replicate 15 0), used := s.clk }
  let s1 : State :=
    { s with
      powered := true
      inputs := []
      waiting := []
      issue := [b]
      dev := { s.dev with tripped := false, flip := none }
      boot := { s.boot with state := 2, ready := 0x1FFF#32 }
      teams := s.teams.put 0 { Team.reset with bind := probeBind }
      groups := s.groups.put 0 { Group.reset with live := true, kzero := BitVec.allOnes 120 }
      threads := s.threads.put 0 t }
  let s2 := s1.modFunc 0 (fun f => { f with session := true, accept := BitVec.ofNat 256 featOffer })
  let s3 := s2.modCtx 0 (fun c => if micro then { c with kImage := [v], kBinds := [(0, k)] } else c)
  s3.modCore 0 (fun c => { c with ibuf := [line] })

end Sys2Proof.Machine
end

