-- ==== Sys2Proof/Safety.lean ====
section
/-! DEFINITION. What counts as a safe run, in the terms that claims use: the invariant of every step, the states in which
a word of a bundle is about to execute, and what a word that writes its destination alone leaves of a state. -/
namespace Sys2Proof.Machine

/-! ## The invariant -/

/-- Memory is in its canonical form: equal memories are equal data (log 1). -/
def State.Inv (s : State) : Prop := Memory.wf s.mem = true

/-! ## A word about to execute -/

/-- A bundle as R123 admits one: not empty, its lanes distinct, its threads of one core and one context. -/
structure State.Bundled (s : State) (b : Bundle) : Prop where
  inhabited : b.threads ≠ []
  lanes : (b.threads.map laneOf).Nodup
  core : ∀ t ∈ b.threads, coreOf t = b.core
  place : b.core < coreCount
  ctx : ∀ t ∈ b.threads, s.ctxOf t = s.bundleCtx b

/-- The bundle `b` is next to issue, its word is the well-formed `i`, and every thread of it executes `i`: none fails a decode check
(R58), none is guarded off (R53), none replays (R413), none reads a poisoned register (R116), and no array fault waits to
be met (R447). -/
structure State.Executes (s : State) (b : Bundle) (rest : List Bundle) (i : Instr) : Prop extends s.Bundled b where
  formed : i.wellFormed = true
  head : s.issue = b :: rest
  sound : s.ecc = []
  passes : ∀ t ∈ b.threads, s.decodeFail b i t = none
  guard : ∀ t ∈ b.threads, ((s.thread t).pred (hGpred b.hints) != hGsense b.hints) = true
  fresh : ∀ t ∈ b.threads, (s.thread t).inSet = none
  clean : ∀ t ∈ b.threads, ∀ n ∈ regsRead b.hints (formOf b.hints i), s.regPoisoned t n = false
  word : ∀ n, xopIndex i ≠ some n

/-- No thread of a bundle is a helper (R140): what R141 suppresses takes place. -/
def State.NoHelper (s : State) (b : Bundle) : Prop := ∀ t ∈ b.threads, (s.thread t).helper = false

/-- The register file has room for the destination lines of a bundle, so that none is evicted for them (R112, R113): they
are present, or as many lines are free. -/
def State.Room (s : State) (b : Bundle) (f : Form) : Prop :=
  (∀ t ∈ b.threads, ∀ n ∈ regsWritten f, (s.lineOf (gidOf t) n).isSome) ∨
    (s.lines.filter (fun l => l.core == b.core)).length + b.threads.length * (regsWritten f).length ≤ lineCapacity

/-- Where a register of a thread is held: core, context, image address of its line, lane (R110). Threads that name one cell
share it. -/
def State.cell (s : State) (t n : Nat) : Nat × Nat × Nat × Nat :=
  (coreOf t, s.ctxOfGroup (gidOf t), s.lineAddr (gidOf t) n, laneOf t)

/-! ## After an issue -/

/-- A thread that has issued the word `i` of bundle `b`: it stands at the next word, with its age stamp and what SCHED asks
for (R54, R124), and the lines of its sources are used (R113). -/
def Thread.issued (x : Thread) (s : State) (b : Bundle) (i : Instr) : Thread :=
  { x with pc := b.pc + 4, runPc := b.pc + 4, age := s.clk,
           stallTill := if hStall b.hints = 0 then 0 else s.clk + hStall b.hints, yields := hYield b.hints,
           reads := (regsRead b.hints (s.formAt (s.bundleCtx b) b.hints i)).foldl (fun l n => l.put n s.clk) x.reads }

/-- The thread after a result of `v` to destination `d` of width `w`: a latch takes it, its upper half zero when it is
narrow (R42). -/
def Thread.latched (x : Thread) (d : Option Use) (v : Nat) : Thread :=
  match d with
  | some u => if isLatch u.code then { x with latch := x.latch.put (u.code.toNat - 120) (BitVec.ofNat 64 (v % 2 ^ u.width)) } else x
  | none => x

/-- Bundles held after an issue: this one too while one of its latch counts is not zero (R132, R134). -/
def State.heldAfter (s : State) (b : Bundle) (i : Instr) : List Bundle :=
  (s.keepLatches b i (formOf b.hints i) b.threads).held

/-- Conditions that some threads raise together. -/
def orAll (l : List (BitVec 5)) : BitVec 5 := l.foldl (· ||| ·) 0

/-- `t` is `s` after the threads of `b` have executed `i` and each thread `u` has delivered the result `v u` to the
destination with the conditions `c u`: the destination is written (R42, R43), the threads have moved on, the conditions are
recorded (R201), and nothing else has changed: no other register, no predicate, no byte of memory. -/
structure State.Delivers (s : State) (b : Bundle) (rest : List Bundle) (i : Instr) (v : Nat → Nat) (c : Nat → BitVec 5)
    (t : State) : Prop where
  frame : t = { s with issue := rest, held := s.heldAfter b i, threads := t.threads, lines := t.lines,
                       launches := t.launches, ctxs := t.ctxs }
  threads : ∀ u ∈ b.threads, t.thread u = ((s.thread u).issued s b i).latched (formOf b.hints i).dst (v u)
  others : ∀ u, u ∉ b.threads → t.thread u = s.thread u
  result : ∀ u ∈ b.threads, ∀ d, (formOf b.hints i).dst = some d → d.code.toNat < 120 →
    t.readRegs u d.code.toNat d.regs = wordsOf d.regs (v u % 2 ^ d.width)
  registers : ∀ u n, (∀ x ∈ b.threads, ∀ m ∈ regsWritten (formOf b.hints i), s.cell u n ≠ s.cell x m) →
    t.readReg u n = s.readReg u n
  launches : ∀ q, t.launches.find q = (s.launches.find q).map (fun l =>
    { l with conds := l.conds ||| orAll ((b.threads.filter (fun u => s.launchOf u == some q)).map c) })
  contexts : ∀ k, t.ctx k =
    { s.ctx k with
      fpstat := (s.ctx k).fpstat ||| orAll ((b.threads.filter (fun u => (s.launchOf u).isNone && s.ctxOf u == k)).map c) }

/-- Every execution of `i` completes, and delivers `v` with the conditions `c`, both functions of the values of its operands
(R41). -/
def Computes (i : Instr) (v : Bundle → State → Nat → List Nat → Nat)
    (c : Bundle → State → Nat → List Nat → BitVec 5 := fun _ _ _ _ => 0) : Prop :=
  ∀ s b rest, s.Executes b rest i → s.Room b (formOf b.hints i) →
    ∃ t, exec i s = .next t ∧
      s.Delivers b rest i (fun u => v b s u (s.operands b.hints u (formOf b.hints i)))
        (fun u => c b s u (s.operands b.hints u (formOf b.hints i))) t

/-! ## Words that write a predicate, k registers, or nothing -/

/-- `t` is `s` after the threads of `b` have executed `i` and each thread `u` has set predicate `p` to `v u` with the
conditions `c u` (R44): nothing else has changed. -/
structure State.SetsPred (s : State) (b : Bundle) (rest : List Bundle) (i : Instr) (p : Nat) (v : Nat → Bool)
    (c : Nat → BitVec 5) (t : State) : Prop where
  frame : t = { s with issue := rest, held := s.heldAfter b i, threads := t.threads, launches := t.launches, ctxs := t.ctxs }
  threads : ∀ u ∈ b.threads, t.thread u = ((s.thread u).issued s b i).setPred p (v u)
  others : ∀ u, u ∉ b.threads → t.thread u = s.thread u
  launches : ∀ q, t.launches.find q = (s.launches.find q).map (fun l =>
    { l with conds := l.conds ||| orAll ((b.threads.filter (fun u => s.launchOf u == some q)).map c) })
  contexts : ∀ k, t.ctx k =
    { s.ctx k with
      fpstat := (s.ctx k).fpstat ||| orAll ((b.threads.filter (fun u => (s.launchOf u).isNone && s.ctxOf u == k)).map c) }

/-- Every execution of `i` completes, and sets predicate `p` to `v` with the conditions `c`. -/
def SetsTo (i : Instr) (p : Nat) (v : Bundle → State → Nat → List Nat → Bool)
    (c : Bundle → State → Nat → List Nat → BitVec 5 := fun _ _ _ _ => 0) : Prop :=
  ∀ s b rest, s.Executes b rest i →
    ∃ t, exec i s = .next t ∧
      s.SetsPred b rest i p (fun u => v b s u (s.operands b.hints u (formOf b.hints i)))
        (fun u => c b s u (s.operands b.hints u (formOf b.hints i))) t

/-- `t` is `s` after the threads of `b` have executed the uniform instruction `i`: register `d` of each of their teams `k`
holds `v k` (R125, R171), and nothing else has changed. -/
structure State.SetsUniform (s : State) (b : Bundle) (rest : List Bundle) (i : Instr) (d : Nat) (v : Nat → DWord)
    (t : State) : Prop where
  frame : t = { s with issue := rest, held := s.heldAfter b i, threads := t.threads, teams := t.teams }
  threads : ∀ u ∈ b.threads, t.thread u = (s.thread u).issued s b i
  others : ∀ u, u ∉ b.threads → t.thread u = s.thread u
  teams : ∀ u ∈ b.threads, t.team (s.teamOf u) =
    { s.team (s.teamOf u) with k := (s.team (s.teamOf u)).k.put d (v (s.teamOf u)) }
  otherTeams : ∀ k, (∀ u ∈ b.threads, s.teamOf u ≠ k) → t.team k = s.team k

/-- Every execution of the uniform instruction `i` completes, and writes `v` to register `d` of each team. -/
def Uniform (i : Instr) (d : Nat) (v : Bundle → Team → DWord) : Prop :=
  ∀ s b rest, s.Executes b rest i →
    ∃ t, exec i s = .next t ∧ s.SetsUniform b rest i d (fun k => v b (s.team k)) t

/-- `t` is `s` after the threads of `b` have issued `i`, which has no effect on them but for what `f` does to each thread's
control state. -/
structure State.Steers (s : State) (b : Bundle) (rest : List Bundle) (i : Instr) (f : Nat → Thread → Thread)
    (t : State) : Prop where
  frame : t = { s with issue := rest, held := s.heldAfter b i, threads := t.threads }
  threads : ∀ u ∈ b.threads, t.thread u = f u ((s.thread u).issued s b i)
  others : ∀ u, u ∉ b.threads → t.thread u = s.thread u

/-! ## Words whose accesses are checked first (R136) -/

/-- The threads of a bundle in rising lane order. -/
def Bundle.byLane (b : Bundle) : List Nat := sortBy (fun x y => decide (laneOf x ≤ laneOf y)) b.threads

/-- The operation that a bundle leaves under check: its instruction, its hints, and its lanes (R136, R229). -/
def State.opOf (s : State) (b : Bundle) (i : Instr) (lanes : List Lane) : Op :=
  { id := s.nextId, instr := i, hints := b.hints, word := s.bundleWord b, core := b.core, ctx := s.bundleCtx b,
    runPc := b.runPc, pc := b.pc, stage := 0, lanes := lanes, binds := if usesBinds i then (s.ctx (s.bundleCtx b)).binds else [],
    regs := regsRead b.hints (formOf b.hints i) ++ regsWritten (formOf b.hints i) }

/-- `t` is `s` after the threads of `b` have issued the fault-capable word `i`: they stand at the first word of their run
under fetch suspension, and an operation with the given lanes is under check (R136, R137). Nothing else has changed. -/
structure State.Suspends (s : State) (b : Bundle) (rest : List Bundle) (i : Instr) (lane : Nat → Lane) (t : State) : Prop where
  frame : t = { s with issue := rest, held := s.heldAfter b i, nextId := s.nextId + 1,
                       ops := s.ops ++ [s.opOf b i (b.byLane.map lane)], threads := t.threads }
  threads : ∀ u ∈ b.threads, t.thread u =
    { (s.thread u).issued s b i with pc := b.runPc, runPc := b.runPc, waitFor := .check s.nextId }
  others : ∀ u, u ∉ b.threads → t.thread u = s.thread u

/-- Every issue of `i` to threads that are no helpers leaves them under fetch suspension, with the lanes that `lane` gives. -/
def Checks (i : Instr) (lane : Bundle → State → Nat → Lane) : Prop :=
  ∀ s b rest, s.Executes b rest i → s.NoHelper b → ∃ t, exec i s = .next t ∧ s.Suspends b rest i (lane b s) t

/-! ## Values as the rules of chapters 03, 09 and 10 state them -/

/-- Operand `k` of a word as bits of a width. -/
def bitsOf (w : Nat) (l : List Nat) (k : Nat) : BitVec w := BitVec.ofNat w (l.getD k 0)

/-- An operand as a number of the operating type: two's complement under .I types, unsigned under the others (R160). -/
def intOf (h : Hints) (w : Nat) (l : List Nat) (k : Nat) : Int :=
  if tySigned (hTy h 3) then (bitsOf w l k).toInt else (bitsOf w l k).toNat

/-- Result of an exact integer: modulo 2^n, or with SAT the nearest value of the type (R144, R162). -/
def intRes (h : Hints) (w : Nat) (x : Int) : Nat :=
  let low : Int := if tySigned (hTy h 3) then -(2 ^ (w - 1)) else 0
  let high : Int := if tySigned (hTy h 3) then 2 ^ (w - 1) - 1 else 2 ^ w - 1
  (BitVec.ofInt w (if hSat h then (if x < low then low else if high < x then high else x) else x)).toNat

/-- Width of the operating type of a word whose types are .I32, .N32, .I64, .N64. -/
def wideI (h : Hints) : Nat := tyWidth (hTy h 3)
/-- Width of the operating type of a word whose types are .B32, .B64 (and .B128). -/
def wideB (h : Hints) : Nat := tyWidth (hTy h 11)

/-- A result that is an exact integer of the operands. -/
def intOp (g : (Nat → Int) → Int) (b : Bundle) (_ : State) (_ : Nat) (l : List Nat) : Nat :=
  intRes b.hints (wideI b.hints) (g (intOf b.hints (wideI b.hints) l))
/-- A result on the n bits of the operating type. -/
def bitOp (g : (w : Nat) → BitVec w → List Nat → BitVec w) (b : Bundle) (_ : State) (_ : Nat) (l : List Nat) : Nat :=
  (g (wideB b.hints) (bitsOf (wideB b.hints) l 0) l).toNat
/-- A result on 32 bits. -/
def wordOp (g : Word → Word → Word → Word) (_ : Bundle) (_ : State) (_ : Nat) (l : List Nat) : Nat :=
  (g (bitsOf 32 l 0) (bitsOf 32 l 1) (bitsOf 32 l 2)).toNat

/-- Position and length in an operand word of BFX and BFI: pos := min(w[7:0], 32), len := min(w[15:8], 32 − pos) (R165). -/
def bitField (w : Word) : Nat × Nat :=
  let p := min (w.extractLsb' 0 8).toNat 32
  (p, min (w.extractLsb' 8 8).toNat (32 - p))
/-- A field of ones at a position (R165). -/
def fieldOnes (p n : Nat) : Word := (BitVec.ofNat 32 (2 ^ n - 1)) <<< p
/-- One byte of BPERM's result (R165). -/
def permByte (pool : BitVec 64) (g : BitVec 4) : BitVec 8 :=
  let y : BitVec 8 := pool.extractLsb' (8 * (g.extractLsb' 0 3).toNat) 8
  if g.getLsbD 3 then (if y.getLsbD 7 then 0xFF#8 else 0x00#8) else y

/-- The condition of a code of R61 between two integers. -/
def intCond (cc : Nat) (a b : Int) : Bool :=
  match cc with
  | 0 => decide (a = b)
  | 1 => decide (a ≠ b)
  | 2 => decide (a < b)
  | 3 => decide (a ≤ b)
  | 4 => decide (b < a)
  | 5 => decide (b ≤ a)
  | _ => false

/-- The special register of a code, for a thread (R62, R170). -/
def State.specialReg (s : State) (t n : Nat) : Nat :=
  let m := s.team (s.teamOf t)
  let user := fun (x : Nat) => if m.kind = .user then x else 0
  match n with
  | 0 => t % 32
  | 1 => (s.group (gidOf t)).index
  | 2 => user m.bind.team
  | 3 => user m.bind.cx
  | 4 => user m.bind.cy
  | 5 => user m.bind.cz
  | 6 => coreOf t
  | 7 => if coreOf t < 144 then 0 else 1
  | 8 => s.clk % 2 ^ 64
  | 9 => m.bind.ctx
  | _ =>
    if s.marl.owner = some m.bind.ctx then (if coreOf t < 144 then s.marl.die0.gen else s.marl.die1.gen).toNat
    else 0xFFFFFFFF

/-- An instruction whose result and conditions are one function. -/
def ComputesF (i : Instr) (g : Bundle → State → Nat → List Nat → Nat × BitVec 5) : Prop :=
  Computes i (fun b s t l => (g b s t l).1) (fun b s t l => (g b s t l).2)

/-- R190: the exact value `g` of `k` operands of a type, rounded once. An operand that is a NaN, or a value that is none, gives
the canonical NaN; an infinite one is exact, and with SAT the largest finite value. -/
def fpOp (ty k : Nat) (g : Bool → (Nat → Num) → Num) (b : Bundle) (s : State) (t : Nat) (l : List Nat) : Nat × BitVec 5 :=
  let f := fmtOf ty
  let x := fun i => f.read (l.getD i 0)
  let xs := (List.range k).map x
  let v := g (hRound b.hints == 2) x
  if xs.any (·.isNan) then (f.nanCode, sigNan xs)
  else
    match v with
    | .nan _ => (f.nanCode, cIV)
    | .inf neg => (f.withSign neg (if hSat b.hints then f.maxCode else f.infCode), 0)
    | .fin _ _ _ => deliver f (s.delivery b t 0 0) false v

/-- Two values in numeric order, neither a NaN: +0 and −0 are equal. -/
def numLess (a b : Num) : Bool :=
  match a, b with
  | .inf s, .inf t => s && !t
  | .inf s, _ => s
  | _, .inf t => !t
  | _, _ => decide (a.top * b.den < b.top * a.den)
/-- Two values are equal, neither a NaN. -/
def numSame (a b : Num) : Bool := !numLess a b && !numLess b a

/-- The condition of a code of R61 between two values. -/
def floatCond (cc : Nat) (a b : Num) : Bool :=
  let un := a.isNan || b.isNan
  let base := fun (k : Nat) => match k with
    | 0 => numSame a b
    | 1 => !numSame a b
    | 2 => numLess a b
    | 3 => numLess a b || numSame a b
    | 4 => numLess b a
    | _ => numLess b a || numSame a b
  if cc = 12 then !un else if cc = 13 then un else if cc < 6 then !un && base cc else un || base (cc - 6)

/-- R191: one of two encodings unchanged: −0 ranks below +0, a NaN gives the other, two NaNs the canonical one. -/
def extremum (ty : Nat) (max : Bool) (a b : Nat) : Nat × BitVec 5 :=
  let f := fmtOf ty
  let x := f.read a
  let y := f.read b
  let below := fun (u v : Num) => numLess u v || (u.isZero && v.isZero && u.neg && !v.neg)
  (if x.isNan && y.isNan then f.nanCode else if x.isNan then b else if y.isNan then a
    else if max then (if below x y then b else a) else (if below y x then b else a), sigNan [x, y])

/-- The bit of R192 that the class of an encoding of .F64, .F32, .F16 or .BF16 sets. -/
def classOf (ty x : Nat) : Nat :=
  let f := fmtOf ty
  let e := x / 2 ^ f.m % 2 ^ f.e
  let m := x % 2 ^ f.m
  let neg := x.testBit (f.e + f.m)
  if e = 2 ^ f.e - 1 then (if m = 0 then (if neg then 0 else 7) else if m.testBit (f.m - 1) then 9 else 8)
  else if e = 0 then (if m = 0 then (if neg then 3 else 4) else (if neg then 2 else 5))
  else if neg then 1 else 6

/-- A function of the low and of the high halves of the operands (R189). -/
def bothHalves (g : Bundle → State → Nat → List Nat → Nat × BitVec 5) (b : Bundle) (s : State) (t : Nat) (l : List Nat) :
    Nat × BitVec 5 :=
  let lo := g b s t (l.map (fun x => (BitVec.ofNat 16 x).toNat))
  let hi := g b s t (l.map (fun x => ((BitVec.ofNat 32 x).extractLsb' 16 16).toNat))
  (hi.1 * 65536 + lo.1, lo.2 ||| hi.2)

/-- R154: a value as an integer of a type: a NaN gives 0, a value outside the type its nearest end, each with IV; a value that
was no integer records NX. -/
def intOfFloat (ty mode : Nat) (x : Num) : Nat × BitVec 5 :=
  let w := tyWidth ty
  let low : Int := if tySigned ty then -(2 ^ (w - 1)) else 0
  let high : Int := if tySigned ty then 2 ^ (w - 1) - 1 else 2 ^ w - 1
  match x with
  | .nan _ => (0, cIV)
  | .inf s => ((BitVec.ofInt w (if s then low else high)).toNat, cIV)
  | .fin s n d =>
    let r := roundInt mode 0 s n d
    let v : Int := if s then -(r.1 : Int) else r.1
    if v < low then ((BitVec.ofInt w low).toNat, cIV)
    else if high < v then ((BitVec.ofInt w high).toNat, cIV)
    else ((BitVec.ofInt w v).toNat, if r.2 then cNX else 0)

/-- The NaN result of a conversion to a type (R145, R153). -/
def nanResult (ty : Nat) : Nat :=
  match ty with
  | 14 => 0x7FF8000000000000
  | 15 => 0x7FC00000
  | 16 => 0x7E00
  | 17 => 0x7FC0
  | 18 => 0x7F
  | 19 => 0x7E
  | 23 => 0xFF
  | _ => 0

/-- R153, R155, R200: a value converted to a floating or scale type. A NaN and an infinity take the results of R153's table, with
IV where the type has no encoding for the source or the source is a signalling NaN; a finite value is rounded once. -/
def convertTo (ty : Nat) (d : Deliver) (x : Num) : Nat × BitVec 5 :=
  let f := fmtOf ty
  match x with
  | .nan signalling => (nanResult ty, if signalling || 20 ≤ ty then cIV else 0)
  | .inf neg =>
    if ty = 23 then (0xFF, cIV)
    else if 20 ≤ ty then (f.withSign neg f.maxCode, cIV)
    else if ty = 18 then (if d.sat then f.withSign neg f.maxCode else 0x7F, cIV)
    else (f.withSign neg (if d.sat then f.maxCode else f.infCode), 0)
  | .fin _ _ _ => if ty = 23 then toE8m0 d x else deliver f d true x

/-- R199: one element of FPACK of type `ty` against the scale byte `c`. -/
def packedElement (ty c : Nat) (d : Deliver) (v : Num) : Nat × BitVec 5 :=
  let nan := if ty = 18 then 0x7F else if ty = 19 then 0x7E else 0
  match v with
  | .nan signalling => (nan, if signalling then cIV else 0)
  | .inf _ => (nan, cIV)
  | .fin _ _ _ => if c = 255 then (nan, 0) else deliver (fmtOf ty) { d with sat := true } true (v.scale (127 - (c : Int)))

/-- R150, R199: the scale byte of FPACK.SCALE for the element type `ty`. -/
def blockScale (ty : Nat) (a : Num) : Nat × BitVec 5 :=
  let emax : Int := if ty = 19 then 15 else if ty = 18 then 8 else if ty = 20 then 4 else 2
  match a with
  | .nan signalling => (0xFF, if signalling then cIV else 0)
  | .inf _ => (0xFF, cIV)
  | .fin _ n d => (if n = 0 then 0 else ((min 127 (max (-127) (Machine.Num.log2Floor n d - emax))) + 127).toNat, 0)

/-- R159, R196: what an FP32 approximation returns for the inputs whose result the table states, with the conditions that it
raises; none for an input that R158 alone bounds, and for the reciprocal of a finite value. -/
def approxTable (fn : Fn) (x : Num) : Option (Nat × BitVec 5) :=
  let signed := fun (neg : Bool) (c : Nat) => if neg then c + 0x80000000 else c
  match fn, x with
  | _, .nan signalling => some (0x7FC00000, if signalling then cIV else 0)
  | .rcp, .inf neg => some (signed neg 0, 0)
  | .rsq, .inf neg => some (if neg then (0x7FC00000, cIV) else (0, 0))
  | .ex2, .inf neg => some (if neg then 0 else 0x7F800000, 0)
  | .lg2, .inf neg => some (if neg then (0x7FC00000, cIV) else (0x7F800000, 0))
  | .sin, .inf _ | .cos, .inf _ => some (0x7FC00000, cIV)
  | .tanh, .inf neg => some (signed neg 0x3F800000, 0)
  | .rcp, .fin neg 0 _ | .rsq, .fin neg 0 _ => some (signed neg 0x7F800000, cDZ)
  | .lg2, .fin _ 0 _ => some (0xFF800000, cDZ)
  | .ex2, .fin _ 0 _ | .cos, .fin _ 0 _ => some (0x3F800000, 0)
  | .sin, .fin neg 0 _ | .tanh, .fin neg 0 _ => some (signed neg 0, 0)
  | .rsq, .fin true _ _ | .lg2, .fin true _ _ => some (0x7FC00000, cIV)
  | .ex2, .fin neg n d =>
    if neg = false ∧ 128 * d < n then some (0x7F800000, 0) else if neg = true ∧ 150 * d < n then some (0, 0) else none
  | _, _ => none

/-! ## Control -/

/-- R129: what one thread of DEPTH `d` makes of a reconvergence stack with a BRA.D whose join point is the offset `off` from the
entry point, and its DEPTH after. -/
def diverge (off : Int) (st : List RsEntry) (d : Nat) : List RsEntry × Nat :=
  if -(2 ^ 31) ≤ off ∧ off < 2 ^ 31 then
    if st.length = d ∧ d < 32 then (st ++ [{ join := off, pending := 1, since := none }], d + 1)
    else
      match st[d]? with
      | some e => if st.length = d + 1 ∧ e.join = off then (st.set d { e with pending := e.pending + 1 }, d + 1) else (st, d)
      | none => (st, d)
  else (st, d)

/-- The join point of BRA.D in a bundle, as an offset in words from the entry point of team `k` (R55, R129). -/
def State.joinOffset (s : State) (b : Bundle) (k : Nat) : Int :=
  ((b.pc.toNat : Int) + 4 * (b.hints.x1.getD 0).toInt - (s.team k).bind.entryPc.toNat) / 4

/-- The stack of team `k` once the threads of a list have executed BRA.D one after another (R129). -/
def State.diverged (s : State) (b : Bundle) (ts : List Nat) (k : Nat) : List RsEntry :=
  (ts.filter (fun u => s.teamOf u == k)).foldl (fun st u => (diverge (s.joinOffset b k) st (s.thread u).depth).1) (s.team k).rstack

/-- The value of a source of a uniform instruction for a team: a k register, the XIMM value, zero or ones, each of 64 bits
(R171). -/
def kSource (h : Hints) (m : Team) (c : BitVec 7) : DWord :=
  if c.toNat < 64 then m.kreg c.toNat
  else if c = 125#7 then BitVec.ofNat 64 ((imm125 h .int 64).getD 0)
  else if c = 126#7 then 0 else BitVec.allOnes 64

/-- A thread moved to an address. -/
def Thread.moved (x : Thread) (pc : VA) : Thread := { x with pc := pc, runPc := pc }

/-- Target of a branch word (R55): A + 4 × SExt(offset21). -/
def branchTarget (b : Bundle) (o : BitVec 21) : VA := b.pc + (o.signExtend 57 <<< 2)

/-- A hint word leaves the bundle at the next word, with the hints it then holds. -/
def Hinted (i : Instr) (f : Hints → Hints) : Prop :=
  ∀ s b rest, s.issue = b :: rest → (b.pc - b.runPc).toNat < 20 →
    exec i s = .next { s with issue := { b with hints := f b.hints, pc := b.pc + 4 } :: rest }

/-- A bundle's threads have issued a branch word: only threads, and the lines that core's instruction buffer asks for, have
changed. -/
structure State.Branches (s : State) (b : Bundle) (rest : List Bundle) (i : Instr) (t : State) : Prop where
  frame : t = { s with issue := rest, held := s.heldAfter b i, threads := t.threads, teams := t.teams, cores := t.cores }
  others : ∀ u, u ∉ b.threads → t.thread u = s.thread u
  buffer : t.core b.core = { s.core b.core with ibuf := (t.core b.core).ibuf }
  cores : ∀ k, k ≠ b.core → t.core k = s.core k

/-- Thread `u` is a member of the top entry of its team's stack, whose join point is the address (R130). -/
def State.atJoin (s : State) (u : Nat) (pc : VA) : Prop :=
  ∃ e, (s.team (s.teamOf u)).rstack.getLast? = some e ∧ (s.thread u).depth = (s.team (s.teamOf u)).rstack.length ∧
    joinAddr (s.team (s.teamOf u)) e = (pc.toNat : Int)

/-- Every group of the bundle keeps a thread that is no helper, is not of the bundle, and has not arrived at the phase of its
cluster's barrier: what the end of the bundle's threads sets off elsewhere (R131, R138, R249, R312, R313, R140) is nothing. -/
structure State.LeavesAlone (s : State) (b : Bundle) : Prop where
  stays : ∀ u ∈ b.threads, ∃ w, gidOf w = gidOf u ∧ w ∉ b.threads ∧ s.alive w = true ∧ (s.thread w).helper = false ∧
    w ∈ s.threadsOf (s.teamOf u) ∧ (∀ c, s.clusters.find (s.team (s.teamOf u)).cluster = some c →
      Sys2Proof.Machine.ahead ((s.thread w).mt - c.phases) = false ∧
        ∃ m ∈ c.members, m.exited = false ∧ m.savedTeam = none ∧ teamKey m.core m.entry = s.teamOf u)
  live : ∀ u ∈ b.threads, s.alive u = true
  meets : ∀ u ∈ b.threads, (s.group (gidOf u)).rdv = none ∧ (s.group (gidOf u)).copyRdv = none ∧
    (s.group (gidOf u)).quads = []
  team : ∀ u ∈ b.threads, (s.team (s.teamOf u)).rstack = [] ∧ (s.team (s.teamOf u)).bars = []
  copies : s.copies = []
  waits : s.monitors = [] ∧ s.wft = []
  flight : ∀ u ∈ b.threads, ∀ a ∈ s.accs, a.tid ≠ u

/-! ## Addresses that lanes present (R228, R288, R294) -/

/-- Operand `k` of instruction `i` of the bundle for thread `u`. -/
def State.opnd (s : State) (b : Bundle) (i : Instr) (u k : Nat) : Nat := (s.operands b.hints u (formOf b.hints i)).getD k 0

/-- A per-lane offset of 32 bits as 64: sign-extended with .SX, else zero-extended. -/
def laneOffset (sx : Bool) (x : Nat) : DWord := if sx then (BitVec.ofNat 32 x).signExtend 64 else (BitVec.ofNat 32 x).setWidth 64

/-- The address that thread `u` presents in the WM form: k[kb] + voff × the element's bytes + the immediate, modulo 2^64
(R228). The offset is sign-extended with the .SX of LD and ST. -/
def State.wmForm (s : State) (b : Bundle) (u : Nat) (sx : Bool) (kb : BitVec 6) (voff : BitVec 7) (imm : BitVec 6) (bytes : Nat) : DWord :=
  s.kreg u kb.toNat + laneOffset sx (s.operand b.hints u (useX voff 32 [124, 126])) * BitVec.ofNat 64 bytes +
    BitVec.ofNat 64 (immField b.hints 6 imm.toNat)

/-- The address that thread `u` presents in majors 0x28–0x2B: k[KSEL] + the offset operand × the element's bytes + the
displacement (R288, R294). -/
def State.kForm (s : State) (b : Bundle) (i : Instr) (u : Nat) (sx : Bool) (bytes : Nat) : DWord :=
  s.kreg u (hKsel b.hints) + laneOffset sx (s.opnd b i u 0) * BitVec.ofNat 64 bytes + BitVec.ofNat 64 (immDisp b.hints)

/-- The bytes of an element of the operating type, .N32 by default. -/
def elemBytes (b : Bundle) : Nat := tyWidth (hTy b.hints 7) / 8

/-- A lane with an address alone. -/
def laneAt (u : Nat) (a : DWord) : Lane := { tid := u, addr := a, x := 0, y := 0 }
/-- A lane with an address and two operands. -/
def laneWith (u : Nat) (a : DWord) (x y : Nat) : Lane := { tid := u, addr := a, x := BitVec.ofNat 64 x, y := BitVec.ofNat 64 y }

/-- A store's lane: its data as they are at issue, the low 64 bits first. -/
def State.storeForm (s : State) (b : Bundle) (u : Nat) (sx : Bool) (d : BitVec 7) (kb : BitVec 6) (voff : BitVec 7)
    (imm : BitVec 6) : Lane :=
  let v := s.operand b.hints u (useX d (tyWidth (hTy b.hints 7)) [124, 126, 127])
  laneWith u (s.wmForm b u sx kb voff imm (elemBytes b)) v (v / 2 ^ 64)

/-- An atomic's lane: its address, and the operands b, or n and c. -/
def State.atomForm (s : State) (b : Bundle) (i : Instr) (u : Nat) : Lane :=
  laneWith u (s.kForm b i u ((b.hints.xmod).getLsbD 2) (elemBytes b)) (s.opnd b i u 1) (s.opnd b i u 2)

/-- A helper bundle's instruction has no effect but a zero in its destination (R141). -/
def SuppressedIn (i : Instr) : Prop :=
  ∀ s b rest, s.Executes b rest i → s.Room b (formOf b.hints i) → (∀ u ∈ b.threads, (s.thread u).helper = true) →
    ∃ t, exec i s = .next t ∧ s.Delivers b rest i (fun _ => 0) (fun _ => 0) t

/-! ## Waits, meetings and copies -/

/-- A thread has an access in flight that a fence of a kind waits for: any for .FULL and .REL, loads and the atomics that return
a value for .ACQ (R271, R289). -/
def State.inFlight (s : State) (u kind : Nat) : Prop :=
  ∃ a ∈ s.accs, a.tid = u ∧ (kind = 1 → a.kind = .load ∨ (a.kind = .atomic ∧ (formOf a.hints a.instr).dst.isSome = true))

/-- The bit of each thread's lane. -/
def laneMask (ts : List Nat) : Word := ts.foldl (fun m t => m ||| (1#32 <<< laneOf t)) 0

/-- The bundle's threads are all that a group-wide instruction of their group `g` names, each with the mask `m`, and nothing
else of the group is under way (R138). -/
structure State.Gathered (s : State) (b : Bundle) (i : Instr) (g : Nat) (m : Word) : Prop where
  group : ∀ u ∈ b.threads, gidOf u = g
  mask : ∀ u ∈ b.threads, BitVec.ofNat 32 (s.opnd b i u 0) = m
  members : ∀ l, l < 32 → (m.getLsbD l = true ↔ threadKey g l ∈ b.threads)
  live : ∀ u ∈ b.threads, s.alive u = true
  quiet : (s.group g).rdv = none ∧ (s.group g).copyRdv = none ∧ (s.group g).quads = []
  free : ∀ l, l < 32 → (s.thread (threadKey g l)).waitFor ≠ .rendezvous

/-- Every meeting of `i` that is complete at its issue completes: each member writes its result and goes on (R182). -/
def Meets (i : Instr) (v : Bundle → State → Nat → Word → Nat → Nat)
    (c : Bundle → State → Nat → BitVec 5 := fun _ _ _ => 0) : Prop :=
  ∀ s b rest g m, s.Executes b rest i → s.Room b (formOf b.hints i) → s.Gathered b i g m →
    ∃ t t', exec i s = .next t ∧ s.Delivers b rest i (v b s g m) (fun _ => c b s g) t' ∧
      t = { t' with threads := t.threads, groups := t.groups, wft := t.wft } ∧
      (∀ u ∈ b.threads, t.thread u = { t'.thread u with waitFor := .nothing }) ∧
      (∀ u, u ∉ b.threads → t.thread u = s.thread u) ∧ (∀ k, t.group k = s.group k) ∧
      ∀ u n, t.readReg u n = t'.readReg u n

/-- The tree of R157 over lanes from `l` on, `n` levels deep: a node combines its two halves, or passes on the only one. -/
def laneTree (f : Nat → Nat → Nat × BitVec 5) (val : Nat → Option Nat) : Nat → Nat → Option Nat × BitVec 5
  | 0, l => (val l, 0)
  | n + 1, l =>
    let x := laneTree f val n l
    let y := laneTree f val n (l + 2 ^ n)
    match x.1, y.1 with
    | some a, some b => (some (f a b).1, x.2 ||| y.2 ||| (f a b).2)
    | some a, none => (some a, x.2 ||| y.2)
    | none, o => (o, x.2 ||| y.2)

/-- The copy that a team forms when the last thread of one of its groups arrives at a copy instruction, first of the groups of
its team (R248, R249): the group's slice has the operands of its lowest lane, `n` words of k block among them. -/
def Contributes (i : Instr) (minor n : Nat) : Prop :=
  ∀ s b rest g g' u, s.Executes b rest i →
    (∀ w, w ∈ b.threads ↔ w ∈ threadsOfGroup g ∧ s.alive w = true) → u ∈ b.threads →
    (∀ w ∈ b.threads, laneOf u ≤ laneOf w) →
    (s.group g).rdv = none → (s.group g).copyRdv = none → (s.group g).quads = [] →
    g ∈ s.groupsOf (s.group g).team → g' ∈ s.groupsOf (s.group g).team → (s.group g').index ≠ (s.group g).index →
    (∃ w ∈ threadsOfGroup g', s.alive w = true) →
    (∀ c ∈ s.copies, c.team = (s.group g).team → c.state ≠ .gathering) →
    (s.copies.filter (fun c => c.core == coreOfGroup g && c.state != .suspended)).length < 16 →
    ∃ t c, exec i s = .next t ∧ t.copies = s.copies ++ [c] ∧ c.state = .gathering ∧ c.team = (s.group g).team ∧
      c.core = coreOfGroup g ∧ c.n = (s.group g).copyCount ∧
      c.slices = [{ group := (s.group g).index, minor := minor, a := BitVec.ofNat 64 (s.opnd b i u 0),
                    b := BitVec.ofNat 64 (s.opnd b i u 1), c := BitVec.ofNat 32 (s.opnd b i u 2),
                    k := (List.range n).map (fun j => s.kreg u (hKsel b.hints + j)) }] ∧
      t.group g = { s.group g with copyCount := (s.group g).copyCount + 1 } ∧
      (∀ w ∈ b.threads, t.thread w = { (s.thread w).issued s b i with waitFor := .nothing, tstate := .run }) ∧
      (∀ w, w ∉ b.threads → t.thread w = s.thread w) ∧
      t.mem = s.mem ∧ t.lines = s.lines ∧ t.teams = s.teams ∧ t.ctxs = s.ctxs ∧ t.launches = s.launches

/-- One thread that issues the walk `i` stands under fetch suspension, its walk begun (R363, R365). -/
def Walks (i : Instr) (f : Bundle → State → Nat → Lane × Walk) : Prop :=
  ∀ s b rest u, s.Executes b rest i → s.NoHelper b → b.threads = [u] →
    ∃ t, exec i s = .next t ∧
      t = { s with issue := rest, held := s.heldAfter b i, nextId := s.nextId + 1, threads := t.threads,
                   ops := s.ops ++ [{ s.opOf b i [(f b s u).1] with walk := some (f b s u).2 }] } ∧
      t.thread u = { (s.thread u).issued s b i with pc := b.runPc, runPc := b.runPc, waitFor := .check s.nextId } ∧
      ∀ w, w ≠ u → t.thread w = s.thread w

/-- A bundle of one team that issues `i` leaves its threads under fetch suspension, with the lanes that `lane` gives. -/
def ChecksTeam (i : Instr) (lane : Bundle → State → Nat → Lane) : Prop :=
  ∀ s b rest k, s.Executes b rest i → (∀ u ∈ b.threads, s.teamOf u = k) →
    ∃ t, exec i s = .next t ∧ s.Suspends b rest i (lane b s) t

/-! ## Requests to the supervisor (R425, R426, R430) -/

/-- The request that a trap of thread `u` of a bundle posts in slot `i`. -/
def State.trapRequest (s : State) (b : Bundle) (u i : Nat) (c : Cause) (info0 : DWord) (args : List Word) (d : BitVec 7) :
    Request :=
  { core := b.core, ctx := s.ctxOf u, slot := i, event := false, cause := c.code, gid := gidOf u, lanes := 1#32 <<< laneOf u,
    hasSet := none, pc := b.runPc, info0 := info0, info1 := 0, args := args, dst := d, next := b.pc + 4 }

/-- Where a request is written in the arena: its slot's fields, FULL_MASK and POSTED, as addresses and lengths (R424, R425). -/
def State.requestPlaces (s : State) (r : Request) : List (Nat × Nat) :=
  let h := s.mailbox r.ctx r.core
  let a := h + 64 * r.slot
  [(a, 1), (a + 1, 1), (a + 2, 2), (a + 4, 4), (a + 8, 8), (a + 0x10, 8), (a + 0x18, 8)] ++
    (List.range 8).map (fun i => (a + 0x20 + 4 * i, 4)) ++ [(h + 8, 4), (h, 8)]

/-- Where the latches of a thread stand in its team image, while a latch of its bundle may be read: a thread that traps in such a
window leaves with their values there (R109, R134). -/
def State.latchPlaces (s : State) (b : Bundle) (u : Nat) : List (Nat × Nat) :=
  if b.l0 = 0 ∧ b.l1 = 0 ∧ b.l2 = 0 ∧ b.l3 = 0 then []
  else (List.range 4).map (fun j => (s.groupBlock (gidOf u) + 0x200 + 256 * j + 8 * laneOf u, 8))

/-- Every byte outside the places of a context's arena reads as before. -/
def State.KeepsOutside (s : State) (c : Nat) (places : List (Nat × Nat)) (t : State) : Prop :=
  ∀ p, (∀ w ∈ places, p < s.arenaLoc c w.1 ∨ s.arenaLoc c w.1 + w.2 ≤ p) → t.byte p = s.byte p

/-- `t` is `s` after the one thread `u` of the bundle has trapped with the request `r`: it stands at the first word of its run,
TSTATE WAIT, and the request is posted (R407, R426). -/
structure State.Trapped (s : State) (b : Bundle) (rest : List Bundle) (i : Instr) (u : Nat) (r : Request) (t : State) : Prop where
  thread : t.thread u = { ((s.thread u).issued s b i).moved b.runPc with tstate := .wait, waitFor := .trap, waitDst := 126 }
  others : ∀ w, w ≠ u → t.thread w = s.thread w
  requests : t.requests = s.requests ++ [r]
  memory : s.KeepsOutside r.ctx (s.requestPlaces r ++ s.latchPlaces b u) t
  rest : t.issue = rest ∧ t.held = s.heldAfter b i ∧ t.lines = s.lines ∧ t.ctxs = s.ctxs ∧ t.teams = s.teams ∧
    ∀ q, t.launches.find q = s.launches.find q

/-- R435: CSR `n` for thread `u`, where the thread may read it. -/
def State.csr (s : State) (b : Bundle) (u n : Nat) : Option Nat :=
  let x := s.ctx (s.ctxOf u)
  let m := s.team (s.teamOf u)
  let sup := fun (v : Nat) => if m.kind = .supervisor then some v else none
  match n with
  | 0x000 => some (if m.kind = .supervisor then 0 else (m.dn ++ m.rq).toNat)
  | 0x001 => some x.amNack.toNat
  | 0x002 => some x.fpstat.toNat
  | 0x100 => sup (x.image.toNat + 20480 * b.core + 18432)
  | 0x101 => sup (s.rplBase (s.ctxOf u))
  | 0x102 => sup x.rplInForce
  | 0x103 => sup (x.svLost.at' 0 b.core).toNat
  | 0x104 => sup x.fqTail.toNat
  | 0x105 => sup 0
  | _ => none

/-- The record of an event to the host (R77). -/
def eventRecord (kind c detail : Nat) : DWord := 0#1 ++ BitVec.ofNat 7 kind ++ BitVec.ofNat 6 c ++ 0#10 ++ BitVec.ofNat 40 detail

/-- The request in a slot of a mailbox. -/
def State.Slot (s : State) (c core slot : Nat) (r : Request) : Prop :=
  slot ≠ 0 ∧ s.requests.find? (fun x => x.ctx == c && x.core == core && x.slot == slot) = some r

/-! ## Micro-operations (R394, R398, R400, R403) -/

/-- `t` is `s` after the threads of `b` that stand at its next micro-op have run it: the continuation of each is `f` of what it
was, the conditions `c` are recorded, and the bundle is held for the next micro-op. Nothing else has changed. -/
structure State.Micro (s : State) (b : Bundle) (rest : List Bundle) (f : Nat → Cont → Cont) (c : Nat → Cont → BitVec 5)
    (t : State) : Prop where
  frame : t = { s with issue := rest, held := s.held ++ [{ b with threads := b.threads.filter s.running, inXop := true }],
                       threads := t.threads, launches := t.launches, ctxs := t.ctxs }
  threads : ∀ u ∈ s.microThreads b, ∀ k, (s.thread u).xop = some k → t.thread u = { s.thread u with xop := some (f u k) }
  others : ∀ u, u ∉ s.microThreads b → t.thread u = s.thread u
  launches : ∀ q, t.launches.find q = (s.launches.find q).map (fun l =>
    { l with
      conds := l.conds |||
        orAll ((s.microThreads b).filterMap (fun u => if s.launchOf u = some q then (s.thread u).xop.map (c u) else none)) })
  contexts : ∀ k, t.ctx k =
    { s.ctx k with
      fpstat := (s.ctx k).fpstat ||| orAll ((s.microThreads b).filterMap (fun u =>
        if (s.launchOf u).isNone && s.ctxOf u == k then (s.thread u).xop.map (c u) else none)) }

/-- Some threads of the bundle in hand stand at its next micro-op. -/
structure State.Sequenced (s : State) (b : Bundle) (rest : List Bundle) : Prop where
  head : s.issue = b :: rest
  distinct : b.threads.Nodup
  some : s.microThreads b ≠ []

/-- Every run of the micro-op `i` goes on with the continuation `f`. -/
def Steps (i : Instr) (f : State → Bundle → Nat → Cont → Cont) (c : State → Bundle → Nat → Cont → BitVec 5 := fun _ _ _ _ => 0) :
    Prop :=
  i.wellFormed = true → ∀ s b rest, s.Sequenced b rest → ∃ t, exec i s = .next t ∧ s.Micro b rest (f s b) (c s b) t

/-- A temporary (R394). -/
def Cont.reg (k : Cont) (n : BitVec 3) : DWord := k.h.at' 0 n.toNat
/-- A temporary written, and the sequence at its next micro-op (R394, R398). -/
def Cont.puts (k : Cont) (n : BitVec 3) (v : DWord) : Cont := ({ k with h := k.h.put n.toNat v }).goto (k.i + 1)
/-- Every run of `i` writes temporary `d`. -/
def Temp (i : Instr) (d : BitVec 3) (v : Cont → DWord) : Prop := Steps i (fun _ _ _ k => k.puts d (v k))

/-- A micro-op whose result, cut to 64 bits, and conditions are one function. -/
def TempF (i : Instr) (d : BitVec 3) (v : State → Bundle → Nat → Cont → Nat × BitVec 5) : Prop :=
  Steps i (fun s b u k => k.puts d (BitVec.ofNat 64 (v s b u k).1)) (fun s b u k => (v s b u k).2)

/-- How a micro-op of rounding `r` and saturation `sat` delivers its result (R394); a draw of .SR mixes the micro-op's index and
its operands' words. -/
def State.microMode (s : State) (b : Bundle) (u : Nat) (k : Cont) (r : BitVec 3) (sat : Bool) (x y : DWord) : Deliver :=
  let w := x.extractLsb' 0 32 ^^^ x.extractLsb' 32 32 ^^^ y.extractLsb' 0 32 ^^^ y.extractLsb' 32 32
  { mode := r.toNat, sat := sat, draw := if r = 4 then s.draw u b.pc k.i w.toNat else 0 }

/-- The exact value `g` of temporaries as numbers of a floating type, rounded once (R190, R394). -/
def microFp (ty : BitVec 4) (r : BitVec 3) (sat : Bool) (a b : BitVec 3) (l : List (BitVec 3)) (g : Bool → (Nat → Num) → Num)
    (s : State) (w : Bundle) (u : Nat) (k : Cont) : Nat × BitVec 5 :=
  let f := fmtOf (utype ty)
  let xs := l.map (fun n => f.read ((k.reg n).toNat % 2 ^ tyWidth (utype ty)))
  let v := g (r == 2) (fun i => xs.getD i (.nan false))
  if xs.any (·.isNan) then (f.nanCode, sigNan xs)
  else
    match v with
    | .nan _ => (f.nanCode, cIV)
    | .inf neg => (f.withSign neg (if sat then f.maxCode else f.infCode), 0)
    | .fin _ _ _ => deliver f (s.microMode w u k r sat (k.reg a) (k.reg b)) false v

/-- A temporary as a number of an integer type (R394, R160). -/
def Cont.int (k : Cont) (ty : Nat) (n : BitVec 3) : Int :=
  let x := (k.reg n).setWidth (tyWidth ty)
  if tySigned ty then x.toInt else x.toNat

/-- The address that a memory micro-op forms (R397). -/
def Cont.ea (k : Cont) (a : BitVec 3) (i : BitVec 17) : DWord := k.reg a + i.signExtend 64

/-! ## Events -/

/-- An event answers a next state of which `P` holds. -/
def Becomes (i : Instr) (s : State) (P : State → Prop) : Prop := ∃ t, exec i s = .next t ∧ P t

/-- Function `f` holds `x`, and nothing else has changed. -/
def State.PutsFunc (s : State) (f : Nat) (x : Func) (t : State) : Prop :=
  t = { s with funcs := t.funcs } ∧ t.func f = x ∧ ∀ k, k ≠ f → t.func k = s.func k
/-- Context `c` holds `x`, and nothing else has changed. -/
def State.PutsCtx (s : State) (c : Nat) (x : Ctx) (t : State) : Prop :=
  t = { s with ctxs := t.ctxs } ∧ t.ctx c = x ∧ ∀ k, k ≠ c → t.ctx k = s.ctx k
/-- Thread `u` holds `x`, and nothing else has changed. -/
def State.PutsThread (s : State) (u : Nat) (x : Thread) (t : State) : Prop :=
  t = { s with threads := t.threads } ∧ t.thread u = x ∧ ∀ w, w ≠ u → t.thread w = s.thread w

/-- Bytes from a location up are `bs`, and every other byte is as before. -/
def State.Stores (s : State) (loc : Nat) (bs : List Byte) (t : State) : Prop :=
  ∀ p, t.byte p = if loc ≤ p ∧ p < loc + bs.length then bs.getD (p - loc) 0 else s.byte p

/-- A link's poisoned response for the sector of a location is logged (R449, R450). -/
def State.LogsLink (s : State) (a : Nat) (t : State) : Prop :=
  t.isPoisoned (a / 32) = true ∧ t.mem = s.mem ∧ t.msix = s.msix ++ [(0, 2)] ∧
    t.dev = { s.dev with errLasting := if s.dev.errLasting = 0xFFFFFFFF then s.dev.errLasting else s.dev.errLasting + 1,
                         lasting := true, poisoned := true, logUnit := 10, errLogPa := BitVec.ofNat 64 (a / 32 * 32) }

/-- A message of kind `k` of function `f` is the one that the security core serves next (R487). -/
structure State.Served (s : State) (f k : Nat) : Prop where
  subject : s.subj.f = f
  busy : (s.func f).mbBusy = true
  kind : (s.func f).mbKind.toNat = k
  next : ∀ g, g < f → (s.func g).mbBusy = false
  exists_ : f ≤ 32
  ready : s.boot.ready.getLsbD 1 = true

/-- The bytes of a function's message. -/
def Func.sent (x : Func) : List Byte := (List.range x.mbLen.toNat).map (fun i => x.mbData.at' 0 i)

/-- Function `f`'s message has ended with a status. -/
def State.Answers (f : Nat) (status : BitVec 3) (t : State) : Prop := (t.func f).mbBusy = false ∧ (t.func f).mbStatus = status

/-- No translation of a context's pages is left in a TLB, no table entry on the way to one with a walker, and no line of
instructions fetched under one. -/
def State.Untranslated (c vpn n : Nat) (t : State) : Prop :=
  (∀ e ∈ t.tlb2, ¬(e.2.ctx = c ∧ overlaps e.2.vpn e.2.span vpn n = true)) ∧
  (∀ w ∈ t.wcache, ¬(w.ctx = c ∧ overlaps (w.tag * entryPages w.level) (entryPages w.level) vpn n = true)) ∧
  ∀ k, (∀ e ∈ (t.core k).tlb, ¬(e.ctx = c ∧ overlaps e.vpn e.span vpn n = true)) ∧
    ∀ l ∈ (t.core k).ibuf, ¬(l.ctx % 64 = c ∧ overlaps (l.va / 64) 1 vpn n = true)

/-! ## Accesses in flight and copies -/

/-- Nothing but the agents of an event looks at a write: no monitor, no wait at a transaction barrier, no update-only copy. -/
structure State.Unwatched (s : State) : Prop where
  canonical : s.Inv
  monitors : s.monitors = []
  barriers : ∀ p ∈ s.threads, ∀ a ph, p.2.waitFor ≠ .tbarWait a ph
  copies : s.ucopies = []

/-- The access that the subject names may be performed now, at its own core or in global memory, meets no fault, poison or
foreign key (R232, R235, R237), and is served by no copy from before another agent's write (R238). -/
structure State.Due (s : State) (a : Access) : Prop extends s.Unwatched where
  named : s.accOf s.subj.id = some a
  may : s.mayPerform a = true
  near : a.remote = false
  sound : s.ecc = [] ∧ s.poison = [] ∧ s.sectorKey = []
  current : a.strong = true ∨ s.stale = []

/-- An access is in flight no more; no thread but those whose access it is has changed, and they may leave a fence. -/
def State.Performed (s : State) (a : Access) (t : State) : Prop :=
  t.accs = s.accs.filter (fun e => e.id != a.id) ∧ ∀ w, a.isOf w = false → t.thread w = s.thread w

/-- The lines of registers `n`, … of a thread are present, so that a write evicts none (R112). -/
def State.HasLines (s : State) (u n k : Nat) : Prop :=
  gidOf u < 2 ^ 40 ∧ s.aliveAt u = true ∧ n + k ≤ 120 ∧ ∀ i, i < k → (s.lineOf (gidOf u) (n + i)).isSome = true

/-- A value as `k` words of 32 bits, lowest first. -/
def wordsLow (k x : Nat) : List Word := (List.range k).map (fun i => BitVec.ofNat 32 (x / 2 ^ (32 * i)))

/-- An element of `n` bytes as LD and LDS write it: sign-extended under .I8 and .I16, else as it stands (R230). -/
def widened (ty n x : Nat) : Nat :=
  if ty = 1 ∨ ty = 2 then ((BitVec.ofNat (8 * n) x).signExtend 32).toNat else x

/-- The operation `o` that the subject names has one lane, `l`, whose checks all pass with `p`, and whose thread waits for them
outside a replay set. -/
structure State.OnePasses (s : State) (o : Op) (l : Lane) (p : Passed) : Prop where
  named : s.ops.find? (fun x => x.id == s.subj.id) = some o
  lanes : o.lanes = [l]
  waits : s.alive l.tid = true ∧ (s.thread l.tid).waitFor = .check o.id ∧ (s.thread l.tid).inSet = none ∧ gidOf l.tid < 2 ^ 40
  copies : s.ucopies = []
  passes : ∃ s', s.checkLane o l = (s', .ok p)

/-- The copy `c` is the one that the subject names. -/
def State.CopyIs (s : State) (c : Copy) : Prop := s.copyOf s.subj.id = some c ∧ c.id = s.subj.id

/-- A copy without barriers. -/
def State.NoBarrier (s : State) (c : Copy) : Prop := s.copyBars c = [] ∧ s.copyAck c = none

/-! ## Clusters, launches, engines -/

/-- Cluster `k` stands as `x`, and no other cluster has changed. -/
def State.PutsCluster (s : State) (k : Nat) (x : Cluster) (t : State) : Prop :=
  t.clusters.find k = some x ∧ ∀ j, j ≠ k → t.clusters.find j = s.clusters.find j

/-- Queue entry `q` stands as `x`, and no other entry has changed. -/
def State.PutsLaunch (s : State) (q : Nat) (x : Launch) (t : State) : Prop :=
  t.launches.find q = some x ∧ ∀ j, j ≠ q → t.launches.find j = s.launches.find j

/-- Exactly the clusters of a list are ordered to be pre-empted; nothing else has changed. -/
def State.Preempts (s : State) (l : List Nat) (t : State) : Prop :=
  t = { s with clusters := t.clusters } ∧
    ∀ k, t.clusters.find k = (s.clusters.find k).map (fun c => if k ∈ l then { c with state := .stopping } else c)

/-- The thread of a lane goes on after the instruction of its operation, and no other thread has changed. -/
def State.GoesOn (s : State) (o : Op) (l : Lane) (t : State) : Prop :=
  t.thread l.tid = { s.thread l.tid with pc := o.pc + 4, runPc := o.pc + 4, waitFor := .nothing, tstate := .run } ∧
    ∀ w, w ≠ l.tid → t.thread w = s.thread w

/-- The operation `o` that the subject names has the one lane `l`, whose thread waits for it outside a replay set and has no
access to wait for. -/
structure State.OneLane (s : State) (o : Op) (l : Lane) : Prop where
  named : s.ops.find? (fun x => x.id == s.subj.id) = some o
  lanes : o.lanes = [l]
  waits : (s.thread l.tid).waitFor = .check o.id ∧ (s.thread l.tid).inSet = none
  reads : s.readsReady l.tid = true
  copies : s.ucopies = []

end Sys2Proof.Machine
end

