-- ==== Sys2Proof/Certificates/Slice0/Obligations.lean ====
section
/-! DEFINITION. The statements about the model, for the provers. -/

open Sys2Proof Sys2Proof.Machine

/-! ## Integer, logic and move instructions -/

/-- R162: the sums, products' low halves, magnitudes and extrema are the exact integer of the operands, read as signed under
.I types, reduced modulo 2^n or saturated with SAT. R162, R163: IMULH gives the high half of the product, IMAD a sum, 64
bits wide with .WIDE, LEA a 64-bit address, IADDI a sum with its immediate (a signed number under every type: the model's
reading, log 40). -/
def Obligations.IntegerArithmetic : Prop :=
  (∀ (d a b : BitVec 7) (n : Bool),
     Computes (.iadd d a b n) (intOp fun x => x 0 + x 1) ∧
     Computes (.isub d a b n) (intOp fun x => x 0 - x 1) ∧
     Computes (.imul d a b n) (intOp fun x => x 0 * x 1) ∧
     Computes (.iabs d a n) (intOp fun x => if x 0 < 0 then -x 0 else x 0) ∧
     Computes (.imin d a b n) (intOp fun x => if x 0 ≤ x 1 then x 0 else x 1) ∧
     Computes (.imax d a b n) (intOp fun x => if x 0 ≤ x 1 then x 1 else x 0) ∧
     Computes (.isad d a b n) (intOp fun x => (if x 0 < x 1 then x 1 - x 0 else x 0 - x 1) + x 2)) ∧
  (∀ (d a b : BitVec 7) (j : BitVec 12) (n : Bool),
     Computes (.imulh d a b n) (fun bd _ _ l =>
       let w := wideI bd.hints
       (BitVec.ofInt w (intOf bd.hints w l 0 * intOf bd.hints w l 1 / 2 ^ w)).toNat) ∧
     Computes (.imad d a b n) (fun bd _ _ l =>
       let h := bd.hints
       if xmodBit h 0 then intRes h 64 (intOf h 32 l 0 * intOf h 32 l 1 + intOf h 64 l 2)
       else intRes h (wideI h) (intOf h (wideI h) l 0 * intOf h (wideI h) l 1 + intOf h (wideI h) l 2)) ∧
     Computes (.lea d a b n) (fun bd _ _ l =>
       let off := if xmodBit bd.hints 3 then (bitsOf 32 l 1).setWidth 64 else (bitsOf 32 l 1).signExtend 64
       (bitsOf 64 l 0 + (off <<< (hXmod bd.hints % 8))).toNat) ∧
     Computes (.iaddi d a j) (fun bd _ _ l =>
       let h := bd.hints
       intRes h (wideI h) (intOf h (wideI h) l 0 + (BitVec.ofNat (wideI h) (immField h 12 j.toNat)).toInt)))

/-- R164: the logic and shift instructions act on the n bits of a; a count of n or more shifts everything out, and SAR fills
with the sign. R166: POPC counts the one bits, CLZ and CTZ the zero bits above the highest and below the lowest one bit (n
for zero), and BREV moves bit i to bit n − 1 − i. -/
def Obligations.LogicShiftsAndCounts : Prop :=
  (∀ (d a b : BitVec 7) (n : Bool),
     Computes (.and d a b n) (bitOp fun w x l => x &&& bitsOf w l 1) ∧
     Computes (.or d a b n) (bitOp fun w x l => x ||| bitsOf w l 1) ∧
     Computes (.xor d a b n) (bitOp fun w x l => x ^^^ bitsOf w l 1) ∧
     Computes (.andn d a b n) (bitOp fun w x l => x &&& ~~~bitsOf w l 1) ∧
     Computes (.shl d a b n) (bitOp fun _ x l => x <<< (bitsOf 32 l 1).toNat) ∧
     Computes (.shr d a b n) (bitOp fun _ x l => x >>> (bitsOf 32 l 1).toNat) ∧
     Computes (.sar d a b n) (bitOp fun _ x l => x.sshiftRight (bitsOf 32 l 1).toNat) ∧
     Computes (.rot d a b n) (bitOp fun w x l => x.rotateLeft ((bitsOf 32 l 1).toNat % w))) ∧
  (∀ (d a : BitVec 7) (n : Bool),
     Computes (.popc d a n) (fun bd _ _ l =>
       ((List.range (wideB bd.hints)).filter (fun i => (bitsOf (wideB bd.hints) l 0).getLsbD i)).length) ∧
     Computes (.clz d a n) (fun bd _ _ l =>
       ((List.range (wideB bd.hints)).reverse.takeWhile (fun i => !(bitsOf (wideB bd.hints) l 0).getLsbD i)).length) ∧
     Computes (.ctz d a n) (fun bd _ _ l =>
       ((List.range (wideB bd.hints)).takeWhile (fun i => !(bitsOf (wideB bd.hints) l 0).getLsbD i)).length) ∧
     Computes (.brev d a n) (bitOp fun _ x _ => x.reverse))

/-- R165: the funnel shift, the bit-field instructions and the byte permute. -/
def Obligations.BitFields : Prop :=
  ∀ (d a b : BitVec 7) (n : Bool),
    Computes (.fshf d a b n) (fun bd _ _ l =>
      let x : BitVec 64 := bitsOf 32 l 0 ++ bitsOf 32 l 1
      let m := (bitsOf 32 l 2).toNat % 32
      (if xmodBit bd.hints 0 then (x >>> m).extractLsb' 0 32 else (x <<< m).extractLsb' 32 32).toNat) ∧
    Computes (.bfx d a b n) (fun bd _ _ l =>
      let (p, k) := bitField (bitsOf 32 l 1)
      let f := (bitsOf 32 l 0 >>> p).setWidth k
      (if hTy bd.hints 7 = 3 then f.signExtend 32 else f.setWidth 32).toNat) ∧
    Computes (.bfi d a b n) (wordOp fun x y c =>
      let (p, k) := bitField c
      (x &&& ~~~fieldOnes p k) ||| ((y <<< p) &&& fieldOnes p k)) ∧
    Computes (.bperm d a b n) (wordOp fun x y c =>
      let pool : BitVec 64 := y ++ x
      permByte pool (c.extractLsb' 12 4) ++ permByte pool (c.extractLsb' 8 4) ++
        permByte pool (c.extractLsb' 4 4) ++ permByte pool (c.extractLsb' 0 4))

/-- R169, R170: SEL picks a or b on a predicate, MOV copies, and MOVS reads the special register of its code. -/
def Obligations.Moves : Prop :=
  ∀ (d a b r : BitVec 7) (n : Bool),
    Computes (.sel d a b n) (fun bd s t l =>
      if (s.thread t).pred (hXmod bd.hints % 8) = xmodBit bd.hints 3 then l.getD 1 0 else l.getD 0 0) ∧
    Computes (.mov d a n) (fun _ _ _ l => l.getD 0 0) ∧
    Computes (.movs d r n) (fun _ s t _ => s.specialReg t r.toNat)

/-- R167, R168, R44: ISETP writes the condition of its code to the predicate it names, PLOP an entry of its table; nothing
but that predicate changes. R195, R61: FSETP and DSETP write the condition of their code; an ordered condition is false and
an unordered one true when an operand is a NaN, and −0 equals +0. -/
def Obligations.Predicates : Prop :=
  (∀ (p : BitVec 3) (a b : BitVec 7) (c : BitVec 4) (q r : BitVec 3),
     SetsTo (.isetp p a b c) p.toNat (fun bd _ _ l =>
       intCond c.toNat (intOf bd.hints (wideI bd.hints) l 0) (intOf bd.hints (wideI bd.hints) l 1)) ∧
     SetsTo (.plop p c q r) p.toNat (fun _ s t _ =>
       c.getLsbD ((if (s.thread t).pred q.toNat then 2 else 0) + (if (s.thread t).pred r.toNat then 1 else 0)))) ∧
  (∀ (p : BitVec 3) (a b : BitVec 7) (c : BitVec 4),
     SetsTo (.fsetp p a b c) p.toNat (fun _ _ _ l => floatCond c.toNat ((fmtOf 15).read (l.getD 0 0)) ((fmtOf 15).read (l.getD 1 0)))
       (fun _ _ _ l => sigNan [(fmtOf 15).read (l.getD 0 0), (fmtOf 15).read (l.getD 1 0)]) ∧
     SetsTo (.dsetp p a b c) p.toNat (fun _ _ _ l => floatCond c.toNat ((fmtOf 14).read (l.getD 0 0)) ((fmtOf 14).read (l.getD 1 0)))
       (fun _ _ _ l => sigNan [(fmtOf 14).read (l.getD 0 0), (fmtOf 14).read (l.getD 1 0)]))

/-! ## Floating point -/

/-- R190, R191: FP32 sums, products, fused sums and extrema, delivered with the conditions of R200. R190, R192, R193: the
class of a value, its product by a power of two, and its rounding to an integer. An exponent beyond ±1000 acts as ±1000:
every nonzero FP32 value then overflows, or underflows, alike. -/
def Obligations.FloatArithmetic : Prop :=
  (∀ (d a b : BitVec 7) (n : Bool),
     ComputesF (.fadd d a b n) (fpOp 15 2 fun down x => Machine.Num.add down (x 0) (x 1)) ∧
     ComputesF (.fsub d a b n) (fpOp 15 2 fun down x => Machine.Num.add down (x 0) (x 1).negate) ∧
     ComputesF (.fmul d a b n) (fpOp 15 2 fun _ x => (x 0).mul (x 1)) ∧
     ComputesF (.ffma d a b n) (fpOp 15 3 fun down x => Machine.Num.add down ((x 0).mul (x 1)) (x 2)) ∧
     ComputesF (.fmin d a b n) (fun _ _ _ l => extremum 15 false (l.getD 0 0) (l.getD 1 0)) ∧
     ComputesF (.fmax d a b n) (fun _ _ _ l => extremum 15 true (l.getD 0 0) (l.getD 1 0)) ∧
     ComputesF (.fsqrt d a n) (fun bd _ _ l => sqrtResult (fmtOf 15) (hRound bd.hints) (l.getD 0 0))) ∧
  (∀ (d a b : BitVec 7) (n : Bool),
     ComputesF (.fclass d a n) (fun bd _ _ l => (2 ^ classOf (hTy bd.hints 15) (l.getD 0 0), 0)) ∧
     ComputesF (.fscale d a b n) (fun bd s t l =>
       fpOp 15 1 (fun _ x => (x 0).scale (max (-1000) (min 1000 (bitsOf 32 l 1).toInt))) bd s t l) ∧
     ComputesF (.frnd d a n) (fun bd _ _ l =>
       let f := fmtOf (hTy bd.hints 15)
       match f.read (l.getD 0 0) with
       | .fin s m e => ((deliver f {} false (.fin s (roundInt (hRound bd.hints) 0 s m e).1 1)).1, 0)
       | x => ((deliver f {} false x).1, sigNan [x])))

/-- R189, R190, R191: the packed instructions act on each half, and FDP2 sums two products of halves and an FP32 value in
one exact sum. R190, R191, R196: the FP64 arithmetic, and its reciprocals. -/
def Obligations.PackedAndDoubleArithmetic : Prop :=
  (∀ (d a b : BitVec 7) (n : Bool),
     ComputesF (.hadd2 d a b n) (bothHalves fun bd s t l =>
       fpOp (hTy bd.hints 16) 2 (fun down x => Machine.Num.add down (x 0) (x 1)) bd s t l) ∧
     ComputesF (.hmul2 d a b n) (bothHalves fun bd s t l =>
       fpOp (hTy bd.hints 16) 2 (fun _ x => (x 0).mul (x 1)) bd s t l) ∧
     ComputesF (.hfma2 d a b n) (bothHalves fun bd s t l =>
       fpOp (hTy bd.hints 16) 3 (fun down x => Machine.Num.add down ((x 0).mul (x 1)) (x 2)) bd s t l) ∧
     ComputesF (.hmax2 d a b n) (bothHalves fun bd _ _ l => extremum (hTy bd.hints 16) true (l.getD 0 0) (l.getD 1 0)) ∧
     ComputesF (.fdp2 d a b n) (fun bd s t l =>
       let h := fmtOf (hTy bd.hints 16)
       let x := fun k i => h.read ((bitsOf 32 l k).extractLsb' (16 * i) 16).toNat
       let c := (fmtOf 15).read (l.getD 2 0)
       let down := hRound bd.hints == 2
       arith (fmtOf 15) (s.delivery bd t 0 0) [x 0 0, x 1 0, x 0 1, x 1 1, c]
         (Machine.Num.add down (Machine.Num.add down ((x 0 0).mul (x 1 0)) ((x 0 1).mul (x 1 1))) c)) ∧
     Computes (.dp4a d a b n) (fun bd _ _ l =>
       let byte := fun (uns : Bool) k i =>
         let y := (bitsOf 32 l k).extractLsb' (8 * i) 8
         if uns then (y.toNat : Int) else y.toInt
       let p := fun i => byte (xmodBit bd.hints 0) 0 i * byte (xmodBit bd.hints 1) 1 i
       let x := (bitsOf 32 l 2).toInt + p 0 + p 1 + p 2 + p 3
       (BitVec.ofInt 32 (if hSat bd.hints then max (-(2 ^ 31)) (min (2 ^ 31 - 1) x) else x)).toNat)) ∧
  (∀ (d a b : BitVec 7) (n : Bool),
     ComputesF (.dadd d a b n) (fpOp 14 2 fun down x => Machine.Num.add down (x 0) (x 1)) ∧
     ComputesF (.dmul d a b n) (fpOp 14 2 fun _ x => (x 0).mul (x 1)) ∧
     ComputesF (.dfma d a b n) (fpOp 14 3 fun down x => Machine.Num.add down ((x 0).mul (x 1)) (x 2)) ∧
     ComputesF (.dmin d a b n) (fun _ _ _ l => extremum 14 false (l.getD 0 0) (l.getD 1 0)) ∧
     ComputesF (.dmax d a b n) (fun _ _ _ l => extremum 14 true (l.getD 0 0) (l.getD 1 0)) ∧
     ComputesF (.drcp d a n) (fun _ _ _ l => approx .drcp (l.getD 0 0)) ∧
     ComputesF (.drsq d a n) (fun _ _ _ l => approx .drsq (l.getD 0 0)))

/-- R159, R196: each approximation completes with a function of its operand alone, whatever the free values choose within
the bounds of R158 (log 13); the values that R159's table states are that table's, with IV and DZ alone; every other input
raises nothing; FSIN and FCOS of a finite value beyond 2^20 lie in [−1, 1], and FTANH is odd. -/
def Obligations.Approximations : Prop :=
  (∀ (d a : BitVec 7) (n : Bool),
    ComputesF (.frcp d a n) (fun _ _ _ l => approx .rcp (l.getD 0 0)) ∧
    ComputesF (.frsq d a n) (fun _ _ _ l => approx .rsq (l.getD 0 0)) ∧
    ComputesF (.fex2 d a n) (fun _ _ _ l => approx .ex2 (l.getD 0 0)) ∧
    ComputesF (.flg2 d a n) (fun _ _ _ l => approx .lg2 (l.getD 0 0)) ∧
    ComputesF (.fsin d a n) (fun _ _ _ l => approx .sin (l.getD 0 0)) ∧
    ComputesF (.fcos d a n) (fun _ _ _ l => approx .cos (l.getD 0 0)) ∧
    ComputesF (.ftanh d a n) (fun _ _ _ l => approx .tanh (l.getD 0 0))) ∧
  (∀ fn ∈ [Fn.rcp, .rsq, .ex2, .lg2, .sin, .cos, .tanh], ∀ x,
    (∀ y, approxTable fn ((fmtOf 15).read x) = some y → approx fn x = y) ∧
    (approxTable fn ((fmtOf 15).read x) = none → (approx fn x).2 = 0)) ∧
  (∀ fn ∈ [Fn.sin, .cos], ∀ x s n d, (fmtOf 15).read x = .fin s n d → 2 ^ 20 * d < n → (approx fn x).1 % 2 ^ 31 ≤ 0x3F800000) ∧
  ∀ x, x < 2 ^ 31 → ((fmtOf 15).read x).isNan = false → (approx .tanh (x + 2 ^ 31)).1 = (approx .tanh x).1 + 2 ^ 31

/-- R197, R198, R153, R154: a conversion completes with the exact value of its source, converted once to the type that TYPE
names; R199: FPACK packs two values as elements under a scale, and FPACK.SCALE gives the scale of one. -/
def Obligations.Conversions : Prop :=
  ∀ (d a b : BitVec 7) (n : Bool),
    ComputesF (.f2i d a n) (fun bd _ _ l => intOfFloat (hTy bd.hints 3) (hRound bd.hints) (readFp (srcTy bd.hints 15) (l.getD 0 0))) ∧
    ComputesF (.i2f d a n) (fun bd s t l =>
      let ty := srcTy bd.hints 3
      let x := bitsOf (tyWidth ty) l 0
      convertTo (hTy bd.hints 15) (s.delivery bd t 0 (xorWords (tyWidth ty) (l.getD 0 0)))
        (Machine.Num.ofInt (if tySigned ty then x.toInt else x.toNat))) ∧
    ComputesF (.f2f d a n) (fun bd s t l =>
      let ty := srcTy bd.hints 15
      convertTo (hTy bd.hints 15) (s.delivery bd t 0 (xorWords (tyWidth ty) (l.getD 0 0))) (readFp ty (l.getD 0 0))) ∧
    ComputesF (.d2f d a n) (fun bd s t l =>
      convertTo (hTy bd.hints 15) (s.delivery bd t 0 (xorWords 64 (l.getD 0 0))) ((fmtOf 14).read (l.getD 0 0))) ∧
    ComputesF (.f2d d a n) (fun bd s t l =>
      let ty := srcTy bd.hints 15
      convertTo 14 (s.delivery bd t 0 (xorWords (tyWidth ty) (l.getD 0 0))) (readFp ty (l.getD 0 0))) ∧
    ComputesF (.fpack d a b n) (fun bd s t l =>
      let ty := hType bd.hints
      let val := fun k => (fmtOf 15).read (l.getD k 0)
      if xmodBit bd.hints 0 then blockScale ty (val 0)
      else
        let x := (bitsOf 32 l 0 ^^^ bitsOf 32 l 1 ^^^ bitsOf 32 l 2).toNat
        let lo := packedElement ty (l.getD 2 0 % 256) (s.delivery bd t 0 x) (val 0)
        let hi := packedElement ty (l.getD 2 0 % 256) (s.delivery bd t 1 x) (val 1)
        (hi.1 * 2 ^ tyWidth ty + lo.1, lo.2 ||| hi.2))

/-! ## Uniform instructions and hints -/

/-- R171: the uniform instructions write one k register of each team of the bundle, modulo 2^64, and nothing else. R173:
KFROMV gives each team the operand of its thread in the lowest lane of the bundle, zero-extended under .N32, sign-extended
under .I32, whole under .B64. -/
def Obligations.UniformInstructions : Prop :=
  (∀ (d a b j : BitVec 7),
     Uniform (.kmov d a) d.toNat (fun bd m => kSource bd.hints m a) ∧
     Uniform (.kadd d a b) d.toNat (fun bd m => kSource bd.hints m a + kSource bd.hints m b) ∧
     Uniform (.kaddi d a j) d.toNat (fun bd m => kSource bd.hints m a + BitVec.ofNat 64 (immField bd.hints 7 j.toNat)) ∧
     Uniform (.kshl d a b) d.toNat (fun bd m =>
       if 64 ≤ (kSource bd.hints m b).toNat then 0 else kSource bd.hints m a <<< (kSource bd.hints m b).toNat) ∧
     Uniform (.kand d a b) d.toNat (fun bd m => kSource bd.hints m a &&& kSource bd.hints m b)) ∧
  (∀ (d a : BitVec 7) (s : State) (b : Bundle) (rest : List Bundle), s.Executes b rest (.kfromv d a) →
     ∃ t, exec (.kfromv d a) s = .next t ∧ ∀ v : Nat → DWord,
       (∀ u ∈ b.threads, (∀ w ∈ b.threads, s.teamOf w = s.teamOf u → laneOf u ≤ laneOf w) →
         v (s.teamOf u) = (let x := (s.operands b.hints u (formOf b.hints (.kfromv d a))).getD 0 0
           if hTy b.hints 7 = 3 then (BitVec.ofNat 32 x).signExtend 64 else BitVec.ofNat 64 x)) →
       s.SetsUniform b rest (.kfromv d a) d.toNat v t)

/-- R47, R48, R49, R51, R54: a hint word leaves its payload in the run of the bundle, which comes to the next word; one that
stands after a hint of a later kind, or is one too many of its kind, marks the run, which then traps (R58). -/
def Obligations.HintWords : Prop :=
  (∀ x : BitVec 24, Hinted (.ximm x) (fun h =>
    if h.x2.isSome then { h with bad := true }
    else if h.x1.isSome then { h with x2 := some x } else { h with x1 := some x })) ∧
  (∀ (g : BitVec 3) (sn : Bool) (r : BitVec 3) (sa st : Bool) (c : BitVec 3) (k : BitVec 2) (y x : BitVec 5),
    Hinted (.mod g sn r sa st c k y x) (fun h =>
      if h.mod.isSome || h.src.isSome || h.x1.isSome then { h with bad := true }
      else { h with mod := some (g ++ BitVec.ofBool sn ++ r ++ BitVec.ofBool sa ++ BitVec.ofBool st ++ c ++ k ++ y ++ x) })) ∧
  (∀ (v : Bool) (c : BitVec 7) (kv : Bool) (q : BitVec 6), Hinted (.src v c kv q) (fun h =>
    if h.src.isSome || h.x1.isSome then { h with bad := true }
    else { h with src := some (BitVec.ofBool v ++ c ++ BitVec.ofBool kv ++ q ++ 0#9) })) ∧
  (∀ (n : BitVec 4) (y : Bool), Hinted (.sched n y) (fun h =>
    if h.sched.isSome || h.mod.isSome || h.src.isSome || h.x1.isSome then { h with bad := true }
    else { h with sched := some (n ++ BitVec.ofBool y ++ 0#19) }))

/-! ## Branches, calls and exits -/

/-- R55: BRA moves the threads that take it to A + 4 × SExt(offset21); the others stand at the next word. Only the threads
and the lines asked for have changed. -/
def Obligations.Branch : Prop :=
  ∀ (p : BitVec 3) (sense hint : Bool) (o : BitVec 21) (s : State) (b : Bundle) (rest : List Bundle),
    s.Executes b rest (.bra p sense hint o) →
    ∃ t, exec (.bra p sense hint o) s = .next t ∧ s.Branches b rest (.bra p sense hint o) t ∧ t.teams = s.teams ∧
      ∀ u ∈ b.threads, t.thread u =
        if (s.thread u).pred p.toNat ≠ sense then ((s.thread u).issued s b (.bra p sense hint o)).moved (branchTarget b o)
        else (s.thread u).issued s b (.bra p sense hint o)

/-- R129: BRA.D first updates its team's reconvergence stack, thread by thread: it pushes an entry with PENDING 1, counts in
the entry above the thread, or joins nothing; then it branches as BRA. -/
def Obligations.BranchDiverging : Prop :=
  ∀ (p : BitVec 3) (sense hint : Bool) (o : BitVec 21) (s : State) (b : Bundle) (rest : List Bundle),
    s.Executes b rest (.braD p sense hint o) →
    ∃ t, exec (.braD p sense hint o) s = .next t ∧ s.Branches b rest (.braD p sense hint o) t ∧
      (∀ k, t.team k = { s.team k with rstack := s.diverged b b.threads k }) ∧
      ∀ ts u us, b.threads = ts ++ u :: us → t.thread u =
        { (if (s.thread u).pred p.toNat ≠ sense then ((s.thread u).issued s b (.braD p sense hint o)).moved (branchTarget b o)
            else (s.thread u).issued s b (.braD p sense hint o)) with
          depth := (diverge (s.joinOffset b (s.teamOf u)) (s.diverged b ts (s.teamOf u)) (s.thread u).depth).2 }

/-- R130, R178: a JOIN has no effect on threads that stand in no entry of its address; a counted thread whose entry has
other members pending waits there, and the entry counts one less. -/
def Obligations.Join : Prop :=
  ∀ (s : State) (b : Bundle) (rest : List Bundle), s.Executes b rest .join →
    ((∀ u ∈ b.threads, ¬s.atJoin u b.pc) → ∃ t, exec .join s = .next t ∧ s.Steers b rest .join (fun _ x => x) t) ∧
    (∀ u e, b.threads = [u] → s.atJoin u b.pc → 0 < (s.thread u).depth →
      (s.team (s.teamOf u)).rstack.getLast? = some e → 2 ≤ e.pending →
      ∃ t, exec .join s = .next t ∧
        t = { s with issue := rest, held := s.heldAfter b .join, threads := t.threads, teams := t.teams } ∧
        t.thread u = { ((s.thread u).issued s b .join).moved b.pc with tstate := .wait, waitFor := .join, armedAt := s.wall } ∧
        (∀ w, w ≠ u → t.thread w = s.thread w) ∧
        t.team (s.teamOf u) = { s.team (s.teamOf u) with
          rstack := (s.team (s.teamOf u)).rstack.dropLast ++
            [{ e with pending := e.pending - 1, since := some (e.since.getD s.clk) }] } ∧
        ∀ k, k ≠ s.teamOf u → t.team k = s.team k)

/-- R176, R177: CALL, RET and BRX move each thread to its own target, a multiple of 4 within the address space; CALL writes
the address of the next word to its destination first. -/
def Obligations.IndirectBranches : Prop :=
  ∀ (d a : BitVec 7) (n : Bool),
    (∀ i, i = .ret a ∨ i = .brx a → ∀ (s : State) (b : Bundle) (rest : List Bundle), s.Executes b rest i →
      (∀ u ∈ b.threads, (s.operands b.hints u (formOf b.hints i)).getD 0 0 % 4 = 0 ∧
        (s.operands b.hints u (formOf b.hints i)).getD 0 0 < 2 ^ 57) →
      ∃ t, exec i s = .next t ∧ s.Steers b rest i (fun u x =>
        x.moved (BitVec.ofNat 57 ((s.operands b.hints u (formOf b.hints i)).getD 0 0))) t) ∧
    (∀ (s : State) (b : Bundle) (rest : List Bundle) (tgt : Nat → Nat), s.Executes b rest (.call d a n) →
      s.Room b (formOf b.hints (.call d a n)) →
      (∀ u ∈ b.threads, tgt u = (let v := (s.operands b.hints u (formOf b.hints (.call d a n))).getD 0 0
        if xmodBit b.hints 0 then (b.pc.toNat + 4 * v) % 2 ^ 64 else v) ∧ tgt u % 4 = 0 ∧ tgt u < 2 ^ 57) →
      ∃ t t', exec (.call d a n) s = .next t ∧
        s.Delivers b rest (.call d a n) (fun _ => (b.pc + 4).toNat) (fun _ => 0) t' ∧
        t = { t' with threads := t.threads } ∧
        (∀ u ∈ b.threads, t.thread u = (t'.thread u).moved (BitVec.ofNat 57 (tgt u))) ∧
        ∀ u, u ∉ b.threads → t.thread u = s.thread u)

/-- R179: the threads that execute EXIT have exited: they are in no entry, set or sequence; every other thread, the
registers and memory stand as they were. Stated where each of their groups keeps another thread and nothing waits for them
to leave. R140: a thread that executes EXIT.H becomes a helper and goes on at the next word, where its group keeps a thread
that is none. -/
def Obligations.Exit : Prop :=
  (∀ (s : State) (b : Bundle) (rest : List Bundle), s.Executes b rest .exit → s.LeavesAlone b →
     (∀ u ∈ b.threads, s.isSup u = false) →
     ∃ t, exec .exit s = .next t ∧
       (∀ u ∈ b.threads, t.thread u =
         { (s.thread u).issued s b .exit with tstate := .exited, waitFor := .nothing, waitDst := 126, xop := none, inSet := none, depth := 0 }) ∧
       (∀ u, u ∉ b.threads → t.thread u = s.thread u) ∧
       t.mem = s.mem ∧ t.lines = s.lines ∧ t.issue = rest ∧ t.launches = s.launches ∧ t.ctxs = s.ctxs ∧ t.cores = s.cores) ∧
  (∀ (s : State) (b : Bundle) (rest : List Bundle), s.Executes b rest .exitH → s.NoHelper b → s.LeavesAlone b →
     (∀ u ∈ b.threads, s.isSup u = false) →
     ∃ t, exec .exitH s = .next t ∧ s.Steers b rest .exitH (fun _ x => { x with helper := true }) t)

/-- R180: a user thread that executes YIELD ranks last, and is not ready for min(d, 65,535) clk, its TSTATE WAIT from 64 clk
on. -/
def Obligations.Yield : Prop :=
  ∀ (a : BitVec 7) (s : State) (b : Bundle) (rest : List Bundle), s.Executes b rest (.yield a) →
    (∀ u ∈ b.threads, s.isSup u = false) →
    ∃ t, exec (.yield a) s = .next t ∧ s.Steers b rest (.yield a) (fun u x =>
      let d := min ((s.operands b.hints u (formOf b.hints (.yield a))).getD 0 0) 65535
      if d = 0 then { x with yields := true }
      else { x with yields := true, waitFor := .yieldDelay (s.clk + d), tstate := if d < 64 then x.tstate else .wait }) t

/-- R181: NOP is the word 0xD400_0005, and it changes no state: the threads go on at the next word. -/
def Obligations.NopChangesNothing : Prop :=
  decode Hints.none 0xD4000005#32 = .ok .nop ∧
  ∀ (s : State) (b : Bundle) (rest : List Bundle), s.Executes b rest .nop →
    ∃ t, exec .nop s = .next t ∧ s.Steers b rest .nop (fun _ x => x) t

/-! ## Memory instructions at issue -/

/-- R136, R228, R229: a load, prefetch or maintenance instruction leaves its threads under fetch suspension, each lane with
the address of the WM form; no register and no byte of memory changes yet. R136, R228, R233: a store does the same with the
data that its lanes hold at issue; no byte of memory changes yet. R136, R293, R294: an atomic does the same with its offset,
scaled by its element, and its operands. -/
def Obligations.MemoryAtIssue : Prop :=
  (∀ (d : BitVec 7) (k kd : BitVec 6) (o : BitVec 7) (j : BitVec 6),
     Checks (.ld d k o j) (fun b s u => laneAt u (s.wmForm b u (xmodBit b.hints 0) k o j (elemBytes b))) ∧
     Checks (.lds d k o j) (fun b s u => laneAt u (s.wmForm b u false k o j (elemBytes b))) ∧
     Checks (.ldk kd k j) (fun b s u => laneAt u (s.kreg u k.toNat + BitVec.ofNat 64 (immField b.hints 6 j.toNat))) ∧
     Checks (.pref k o j) (fun b s u => laneAt u (s.wmForm b u false k o j 1)) ∧
     Checks (.cflush k o j) (fun b s u => laneAt u (s.wmForm b u false k o j 1)) ∧
     Checks (.cinv k o j) (fun b s u => laneAt u (s.wmForm b u false k o j 1)) ∧
     Checks (.persist k o j) (fun b s u => laneAt u (s.wmForm b u false k o j 1))) ∧
  (∀ (d : BitVec 7) (k : BitVec 6) (o : BitVec 7) (j : BitVec 6),
     Checks (.st d k o j) (fun b s u => s.storeForm b u (xmodBit b.hints 0) d k o j) ∧
     Checks (.sts d k o j) (fun b s u => s.storeForm b u false d k o j)) ∧
  (∀ (d a b : BitVec 7) (o : BitVec 4),
     Checks (.atom d a b o) (fun bd s u => s.atomForm bd (.atom d a b o) u) ∧
     Checks (.red a b o) (fun bd s u => s.atomForm bd (.red a b o) u) ∧
     Checks (.atoms d a b o) (fun bd s u => s.atomForm bd (.atoms d a b o) u) ∧
     Checks (.reds a b o) (fun bd s u => s.atomForm bd (.reds a b o) u) ∧
     Checks (.atomcas d a b) (fun bd s u => s.atomForm bd (.atomcas d a b) u) ∧
     Checks (.atomscas d a b) (fun bd s u => s.atomForm bd (.atomscas d a b) u))

/-- R136, R287, R288, R306, R317: so do the instructions on synchronisation objects and monitors, whose element is 8 bytes,
or for WAITC that of its type. R136, R267: so do the transaction-barrier instructions, whose address is their first operand. -/
def Obligations.SynchronisationAtIssue : Prop :=
  (∀ (d a b : BitVec 7) (n : Bool),
     Checks (.bind d a b n) (fun bd s u => let i := Instr.bind d a b n
       laneWith u (s.kForm bd i u false 8) (s.opnd bd i u 1) (s.opnd bd i u 2)) ∧
     Checks (.unbind d a b n) (fun bd s u => let i := Instr.unbind d a b n
       laneWith u (s.kForm bd i u false 8) (s.opnd bd i u 1) (s.opnd bd i u 2)) ∧
     Checks (.acq d a n) (fun bd s u => let i := Instr.acq d a n
       laneWith u (s.kForm bd i u false 8) (s.opnd bd i u 1) (s.opnd bd i u 2)) ∧
     Checks (.rel a b) (fun bd s u => let i := Instr.rel a b
       laneWith u (s.kForm bd i u false 8) (s.opnd bd i u 1) (s.opnd bd i u 2)) ∧
     Checks (.waitc d a b n) (fun bd s u => let i := Instr.waitc d a b n
       laneWith u (s.kForm bd i u (bd.hints.xmod.getLsbD 4) (elemBytes bd)) (s.opnd bd i u 1) 0) ∧
     Checks (.wdecl d a b n) (fun bd s u => let i := Instr.wdecl d a b n
       laneWith u (s.kForm bd i u (bd.hints.xmod.getLsbD 2) 8) (s.opnd bd i u 1) 0)) ∧
  (∀ (d a b : BitVec 7) (n : Bool),
     Checks (.tbarInit a b) (fun bd s u => let i := Instr.tbarInit a b
       laneWith u (BitVec.ofNat 64 (s.opnd bd i u 0)) (s.opnd bd i u 1) 0) ∧
     Checks (.tbarExp a b) (fun bd s u => let i := Instr.tbarExp a b
       laneWith u (BitVec.ofNat 64 (s.opnd bd i u 0)) (s.opnd bd i u 1) 0) ∧
     Checks (.tbarAck a) (fun bd s u => let i := Instr.tbarAck a
       laneWith u (BitVec.ofNat 64 (s.opnd bd i u 0)) (s.opnd bd i u 1) 0) ∧
     Checks (.tbarWait d a b n) (fun bd s u => let i := Instr.tbarWait d a b n
       laneWith u (BitVec.ofNat 64 (s.opnd bd i u 0)) (s.opnd bd i u 1) 0))

/-- R136, R330: so do the matrix instructions: TCFG, MMA and TACT with the address of their block, TZERO with its tile, TLD
and TST with tile and element, TST with its word beside it, TWAIT with its ticket. R136, R385, R404, R433, R434, R437: so do
the instructions that hand an address to a unit of the device; SENDAM remembers which registers hold its payload. -/
def Obligations.EnginesAtIssue : Prop :=
  (∀ (d a b : BitVec 7) (n : Bool),
     Checks (.tcfg d a n) (fun bd s u => laneAt u (BitVec.ofNat 64 (s.opnd bd (.tcfg d a n) u 0))) ∧
     Checks (.mma d a n) (fun bd s u => laneAt u (BitVec.ofNat 64 (s.opnd bd (.mma d a n) u 0))) ∧
     Checks (.tact d a n) (fun bd s u => laneAt u (BitVec.ofNat 64 (s.opnd bd (.tact d a n) u 0))) ∧
     Checks (.tzero d a n) (fun bd s u => laneWith u 0 (s.opnd bd (.tzero d a n) u 0) 0) ∧
     Checks (.tld d a b n) (fun bd s u => let i := Instr.tld d a b n
       laneWith u 0 (s.opnd bd i u 0) (s.opnd bd i u 1)) ∧
     Checks (.tst a b) (fun bd s u => let i := Instr.tst a b
       laneWith u 0 (s.opnd bd i u 0) (s.opnd bd i u 1 + s.opnd bd i u 2 * 2 ^ 32)) ∧
     Checks (.twait d a n) (fun bd s u => laneWith u 0 (s.opnd bd (.twait d a n) u 0) 0)) ∧
  (∀ (d a b : BitVec 7) (n : Bool),
     Checks (.rccfgLoad d a n) (fun bd s u => laneAt u (BitVec.ofNat 64 (s.opnd bd (.rccfgLoad d a n) u 0))) ∧
     Checks (.rccfgSave d a n) (fun bd s u => laneAt u (BitVec.ofNat 64 (s.opnd bd (.rccfgSave d a n) u 0))) ∧
     Checks (.csload d a n) (fun bd s u => laneAt u (BitVec.ofNat 64 (s.opnd bd (.csload d a n) u 0))) ∧
     Checks (.launch d a n) (fun bd s u => laneAt u (BitVec.ofNat 64 (s.opnd bd (.launch d a n) u 0))) ∧
     Checks (.rplrun d a n) (fun bd s u => laneAt u (BitVec.ofNat 64 (s.opnd bd (.rplrun d a n) u 0))) ∧
     Checks (.sendam d a b n) (fun bd s u => laneWith u (BitVec.ofNat 64 (s.opnd bd (.sendam d a b n) u 0)) b.toNat 0))

/-- R141: in helper threads the instructions that write memory, matrix state or a launch queue do nothing but write zero to
their destination. -/
def Obligations.SuppressedInHelpers : Prop :=
  ∀ (d a b o : BitVec 7) (k j : BitVec 6) (op : BitVec 4) (n : Bool),
    SuppressedIn (.st d k o j) ∧ SuppressedIn (.sts d k o j) ∧ SuppressedIn (.persist k o j) ∧
    SuppressedIn (.atom d a b op) ∧ SuppressedIn (.red a b op) ∧ SuppressedIn (.atoms d a b op) ∧
    SuppressedIn (.reds a b op) ∧ SuppressedIn (.atomcas d a b) ∧ SuppressedIn (.atomscas d a b) ∧
    SuppressedIn (.tcfg d a n) ∧ SuppressedIn (.tzero d a n) ∧ SuppressedIn (.tld d a b n) ∧ SuppressedIn (.tst a b) ∧
    SuppressedIn (.mma d a n) ∧ SuppressedIn (.tact d a n) ∧ SuppressedIn (.launch d a n) ∧ SuppressedIn (.sendam d a b n) ∧
    SuppressedIn (.trace d a) ∧ SuppressedIn (.beam d a n) ∧ SuppressedIn (.cov d a n)

/-! ## Fences and barriers -/

/-- R289: FENCE holds back the threads that have accesses in flight of the kinds it orders, and lets the others go on. At
its scope, .FULL and .REL then publish every older copy that another cluster holds, and .FULL and .ACQ end those copies of
its own cluster that agents within the scope have published, .FULL also those that they have written past (R273, R276; log
20). -/
def Obligations.Fence : Prop :=
  ∀ (s : State) (b : Bundle) (rest : List Bundle), s.Executes b rest .fence →
    let kind := hXmod b.hints
    let near := fun (c : Nat) => s.inScope (hScopeOr b.hints) b.core c = true
    ∃ t, exec .fence s = .next t ∧
      t = { s with issue := rest, held := s.heldAfter b .fence, threads := t.threads, stale := t.stale } ∧
      (∀ u ∈ b.threads, s.inFlight u kind →
        t.thread u = { ((s.thread u).issued s b .fence).moved b.runPc with waitFor := .fence }) ∧
      (∀ u ∈ b.threads, ¬s.inFlight u kind → t.thread u = (s.thread u).issued s b .fence) ∧
      (∀ u, u ∉ b.threads → t.thread u = s.thread u) ∧
      (∀ x ∈ t.stale, ∃ y ∈ s.stale, x = { y with pubs := x.pubs } ∧ ∀ c ∈ x.pubs, c ∈ y.pubs ∨ c = b.core) ∧
      ((∃ u ∈ b.threads, ¬s.inFlight u kind) → ∀ x ∈ t.stale,
        (kind ≠ 1 → near x.core → b.core ∈ x.pubs) ∧
        (s.sameL1 b.core x.core = true → (kind ≠ 2 → ∀ c ∈ x.pubs, ¬near c) ∧ (kind = 0 → ∀ c ∈ x.by_, ¬near c)))

/-- R312: a count above 1,024 makes no arrival and writes 3. An arrival that is not the last of its phase waits, and the
barrier counts one more; the last one ends the phase, and its thread goes on with 0. R313: CBAR.ARV gives each thread its
arrival count and raises it, here where the phase does not complete. CBAR.WAIT gives 3 to a thread that has not arrived at
its phase, 0 to one whose phase is complete, and makes any other wait. -/
def Obligations.TeamAndClusterBarriers : Prop :=
  (∀ (d a : BitVec 7) (n : Bool) (s : State) (b : Bundle) (rest : List Bundle),
     s.Executes b rest (.bar d a n) → (∀ u ∈ b.threads, ¬s.inFlight u 0) →
     (s.Room b (formOf b.hints (.bar d a n)) → (∀ u ∈ b.threads, 1024 < s.opnd b (.bar d a n) u 0) →
       ∃ t, exec (.bar d a n) s = .next t ∧ s.Delivers b rest (.bar d a n) (fun _ => 3) (fun _ => 0) t) ∧
     (∀ u, b.threads = [u] → s.opnd b (.bar d a n) u 0 ≤ 1024 →
       let k := s.teamOf u
       let j := hXmod b.hints
       let x := (s.team k).bar j
       let count := if x.phaseOpen then x.n else s.opnd b (.bar d a n) u 0
       let want := if count = 0 then ((s.threadsOf k).filter s.alive).length else count
       s.alive u = true →
       (x.phaseOpen = true → x.n = s.opnd b (.bar d a n) u 0) →
       (x.arr + 1 < want →
         ∃ t, exec (.bar d a n) s = .next t ∧
           t.thread u = { (s.thread u).issued s b (.bar d a n) with tstate := .wait, waitFor := .bar j, armedAt := s.wall, waitDst := d } ∧
           (∀ w, w ≠ u → t.thread w = s.thread w) ∧
           (t.team k).bar j = { n := count, arr := x.arr + 1, phaseOpen := true } ∧
           t.mem = s.mem ∧ t.lines = s.lines ∧ t.ctxs = s.ctxs ∧ t.launches = s.launches ∧ t.issue = rest) ∧
       (want ≤ x.arr + 1 → u ∈ s.threadsOf k → (∀ w, w ≠ u → (s.thread w).waitFor ≠ .bar j) →
         s.Room b (formOf b.hints (.bar d a n)) →
         ∃ t, exec (.bar d a n) s = .next t ∧
           t.thread u = { (s.thread u).issued s b (.bar d a n) with tstate := .run, waitFor := .nothing, armedAt := s.wall, waitDst := 126 } ∧
           (∀ w, w ≠ u → t.thread w = s.thread w) ∧
           ((t.team k).bar j).arr = 0 ∧ ((t.team k).bar j).phaseOpen = false ∧
           (d.toNat < 120 → t.readReg u d.toNat = 0) ∧ t.ctxs = s.ctxs ∧ t.launches = s.launches ∧ t.issue = rest))) ∧
  (∀ (d a : BitVec 7) (n : Bool) (s : State) (b : Bundle) (rest : List Bundle),
     (s.Executes b rest (.cbarArv d n) → s.Room b (formOf b.hints (.cbarArv d n)) → (∀ u ∈ b.threads, ¬s.inFlight u 0) →
       (∀ u ∈ b.threads, ∀ c, s.clusters.find (s.team (s.teamOf u)).cluster = some c →
         ∃ m ∈ c.members, m.exited = false ∧ m.savedTeam = none ∧ ∃ w ∈ s.threadsOf (teamKey m.core m.entry),
           s.alive w = true ∧ w ∉ b.threads ∧ Sys2Proof.Machine.ahead ((s.thread w).mt - c.phases) = false) →
       ∃ t t', exec (.cbarArv d n) s = .next t ∧
         s.Delivers b rest (.cbarArv d n) (fun u => (s.thread u).mt.toNat) (fun _ => 0) t' ∧
         t = { t' with threads := t.threads } ∧
         (∀ u ∈ b.threads, t.thread u = { t'.thread u with mt := (s.thread u).mt + 1 }) ∧
         ∀ u, u ∉ b.threads → t.thread u = s.thread u) ∧
     (s.Executes b rest (.cbarWait d a n) →
       let v := fun u => BitVec.ofNat 32 (s.opnd b (.cbarWait d a n) u 0)
       let early := fun u => Sys2Proof.Machine.ahead ((s.thread u).mt - v u) = false
       let done := fun u => Sys2Proof.Machine.ahead (s.phasesOf (s.team (s.teamOf u)).cluster - v u) = true
       (s.Room b (formOf b.hints (.cbarWait d a n)) →
         ∀ r : Nat → Nat, (∀ u ∈ b.threads, (early u ∧ r u = 3) ∨ (¬early u ∧ done u ∧ r u = 0)) →
         ∃ t, exec (.cbarWait d a n) s = .next t ∧ s.Delivers b rest (.cbarWait d a n) r (fun _ => 0) t) ∧
       (∀ u, b.threads = [u] → ¬early u → ¬done u →
         ∃ t, exec (.cbarWait d a n) s = .next t ∧
           t.thread u = { (s.thread u).issued s b (.cbarWait d a n) with tstate := .wait, waitFor := .cbar (v u), armedAt := s.wall, waitDst := d } ∧
           (∀ w, w ≠ u → t.thread w = s.thread w) ∧ t.mem = s.mem ∧ t.lines = s.lines ∧ t.teams = s.teams ∧ t.ctxs = s.ctxs)))

/-! ## Group-wide instructions and copies -/

/-- R183, R184, R185, R187: what each member of a complete meeting receives from VOTE, MATCH, SHFL and ELECT. R157, R186:
GRED gives every member the root of the tree over the lanes' values, whatever order they come in. -/
def Obligations.GroupWide : Prop :=
  (∀ (d a b : BitVec 7) (inv : Bool) (p : BitVec 3) (n : Bool),
     Meets (.vote d a inv p n) (fun bd s _ _ _ =>
       let yes := fun u => (s.thread u).pred p.toNat != inv
       match hXmod bd.hints with
       | 0 => (laneMask (bd.threads.filter yes)).toNat
       | 1 => if bd.threads.any yes then 1 else 0
       | 2 => if bd.threads.all yes then 1 else 0
       | _ => if bd.threads.all yes || !bd.threads.any yes then 1 else 0) ∧
     Meets (.matchVal d a b n) (fun bd s _ m u =>
       let same := fun w => s.opnd bd (.matchVal d a b n) w 1 == s.opnd bd (.matchVal d a b n) u 1
       if xmodBit bd.hints 0 then (if bd.threads.all same then m.toNat else 0) else (laneMask (bd.threads.filter same)).toNat) ∧
     Meets (.shfl d a b n) (fun bd s g _ u =>
       let val := fun w => s.opnd bd (.shfl d a b n) w 1
       let sel := s.opnd bd (.shfl d a b n) u 2
       let l := laneOf u
       let from_ : Option Nat := match hXmod bd.hints with
         | 0 => some (sel % 32)
         | 1 => if sel ≤ l then some (l - sel) else none
         | 2 => if l + sel ≤ 31 then some (l + sel) else none
         | _ => some (l ^^^ (sel % 32))
       match from_ with
       | some x => if threadKey g x ∈ bd.threads then val (threadKey g x) else val u
       | none => val u) ∧
     Meets (.elect d a n) (fun bd s g _ _ =>
       match (List.range 32).find? (fun l => decide (threadKey g l ∈ bd.threads) && !(s.thread (threadKey g l)).helper) with
       | some l => 2 ^ l
       | none => 0)) ∧
  (∀ (d a b : BitVec 7) (n : Bool),
     let val := fun (bd : Bundle) (s : State) (g l : Nat) =>
       if threadKey g l ∈ bd.threads then some (s.opnd bd (.gred d a b n) (threadKey g l) 1) else none
     let ty := fun (bd : Bundle) => hTy bd.hints (if hXmod bd.hints ≤ 2 then 3 else 11)
     let root := fun (bd : Bundle) (s : State) (g : Nat) =>
       laneTree (gredNode (hXmod bd.hints) (ty bd)) (val bd s g) 5 0
     Meets (.gred d a b n) (fun bd s g _ _ => (root bd s g).1.getD 0)
       (fun bd s g => (root bd s g).2 |||
         (if (hXmod bd.hints = 1 ∨ hXmod bd.hints = 2) ∧ 14 ≤ ty bd then
           sigNan (bd.threads.map (fun u => (fmtOf (ty bd)).read (s.opnd bd (.gred d a b n) u 1))) else 0)))

/-- R247, R248, R249: when all threads of a group have arrived at a copy instruction, its slice is formed from the operands
of the lowest lane, and they go on: here as the first slice of a new copy of the team. -/
def Obligations.CopySlices : Prop :=
  ∀ (a b : BitVec 7),
    Contributes (.cpy a b) 0 3 ∧ Contributes (.cpyg a b) 1 5 ∧ Contributes (.cpys a b) 2 5 ∧ Contributes (.cpym a b) 3 4

/-! ## Walks, textures, geometry and the radiance cache -/

/-- R351, R359, R360, R363: TRACE begins a walk from the scene that k[KSEL] names, with its ray as the registers hold it;
BEAM and COV begin theirs from the block their operand names. R364, R374: a texture instruction of a team's threads leaves
them under fetch suspension with the descriptor that their team's k[KSEL] names. -/
def Obligations.WalksAndTexturesAtIssue : Prop :=
  (∀ (d a : BitVec 7) (n : Bool),
     Walks (.trace d a) (fun b s u =>
       (laneAt u (s.kreg u (hKsel b.hints)), Walk.start (some ((List.range 6).map (fun j =>
         BitVec.ofNat 64 (s.opnd b (.trace d a) u 0 >>> (64 * j))))))) ∧
     Walks (.beam d a n) (fun b s u => (laneAt u (BitVec.ofNat 64 (s.opnd b (.beam d a n) u 0)), Walk.start none)) ∧
     Walks (.cov d a n) (fun b s u => (laneAt u (BitVec.ofNat 64 (s.opnd b (.cov d a n) u 0)), Walk.start none))) ∧
  (∀ (d a b : BitVec 7),
     ChecksTeam (.tex d a b) (fun bd s u => laneAt u (s.kreg u (hKsel bd.hints))) ∧
     ChecksTeam (.texg d a b) (fun bd s u => laneAt u (s.kreg u (hKsel bd.hints))) ∧
     ChecksTeam (.texq d a b) (fun bd s u => laneAt u (s.kreg u (hKsel bd.hints))))

/-- R362: BXU takes the smaller low and the larger high corner of two boxes, axis by axis, under the order of FMIN and FMAX;
BSAH scales half the surface of a box; NPACK.FRAME gives an exponent per axis, and NPACK quantises a box against a frame. -/
def Obligations.BuildHelpers : Prop :=
  ∀ (d a b : BitVec 7),
    Computes (.bxu d a b) (fun bd _ _ l =>
      let x := fun j => (BitVec.ofNat 192 (l.getD 0 0)).extractLsb' (32 * j) 32
      let y := fun j => (BitVec.ofNat 192 (l.getD 1 0)).extractLsb' (32 * j) 32
      let hi := fun j => if xmodBit bd.hints 0 then y j else y (3 + j)
      ((List.range 3).map (fun j => (extremum 15 false (x j).toNat (y j).toNat).1 * 2 ^ (32 * j))).sum +
        ((List.range 3).map (fun j => (extremum 15 true (x (3 + j)).toNat (hi j).toNat).1 * 2 ^ (32 * (3 + j)))).sum) ∧
    Computes (.bsah d a b) (fun _ _ _ l =>
      let w := fun j => boxWidth (l.getD 0 0) j
      (deliver (fmtOf 15) {} false ((Machine.Num.add false (Machine.Num.add false ((w 0).mul (w 1)) ((w 1).mul (w 2)))
        ((w 2).mul (w 0))).mul (Machine.Num.ofInt (l.getD 1 0)))).1) ∧
    Computes (.npack d a b) (fun bd _ _ l =>
      let x := l.getD 0 0
      if xmodBit bd.hints 0 then
        ((List.range 3).map (fun j => (BitVec.ofInt 8 (frameExp (compVal x j) (compVal x (3 + j)))).toNat * 2 ^ (8 * j))).sum
      else npack x (l.getD 1 0))

/-- R384: QRC by a context that does not own the cache gives zeros and 0xFFFF_FFFF; by its owner the network's value of the
inputs under the generation of the thread's die, and its number. A sample of .QT joins the ring that has room. R386, R387:
RCGEN by a context that does not own the cache gives 0xFFFF_FFFF and 0; RCGEN.STAT gives the generation of the die and the
samples appended; RCGEN makes its thread wait for the commit it joins. RCCFG.RELEASE ends the ownership. -/
def Obligations.Radiance : Prop :=
  (∀ (d a : BitVec 7) (s : State) (b : Bundle) (rest : List Bundle), s.Executes b rest (.qrc d a) →
     s.Room b (formOf b.hints (.qrc d a)) →
     ((∀ u ∈ b.threads, s.marl.owner ≠ some (s.ctxOf u)) →
       ∃ t, exec (.qrc d a) s = .next t ∧ s.Delivers b rest (.qrc d a) (fun _ => 0xFFFFFFFF * 2 ^ 96) (fun _ => 0) t) ∧
     (∀ cfg, s.marl.cfg = some cfg → (∀ u ∈ b.threads, s.marl.owner = some (s.ctxOf u)) → s.poison = [] →
       let die := s.marl.die (dieOf b.core)
       let ins := fun u => (List.range 10).map (comp (s.opnd b (.qrc d a) u 0))
       let out := fun u => match rcInputs (ins u) with
         | some xs => rcEval cfg (gOf die) xs
         | none => [0, 0, 0]
       let res := fun u => joinWords (out u ++ [die.gen.toNat])
       (xmodBit b.hints 0 = false →
         ∃ t, exec (.qrc d a) s = .next t ∧ s.Delivers b rest (.qrc d a) res (fun _ => 0) t) ∧
       (∀ u xs, b.threads = [u] → xmodBit b.hints 0 = true → (s.thread u).helper = false → rcInputs (ins u) = some xs →
         let target := (List.range 3).map (comp (s.opnd b (.qrc d a) u 1))
         (∀ x ∈ target, ((fmtOf 15).read x).isFin = true) → die.ring.length < 2 ^ cfg.ringLog2 →
         ∃ t t', exec (.qrc d a) s = .next t ∧ s.Delivers b rest (.qrc d a) res (fun _ => 0) t' ∧
           t = { t' with marl := t.marl } ∧
           t.marl.die (dieOf b.core) = { die with ring := die.ring ++ [(ins u ++ target).map (BitVec.ofNat 32)],
                                                  appended := die.appended + 1 } ∧
           t.marl.die (1 - dieOf b.core) = s.marl.die (1 - dieOf b.core) ∧ t.marl.owner = s.marl.owner))) ∧
  (∀ (d a : BitVec 7) (n : Bool) (s : State) (b : Bundle) (rest : List Bundle),
     (s.Executes b rest (.rcgen d n) → s.Room b (formOf b.hints (.rcgen d n)) →
       ((∀ u ∈ b.threads, s.marl.owner ≠ some (s.ctxOf u)) →
         ∃ t, exec (.rcgen d n) s = .next t ∧ s.Delivers b rest (.rcgen d n) (fun _ => 0xFFFFFFFF) (fun _ => 0) t) ∧
       ((∀ u ∈ b.threads, s.marl.owner = some (s.ctxOf u)) → xmodBit b.hints 0 = true →
         let die := s.marl.die (dieOf b.core)
         ∃ t, exec (.rcgen d n) s = .next t ∧
           s.Delivers b rest (.rcgen d n) (fun _ => (die.appended ++ die.gen).toNat) (fun _ => 0) t) ∧
       (∀ u, b.threads = [u] → s.marl.owner = some (s.ctxOf u) → xmodBit b.hints 0 = false →
         ∃ t c, exec (.rcgen d n) s = .next t ∧
           t = { s with issue := rest, held := s.heldAfter b (.rcgen d n), threads := t.threads,
                        marl := { s.marl with commit := some c } } ∧
           t.thread u = { (s.thread u).issued s b (.rcgen d n) with waitFor := .result 0, waitDst := d } ∧
           (∀ w, w ≠ u → t.thread w = s.thread w) ∧
           (s.marl.commit = none → c = { exchanged := false, waiters := [u], later := [], folded := 0 }) ∧
           (∀ x, s.marl.commit = some x → x.exchanged = false → c = { x with waiters := x.waiters ++ [u] }) ∧
           (∀ x, s.marl.commit = some x → x.exchanged = true → c = { x with later := x.later ++ [u] }))) ∧
     (s.Executes b rest (.rccfgRelease d a n) → s.Room b (formOf b.hints (.rccfgRelease d a n)) →
       ∀ u, b.threads = [u] → s.marlReady = true →
         let own := s.marl.owner = some (s.ctxOf u)
         ∃ t t', exec (.rccfgRelease d a n) s = .next t ∧
           (own → s.Delivers b rest (.rccfgRelease d a n) (fun _ => 0) (fun _ => 0) t' ∧
             t = { t' with marl := { s.marl with owner := none } }) ∧
           (¬own → s.Delivers b rest (.rccfgRelease d a n) (fun _ => 4) (fun _ => 0) t' ∧ t = t')))

/-! ## System instructions -/

/-- R425, R426, R428, R430: a TRAP, and a BPT, stop their thread at the first word of its run, TSTATE WAIT, and post a
request with their code; TRAP's argument block holds eight registers, or zeros, and its request remembers the destination. -/
def Obligations.SoftwareTraps : Prop :=
  ∀ (d a y : BitVec 7) (n : Bool) (s : State) (b : Bundle) (rest : List Bundle) (u i : Nat) (more : List Nat),
    s.Inv → b.threads = [u] → s.monitors = [] → s.wft = [] → s.freeSlots (s.ctxOf u) b.core = i :: more →
    (s.Executes b rest (.trap d a y n) → ∃ t, exec (.trap d a y n) s = .next t ∧
      s.Trapped b rest (.trap d a y n) u (s.trapRequest b u i .user (BitVec.ofNat 64 (s.opnd b (.trap d a y n) u 1))
        (if a.toNat < 120 then s.readRegs u a.toNat 8 else []) d) t) ∧
    (s.Executes b rest (.bpt y) → ∃ t, exec (.bpt y) s = .next t ∧
      s.Trapped b rest (.bpt y) u
        (s.trapRequest b u i .break_ (BitVec.ofNat 64 (s.opnd b (.bpt y) u 0)) [] 126) t)

/-- R431: SVRET of a slot that holds no request gives 1. With .NEXT it frees the request and its thread runs from the word
after its instruction, with the value in the destination of its TRAP. -/
def Obligations.SupervisorReturn : Prop :=
  ∀ (d a y : BitVec 7) (n : Bool) (s : State) (b : Bundle) (rest : List Bundle) (u : Nat),
    let i := Instr.svret d a y n
    s.Executes b rest i → b.threads = [u] → ¬s.inFlight u 0 →
    ((∀ r, ¬s.Slot (s.ctxOf u) b.core (s.opnd b i u 0) r) → s.Room b (formOf b.hints i) →
      ∃ t t', exec i s = .next t ∧ s.Delivers b rest i (fun _ => 1) (fun _ => 0) t' ∧ t = { t' with cores := t.cores } ∧
        t.core b.core = { s.core b.core with svYield := true } ∧ ∀ k, k ≠ b.core → t.core k = s.core k) ∧
    (∀ r l, s.Slot (s.ctxOf u) b.core (s.opnd b i u 0) r → r.event = false → r.gid < 2 ^ 40 → l < 32 → r.lanes = 1#32 <<< l →
      threadKey r.gid l ≠ u → (s.thread (threadKey r.gid l)).inSet = none → (∀ q ∈ s.requests, q.slot ≠ 0) →
      s.monitors = [] → hXmod b.hints = 0 → d = 126 →
      ∃ t, exec i s = .next t ∧
        t.thread (threadKey r.gid l) =
          { s.thread (threadKey r.gid l) with pc := r.next, runPc := r.next, tstate := .run, waitFor := .nothing, xop := none } ∧
        t.thread u = (s.thread u).issued s b i ∧
        (∀ w, w ≠ u → w ≠ threadKey r.gid l → t.thread w = s.thread w) ∧
        t.requests = s.requests.filter (· != r) ∧
        (r.cause = Cause.user.code → r.dst.toNat < 120 → (s.lineOf r.gid r.dst.toNat).isSome →
          t.readReg (threadKey r.gid l) r.dst.toNat = BitVec.ofNat 32 (s.opnd b i u 1)) ∧
        (t.core b.core).svYield = true)

/-- R77, R435: CSRR delivers the CSR that each thread names and may read; a supervisor's CSRW of 0x103 sets SV_LOST, and of
0x105 raises an event with its value: the record becomes the newest of the function's queue, and when it was the only one
MSI-X vector 0 is signalled, once the stores and atomics in flight have been performed. RPLGET gives the address of the set
of a slot's request, 0 for none. -/
def Obligations.ControlRegisters : Prop :=
  ∀ (d a y : BitVec 7) (s : State) (b : Bundle) (rest : List Bundle),
    (∀ v : Nat → Nat, s.Executes b rest (.csrr d a) → s.Room b (formOf b.hints (.csrr d a)) →
      (∀ u ∈ b.threads, s.csr b u (s.opnd b (.csrr d a) u 0) = some (v u)) →
      ∃ t, exec (.csrr d a) s = .next t ∧ s.Delivers b rest (.csrr d a) v (fun _ => 0) t) ∧
    (∀ u, s.Executes b rest (.csrw a y) → b.threads = [u] → s.isSup u = true →
      let c := s.ctxOf u
      let v := s.opnd b (.csrw a y) u 1
      (s.opnd b (.csrw a y) u 0 = 0x103 →
        ∃ t, exec (.csrw a y) s = .next t ∧
          t = { s with issue := rest, held := s.heldAfter b (.csrw a y), threads := t.threads, ctxs := t.ctxs } ∧
          t.thread u = (s.thread u).issued s b (.csrw a y) ∧ (∀ w, w ≠ u → t.thread w = s.thread w) ∧
          t.ctx c = { s.ctx c with svLost := (s.ctx c).svLost.put b.core (BitVec.ofNat 64 v) } ∧
          ∀ k, k ≠ c → t.ctx k = s.ctx k) ∧
      (s.opnd b (.csrw a y) u 0 = 0x105 → (s.func (s.ownerOf c)).events.length < 256 →
        ∃ t, exec (.csrw a y) s = .next t ∧
          t = { s with issue := rest, held := s.heldAfter b (.csrw a y), threads := t.threads, funcs := t.funcs,
                       msix := t.msix, msiWait := t.msiWait } ∧
          ((s.func (s.ownerOf c)).events ≠ [] → t.msix = s.msix ∧ t.msiWait = s.msiWait) ∧
          ((s.func (s.ownerOf c)).events = [] → s.msiWait = [] →
            let l := (s.accs.filter (fun e => e.kind == .store || e.kind == .atomic)).map (·.id)
            (l = [] → t.msix = s.msix ++ [(s.ownerOf c, 0)] ∧ t.msiWait = []) ∧
            (l ≠ [] → t.msix = s.msix ∧ t.msiWait = [{ f := s.ownerOf c, waits := l }])) ∧
          t.thread u = (s.thread u).issued s b (.csrw a y) ∧ (∀ w, w ≠ u → t.thread w = s.thread w) ∧
          t.func (s.ownerOf c) = { s.func (s.ownerOf c) with
            events := (s.func (s.ownerOf c)).events ++ [eventRecord 1 c v] } ∧
          ∀ k, k ≠ s.ownerOf c → t.func k = s.func k)) ∧
    (∀ v : Nat → Nat, s.Executes b rest (.rplget d a) → s.Room b (formOf b.hints (.rplget d a)) →
      (∀ u ∈ b.threads, let slot := s.opnd b (.rplget d a) u 0
        ((∀ r id, s.Slot (s.ctxOf u) b.core slot r → r.hasSet = some id → s.setOf id = none) ∧ v u = 0) ∨
        ∃ r id x, s.Slot (s.ctxOf u) b.core slot r ∧ r.hasSet = some id ∧ s.setOf id = some x ∧ v u = x.addr.toNat) →
      ∃ t, exec (.rplget d a) s = .next t ∧ s.Delivers b rest (.rplget d a) v (fun _ => 0) t)

/-! ## Control-store sequences -/

/-- R392, R394, R400: an XOP whose bank is not filled waits for it. One whose bank holds the image starts the sequence of
its index at micro-op 0, its temporaries zero, and its bundle is held to issue micro-ops. R404, R405: CSLOAD.CLEAR gives 1
while a thread of its context is inside a sequence; otherwise 0, and the context's image and bindings are gone from it and
from every bank. -/
def Obligations.SequenceEntry : Prop :=
  (∀ (j : BitVec 2) (d a y : BitVec 7) (n : Bool) (m : BitVec 4) (s : State) (b : Bundle) (rest : List Bundle),
     let i := Instr.xop j d a y n m
     s.issue = b :: rest → s.Bundled b →
     (s.bankReady b.core (s.bundleCtx b) = false →
       ∃ t, exec i s = .next t ∧ t = { s with issue := rest, held := s.held ++ [b], threads := t.threads } ∧
         (∀ u ∈ b.threads, t.thread u = { s.thread u with waitFor := .bankFill }) ∧
         ∀ u, u ∉ b.threads → t.thread u = s.thread u) ∧
     (s.bankReady b.core (s.bundleCtx b) = true → s.ecc = [] → (∀ u ∈ b.threads, s.decodeFail b i u = none) →
       (∀ u ∈ b.threads, ((s.thread u).pred (hGpred b.hints) != hGsense b.hints) = true) →
       (∀ u ∈ b.threads, (s.thread u).inSet = none ∧ (s.thread u).xop = none) →
       ∃ t, exec i s = .next t ∧
         t = { s with
           issue := rest, threads := t.threads,
           held := (State.keepLatches { s with held := s.held ++ [{ b with word := s.bundleWord b, inXop := true }] } b i
             (s.formAt (s.bundleCtx b) b.hints i) b.threads).held } ∧
         (∀ u ∈ b.threads, t.thread u =
           { ((s.thread u).issued s b i).moved b.runPc with
             waitFor := .nothing,
             xop := some { idx := 16 * j.toNat + m.toNat, i := 0, h := [], loops := 0, body := 0, bodyLen := 0, probes := [],
                           stopped := false,
                           regs := regsRead b.hints (s.formAt (s.bundleCtx b) b.hints i) ++
                             regsWritten (s.formAt (s.bundleCtx b) b.hints i) } }) ∧
         ∀ u, u ∉ b.threads → t.thread u = s.thread u)) ∧
  (∀ (d : BitVec 7) (n : Bool) (s : State) (b : Bundle) (rest : List Bundle) (u : Nat),
     let i := Instr.csloadClear d n
     s.Executes b rest i → s.Room b (formOf b.hints i) → b.threads = [u] →
     (s.xopBusy (s.ctxOf u) = true →
       ∃ t, exec i s = .next t ∧ s.Delivers b rest i (fun _ => 1) (fun _ => 0) t) ∧
     (s.xopBusy (s.ctxOf u) = false →
       ∃ t t', exec i s = .next t ∧ s.Delivers b rest i (fun _ => 0) (fun _ => 0) t' ∧
         t = { t' with ctxs := t.ctxs, cores := t.cores } ∧
         t.ctx (s.ctxOf u) = { s.ctx (s.ctxOf u) with kImage := [], kBinds := [] } ∧
         (∀ k, k ≠ s.ctxOf u → t.ctx k = s.ctx k) ∧
         ∀ k, t.core k = { s.core k with banks := (s.core k).banks.filter (fun q => q.2 != s.ctxOf u) }))

/-- R394, R398: the integer micro-ops write one temporary, modulo 2^64, and go on at the next micro-op. R190, R191, R394:
the floating micro-ops deliver the exact value of their temporaries rounded once, UFMIN and UFMAX an operand, UCVT a
conversion, and UCMP a condition as 1 or 0. -/
def Obligations.ArithmeticMicroOps : Prop :=
  (∀ (d a b : BitVec 3) (j : BitVec 17),
     Temp (.uadd d a b) d (fun k => k.reg a + k.reg b) ∧
     Temp (.usub d a b) d (fun k => k.reg a - k.reg b) ∧
     Temp (.uand d a b) d (fun k => k.reg a &&& k.reg b) ∧
     Temp (.uor d a b) d (fun k => k.reg a ||| k.reg b) ∧
     Temp (.uxor d a b) d (fun k => k.reg a ^^^ k.reg b) ∧
     Temp (.ushl d a b) d (fun k => if 64 ≤ (k.reg b).toNat then 0 else k.reg a <<< (k.reg b).toNat) ∧
     Temp (.ushr d a b) d (fun k => if 64 ≤ (k.reg b).toNat then 0 else k.reg a >>> (k.reg b).toNat) ∧
     Temp (.usar d a b) d (fun k => (k.reg a).sshiftRight (min (k.reg b).toNat 63)) ∧
     Temp (.umul d a b) d (fun k => k.reg a * k.reg b) ∧
     Temp (.uaddi d a j) d (fun k => k.reg a + j.signExtend 64) ∧
     Temp (.umovi d j) d (fun _ => j.signExtend 64) ∧
     Temp (.uhi d a j) d (fun k => k.reg a <<< 17 ||| j.setWidth 64)) ∧
  (∀ (d a b : BitVec 3) (ty : BitVec 4) (r : BitVec 3) (sat : Bool) (c : BitVec 4),
     TempF (.ufadd d a b ty r sat) d (microFp ty r sat a b [a, b] fun down x => Machine.Num.add down (x 0) (x 1)) ∧
     TempF (.ufsub d a b ty r sat) d (microFp ty r sat a b [a, b] fun down x => Machine.Num.add down (x 0) (x 1).negate) ∧
     TempF (.ufmul d a b ty r sat) d (microFp ty r sat a b [a, b] fun _ x => (x 0).mul (x 1)) ∧
     TempF (.ufma d a b ty r sat) d
       (microFp ty r sat a b [a, b, d] fun down x => Machine.Num.add down ((x 0).mul (x 1)) (x 2)) ∧
     TempF (.ufmin d a b ty) d (fun _ _ _ k => let w := tyWidth (utype ty)
       extremum (utype ty) false ((k.reg a).toNat % 2 ^ w) ((k.reg b).toNat % 2 ^ w)) ∧
     TempF (.ufmax d a b ty) d (fun _ _ _ k => let w := tyWidth (utype ty)
       extremum (utype ty) true ((k.reg a).toNat % 2 ^ w) ((k.reg b).toNat % 2 ^ w)) ∧
     TempF (.ucvt d a ty r sat c) d (fun s w u k =>
       let mode := s.microMode w u k r sat (k.reg a) 0
       let x : Machine.Num := if tyFloat (utype c) then readFp (utype c) ((k.reg a).toNat % 2 ^ tyWidth (utype c))
         else Machine.Num.ofInt (k.int (utype c) a)
       if tyFloat (utype ty) then convFp (utype ty) mode x
       else if tyFloat (utype c) then toInt (utype ty) r.toNat mode.draw x
       else
         let n := tyWidth (utype ty)
         let low : Int := if tySigned (utype ty) then -(2 ^ (n - 1)) else 0
         let high : Int := if tySigned (utype ty) then 2 ^ (n - 1) - 1 else 2 ^ n - 1
         ((BitVec.ofInt n (if sat then max low (min high (k.int (utype c) a)) else k.int (utype c) a)).toNat, 0)) ∧
     TempF (.ucmp d a b ty c) d (fun _ _ _ k =>
       if tyFloat (utype ty) then
         let x := fun n => (fmtOf (utype ty)).read ((k.reg n).toNat % 2 ^ tyWidth (utype ty))
         (if floatCond c.toNat (x a) (x b) then 1 else 0, sigNan [x a, x b])
       else (if intCond c.toNat (k.int (utype ty) a) (k.int (utype ty) b) then 1 else 0, 0)))

/-- R395: URDV reads the operand that a field of the XOP word names, URDK a k register; UWRV writes the destination field,
or nothing when that names no register. R398: UBR goes on OFF micro-ops further when its condition holds; ULOOP runs its
body as often as its temporary says, within its bound; UEND ends the sequence, and the thread runs from the word after the
XOP; UTRAP posts a request and leaves the sequence stopped at the next micro-op. -/
def Obligations.OperandAndControlMicroOps : Prop :=
  (∀ (h : BitVec 3) (sel : BitVec 2) (o : BitVec 4) (w : BitVec 2) (n : BitVec 6),
     let field := fun (b : Bundle) => match sel.toNat with
       | 0 => b.word.extractLsb' 19 7
       | 1 => b.word.extractLsb' 12 7
       | 2 => b.word.extractLsb' 5 7
       | _ => hSrc3 b.hints
     let use := fun (c : BitVec 7) => (if c.toNat < 120 then
         { code := c + o.setWidth 7, width := if w = 2 then 64 else 32, regs := if w = 2 then 2 else 1 }
       else { code := c, width := if w = 2 then 64 else 32 } : Use)
     Steps (.urdk h n) (fun s _ u k => k.puts h (s.kreg u n.toNat)) ∧
     (∀ s b rest, s.Sequenced b rest → s.ecc = [] →
       (∀ u ∈ b.threads, ∀ r ∈ regsRead b.hints { uses := [use (field b)] }, s.regPoisoned u r = false) →
       ∃ t, exec (.urdv h sel o w) s = .next t ∧ s.Micro b rest (fun u k => k.puts h
         (let v := s.operand b.hints u (use (field b))
          if w = 1 then (BitVec.ofNat 32 v).signExtend 64 else BitVec.ofNat 64 v)) (fun _ _ => 0) t) ∧
     (∀ s b rest, s.Sequenced b rest → s.Bundled b →
       let d : BitVec 7 := b.word.extractLsb' 19 7
       (120 ≤ d.toNat → ∃ t, exec (.uwrv h o w) s = .next t ∧ s.Micro b rest (fun _ k => k.goto (k.i + 1)) (fun _ _ => 0) t) ∧
       (d.toNat + o.toNat + (use d).regs ≤ 120 →
         s.Room { b with threads := s.microThreads b } { dst := some (use d) } →
         ∃ t t', exec (.uwrv h o w) s = .next t ∧ s.Micro b rest (fun _ k => k.goto (k.i + 1)) (fun _ _ => 0) t' ∧
           t = { t' with lines := t.lines } ∧
           (∀ u ∈ s.microThreads b, ∀ k, (s.thread u).xop = some k →
             t.readRegs u (d.toNat + o.toNat) (use d).regs = wordsOf (use d).regs ((k.reg h).toNat % 2 ^ (use d).width)) ∧
           ∀ u r, (∀ x ∈ s.microThreads b, ∀ m ∈ regsWritten { dst := some (use d) }, s.cell u r ≠ s.cell x m) →
             t.readReg u r = s.readReg u r))) ∧
  (∀ (a : BitVec 3) (c : BitVec 2) (o : BitVec 10) (m : BitVec 4) (l : BitVec 5) (e : BitVec 16),
     Steps (.ubr a c o) (fun _ _ _ k =>
       k.goto (if c = 0 ∨ (c = 1 ∧ k.reg a = 0) ∨ (c = 2 ∧ k.reg a ≠ 0) then k.i + o.toNat else k.i + 1)) ∧
     (∀ s b rest, s.Sequenced b rest →
       (∀ u ∈ s.microThreads b, ∀ k, (s.thread u).xop = some k → (k.reg a).toNat ≤ m.toNat) →
       ∃ t, exec (.uloop a m l) s = .next t ∧ s.Micro b rest (fun _ k =>
         if (k.reg a).toNat = 0 then { k with i := k.i + 1 + l.toNat }
         else { k with i := k.i + 1, loops := (k.reg a).toNat, body := k.i + 1, bodyLen := l.toNat }) (fun _ _ => 0) t) ∧
     (∀ s b rest, s.Sequenced b rest → (∀ u ∈ s.microThreads b, (s.thread u).inSet = none) →
       let left := (b.threads.filter s.running).filter (fun u => !(s.microThreads b).contains u)
       ∃ t, exec .uend s = .next t ∧
         t = { s with issue := rest, threads := t.threads,
                      held := s.held ++ (if left = [] then [] else [{ b with threads := left, inXop := true }]) } ∧
         (∀ u ∈ s.microThreads b, t.thread u =
           { (s.thread u).moved (b.pc + 4) with xop := none, waitFor := .nothing, tstate := .run }) ∧
         ∀ u, u ∉ s.microThreads b → t.thread u = s.thread u) ∧
     (∀ s b rest u k i more run, s.Sequenced b rest → b.threads = [u] → (s.thread u).xop = some k → (s.thread u).inSet = none →
       s.monitors = [] → s.wft = [] → s.freeSlots (s.ctxOf u) (coreOf u) = i :: more →
       s.freeRun (s.ctxOf u) (s.xopPark b u []).slots = some run →
       ∃ t r, exec (.utrap e) s = .next t ∧ t.requests = s.requests ++ [r] ∧ r.cause = Cause.user.code ∧
         r.info0 = e.setWidth 64 ∧ r.info1 = 1 ∧ r.gid = gidOf u ∧ r.lanes = 1#32 <<< laneOf u ∧ r.pc = b.runPc ∧
         r.next = b.pc + 4 ∧ r.slot = i ∧ r.hasSet.isSome = true ∧
         (t.thread u).tstate = .wait ∧ (t.thread u).waitFor = .trap ∧ (t.thread u).pc = b.runPc ∧
         (t.thread u).xop = some { k with i := k.i + 1, stopped := true } ∧ (∀ w, w ≠ u → t.thread w = s.thread w) ∧
         t.lines = s.lines ∧ t.issue = rest ∧ t.held = s.held))

/-- R397, R403: ULD reads its element into a temporary, UPROBE keeps the translation of a write, and UST leaves a store in
flight at the translation its probe holds; no byte of memory changes. In helpers UPROBE and UST do nothing. -/
def Obligations.MemoryMicroOps : Prop :=
  ∀ (h a : BitVec 3) (z : BitVec 2) (i : BitVec 17),
    (∀ s b rest u k s1 p, s.Sequenced b rest → b.threads = [u] → (s.thread u).xop = some k →
      (k.ea a i).toNat % 2 ^ z.toNat = 0 →
      let s0 : State := { s with issue := rest }
      s0.check b.core (s.ctxOf u) false .read (k.ea a i).toNat = (s1, .ok p) →
      s.accs = [] → s.copies = [] → s.ucopies = [] → s.stale = [] → s.ecc = [] → s.poison = [] → s.sectorKey = [] →
      s1.answers p.loc = true →
      ∃ t, exec (.uld h a z i) s = .next t ∧ t.mem = s1.mem ∧ t.lines = s.lines ∧ t.accs = [] ∧
        t.thread u = { s.thread u with xop := some (k.puts h (BitVec.ofNat 64 (s1.readN p.loc (2 ^ z.toNat)))) } ∧
        ∀ w, w ≠ u → t.thread w = s.thread w) ∧
    (∀ s b rest u k s1 p, s.Sequenced b rest → b.threads = [u] → (s.thread u).xop = some k → (s.thread u).helper = false →
      (k.ea a i).toNat % 2 ^ z.toNat = 0 →
      let s0 : State := { s with issue := rest }
      s0.check b.core (s.ctxOf u) false .write (k.ea a i).toNat = (s1, .ok p) →
      ∃ t, exec (.uprobe a z i) s = .next t ∧ t.mem = s1.mem ∧ t.lines = s.lines ∧ t.accs = s.accs ∧
        t.thread u = { s.thread u with xop := some (Cont.goto
          { k with probes := k.probes ++ [{ va := k.ea a i, size := z.toNat, pa := p.loc, leaf := BitVec.ofNat 64 p.leaf }] }
          (k.i + 1)) } ∧
        ∀ w, w ≠ u → t.thread w = s.thread w) ∧
    (∀ s b rest u k q, s.Sequenced b rest → b.threads = [u] → (s.thread u).xop = some k → (s.thread u).helper = false →
      k.probes.find? (fun q => q.va == k.ea a i && q.size == z.toNat) = some q →
      ∃ t x, exec (.ust h a z i) s = .next t ∧ t.mem = s.mem ∧ t.lines = s.lines ∧ t.accs = s.accs ++ [x] ∧
        x.kind = .store ∧ x.tid = u ∧ x.va = k.ea a i ∧ x.pa = q.pa ∧ x.leaf = q.leaf ∧ x.size = 2 ^ z.toNat ∧ x.x = k.reg h ∧
        t.thread u = { s.thread u with xop := some (k.goto (k.i + 1)) } ∧ ∀ w, w ≠ u → t.thread w = s.thread w) ∧
    (∀ s b rest, s.Sequenced b rest → (∀ u ∈ b.threads, (s.thread u).helper = true) →
      (∃ t, exec (.uprobe a z i) s = .next t ∧ s.Micro b rest (fun _ k => k.goto (k.i + 1)) (fun _ _ => 0) t) ∧
      ∃ t, exec (.ust h a z i) s = .next t ∧ s.Micro b rest (fun _ k => k.goto (k.i + 1)) (fun _ _ => 0) t)

/-- R58, R115, R229, R407, R425, R426, R428: a word that fails a decode check (a supervisor's instruction in a user thread,
PRIV; an operand out of range, ILLEGAL; a latch that may not be read, LATCH), and a load whose address is not a multiple of
its element, stop their thread at the first word of its run, TSTATE WAIT, with a request that names the cause; the
destination is not written. -/
def Obligations.TrapsOfChecks : Prop :=
  (∀ (d a y : BitVec 7) (k j : BitVec 6) (n : Bool) (s : State) (b : Bundle) (rest : List Bundle) (u m : Nat) (more : List Nat)
      (i : Instr) (c : Cause),
    i ∈ [Instr.svret d a y n, .rplget d a, .rplrun d a n, .iadd d a y n, .ld d k y j] → s.Inv → s.Bundled b → s.issue = b :: rest →
    b.threads = [u] → s.monitors = [] → s.wft = [] → (s.thread u).inSet = none → s.freeSlots (s.ctxOf u) b.core = m :: more →
    s.decodeFail b i u = some c →
    ∃ t, exec i s = .next t ∧
      t.thread u = { s.thread u with pc := b.runPc, runPc := b.runPc, tstate := .wait, waitFor := .trap, waitDst := 126 } ∧
      (∀ w, w ≠ u → t.thread w = s.thread w) ∧ t.lines = s.lines ∧
      t.requests = s.requests ++ [s.trapRequest b u m c ((s.bundleWord b).setWidth 64) [] 126] ∧
      s.KeepsOutside (s.ctxOf u) (s.requestPlaces (s.trapRequest b u m c ((s.bundleWord b).setWidth 64) [] 126) ++ s.latchPlaces b u) t) ∧
  (∀ (d : BitVec 7) (k : BitVec 6) (x : BitVec 7) (j : BitVec 6) (s : State) (o : Op) (l : Lane) (m : Nat) (more : List Nat),
    s.Inv → s.ops.find? (fun x => x.id == s.subj.id) = some o → o.instr = .ld d k x j → o.lanes = [l] → s.alive l.tid = true →
    (s.thread l.tid).waitFor = .check o.id → (s.thread l.tid).inSet = none →
    s.ucopies = [] → s.monitors = [] → s.wft = [] → s.freeSlots (s.ctxOf l.tid) (coreOf l.tid) = m :: more →
    l.addr.toNat % elemSize o.instr o.hints ≠ 0 →
    ∃ t, exec .fetchSuspensionEnd s = .next t ∧
      t.thread l.tid = { s.thread l.tid with pc := o.runPc, runPc := o.runPc, tstate := .wait, waitFor := .trap, waitDst := 126 } ∧
      (∀ w, w ≠ l.tid → t.thread w = s.thread w) ∧ t.accs = s.accs ∧ t.lines = s.lines ∧
      ∃ r, t.requests = s.requests ++ [r] ∧ r.slot = m ∧ r.cause = 4 ∧ r.info0 = l.addr ∧ r.pc = o.runPc ∧
        r.lanes = 1#32 <<< laneOf l.tid)

/-! ## Decoding -/

/-- R39, R47, R51, R57: words that the spec writes out stand for the instructions it names. -/
def Obligations.WordsOfTheSpec : Prop :=
  decode Hints.none 0x10000003#32 = .ok (.movs 0 0 false) ∧
  decode Hints.none 0x04080456#32 = .ok (.iaddi 1 0 0x456) ∧
  decode Hints.none 0x03C01011#32 = .ok (.iadd 120 1 0 true) ∧
  decode Hints.none 0x00178003#32 = .ok (.imul 2 120 0 false) ∧
  decode Hints.none 0x40182043#32 = .ok (.ffma 3 2 2 false) ∧
  decode Hints.none 0xFC000123#32 = .ok (.ximm 0x123) ∧
  decode Hints.none 0xFE820000#32 = .ok (.src true 2 false 0) ∧
  decode Hints.none 0xD17FFFF0#32 = .ok (.bra 2 true true 0x1FFFF0) ∧
  decode Hints.none 0x80204150#32 = .ok (.ld 4 2 5 16) ∧
  decode Hints.none 0xAFF7E054#32 = .ok (.rel 126 2) ∧
  decode Hints.none 0xC5418000#32 = .ok (.trace 40 24) ∧
  decode Hints.none 0xE0A040C5#32 = .ok (.xop 0 20 4 6 false 5) ∧
  decode Hints.none 0xD4000003#32 = .ok .exit ∧
  decodeMicro 0x41A20000#32 = some (.ufadd 3 2 1 0 0 false) ∧
  decodeMicro 0xA98C0000#32 = some (.ust 3 0 3 0) ∧
  (∀ h, (decode h 0#32).toOption = none) ∧ ∀ h, (decode h 0xFFFFFFFF#32).toOption = none

/-- R39–R47, R393: encoding and decoding agree on every well-formed instruction: a word that decodes, under the hints that
its form asks for, gives back each operand at every value its field admits. -/
def Obligations.DecodeOfEncode : Prop :=
  ∀ i : Instr, i.wellFormed = true →
    (i.isWord = true → decode (formHints i) (encode i) = .ok i) ∧ (i.isMicro = true → decodeMicro (encode i) = some i)

/-! ## The step -/

/-- R49, R123, R124, R400: a step of a running module whose first bundle has come to a word is that word's instruction, and
inside a sequence the micro-op; an input of the agenda is its event (log 2). -/
def Obligations.StepRunsTheDecodedInstruction : Prop :=
  ∀ (s : State), s.powered = true → s.dev.flip = none → s.dev.tripped = false →
    (∀ b rest, s.inputs = [] → s.issue = b :: rest → b.threads ≠ [] → (∀ u ∈ b.threads, s.alive u = true ∧ (s.thread u).late = none) →
      (∀ w i, b.inXop = false → s.wordAt b = some w → decode b.hints w = .ok i → step s = exec i s) ∧
      (∀ u more k w i, b.inXop = true → s.microThreads b = u :: more → (s.thread u).xop = some k →
        s.microWord (s.ctxOf u) k.idx k.i = some w → decodeMicro w = some i → step s = exec i s)) ∧
    (∀ i x r, s.inputs = (i, x) :: r → i.isWord = false → i.isMicro = false →
      step s = exec i { s with inputs := r, subj := x })

/-- R53: threads whose guard is false pass over a word with no effect of any kind, and go on at the next one, here where no
meeting of their groups is open. -/
def Obligations.GuardedOffHasNoEffect : Prop :=
  ∀ (i : Instr) (s : State) (b : Bundle) (rest : List Bundle), i.isWord = true → majorOf i ≠ 0x3F →
    s.issue = b :: rest → s.Bundled b → (∀ u ∈ b.threads, s.decodeFail b i u = none) →
    (∀ u ∈ b.threads, ((s.thread u).pred (hGpred b.hints) != hGsense b.hints) = false) →
    (∀ u ∈ b.threads, (s.thread u).inSet = none) →
    (∀ u ∈ b.threads, (s.group (gidOf u)).rdv = none ∧ (s.group (gidOf u)).copyRdv = none ∧ (s.group (gidOf u)).quads = []) →
    (xopIndex i ≠ none → s.bankReady b.core (s.bundleCtx b) = true) →
    ∃ t, exec i s = .next t ∧
      t = { s with issue := rest, threads := t.threads,
                   held := (s.keepLatches b i (s.formAt (s.bundleCtx b) b.hints i) b.threads).held } ∧
      (∀ u ∈ b.threads, t.thread u = { (s.thread u).issued s b i with reads := (s.thread u).reads }) ∧
      ∀ u, u ∉ b.threads → t.thread u = s.thread u

/-! ## Reset and the invariant -/

/-- R15–R17, R21, R78, R81, R106, R212, R215, R300, R309, R376, R409, R443, R451, R484, R486, R487: registers right after
reset. -/
def Obligations.ResetValues : Prop :=
  let s := State.reset
  s.powered = true ∧ s.boot.state = 1 ∧ s.boot.failCause = 0 ∧ s.boot.ready = 1 ∧ s.boot.colReady = 0 ∧
  (∀ f, (s.func f).accept = 0 ∧ (s.func f).session = false ∧ (s.func f).featStatus = 0 ∧ (s.func f).events = [] ∧
    (s.func f).lost = false ∧ (s.func f).armed = false ∧ (s.func f).invStatus = 0 ∧ (s.func f).inv = none ∧
    (s.func f).mbBusy = false ∧ (s.func f).mbStatus = 0) ∧
  (∀ c, (s.ctx c).amGroup = 0 ∧ (s.ctx c).weight = 16 ∧ (s.ctx c).owner = 0 ∧ (s.ctx c).launchUser = false ∧
    (s.ctx c).pinned = false ∧ (s.ctx c).pinErr = false ∧ (s.ctx c).pinning = false ∧
    (s.ctx c).imageSize = 0 ∧ (s.ctx c).svcode = 0 ∧ (s.ctx c).fpstat = 0 ∧ (s.ctx c).monSpill = 0 ∧
    (s.ctx c).fqEnable = false ∧ (s.ctx c).fqTail = 0 ∧
    (s.ctx c).runBusy = false ∧ (s.ctx c).halted = false ∧ (s.ctx c).kBinds = []) ∧
  s.dev.devmemGib = 0 ∧ s.dev.hostAop = false ∧ s.dev.limitW = 1400 ∧ s.dev.throttled = false ∧ s.dev.tripped = false ∧
  s.dev.errCe = 0 ∧ s.dev.errTransient = 0 ∧ s.dev.errLasting = 0 ∧ s.launches = [] ∧ s.clusters = [] ∧ s.teams = [] ∧
  s.marl.owner = none ∧ s.marl.cfg = none

/-- The machine right after reset meets the invariant: memory is in its canonical form (log 1). -/
def Obligations.ResetKeepsMemoryCanonical : Prop :=
  State.reset.Inv

/-- Every step keeps memory in its canonical form, so that equal memories stay equal data (log 1). -/
def Obligations.StepKeepsMemoryCanonical : Prop :=
  ∀ s t, s.Inv → step s = .next t → t.Inv

/-! ## Events: control registers, boot, power -/

/-- R22, R78, R81, R105, R204, R215, R409, R484: what a commit of features, the event queue, and writes of control registers
do; POP_DATA gives the head record, with bit 63 set when one was lost, once for each arm; a read of BOOT_STATE gives its
fields. -/
def Obligations.ControlRegisterEvents : Prop :=
  ∀ (s : State),
    let f := s.subj.f
    let c := s.subj.c
    let v := s.subj.v
    (f ≤ 32 → s.inLoader = false → Becomes .featCommit s (s.PutsFunc f (
      let x := s.func f
      let st : BitVec 3 := if x.accept.getLsbD 0 = false then 2 else if x.accept &&& ~~~s.offer f ≠ 0 then 3
        else if x.accept.getLsbD 6 = true ∧ x.accept.getLsbD 5 = false then 4 else 1
      if x.session then { x with featStatus := 5 } else { x with featStatus := st, session := st == 1 }))) ∧
    (v = 1 → s.inLoader = false → Becomes .popArm s (s.PutsFunc f { s.func f with armed := true })) ∧
    ((s.func f).armed = false → Becomes .popData s (fun t => t = { s with hostData := 0 })) ∧
    (∀ r rest, (s.func f).armed = true → (s.func f).events = r :: rest →
      Becomes .popData s (State.PutsFunc { s with hostData := if (s.func f).lost then r ||| (1#64 <<< 63) else r } f
        { s.func f with armed := false, events := rest, lost := false })) ∧
    (s.sees f c = true → s.boot.ready.getLsbD 10 = true → Becomes .ctxFqCtlWrite s (s.PutsCtx c (
      let x := s.ctx c
      { x with fqSize := if x.fqEnable then x.fqSize else v.extractLsb' 0 4,
               fqEnable := v.getLsbD 31 && (x.fqEnable || isHostMem x.fqBase.toNat) }))) ∧
    (s.sees f c = true → Becomes .ctxLpageWrite s (fun t =>
      let x : Ctx := { s.ctx c with lpage := v &&& 0x01FFFFFFFFFFF000 }
      (t.ctx c).lpage = x.lpage ∧ (x.lpage = 0 ∨ x.pinned = false → s.PutsCtx c x t))) ∧
    (s.sees f c = true → Becomes .ctxSvcodeWrite s (fun t =>
      (t.ctx c).svcode = v ∧
        ((s.ctx c).lpage = 0 ∨ (s.ctx c).pinned = false → s.PutsCtx c { s.ctx c with svcode := v, svBad := [] } t))) ∧
    (f = 0 → s.inLoader = false → (∀ p ∈ s.funcs, p.2.session = false) → Becomes .devmemCtlWrite s (fun t =>
      t = { s with dev := { s.dev with devmemGib := BitVec.ofNat 6 (min 32 (v.toNat % 64)) } })) ∧
    (f = 0 → s.inLoader = false → Becomes .powerLimitWrite s (fun t =>
      t = { s with dev := { s.dev with limitW := BitVec.ofNat 11 (max 600 (min 1400 (v.toNat % 2048))), applying := true } })) ∧
    (s.dev.applying = true → s.boot.ready.getLsbD 2 = true → s.boot.ready.getLsbD 3 = true → s.dev.tripped = false →
      Becomes .budgetApplied s (fun t => t = { s with dev := { s.dev with applying := false }, cores := t.cores } ∧
        ∀ k, t.core k = if k < 288 then { s.core k with budget := min 64 (max 1 (64 * s.dev.limitW.toNat / 1400)) }
          else s.core k)) ∧
    (f ≤ 32 → s.inLoader = false → s.subj.w = false →
      (∀ k, c < 64 → s.sees f c = true → s.subj.a = 0x1000 + 64 * c + 0x10 → s.subj.b = 4 → k = v.extractLsb' 8 8 →
        Becomes .registerWrite s (s.PutsCtx c { s.ctx c with
          amGroup := v.extractLsb' 16 16, weight := if k = 0 then 1 else k,
          owner := if f = 0 then v.extractLsb' 2 6 else (s.ctx c).owner, launchUser := v.getLsbD 1 })) ∧
      (c < 64 → s.sees f c = true → (s.ctx c).pinned = false → s.subj.a = 0x1000 + 64 * c + 0x38 → s.subj.b = 8 →
        Becomes .registerWrite s (s.PutsCtx c { s.ctx c with ptroot := v &&& 0x000FFFFFFFFFFC00 })) ∧
      (s.subj.a = 0x200 → s.subj.b = 8 →
        Becomes .registerWrite s (s.PutsFunc f { s.func f with invVa := v &&& ~~~0xFFF })) ∧
      (f = 0 → s.subj.a = 0x220 → s.subj.b = 4 → Becomes .registerWrite s (fun t =>
        t = { s with dev := { s.dev with hostAop := v.getLsbD 0 } })) ∧
      (f = 0 → s.subj.a = 0x254 → s.subj.b = 4 → Becomes .registerWrite s (fun t =>
        t = { s with dev := { s.dev with errCe := s.dev.errCe &&& ~~~v.setWidth 32 } }))) ∧
    (f = 0 → s.subj.w = true → c = 0 → s.subj.a = 0 → s.subj.b = 4 → Becomes .registerWrite s (fun t =>
      t = { s with hostData := BitVec.ofNat 64 (16 * s.boot.failCause.toNat + s.boot.state.toNat) }))

/-- R16–R20, R24, R226, R450, R451, R486: the firmware check, readiness, failures of blocks and links, the steps of heat,
and what a function reset, a module reset and a loss of power leave. What the security core says of an image is a constant
of which nothing is known, and whether an access to the flash fails is free (log 5). -/
def Obligations.BootAndPowerEvents : Prop :=
  ∀ (s : State),
    let b := s.subj.b
    let hot := max s.subj.a s.subj.b
    let heated : Dev := { s.dev with temp0 := BitVec.ofNat 8 s.subj.a, temp1 := BitVec.ofNat 8 s.subj.b }
    let failed := fun (n : BitVec 4) => ({ s.boot with state := 3, failCause := n, ready := s.boot.ready &&& 3, colReady := 0 } : Boot)
    (s.boot.state = 1 → Becomes .firmwareCheckDone s (fun t => t = { s with freeCount := t.freeCount, boot := match s.boot.flash with
      | none => failed 1
      | some img => if s.flashFails.1 then failed 4 else if imageVerdict img = 0 then { s.boot with state := 2, failCause := 0 }
        else if imageVerdict img = 3 then failed 3 else failed 2 })) ∧
    (s.boot.state = 2 → 1 ≤ b → b ≤ 12 → Becomes .blockReady s (fun t =>
      t = { s with boot := { s.boot with ready := s.boot.ready ||| 1#32 <<< b },
                   heldReqs := if 6 ≤ b ∧ b ≤ 9 then [] else s.heldReqs })) ∧
    (s.boot.state = 2 → b < 32 → b % 16 < 12 → Becomes .columnReady s (fun t =>
      t = { s with boot := { s.boot with colReady := s.boot.colReady ||| 1#32 <<< b } })) ∧
    (b < 32 → s.boot.ready.getLsbD b = true → Becomes .blockFailure s (fun t =>
      t = { s with dev := { s.dev with blockFail := true }, msix := s.msix ++ [(0, 2)] })) ∧
    (∀ since, s.heldReqs.find (s.subj.a / 32) = some since → s.linkUp s.subj.a = false → since + 100000 * oneUs ≤ s.wall →
      Becomes .cxlRequestTimeout s (s.LogsLink s.subj.a)) ∧
    (isPool s.subj.a = true ∨ isHostMem s.subj.a = true → Becomes .linkPoisonResponse s (s.LogsLink s.subj.a)) ∧
    (s.dev.tripped = false →
      (105 ≤ hot → Becomes .thermalThrottle s (fun t => let n := max 12 (s.dev.clk100.toNat - 1)
        t = { s with dev := { heated with clk100 := BitVec.ofNat 8 n, throttled := decide (n < 36) } })) ∧
      (hot < 100 → Becomes .thermalUnthrottle s (fun t => let n := min 36 (s.dev.clk100.toNat + 1)
        t = { s with dev := { heated with clk100 := BitVec.ofNat 8 n, throttled := decide (n < 36) } })) ∧
      (115 ≤ hot → Becomes .thermalTrip s (fun t =>
        t = { s with dev := { heated with tripped := true }, msix := s.msix ++ [(0, 2)] }))) ∧
    (125 ≤ hot → Becomes .thermalPowerOff s (fun t => t.powered = false ∧ t.teams = [] ∧ t.lines = [] ∧ t.issue = [])) ∧
    Becomes .lossOfPower s (fun t => t.powered = false ∧ t.teams = [] ∧ t.lines = [] ∧ t.issue = [] ∧ t.boot.state = 1 ∧
      t.boot.flash = s.boot.flash ∧
      (s.Inv → s.notDurable = [] → s.frames = [] → ∀ p, t.byte p = if isPool p ∨ isHostMem p then s.byte p else 0)) ∧
    Becomes .moduleReset s (fun t => t.powered = true ∧ t.boot = { State.reset.boot with flash := s.boot.flash } ∧
      t.funcs = [] ∧ t.ctxs = [] ∧ t.dev = State.reset.dev ∧ t.launches = [] ∧ t.clusters = [] ∧ t.cores = [] ∧ t.teams = [] ∧
      t.groups = [] ∧ t.threads = [] ∧ t.lines = [] ∧ t.marl = State.reset.marl ∧
      (s.Inv → ∀ p, t.byte p = if isPool p ∨ isHostMem p then s.byte p else 0)) ∧
    (s.subj.f ≠ 0 → (∀ c, c < 64 → s.ownerOf c ≠ s.subj.f) → Becomes .functionLevelReset s (s.PutsFunc s.subj.f Func.reset)) ∧
    (s.subj.f = 0 → Becomes .functionLevelReset s (fun t => t.dev.limitW = 1400 ∧ t.boot = { s.boot with ready := 1, colReady := 0 } ∧
      ∀ f, 1 ≤ f → f ≤ 32 → (t.func f).session = false))

/-- R17, R487, R488, R490: each kind of message of the mailbox: what it does, and the status it ends with. -/
def Obligations.MailboxEvents : Prop :=
  ∀ (s : State) (f : Nat),
    (s.Served f 1 → s.boot.state ≠ 1 → Becomes .mbSpdm s (fun t =>
      t = { s with funcs := t.funcs, freeCount := s.freeCount + 1 } ∧ t.Answers f 1 ∧ ∀ k, k ≠ f → t.func k = s.func k)) ∧
    (s.Served 0 2 → s.inLoader = true → Becomes .mbImageChunk s (fun t =>
      t = { s with funcs := t.funcs, boot := t.boot } ∧ t.Answers 0 1 ∧
        t.boot = { s.boot with state := 4, rxImage := (if s.boot.state = 4 then s.boot.rxImage else []) ++ (s.func 0).sent })) ∧
    (s.Served 0 3 → s.boot.state = 4 → Becomes .mbImageCommit s (fun t =>
      let img := s.boot.rxImage
      t = { s with funcs := t.funcs, boot := t.boot, freeCount := t.freeCount } ∧
        (imageVerdict img ≠ 0 → t.Answers 0 5 ∧
          t.boot = { s.boot with state := 5, failCause := if imageVerdict img = 3 then 3 else 2 }) ∧
        (imageVerdict img = 0 → s.flashFails.1 = false → t.Answers 0 1 ∧
          t.boot = { s.boot with state := 6, failCause := 0, flash := some img }) ∧
        (imageVerdict img = 0 → s.flashFails.1 = true → t.Answers 0 1 ∧
          t.boot = { s.boot with state := 5, failCause := 4, flash := none }))) ∧
    (∀ (k : Byte) key, s.Served 0 4 → s.boot.state = 2 → (s.func 0).sent = k :: 0 :: 0 :: 0 :: key → key.length = 64 → k ≠ 0 →
      Becomes .mbKeySet s (fun t => t.Answers 0 1 ∧ t.boot.keys.find k.toNat = some (BitVec.ofNat 512 (ofBytes key)) ∧
        (∀ j, j ≠ k.toNat → t.boot.keys.find j = s.boot.keys.find j) ∧ t.mem = s.mem)) ∧
    (∀ (k : Byte), s.Served 0 5 → s.boot.state = 2 → (s.func 0).sent = [k] → k ≠ 0 →
      Becomes .mbKeyClear s (fun t => t.Answers 0 1 ∧ t.boot.keys.find k.toNat = none ∧
        (∀ j, j ≠ k.toNat → t.boot.keys.find j = s.boot.keys.find j) ∧ t.mem = s.mem))

/-- R212, R213, R218, R221–R223: an invalidation drops the translations of its pages at once and stays busy while accesses
under them go on; a bias flip waits for its page and then changes its bit; a snoop and a host's access change the bytes they
write and no others. -/
def Obligations.OutsideAccessEvents : Prop :=
  ∀ (s : State),
    let f := s.subj.f
    let c := s.subj.c
    let x := s.func f
    let starts := fun (op vpn n : Nat) (t : State) =>
      t.Untranslated c vpn n ∧ t.mem = s.mem ∧ t.threads = s.threads ∧
        t.func f = { x with invCtx := BitVec.ofNat 6 c, invOp := BitVec.ofNat 2 op,
                            inv := some { ctx := c, op := op, vpn := vpn, n := n, waits := s.accsUnder c (s.removed c vpn n),
                                          seqs := s.seqsUnder c (s.removed c vpn n) } }
    (s.sees f c = true → x.inv = none →
      (x.invPages ≠ 0 → x.invVa.toNat + 4096 * x.invPages.toNat ≤ 2 ^ 57 →
        Becomes .invRange s (starts 0 (x.invVa.toNat / 4096) x.invPages.toNat) ∧
        Becomes .invRangeRelease s (starts 1 (x.invVa.toNat / 4096) x.invPages.toNat)) ∧
      Becomes .invContext s (starts 2 0 (2 ^ 45))) ∧
    (∀ j, x.inv = some j → (∀ a ∈ s.accs, a.id ∉ j.waits) → (∀ k ∈ s.copies, k.id ∈ j.waits → k.buf = []) →
      (∀ u ∈ j.seqs, s.running u = false) →
      Becomes .invalidationDone s (fun t => t.func f = { x with inv := none, invStatus := 1 } ∧
        (j.op ≠ 1 → s.PutsFunc f { x with inv := none, invStatus := 1 } t) ∧
        (j.op = 1 → ∀ k ∈ t.claims, ¬(k.ctx = j.ctx ∧ j.vpn ≤ k.vpn ∧ k.vpn < j.vpn + j.n)))) ∧
    (f = 0 → s.inLoader = false → s.dev.flip = none → isDevmem s.dev.biasPa.toNat = true →
      s.dev.biasPa.toNat < 2 ^ 46 + s.carveout → (s.func 0).session = true → (s.func 0).accept.getLsbD 11 = true →
      (s.deviceBias s.dev.biasPa.toNat = false → Becomes .biasToDevice s (fun t =>
        t = { s with dev := { s.dev with toDevice := true, flip := some (s.dev.biasPa.toNat / 4096, true) } })) ∧
      (s.deviceBias s.dev.biasPa.toNat = true → Becomes .biasToHost s (fun t =>
        t = { s with dev := { s.dev with toDevice := false, flip := some (s.dev.biasPa.toNat / 4096, false) } }))) ∧
    (∀ page dev, s.dev.flip = some (page, dev) → s.flipReady page = true → Becomes .biasFlipDone s (fun t =>
      t.dev.flip = none ∧ t.dev.biasStatus = 1 ∧ (∀ q, t.bias.contains q = if q = page then dev else s.bias.contains q) ∧
        ∀ d ∈ t.dir, overlaps d.base d.size (page * 4096) 4096 = false)) ∧
    (s.Inv → s.monitors = [] → s.ucopies = [] → s.dev.flip = none → (∀ k ∈ s.copies, k.held = []) →
      let a := s.subj.a
      let n := s.subj.data.length
      (0 < n → (isPool a = true ∧ isPool (a + n - 1) = true) ∨ (isHostMem a = true ∧ isHostMem (a + n - 1) = true) →
        Becomes .externalSnoop s (fun t => s.Stores a s.subj.data t ∧ t.threads = s.threads ∧
          ∀ d ∈ t.dir, overlaps d.base d.size a n = false)) ∧
      (isDevmem a = true →
        (s.subj.w = true → 0 < n → a + n ≤ 2 ^ 46 + s.carveout →
          Becomes .hostCxlMemAccess s (fun t => s.Stores a s.subj.data t ∧ t.threads = s.threads)) ∧
        (s.subj.w = false → s.subj.b = 8 → a + 8 ≤ 2 ^ 46 + s.carveout → s.sectorKey = [] →
          Becomes .hostCxlMemAccess s (fun t => t.mem = s.mem ∧ t.threads = s.threads ∧
            t.hostData = BitVec.ofNat 64 (s.readN a 8)))))

/-- R107, R443–R446: pinning and the operations of CTX_RUNCTL: what each sets in its context, and what ends it. -/
def Obligations.ContextEvents : Prop :=
  ∀ (s : State),
    let f := s.subj.f
    let c := s.subj.c
    let x := s.ctx c
    (s.sees f c = true → x.pinned = false → x.pinning = false → s.subj.v.extractLsb' 0 16 ≠ 0 →
      Becomes .arenaPinningStart s (s.PutsCtx c
        { x with imageSize := s.subj.v.extractLsb' 0 16, pinErr := false, errCause := 0, pinning := true })) ∧
    (x.pinning = true → s.pinWaits c = false →
      (x.imageSize.toNat < 91 → Becomes .arenaPinningEnd s
        (s.PutsCtx c { x with pinning := false, pinErr := true, errCause := 1 })) ∧
      (91 ≤ x.imageSize.toNat → s.pinWalk c (16 * x.imageSize.toNat) x.image.toNat = .bad → Becomes .arenaPinningEnd s
        (s.PutsCtx c { x with pinning := false, pinErr := true, errCause := 2 })) ∧
      (∀ pages, 91 ≤ x.imageSize.toNat → s.pinWalk c (16 * x.imageSize.toNat) x.image.toNat = .pages pages →
        s.lockedWith (arenaBlocks pages) ≤ s.frameCapacity → x.lpage = 0 → Becomes .arenaPinningEnd s (fun t =>
          (t.ctx c).pinned = true ∧ (t.ctx c).pinning = false ∧ (t.ctx c).arena = pages ∧ t.mem = s.mem ∧
            (t.ctx c).spillInForce = min x.monSpill.toNat (x.imageSize.toNat - 91)))) ∧
    (s.sees f c = true → x.runBusy = false →
      (x.halted = false → Becomes .halt s (fun t =>
        (t.ctx c).runBusy = true ∧ (t.ctx c).runOp = some .halt ∧ ∀ k ∈ s.teamsOfCtx c, (t.team k).stopping = true)) ∧
      (x.halted = true → x.tearNext = false → s.haltedCopies c = [] → Becomes .resume s (fun t =>
        (t.ctx c).halted = false ∧ (t.ctx c).runBusy = false ∧ (t.ctx c).runStatus = 1 ∧ (t.ctx c).runOp = none)) ∧
      Becomes .teardown s (fun t => (t.ctx c).runBusy = true ∧ (t.ctx c).runOp = some .teardown ∧ (t.ctx c).pinned = false ∧
        (t.ctx c).binds = [] ∧ (t.ctx c).kBinds = [] ∧ (∀ y ∈ t.sets, y.ctx ≠ c) ∧ (∀ y ∈ t.copies, y.ctx ≠ c) ∧
        ∀ y ∈ t.monitors, y.ctx ≠ c)) ∧
    (x.runOp = some .halt → s.ctxQuiet c = true → x.tearNext = false → Becomes .haltDone s (fun t =>
      (t.ctx c).halted = true ∧ (t.ctx c).runBusy = false ∧ (t.ctx c).runOp = none ∧ (t.ctx c).runStatus = 1 ∧
        ∀ l ∈ t.lines, l.ctx = c → l.dirty = false)) ∧
    (x.runOp = some .teardown → (∀ a ∈ s.accs, a.ctx ≠ c) →
      Becomes .teardownDone s (s.PutsCtx c { x with runBusy := false, runOp := none, runStatus := 1 }))

/-! ## Events: accesses and copies -/

/-- R230, R232–R235, R242, R268, R290, R295: the end of fetch suspension puts a passing lane's access in flight and moves
its thread on; an access that is performed reads or writes the bytes of its place and gives its result. -/
def Obligations.AccessesPerformed : Prop :=
  (∀ (s : State) (o : Op) (l : Lane) (p : Passed), s.OnePasses o l p →
    let goes := fun (t : State) =>
      t.ops = s.ops.filter (fun x => x.id != o.id) ∧ (∀ w, w ≠ l.tid → t.thread w = s.thread w) ∧
        t.thread l.tid = { s.thread l.tid with pc := o.pc + 4, runPc := o.pc + 4, waitFor := .nothing, tstate := .run }
    (∀ d k x i, o.instr = .ld d k x i → Becomes .fetchSuspensionEnd s (fun t => goes t ∧ ∃ a, t.accs = s.accs ++ [a] ∧
      a.kind = .load ∧ a.tid = l.tid ∧ a.va = l.addr ∧ a.pa = p.loc ∧ a.size = elemSize o.instr o.hints)) ∧
    (∀ d k x i, o.instr = .st d k x i → Becomes .fetchSuspensionEnd s (fun t => goes t ∧ ∃ a, t.accs = s.accs ++ [a] ∧
      a.kind = .store ∧ a.tid = l.tid ∧ a.va = l.addr ∧ a.pa = p.loc ∧ a.size = elemSize o.instr o.hints ∧ a.x = l.x ∧ a.y = l.y)) ∧
    (∀ d x y n, o.instr = .atom d x y n → Becomes .fetchSuspensionEnd s (fun t => goes t ∧ ∃ a, t.accs = s.accs ++ [a] ∧
      a.kind = .atomic ∧ a.tid = l.tid ∧ a.va = l.addr ∧ a.pa = p.loc ∧ a.size = elemSize o.instr o.hints ∧ a.x = l.x ∧ a.y = l.y))) ∧
  (∀ (s : State) (a : Access), s.Due a →
    let n := a.size
    let old := s.readN a.pa n
    (a.kind = .store → s.sectorStores a = [a] → 0 < n → n ≤ 8 → Becomes .storePerformed s (fun t =>
      s.Performed a t ∧ s.Stores a.pa (bytesOf n a.x.toNat) t ∧ t.lines = s.lines ∧ t.teams = s.teams)) ∧
    (a.kind = .load → n ≤ 8 →
      (∀ d k x i, (a.instr = .ld d k x i ∨ a.instr = .lds d k x i) → 8 * n = tyWidth (hTy a.hints 7) →
        s.HasLines a.tid d.toNat (if n = 8 then 2 else 1) → Becomes .loadDataReturn s (fun t =>
          s.Performed a t ∧ t.mem = s.mem ∧ t.teams = s.teams ∧
            t.readRegs a.tid d.toNat (if n = 8 then 2 else 1) =
              wordsLow (if n = 8 then 2 else 1) (widened (hTy a.hints 7) n old))) ∧
      (∀ d k i, a.instr = .ldk d k i → (hTy a.hints 12 = 3 → n = 4) → s.alive a.tid = true → Becomes .loadDataReturn s (fun t =>
        t.accs = s.accs.filter (fun e => e.id != a.id) ∧ t.mem = s.mem ∧ t.lines = s.lines ∧
          (let m := s.team (s.teamOf a.tid)
           let v : DWord := if hTy a.hints 12 = 3 then (BitVec.ofNat 32 old).signExtend 64 else BitVec.ofNat 64 old
           t.team (s.teamOf a.tid) = { m with k := m.k.put d.toNat v }) ∧
          ∀ w, a.isOf w = false → t.thread w = s.thread w)) ∧
      (∀ d x m, a.instr = .acq d x m → n = 8 → s.alive a.tid = true → (s.thread a.tid).waitFor = .result a.id →
        s.HasLines a.tid d.toNat 2 → Becomes .loadDataReturn s (fun t =>
          t.readRegs a.tid d.toNat 2 = wordsLow 2 old ∧ t.mem = s.mem ∧
            t.thread a.tid = { s.thread a.tid with waitFor := .nothing }))) ∧
    (a.kind = .atomic → s.sameElement a = [a] → unsupported a = false →
      (∀ d x y o, (a.instr = .atom d x y o ∨ a.instr = .atoms d x y o) → 8 * n = tyWidth (hTy a.hints 7) → n ≤ 8 → o.toNat ≤ 8 →
        s.HasLines a.tid d.toNat (if n = 8 then 2 else 1) → Becomes .atomicLaneApplied s (fun t =>
          s.Performed a t ∧ t.readRegs a.tid d.toNat (if n = 8 then 2 else 1) = wordsLow (if n = 8 then 2 else 1) old ∧
            ∃ v, atomNew o.toNat (hTy a.hints 7) old a.x.toNat a.y.toNat = some v ∧ s.Stores a.pa (bytesOf n v) t)) ∧
      (∀ d x y, (a.instr = .atomcas d x y ∨ a.instr = .atomscas d x y) → 8 * n = tyWidth (hTy a.hints 7) → n ≤ 8 →
        s.HasLines a.tid d.toNat (if n = 8 then 2 else 1) → Becomes .atomicLaneApplied s (fun t =>
          s.Performed a t ∧ t.readRegs a.tid d.toNat (if n = 8 then 2 else 1) = wordsLow (if n = 8 then 2 else 1) old ∧
            s.Stores a.pa (if old = a.y.toNat then bytesOf n a.x.toNat else []) t)) ∧
      (∀ x y, a.instr = .tbarInit x y → Becomes .atomicLaneApplied s (fun t => s.Performed a t ∧ t.tbar a.pa =
        { pending := 0, init := a.x.toNat % 65536, pend := a.x.toNat % 65536, phase := false, err := false })) ∧
      (∀ x, a.instr = .tbarAck x → 0 < (s.tbar a.pa).pend → Becomes .atomicLaneApplied s (fun t => s.Performed a t ∧ t.tbar a.pa =
        Tbar.step { s.tbar a.pa with pend := (s.tbar a.pa).pend - 1 }))))

/-- R244, R245, R307, R309: CFLUSH, CINV and PERSIST of a line end together and release their threads, with no data lost; a
monitor that is polled ends its wait or is polled again. -/
def Obligations.MaintenanceAndMonitors : Prop :=
  (∀ (s : State) (mine : List Access), s.ucopies = [] → mine ≠ [] → (∀ a ∈ mine, a.remote = false) →
    let id := s.subj.id
    let ends := fun (t : State) => t.mem = s.mem ∧ t.lines = s.lines ∧
      t.accs = s.accs.filter (fun e => !(mine.map (·.id)).contains e.id) ∧
      ∀ w, (s.thread w).waitFor = .result id → t.thread w = { s.thread w with waitFor := .nothing }
    (s.lineAccs id .maintain = some mine → Becomes .cacheMaintenanceDone s (fun t => ends t ∧
      ∀ a ∈ mine, ∀ k o i, a.instr = .cflush k o i → pteHome a.leaf.toNat = 2 → pteEffects a.leaf.toNat = false →
        ∀ d ∈ t.dir, overlaps d.base d.size a.pa 128 = false)) ∧
    (s.lineAccs id .persist = some mine → Becomes .persistDone s (fun t => ends t ∧
      ∀ a ∈ mine, ∀ i, i < 4 → t.notDurable.find (a.pa / 32 + i) = none))) ∧
  ∀ (s : State) (m : Monitor) (due u : Nat), s.ucopies = [] → s.monitors.find? (fun m => m.id == s.subj.id) = some m →
    m.place = .poll due → due ≤ s.wall →
    (s.monitorHolds m = false → Becomes .monitorPoll s (fun t => t = { s with monitors := s.monitors.map (fun x =>
      if x.id == m.id then { x with place := .poll (due + 2 * oneUs) } else x) })) ∧
    (s.monitorHolds m = true → (s.ctx m.ctx).halted = false → m.who = .thread u → Becomes .monitorPoll s (fun t =>
      t.monitors = s.monitors.filter (fun x => x.id != m.id) ∧ (∀ w, w ≠ u → t.thread w = s.thread w) ∧
        t.thread u = { s.thread u with tstate := .run, waitFor := .nothing, waitDst := 126 } ∧
        (s.HasLines u (s.thread u).waitDst.toNat 1 → t.mem = s.mem ∧ t.readReg u (s.thread u).waitDst.toNat = 0)))

/-- R252, R254, R260–R264: a copy starts with its scoreboard entries once its checks pass, or fails with their status; each
sector that lands is written at its place; the stamp follows the last byte; and the copy then retires. -/
def Obligations.CopyEngine : Prop :=
  ∀ (s : State) (c : Copy), s.CopyIs c → s.Unwatched →
    let es := s.copyEntries c
    let st := s.startStatus c
    (c.state = .waiting → (∀ a ∈ s.accs, a.id ∉ c.after) →
      (st = 0 → (∀ k, s.sbUsed k + (es.filter (fun e => e.core == k)).length ≤ 32) → s.NoBarrier c → Becomes .copyStart s (fun t =>
        t = { s with copies := t.copies } ∧
          t.copyOf c.id = some (
            let d := ({ c with state := .moving, entries := es } : Copy).skip 34
            if d.done then { d with acked := true } else d))) ∧
      (∀ q, st ≠ 0 → st ≤ 4 → c.launch = some q → s.NoBarrier c → Becomes .copyStart s (fun t =>
        t = { s with copies := t.copies, launches := t.launches } ∧
          t.launches.find q = (s.launches.find q).map (fun l => { l with copyErr := true }) ∧
          ∃ x, t.copyOf c.id = some x ∧ x.status = st ∧ x.state = .moving ∧ x.done = true))) ∧
    (∀ p s' f m q, c.state = .moving → c.buf = [] → s.subj.w = false → s.subj.a < 16 → c.part s.subj.a = some p →
      s.copyFetch c p = (s', .ok f) → f.inOrder = false → f.dests = [(m, q)] → s'.Unwatched → (s'.copyOf c.id).isSome →
      f.copy.id = c.id →
      let d := ({ f.copy with poison := f.copy.poison || f.bad } : Copy).landed p.slice s.subj.a
      s'.NoBarrier d → c.sharesSector p d = false →
      Becomes .copySectorLanded s (fun t => s'.Stores q.loc f.bytes t ∧ t.threads = s'.threads ∧ t.lines = s'.lines ∧
        t.copyOf c.id = some (if d.done then { d with acked := true } else d))) ∧
    (∀ s' page r w, c.state = .moving → s.copyStop c = (s', some (.park page r w)) → s'.copyOf c.id = some c →
      Becomes .copyPark s (fun t => t.copyOf c.id = some { c with state := .parked } ∧
        ∃ b ∈ t.batches, b.ctx = c.ctx ∧ ∃ e ∈ b.entries, e.page = page)) ∧
    (c.state = .moving → c.done = true →
      (c.block.stamp = 0 → Becomes .copyStampWrite s (fun t => t = { s with copies := t.copies } ∧
        t.copyOf c.id = some { c with state := .stamping })) ∧
      (∀ s' p, c.block.stamp ≠ 0 → c.block.stamp % 8 = 0 → s.copyCheck c true c.block.stamp = (s', .ok p) → s'.Unwatched →
        s'.copies = s.copies → Becomes .copyStampWrite s (fun t =>
          s'.Stores p.loc (bytesOf 8 (c.block.seq * 2 ^ 32 + (if c.status = 0 ∧ c.poison = true then 7 else c.status) * 2 ^ 24 + c.count)) t ∧
            t.copyOf c.id = some { c with state := .stamping }))) ∧
    (c.state = .stamping → (∀ p ∈ s.groups, p.2.copyRdv = none) →
      (∀ k, s.clusters.find c.cluster = some k → ∃ m ∈ k.members, m.exited = false) →
      Becomes .copyRetire s (fun t => t = { s with copies := s.copies.filter (fun x => x.id != c.id), outst := t.outst, dir := t.dir } ∧
        ∀ q, c.launch = some q → t.outOf q c.core = { s.outOf q c.core with copies := (s.outOf q c.core).copies - 1 }))

/-! ## Events: formation, lines, times -/

/-- R54, R111, R123, R124, R127, R130, R180, R392: the next clk and the bundles of a core with one or two ready threads; the
arrival of instruction and register lines and of a bank; the ends of a stall, of a YIELD delay and of a wait at a join. -/
def Obligations.TimesAndFills : Prop :=
  ∀ (s : State),
    let k := s.subj.id
    (s.dev.tripped = true ∨ s.issue ≠ [] → Becomes .bundleFormation s (fun t =>
      t = { s with clk := s.clk + 1, wall := s.wall + wallUnit / s.dev.clk100.toNat })) ∧
    (∀ n, s.dev.tripped = false → s.issue = [] → s.nextClk.retryInstances.trimHeld.busyCores = [n] →
      let r := (s.nextClk.retryInstances.trimHeld.leaveFetchSets n).svSwitch n
      r.held = [] → r.issue = [] →
      (∀ u, r.readiness n = [(u, .yes)] → Becomes .bundleFormation s (fun t => t.clk = r.clk ∧ t.mem = r.mem ∧
        t.issue = [r.newBundle u] ∧ r.PutsThread u { r.thread u with yields := false } { r with threads := t.threads })) ∧
      (∀ u v, r.readiness n = [(u, .yes), (v, .yes)] → r.older u v = true → r.isSup v = false → u ≠ v →
        Becomes .bundleFormation s (fun t => t.clk = r.clk ∧ t.mem = r.mem ∧
          t.issue = if r.admits (r.newBundle u) v then [{ r.newBundle u with threads := [u, v] }]
            else [r.newBundle u, r.newBundle v]))) ∧
    (∀ s' p, let fc := s.subj.c
      let va := s.subj.a
      (s.core k).ibuf.any (fun l => l.ctx == fc && l.va == va && l.words.isNone) = true →
      s.check k (fc % 64) (decide (fc ≥ 64)) .fetch (64 * va) = (s', .ok p) →
      s'.answers p.loc = true → s'.ecc = [] → s'.poison = [] → s'.sectorKey = [] → s'.ucopies = [] →
      (s.lackLine k fc va = [] → pteHome p.leaf ≠ 3) →
      Becomes .instructionLineArrival s (fun t => t.mem = s'.mem ∧ t.threads = s'.threads ∧ t.lines = s'.lines ∧
        t.core k = { s'.core k with ibuf := (s'.core k).ibuf.map (fun l =>
          if l.ctx == fc && l.va == va && l.words.isNone then
            { l with words := some ((List.range 16).map (fun i => BitVec.ofNat 32 (s'.readN (p.loc + 4 * i) 4))) } else l) })) ∧
    (∀ l, s.line k s.subj.c s.subj.a = some l → l.filling = true → Becomes .registerFill s (fun t =>
      t.mem = s.mem ∧ t.teams = s.teams ∧ t.groups = s.groups ∧
      (∃ x, t.line k s.subj.c s.subj.a = some x ∧ x.filling = false ∧ ∀ i, i < 32 →
        x.vals.find i = some ((l.vals.find i).getD (if s.lineKzero l then 0 else s.imageWord l.ctx l.tag i))) ∧
      ∀ g, s.groupOfLine l = some g → ∀ u ∈ threadsOfGroup g, (s.thread u).waitFor = .lineFill →
        t.thread u = { s.thread u with waitFor := .nothing })) ∧
    (∀ e n, (s.team k).bind.state = .runnable → (s.team k).stopping = false → (s.team k).rstack = [e] → e.since = some n → n + 16384 ≤ s.clk → Becomes .reconvergenceTimeout s (fun t =>
      t = { s with teams := t.teams, threads := t.threads } ∧ t.team k = { s.team k with rstack := [] } ∧
      ∀ u ∈ s.threadsOf k,
        let x := s.thread u
        t.thread u = if x.waitFor = .join ∧ x.depth = 1 ∧ (x.pc.toNat : Int) = joinAddr (s.team k) e then
            { x with pc := x.pc + 4, tstate := .run, waitFor := .nothing, depth := 0 }
          else if 0 < x.depth ∧ x.tstate ≠ .exited then { x with depth := 0 } else x)) ∧
    ((s.thread k).stallTill ≠ 0 → (s.thread k).stallTill ≤ s.clk →
      Becomes .stallExpiry s (s.PutsThread k { s.thread k with stallTill := 0 })) ∧
    (∀ till, (s.thread k).waitFor = .yieldDelay till → till ≤ s.clk →
      Becomes .yieldDelayEnd s (s.PutsThread k { s.thread k with waitFor := .nothing, tstate := .run })) ∧
    (∀ c, ((s.core k).ctxs[s.subj.a]?) = some c → c ≠ 0xFF → s.bankReady k c = false →
      Becomes .controlStoreBankFill s (fun t => t = { s with cores := t.cores, threads := t.threads } ∧
        t.core k = { s.core k with banks := (s.core k).banks.put s.subj.a c } ∧ (∀ j, j ≠ k → t.core j = s.core j) ∧
        ∀ u, (s.thread u).waitFor = .bankFill → coreOf u = k → s.ctxOf u = c →
          t.thread u = { s.thread u with waitFor := .nothing }))

/-! ## Events: launches and placement -/

/-- R73, R74, R89, R91, R311, R453, R454: a start stamp that is reached makes its launch eligible; 10 ms raise the effective
priority; a launch has exactly the clusters pre-empted that make room for it; and a launch that is complete leaves its
queue, its conditions with its context and its stamp in memory. -/
def Obligations.LaunchEvents : Prop :=
  ∀ (s : State),
    let q := s.subj.id
    (∀ l m, s.launches.find q = some l → l.state = .waiting → s.ucopies = [] →
      s.monitors.find? (fun m => m.who == .launch q) = some m → m.place = .entry → s.monitorHolds m = true →
      Becomes .startStampObserved s (fun t => t = { s with launches := t.launches, monitors := t.monitors } ∧
        s.PutsLaunch q { l with state := .eligible, ageFrom := s.wall } t ∧
          t.monitors = s.monitors.filter (fun x => x.id != m.id))) ∧
    (∀ l, s.launches.find q = some l → l.state = .eligible ∨ l.state = .placing → l.effPrio < 7 →
      l.ageFrom + 10000 * oneUs ≤ s.wall → Becomes .priorityAging s (fun t => t = { s with launches := t.launches } ∧
        s.PutsLaunch q { l with effPrio := l.effPrio + 1, ageFrom := l.ageFrom + 10000 * oneUs } t)) ∧
    (∀ l, s.launches.find q = some l → l.state = .eligible ∨ l.state = .placing → l.effPrio = 7 →
      l.ageFrom + 10000 * oneUs ≤ s.wall →
      Becomes .level7Preemption s (s.Preempts (s.victimsFor q l))) ∧
    (∀ c n l, s.clusters.find q = some c → s.mayPreempt c = true → s.idle c = true → (n, l) ∈ s.wanting →
      q ∈ s.victimsFor n l → Becomes .clusterIdle s (s.Preempts [q])) ∧
    ∀ l, s.launches.find q = some l → s.complete q l = true → l.stampBatch = none →
      (l.doneAddr = 0 → Becomes .launchComplete s (fun t => t.launches.find q = none ∧ t.mem = s.mem ∧
        t.ctx l.ctx = { s.ctx l.ctx with fpstat := (s.ctx l.ctx).fpstat ||| l.conds })) ∧
      ∀ s' p, l.doneAddr ≠ 0 →
        (s.settleLaunch q l).check (q / 1024 * 144) l.ctx false .write l.doneAddr.toNat = (s', .ok p) →
        s'.answers p.loc = true → s'.Unwatched →
        Becomes .launchComplete s (fun t => t.launches.find q = none ∧
          s'.Stores p.loc (bytesOf 8 (l.doneTag.toNat * 2 ^ 32 + b2n l.poison * 2 ^ 15 + b2n l.faulted * 2 ^ 14 +
            b2n l.copyErr * 2 ^ 13 + b2n l.deadlock * 2 ^ 12)) t)

/-- R69, R70, R89–R95, R110: a round places the cluster of a launch of one cluster on a rectangle that has room, with its
BOUND record; and a bound cluster is dispatched: its groups start at the kernel's entry, every register known to be zero,
its scratch zero. -/
def Obligations.PlacementEvents : Prop :=
  ∀ (s : State),
    let q := s.subj.id
    (∀ d n l i, q = d → d ≤ 1 → s.boot.ready.getLsbD (2 + d) = true → s.launches = [(n, l)] → n / 1024 = d → s.clusters = [] →
      l.state = .eligible → l.effPrio ≤ 7 → l.next = 0 → l.gx = 1 → l.gy = 1 → l.gz = 1 → l.w = 1 → l.h = 1 → l.ctx < 64 →
      (s.ctx l.ctx).weight ≠ 0 → (∀ c, (s.ctx c).credit = []) → s.nextItem n l false = some i → s.spots i d [] ≠ [] →
      (∀ p ∈ s.teams, 64 ≤ entryOfTeam p.1) →
      (∀ o, o ∈ s.spots i d [] → s.hasInstance (d * 144 + o) l.ctx = true) →
      Becomes .placementRound s (fun t => ∃ o ∈ s.spots i d [], ∃ k c m,
        t.clusters = [(k, c)] ∧ c.launch = n ∧ c.state = .bound ∧ c.die = d ∧ c.origin = o ∧ c.members = [m] ∧
        m.core = d * 144 + o ∧ m.entry < 64 ∧
        (let b := (t.team (teamKey m.core m.entry)).bind
         b.state = .bound ∧ b.ctx = l.ctx ∧ b.launch = n ∧ b.team = 0 ∧ b.groups = l.groups ∧ b.regs = l.regs ∧
           b.entryPc = l.entryPc ∧ b.imageBase = m.imageBase) ∧
        ∃ x, t.launches.find n = some x ∧ x.state = .placed ∧ x.next = 1 ∧ x.effPrio = l.prio ∧ x.ageFrom = s.wall)) ∧
    (∀ c m, let k := teamKey m.core m.entry
      let b := (s.team k).bind
      s.clusters.find q = some c → c.state = .bound → c.rebound = false → c.writeback = false → c.members = [m] →
      m.exited = false → m.entry < 192 → s.ctxFree (s.ctxOfCluster q) = true → s.refused k = false →
      (s.groupsOf k).any (fun g => (s.group g).live) = false → (s.team k).kind = .user →
      s.Inv →
      Becomes .dispatchRunnable s (fun t => s.PutsCluster q { c with state := .runnable, refused := [] } t ∧
        (let lo := sramLoc m.core b.scratchBase
         ∀ a, t.byte a = if lo ≤ a ∧ a < lo + b.scratchSize then 0 else s.byte a) ∧
        t.team k = { s.team k with bind := { b with state := .runnable } } ∧
        ∀ i, i < 128 → b.slots.getLsbD i = true →
          (t.group (groupKey m.core i)).live = true ∧ (t.group (groupKey m.core i)).team = k ∧
          (t.group (groupKey m.core i)).kzero = BitVec.allOnes 120 ∧
          ∀ j, j < 32 → (t.thread (threadKey (groupKey m.core i) j)).pc = b.entryPc.extractLsb' 0 57 ∧
            (t.thread (threadKey (groupKey m.core i) j)).tstate = .run ∧
            (t.thread (threadKey (groupKey m.core i) j)).waitFor = .nothing))

/-- R117, R118, R439, R441: the order reaches a team of a cluster that is being pre-empted, and takes its threads back
before the instructions they only wait at; a team that has stopped leaves its core, and its cluster keeps it; the old cores
write back what they hold of a cluster that is bound elsewhere; and a rebound cluster is restored. -/
def Obligations.PreemptionEvents : Prop :=
  ∀ (s : State),
    let q := s.subj.id
    (∀ c, let m := s.team q
      s.clusters.find m.cluster = some c → c.state = .stopping → m.kind = .user → m.bind.state = .runnable →
      s.issue = [] → s.held = [] → s.ops = [] → s.copies = [] → (∀ a ∈ s.accs, a.kind ≠ .persist) →
      (∀ g, (s.group g).rdv = none ∧ (s.group g).copyRdv = none ∧ (s.group g).quads = []) →
      Becomes .preemptionOrder s (fun t =>
        t = { s with teams := t.teams, groups := t.groups, threads := t.threads, wft := t.wft } ∧
        t.team q = { m with stopping := true, bind := { m.bind with state := .preempted } } ∧
        (∀ g, t.group g = s.group g) ∧
        ∀ u, t.thread u = if u ∈ s.threadsOf q ∧ atRendezvous (s.thread u).waitFor = true then
          { s.thread u with pc := (s.thread u).runPc, waitFor := .nothing, tstate := .run } else s.thread u)) ∧
    (∀ c m, s.clusters.find q = some c → c.members[s.subj.b]? = some m → m.exited = false → m.savedTeam = none →
      let k := teamKey m.core m.entry
      (s.team k).cluster = q → (s.team k).bind.team = s.subj.b → s.teamStopped k = true → s.Unwatched →
      Becomes .teamStopped s (fun t => t.teams.find k = none ∧ (∀ g ∈ s.groupsOf k, t.groups.find g = none) ∧
        ∃ c' m', t.clusters.find q = some c' ∧ c'.members[s.subj.b]? = some m' ∧ m'.savedTeam.isSome = true)) ∧
    (∀ c, s.clusters.find q = some c → c.state = .bound → c.writeback = true → Becomes .rebindWritebackDone s (fun t =>
      s.PutsCluster q { c with writeback := false } t ∧
        ∀ l ∈ t.lines, ∀ m ∈ c.members, oldLine (s.ctxOfCluster q) m l = false)) ∧
    (∀ c m x, let k := teamKey m.core m.entry
      s.clusters.find q = some c → c.state = .bound → c.rebound = true → c.writeback = false → c.members = [m] →
      m.savedTeam = some x → m.entry < 192 → (s.team k).kind = .user →
      (∀ p ∈ m.savedThreads, p.2.waitFor = .nothing) → s.copies = [] → s.quar = [] → s.Unwatched → s.requests = [] →
      s.unitsRoom (s.ctxOfCluster q) c = true → s.ctxFree (s.ctxOfCluster q) = true →
      Becomes .rebindRestore s (fun t =>
        (∃ c' m', t.clusters.find q = some c' ∧ c'.rebound = false ∧ c'.members = [m'] ∧ m'.savedTeam = none ∧ m'.saveBase = 0) ∧
        ∀ i, i < 128 → (s.team k).bind.slots.getLsbD i = true →
          (t.group (groupKey m.core i)).live = true ∧ (t.group (groupKey m.core i)).team = k))

/-! ## Events: messages, waits, batches -/

/-- R97–R101, R434, R452: the oldest message of a core leaves it for the network, is refused where no link is up, or joins
an inbox here; a handler starts as a team of one group whose registers hold the message; and a message that has waited 20 µs
moves a cluster. -/
def Obligations.ActiveMessages : Prop :=
  ∀ (s : State),
    let k := s.subj.id
    (∀ m rest, s.subj.w = false → (s.core k).outbound = m :: rest → s.ctxFree m.ctx = true →
      (m.dstDev ≠ deviceId.toNat → s.boot.ready.extractLsb' 6 4 ≠ 0 → s.subj.a = 0 → Becomes .amArrival s (fun t =>
        t = { s with cores := t.cores, outst := t.outst } ∧ t.core k = { s.core k with outbound := rest } ∧
        ∀ q, m.launch = some q → t.outOf q m.core = { s.outOf q m.core with messages := (s.outOf q m.core).messages - 1 })) ∧
      (m.dstDev ≠ deviceId.toNat → m.dev = deviceId.toNat → s.boot.ready.extractLsb' 6 4 = 0 → Becomes .amArrival s (fun t =>
        t.core k = { s.core k with outbound := rest } ∧
        (t.ctx m.ctx).amNack = (if (s.ctx m.ctx).amNack = 0xFFFFFFFF then 0xFFFFFFFF else (s.ctx m.ctx).amNack + 1) ∧
        ((s.func (s.ownerOf m.ctx)).events.length < 256 → (t.func (s.ownerOf m.ctx)).events =
          (s.func (s.ownerOf m.ctx)).events ++ [eventRecord 2 m.ctx (2 ^ 32 + m.dstDev)]))) ∧
      (∀ s', let die := if m.dstCore < 288 then dieOf m.dstCore else dieOf k
        m.dstDev = deviceId.toNat → (s.inboxOf die).length < 256 → s.amRefusal m die = (s', none) →
        Becomes .amArrival s (fun t => t = { s' with cores := t.cores, inbox := t.inbox } ∧
          t.inbox = s'.inbox ++ [(die, m)] ∧
          t.core k = { s'.core k with outbound := (s'.core k).outbound.drop 1 }))) ∧
    (∀ die m n code kern k1 s1 s2 s3 off, s.inbox[k]? = some (die, m) → m.failed = false → m.batch = none → amAfter ((s.inbox.take k).map (·.2)) m = false →
      s.handlerCore die m = some n → s.handlerEntry n m.dstCtx m.handler = (s1, .ok (code, kern)) →
      s1.handlerKernel n m.dstCtx code kern = (s2, .ok k1) →
      s2.arenaTake m.dstCtx (pageUp (imageSize 1 k1.regs)) = (s3, some off) → s3.slotsFree n ≠ [] →
      m.payload.length = 16 → (s3.lines.filter (fun l => l.core == n)).length + 18 ≤ lineCapacity →
      Becomes .handlerStart s (fun t => t.inbox = s3.inbox.eraseIdx k ∧ t.mem = s3.mem ∧
        (t.team (teamKey n 64)).kind = .handler ∧ (t.team (teamKey n 64)).code = BitVec.ofNat 64 code ∧
        (let b := (t.team (teamKey n 64)).bind
         b.state = .runnable ∧ b.ctx = m.dstCtx ∧ b.groups = 1 ∧ b.entryPc = BitVec.ofNat 64 k1.entry) ∧
        ∃ i ∈ s3.slotsFree n, (t.team (teamKey n 64)).bind.slots = 1#128 <<< i ∧
          ∀ j, j < 32 → (t.thread (threadKey (groupKey n i) j)).pc = BitVec.ofNat 57 k1.entry ∧
            (t.thread (threadKey (groupKey n i) j)).tstate = .run ∧
            t.readRegs (threadKey (groupKey n i) j) 0 (min 18 k1.regs) =
              (m.payload ++ [BitVec.ofNat 32 (m.dev * 65536 + m.core), BitVec.ofNat 32 (m.ctx * 65536 + m.len)]).take
                (min 18 k1.regs))) ∧
    ∀ die m t0 n c, s.inbox[k]? = some (die, m) → m.since = some t0 → t0 + 20 * oneUs ≤ s.wall → s.amLack die m = some n →
      (∀ p ∈ s.clusters, p.2.state ≠ .stopping) → s.amVictim n = some c →
      Becomes .amWaitPreemption s (s.Preempts [c])

/-- R315–R320, R419–R423: a walk of the wait-for tables keeps the cycle it has found, and one found twice in a row is broken
at its youngest wait, which ends with status 1 and marks the launch; a batch is posted as R421 lays it out; a batch whose
DONE is read arms the sets that wait on it, and their threads are ready to replay. -/
def Obligations.WaitsAndFaultBatches : Prop :=
  ∀ (s : State),
    (s.nextWalk ≤ s.wall →
      (s.youngest s.cycleTwice = none →
        Becomes .waitForWalk s (fun t => t = { s with
          nextWalk := s.wall + 100 * oneUs, lastCycle := s.cycle, lastWaits := s.waitPairs.filter (fun w => s.cycle.contains w.1) })) ∧
      (∀ e u, s.youngest s.cycleTwice = some e →
        e.kind = .bar ∨ e.kind = .cbar ∨ e.kind = .waitc → e.tids = [u] → gidOf u < 2 ^ 40 → s.Unwatched →
        Becomes .waitForWalk s (fun t => t.nextWalk = s.wall + 100 * oneUs ∧ t.lastCycle = s.cycle ∧
          t.thread u = { s.thread u with tstate := .run, waitFor := .nothing, waitDst := 126 } ∧
          (∀ w, w ≠ u → t.thread w = s.thread w) ∧
          (s.HasLines u (s.thread u).waitDst.toNat 1 → t.readReg u (s.thread u).waitDst.toNat = 1) ∧
          ∀ c l, s.clusters.find (s.placeOf e.gid).1 = some c → s.launches.find c.launch = some l →
            t.launches.find c.launch = some { l with deadlock := true }))) ∧
    (∀ b, s.batches.find? (fun b => b.id == s.subj.id) = some b → s.Unwatched →
      (let x := s.ctx b.ctx
       let full : Batch := { b with entries := b.entries ++ s.predictions b }
       let loc := x.fqBase.toNat + 128 * ((b.seq.toNat - 1) % 2 ^ x.fqSize.toNat)
       s.batchDue b = true → x.fqOn = true → s.batchTurn b = true → s.subj.w = false → s.linkUp x.fqBase.toNat = true →
       Becomes .loessBatchPost s (fun t =>
         s.Stores loc ((full.record).flatMap (bytesOf 8)) t ∧ (t.ctx b.ctx).fqTail = b.seq ∧
         t.msix = s.msix ++ [(s.ownerOf b.ctx, 1)] ∧ { full with posted := true, loc := loc } ∈ t.batches ∧
         t.threads = s.threads)) ∧
      (∀ x, b.posted = true → doneMask b.seq (s.readN b.loc 8) = some 0 → s.sets = [x] → x.ctx = b.ctx → x.batch = b.seq →
        b.seq ≠ 0 → x.unit ≠ .copy → x.held = 0 → x.gid < 2 ^ 40 → (∀ p ∈ s.threads, p.2.waitFor ≠ .hold) →
        Becomes .batchDoneObserved s (fun t => t.batches = s.batches.filter (fun y => y.id != b.id) ∧
          t.sets = [{ x with state := .armed }] ∧
          ∀ l, l < 32 → x.mask.getLsbD l = true → (s.thread (threadKey x.gid l)).waitFor = .set x.id →
            t.thread (threadKey x.gid l) = { s.thread (threadKey x.gid l) with
              tstate := .run, waitFor := .nothing, pc := x.pc, runPc := x.pc }))) ∧
    ∀ (e : BEntry) (page : BitVec 45), e.page = 4096 * page.toNat →
      (BitVec.ofNat 64 e.word).extractLsb' 12 45 = page ∧ (BitVec.ofNat 64 e.word).extractLsb' 8 4 = BitVec.ofNat 4 e.reason.code ∧
        (BitVec.ofNat 64 e.word).getLsbD 7 = e.pred ∧ (BitVec.ofNat 64 e.word).getLsbD 6 = e.write ∧
        (BitVec.ofNat 64 e.word).getLsbD 5 = e.fetch

/-! ## Events: engines -/

/-- R326–R329, R332, R339, R342, R355, R374: a matrix request completes and raises DN, and TZERO clears its tile, or all of
them; a waiting TCFG gets its units; a walk and a texture operation write their results. -/
def Obligations.EnginesComplete : Prop :=
  ∀ (s : State),
    let k := s.subj.id
    (∀ q n u, s.mreqs.find? (fun q => q.core == k) = some q → s.reqWaits q = false → q.team = some n → u ∈ s.threadsOf n →
      s.alive u = true →
      let m := s.team n
      let mn := tcM q.tcb * tcN q.tcb
      Becomes .matrixRequestComplete s (fun t => t.mreqs = s.mreqs.filter (fun x => x.id != q.id) ∧
        t.team n = { m with dn := m.dn + 1 } ∧
        (∀ a, (s.thread u).waitFor = .ticket a → (m.dn + 1 - a).toNat < 2 ^ 31 →
          t.thread u = { s.thread u with tstate := .run, waitFor := .nothing, waitDst := 126 }) ∧
        (∀ a b h i e, q.instr = .tzero a b h →
          (q.block = BitVec.allOnes 512 ∧ i < tcTiles q.tcb) ∨ (q.block ≠ BitVec.allOnes 512 ∧ i = q.block.toNat) → e < mn →
          t.accWord (accKey q.units q.core (i * mn + e)) = 0 ∧ accKey q.units q.core (i * mn + e) ∉ t.accPoison))) ∧
    (∀ o l d a n b, s.ops.find? (fun o => o.id == k) = some o → o.lanes = [l] → o.instr = .tcfg d a n →
      (s.thread l.tid).waitFor = .tcfg → (s.thread l.tid).inSet = none → (s.team (s.teamOf l.tid)).nextTcb = some b →
      s.unitsFree o l b = true → tcbRelease b = false →
      s.HasLines l.tid d.toNat 1 →
      Becomes .tcfgUnitsGranted s (fun t => t.mem = s.mem ∧ s.GoesOn o l t ∧ t.readReg l.tid d.toNat = 0 ∧
        (t.team (s.teamOf l.tid)).tcb = some b ∧
        ∀ x ∈ (t.team (s.teamOf l.tid)).units, x < 16 ∧ ∀ j, j ≠ s.teamOf l.tid → j ∈ s.teamsOn o.core → x ∉ (s.team j).units)) ∧
    (∀ o l d a w w' s', s.OneLane o l → o.instr = .trace d a → o.walk = some w → s.walkRun o l 4096 w = (s', .done w') →
      s'.thread l.tid = s.thread l.tid → s'.HasLines l.tid d.toNat 8 → Becomes .walkEnd s (fun t =>
        s'.GoesOn o l t ∧ t.mem = s'.mem ∧ t.ops = s'.ops.filter (fun x => x.id != o.id) ∧
        t.readRegs l.tid d.toNat 8 = wordsLow 8 (match (w'.rays.head?).bind (·.best) with
          | none => 0
          | some h => joinWords [1, (f32Of h.t).toNat, h.u.toNat, h.v.toNat, h.prim.toNat, h.instId.toNat, h.geom.toNat, b2n h.back]))) ∧
    (∀ o l d a b v s', s.OneLane o l → o.instr = .tex d a b → o.stage = 1 → s.texOne o l = (s', .value v []) →
      s'.thread l.tid = s.thread l.tid → s'.HasLines l.tid d.toNat 4 → Becomes .textureSampleEnd s (fun t =>
        s'.GoesOn o l t ∧ t.mem = s'.mem ∧ t.ops = s'.ops.filter (fun x => x.id != o.id) ∧
        t.readRegs l.tid d.toNat 4 = wordsLow 4 v))

/-- R382, R387, R388: a step of a die's optimiser takes its batch from the ring; step 2 of a commit makes the trained
parameters of both dies agree; step 3 gives a die its new generation, and the last one ends the commit for its waiters. -/
def Obligations.RadianceEvents : Prop :=
  ∀ (s : State),
    let k := s.subj.id
    (∀ c, s.marl.cfg = some c → 2 ^ c.batchLog2 ≤ (s.marl.die k).ring.length → s.rccfgBusy = false → s.marl.commit = none →
      Becomes .optimiserStep s (fun t => t = { s with marl := t.marl, freeCount := s.freeCount + 1 } ∧
        (t.marl.die k).steps = (s.marl.die k).steps + 1 ∧ (t.marl.die k).stepsNew = (s.marl.die k).stepsNew + 1 ∧
        (t.marl.die k).ring = (s.marl.die k).ring.drop (2 ^ c.batchLog2) ∧ (t.marl.die k).g = (s.marl.die k).g ∧
        (k = 0 → t.marl.die1 = s.marl.die1) ∧ (k ≠ 0 → t.marl.die0 = s.marl.die0))) ∧
    (∀ c cfg, s.marl.commit = some c → s.marl.cfg = some cfg → c.exchanged = false → Becomes .radianceCommit s (fun t =>
      let x := s.marl.die0
      let y := s.marl.die1
      t = { s with marl := t.marl } ∧ t.marl.die0.master = t.marl.die1.master ∧ t.marl.die0.m = t.marl.die1.m ∧
      t.marl.die0.v = t.marl.die1.v ∧ t.marl.die0.g = x.g ∧ t.marl.die1.g = y.g ∧
      t.marl.die0.steps = max x.steps y.steps ∧ t.marl.die1.steps = max x.steps y.steps ∧
      t.marl.die0.toSwitch = true ∧ t.marl.die1.toSwitch = true ∧
      t.marl.commit = some { c with exchanged := true, folded := BitVec.ofNat 32 (x.stepsNew + y.stepsNew) } ∧
      ∀ i, i < cfg.params → t.marl.die0.master.at' 0 i = meanF32 (x.master.at' 0 i) (y.master.at' 0 i))) ∧
    (∀ c, s.marl.commit = some c → c.exchanged = true → (s.marl.die k).toSwitch = true →
      (s.marl.die (if k = 0 then 1 else 0)).toSwitch = true → Becomes .generationSwitch s (fun t =>
        t = { s with marl := t.marl, poison := t.poison } ∧ (t.marl.die k).gen = (s.marl.die k).gen + 1 ∧
        (t.marl.die k).toSwitch = false ∧ (t.marl.die k).master = (s.marl.die k).master ∧ t.marl.commit = some c)) ∧
    (∀ c u, s.marl.commit = some c → c.exchanged = true → s.marl.die0.toSwitch = true → s.marl.die1.toSwitch = false → k = 0 →
      c.waiters = [u] → c.later = [] → (s.thread u).waitFor = .result 0 → s.HasLines u (s.thread u).waitDst.toNat 2 →
      Becomes .generationSwitch s (fun t => t.marl.die0.gen = s.marl.die0.gen + 1 ∧ t.marl.commit = none ∧ t.mem = s.mem ∧
        t.readRegs u (s.thread u).waitDst.toNat 2 = wordsLow 2 ((s.marl.die0.gen + 1).toNat + c.folded.toNat * 2 ^ 32) ∧
        s.PutsThread u { s.thread u with waitFor := .nothing, waitDst := 126 } { s with threads := t.threads }))
end

