-- ==== Sys2Proof/Laws/Tab.lean ====
section
/-! SUPPORT. What reading a table gives after one write. -/
namespace Sys2Proof.Machine.Tab
variable {α : Type}

@[simp] theorem find_put_same (t : Tab α) (k : Nat) (v : α) : find (put t k v) k = some v := by
  induction t with
  | nil => simp [put, find]
  | cons p r ih =>
    obtain ⟨k', v'⟩ := p
    simp only [put]
    split
    · simp [find]
    · split
      · simp [find]
      · simp [find, *]

theorem find_put_other (t : Tab α) (k j : Nat) (v : α) (h : j ≠ k) : find (put t k v) j = find t j := by
  induction t with
  | nil => simp [put, find, h]
  | cons p r ih =>
    obtain ⟨k', v'⟩ := p
    simp only [put]
    split
    · subst_vars; simp [find, h]
    · split
      · simp [find, h]
      · simp only [find, ih]

theorem find_put (t : Tab α) (k j : Nat) (v : α) : find (put t k v) j = if j = k then some v else find t j := by
  split
  · subst_vars; simp
  · exact find_put_other t k j v ‹_›

@[simp] theorem at_put_same (t : Tab α) (d v : α) (k : Nat) : at' (put t k v) d k = v := by simp [at']

theorem at_put_other (t : Tab α) (d v : α) (k j : Nat) (h : j ≠ k) : at' (put t k v) d j = at' t d j := by
  simp [at', find_put_other t k j v h]

theorem at_put (t : Tab α) (d v : α) (k j : Nat) : at' (put t k v) d j = if j = k then v else at' t d j := by
  simp only [at', find_put]
  split <;> simp

theorem at_eq_of_find {t : Tab α} {k : Nat} {v : α} (d : α) (h : find t k = some v) : at' t d k = v := by simp [at', h]

theorem find_del_same (t : Tab α) (k : Nat) : find (del t k) k = none := by
  induction t with
  | nil => simp [del, find]
  | cons p r ih =>
    obtain ⟨k', v'⟩ := p
    by_cases h : k' = k
    · simpa [del, h, List.filter_cons] using ih
    · have h' : ¬ k = k' := fun e => h e.symm
      simpa [del, h, h', List.filter_cons, find] using ih

end Sys2Proof.Machine.Tab
end

