-- ==== Sys2Proof/Laws/Regs.lean ====
section
/-! SUPPORT. Registers: what one write of a register does, and what every read gives after it. -/
namespace Sys2Proof.Machine

/-- A write to register `n` of thread `t` evicts nothing: its line is present, or its core's file has room. -/
def State.Placed (s : State) (t n : Nat) : Prop :=
  (s.lineOf (gidOf t) n).isSome ∨ (s.lines.filter (fun l => l.core == coreOf t)).length < lineCapacity

theorem makeRoom_free (s : State) (c : Nat) (h : (s.lines.filter (fun l => l.core == c)).length < lineCapacity) :
    s.makeRoom c = s := by
  simp only [State.makeRoom, h, if_true]

/-- A line has a tag. -/
def RegLine.at_ (core ctx tag : Nat) (l : RegLine) : Bool := l.core == core && l.tag == tag && l.ctx == ctx

/-- The lines after a write that evicts nothing. -/
def linesAfter (s : State) (t n : Nat) (v : Word) : List RegLine :=
  (s.lines ++ if (s.lineOf (gidOf t) n).isSome then [] else [s.newLine t n]).map (fun l =>
    if l.at_ (coreOf t) (s.ctxOfGroup (gidOf t)) (s.lineAddr (gidOf t) n) then s.wrote t v l else l)

/-- A write of a register changes the register lines alone. -/
theorem writeReg_eq (s : State) (t n : Nat) (v : Word) (h : s.Placed t n) :
    s.writeReg t n v = { s with lines := linesAfter s t n v } := by
  simp only [State.writeReg, linesAfter, State.placeLine]
  split
  · simp [State.modLine, RegLine.at_]
  · rcases h with h | h
    · contradiction
    · simp [State.modLine, RegLine.at_, makeRoom_free s _ h]

theorem find_map_key {p : RegLine → Bool} {f : RegLine → RegLine} (hf : ∀ l, p (f l) = p l) (L : List RegLine) :
    (L.map f).find? p = (L.find? p).map f := by
  induction L with
  | nil => rfl
  | cons l r ih =>
    simp only [List.map_cons, List.find?_cons, hf]
    cases p l <;> simp [ih]

theorem line_eq (s : State) (core ctx tag : Nat) : s.line core ctx tag = s.lines.find? (RegLine.at_ core ctx tag) := rfl

theorem at_wrote (s : State) (t core ctx tag : Nat) (v : Word) (l : RegLine) :
    (s.wrote t v l).at_ core ctx tag = l.at_ core ctx tag := rfl

theorem at_iff (core ctx tag : Nat) (l : RegLine) : l.at_ core ctx tag = true ↔ l.core = core ∧ l.tag = tag ∧ l.ctx = ctx := by
  simp [RegLine.at_, and_assoc]

theorem at_newLine (s : State) (t n core ctx tag : Nat) : (s.newLine t n).at_ core ctx tag = true ↔
    coreOf t = core ∧ s.lineAddr (gidOf t) n = tag ∧ s.ctxOfGroup (gidOf t) = ctx := at_iff _ _ _ _

/-- The line that a write leaves, and every other line. -/
theorem line_linesAfter (s : State) (t n : Nat) (v : Word) (core ctx tag : Nat) :
    ({ s with lines := linesAfter s t n v }).line core ctx tag =
      if core = coreOf t ∧ ctx = s.ctxOfGroup (gidOf t) ∧ tag = s.lineAddr (gidOf t) n then
        some (s.wrote t v ((s.lineOf (gidOf t) n).getD (s.newLine t n)))
      else s.line core ctx tag := by
  rw [line_eq, linesAfter, find_map_key (by intro l; split <;> rfl), List.find?_append, ← line_eq]
  have hs : s.lineOf (gidOf t) n = s.line (coreOf t) (s.ctxOfGroup (gidOf t)) (s.lineAddr (gidOf t) n) := rfl
  by_cases h : core = coreOf t ∧ ctx = s.ctxOfGroup (gidOf t) ∧ tag = s.lineAddr (gidOf t) n
  · rw [if_pos h]
    obtain ⟨rfl, rfl, rfl⟩ := h
    rw [hs]
    cases e : s.line (coreOf t) (s.ctxOfGroup (gidOf t)) (s.lineAddr (gidOf t) n) with
    | some l =>
      have hl := List.find?_some (line_eq s _ _ _ ▸ e)
      simp [hl]
    | none => simp [(at_newLine s t n _ _ _).2 ⟨rfl, rfl, rfl⟩]
  · rw [if_neg h]
    cases e : s.line core ctx tag with
    | some l =>
      have hl := (at_iff _ _ _ _).1 (List.find?_some (line_eq s _ _ _ ▸ e))
      have : ¬ l.at_ (coreOf t) (s.ctxOfGroup (gidOf t)) (s.lineAddr (gidOf t) n) = true := by
        rw [at_iff]
        intro k
        exact h ⟨hl.1.symm.trans k.1, hl.2.2.symm.trans k.2.2, hl.2.1.symm.trans k.2.1⟩
      simp [this]
    | none =>
      have : ¬ (s.newLine t n).at_ core ctx tag = true := by
        rw [at_newLine]
        intro k
        exact h ⟨k.1.symm, k.2.2.symm, k.2.1.symm⟩
      split <;> simp [this]

/-- A register read, given the line that holds it. -/
def State.readVia (s : State) (l : Option RegLine) (t n : Nat) : Word :=
  let image := if (s.group (gidOf t)).kzero.getLsbD n then 0
    else s.imageWord (s.ctxOfGroup (gidOf t)) (s.lineAddr (gidOf t) n) (laneOf t)
  match l with
  | some l => (l.vals.find (laneOf t)).getD image
  | none => image

theorem readReg_via (s : State) (t n : Nat) : s.readReg t n = s.readVia (s.lineOf (gidOf t) n) t n := rfl

theorem readVia_lines (s : State) (L : List RegLine) (l : Option RegLine) (t n : Nat) :
    ({ s with lines := L }).readVia l t n = s.readVia l t n := rfl

theorem lineOf_linesAfter (s : State) (t n : Nat) (v : Word) (u m : Nat) :
    ({ s with lines := linesAfter s t n v }).lineOf (gidOf u) m =
      if coreOf u = coreOf t ∧ s.ctxOfGroup (gidOf u) = s.ctxOfGroup (gidOf t) ∧
          s.lineAddr (gidOf u) m = s.lineAddr (gidOf t) n then
        some (s.wrote t v ((s.lineOf (gidOf t) n).getD (s.newLine t n)))
      else s.lineOf (gidOf u) m :=
  line_linesAfter s t n v (coreOfGroup (gidOf u)) (s.ctxOfGroup (gidOf u)) (s.lineAddr (gidOf u) m)

/-- A register that a thread has written reads as written. -/
theorem readReg_writeReg_same (s : State) (t n : Nat) (v : Word) (h : s.Placed t n) : (s.writeReg t n v).readReg t n = v := by
  rw [writeReg_eq s t n v h, readReg_via, readVia_lines, lineOf_linesAfter, if_pos ⟨rfl, rfl, rfl⟩]
  simp [State.readVia, State.wrote]

/-- A register whose cell is another one reads as before. -/
theorem readReg_writeReg_other (s : State) (t n u m : Nat) (v : Word) (h : s.Placed t n)
    (hc : ¬(coreOf u = coreOf t ∧ s.ctxOfGroup (gidOf u) = s.ctxOfGroup (gidOf t) ∧
      s.lineAddr (gidOf u) m = s.lineAddr (gidOf t) n ∧ laneOf u = laneOf t)) :
    (s.writeReg t n v).readReg u m = s.readReg u m := by
  rw [writeReg_eq s t n v h, readReg_via, readVia_lines, lineOf_linesAfter]
  split
  · rename_i e
    have hlane : laneOf u ≠ laneOf t := fun x => hc ⟨e.1, e.2.1, e.2.2, x⟩
    have hln : s.lineOf (gidOf u) m = s.lineOf (gidOf t) n := by
      simp only [State.lineOf, e.2.1, e.2.2]
      rw [show coreOfGroup (gidOf u) = coreOfGroup (gidOf t) from e.1]
    rw [readReg_via, hln]
    cases hx : s.lineOf (gidOf t) n with
    | some l => simp [State.readVia, State.wrote, Tab.find_put_other _ _ _ _ hlane]
    | none => simp [State.readVia, State.wrote, State.newLine, Tab.find_put_other _ _ _ _ hlane, Tab.find]
  · rfl

/-- Lines of a core after a write. -/
theorem length_linesAfter (s : State) (t n : Nat) (v : Word) (c : Nat) :
    ((linesAfter s t n v).filter (fun l => l.core == c)).length ≤ (s.lines.filter (fun l => l.core == c)).length +
      (if (s.lineOf (gidOf t) n).isSome then 0 else 1) := by
  simp only [linesAfter, List.filter_map, List.length_map]
  have : (fun l : RegLine => l.core == c) ∘ (fun l : RegLine =>
      if l.at_ (coreOf t) (s.ctxOfGroup (gidOf t)) (s.lineAddr (gidOf t) n) then s.wrote t v l else l) =
      (fun l : RegLine => l.core == c) := by
    funext l
    simp only [Function.comp]
    split <;> rfl
  rw [this, List.filter_append, List.length_append]
  split
  · simp
  · have := List.length_filter_le (fun l : RegLine => l.core == c) [s.newLine t n]
    simpa using this

/-- A line that is present stays present. -/
theorem lineOf_stays (s : State) (t n : Nat) (v : Word) (u m : Nat) (h : (s.lineOf (gidOf u) m).isSome) :
    (({ s with lines := linesAfter s t n v }).lineOf (gidOf u) m).isSome := by
  rw [lineOf_linesAfter]
  split
  · simp
  · exact h

end Sys2Proof.Machine
end

