-- ==== Sys2Proof/Laws/Issue.lean ====
section
/-! SUPPORT. The issue frame: what issuing a word to a bundle that executes it comes to, once for every instruction. -/
namespace Sys2Proof.Machine

/-! ## Traps of nobody -/

@[simp] theorem trapAt_nil (s : State) (b : Bundle) (c : Cause) (f : Nat → TrapInfo) : s.trapAt b [] c f = s := by
  unfold State.trapAt State.leaveWindow
  split <;> rfl

@[simp] theorem decodeTraps_nil (s : State) (b : Bundle) : s.decodeTraps b [] = s := by
  simp [State.decodeTraps]

/-! ## Threads move on -/

theorem thread_modThread (s : State) (t u : Nat) (f : Thread → Thread) :
    (s.modThread t f).thread u = if u = t then f (s.thread t) else s.thread u := by
  simp only [State.modThread, State.setThread, State.thread, Tab.at_put]

/-- Threads changed one after another by functions that may be applied once. -/
theorem thread_foldl_mod (ts : List Nat) (f : Nat → Thread → Thread) (u : Nat) (hn : ts.Nodup) (s : State) :
    (ts.foldl (fun s t => s.modThread t (f t)) s).thread u = if u ∈ ts then f u (s.thread u) else s.thread u := by
  induction ts generalizing s with
  | nil => simp
  | cons t r ih =>
    have hr := (List.nodup_cons.1 hn)
    simp only [List.foldl_cons, ih hr.2, thread_modThread, List.mem_cons]
    by_cases e : u = t
    · subst e; simp [hr.1]
    · simp [e]

theorem foldl_mod_eq (ts : List Nat) (f : Nat → Thread → Thread) (s : State) :
    ts.foldl (fun s t => s.modThread t (f t)) s =
      { s with threads := (ts.foldl (fun s t => s.modThread t (f t)) s).threads } := by
  induction ts generalizing s with
  | nil => rfl
  | cons t r ih =>
    simp only [List.foldl_cons]
    rw [ih]
    simp only [State.modThread, State.setThread]

theorem nodup_of_lanes {ts : List Nat} (h : (ts.map laneOf).Nodup) : ts.Nodup := List.Nodup.of_map _ h

theorem advance_fold (b : Bundle) (ts : List Nat) (clk : Nat) : ∀ s : State, s.clk = clk →
    s.advance b ts = ts.foldl (fun s t => s.modThread t (fun x =>
      { x with pc := b.pc + 4, runPc := b.pc + 4, age := clk, stallTill := if hStall b.hints = 0 then 0 else clk + hStall b.hints,
               yields := hYield b.hints })) s := by
  induction ts with
  | nil => intro s _; rfl
  | cons t r ih =>
    intro s h
    subst h
    exact ih _ rfl

/-- Advancing changes threads alone. -/
theorem advance_eq (s : State) (b : Bundle) (ts : List Nat) :
    s.advance b ts = { s with threads := (s.advance b ts).threads } := by
  rw [advance_fold b ts s.clk s rfl]
  exact foldl_mod_eq ts _ s

theorem noteReads_fold (rs ts : List Nat) (clk : Nat) : ∀ s : State, s.clk = clk →
    s.noteReads rs ts = ts.foldl (fun s t => s.modThread t (fun x =>
      { x with reads := rs.foldl (fun l n => l.put n clk) x.reads })) s := by
  induction ts with
  | nil => intro s _; rfl
  | cons t r ih =>
    intro s h
    subst h
    exact ih _ rfl

/-- Noting reads changes threads alone. -/
theorem noteReads_eq (s : State) (rs ts : List Nat) :
    s.noteReads rs ts = { s with threads := (s.noteReads rs ts).threads } := by
  rw [noteReads_fold rs ts s.clk s rfl]
  exact foldl_mod_eq ts _ s

theorem thread_noteReads (s : State) (rs ts : List Nat) (hn : ts.Nodup) (u : Nat) :
    (s.noteReads rs ts).thread u =
      if u ∈ ts then { s.thread u with reads := rs.foldl (fun l n => l.put n s.clk) (s.thread u).reads } else s.thread u := by
  rw [noteReads_fold rs ts s.clk s rfl, thread_foldl_mod ts _ u hn]

/-- Threads of a bundle that issue its word, before its effect: their sources' lines are used, and they move on. -/
def State.moveOn (s : State) (b : Bundle) (i : Instr) (ts : List Nat) : State :=
  (s.noteReads (regsRead b.hints (s.formAt (s.bundleCtx b) b.hints i)) ts).advance b ts

/-- Moving on changes threads alone. -/
theorem moveOn_eq (s : State) (b : Bundle) (i : Instr) (ts : List Nat) :
    s.moveOn b i ts = { s with threads := (s.moveOn b i ts).threads } := by
  unfold State.moveOn
  rw [advance_eq, noteReads_eq]

/-- A thread that has issued stands at the next word. -/
theorem thread_moveOn (s : State) (b : Bundle) (i : Instr) (ts : List Nat) (hn : ts.Nodup) (u : Nat) :
    (s.moveOn b i ts).thread u = if u ∈ ts then (s.thread u).issued s b i else s.thread u := by
  unfold State.moveOn
  rw [advance_fold b ts s.clk _ (by rw [noteReads_eq]), thread_foldl_mod ts _ u hn, thread_noteReads s _ ts hn]
  split <;> rfl

/-- The form of a word that is no XOP. -/
theorem formAt_word (s : State) (c : Nat) (h : Hints) (i : Instr) (hx : xopIndex i = none) : s.formAt c h i = formOf h i := by
  unfold State.formAt
  split
  · simp [xopIndex] at hx
  · rfl

/-! ## The frame -/

theorem filterMap_none {α β : Type} (f : α → Option β) (l : List α) (h : ∀ x ∈ l, f x = none) : l.filterMap f = [] := by
  induction l with
  | nil => rfl
  | cons x r ih =>
    rw [List.filterMap_cons, h x (by simp)]
    exact ih (fun y hy => h y (by simp [hy]))

theorem decodeFail_issue (s : State) (q : List Bundle) (b : Bundle) (i : Instr) (t : Nat) :
    ({ s with issue := q }).decodeFail b i t = s.decodeFail b i t := rfl

/-- Issuing the word `i` to a bundle that executes it: its threads move on, the effect takes place for all of them, and the
latch counts are kept. -/
theorem issueWord_executes {s : State} {b : Bundle} {rest : List Bundle} {i : Instr} (h : s.Executes b rest i) (eff : Effect) :
    s.issueWord i eff = .next ((eff b b.threads ({ s with issue := rest }.moveOn b i b.threads)).keepLatches b i
      (formOf b.hints i) b.threads) := by
  have hx : xopIndex i = none := by
    cases e : xopIndex i with
    | none => rfl
    | some n => exact absurd e (h.word n)
  have hf : ∀ c, ({ s with issue := rest }).formAt c b.hints i = formOf b.hints i := fun c => formAt_word _ c b.hints i hx
  have hfail : b.threads.filterMap (fun t => (({ s with issue := rest }).decodeFail b i t).map (fun c => (t, c))) = [] := by
    apply filterMap_none
    intro t ht
    rw [decodeFail_issue, h.passes t ht]; rfl
  have hguard : b.threads.filter (({ s with issue := rest }).guardOn b.hints) = b.threads := by
    rw [List.filter_eq_self]
    intro t ht
    simp only [State.guardOn]
    rw [show (({ s with issue := rest } : State).thread t) = s.thread t from rfl, h.guard t ht]
    simp
  have hbad : ({ s with issue := rest }).poisonedReaders b i (formOf b.hints i) b.threads = [] := by
    simp only [State.poisonedReaders]
    rw [List.filter_eq_nil_iff]
    intro t ht
    have : (regsRead b.hints (formOf b.hints i)).any (({ s with issue := rest } : State).regPoisoned t) = false := by
      rw [List.any_eq_false]
      intro n hn
      have := h.clean t ht n hn
      rw [show ({ s with issue := rest } : State).regPoisoned t n = s.regPoisoned t n from rfl, this]
      simp
    simp [this]
  have hmeet : ({ s with issue := rest }).meetReads b (formOf b.hints i) b.threads = { s with issue := rest } := by
    simp only [State.meetReads, h.sound, List.isEmpty_nil, if_true]
  unfold State.issueWord
  rw [h.head]
  simp only [State.issueTo, hf, hfail, decodeTraps_nil, List.any_nil, Bool.not_false, List.filter_true, hx, Option.isSome_none,
    Bool.false_eq_true, if_false, hguard, hmeet, hbad, trapAt_nil, List.contains_nil, State.moveOn]

end Sys2Proof.Machine
end

