-- ==== Sys2Proof/Laws/Write.lean ====
section
/-! SUPPORT. Writing a result: what a destination of any width leaves, for one thread and for the threads of a bundle. -/
namespace Sys2Proof.Machine

/-- Two registers of threads share a cell. -/
def State.Same (s : State) (u m t n : Nat) : Prop :=
  coreOf u = coreOf t ∧ s.ctxOfGroup (gidOf u) = s.ctxOfGroup (gidOf t) ∧ s.lineAddr (gidOf u) m = s.lineAddr (gidOf t) n ∧
    laneOf u = laneOf t

theorem same_iff_cell (s : State) (u m t n : Nat) : s.Same u m t n ↔ s.cell u m = s.cell t n := by
  simp [State.Same, State.cell]

theorem lineAddr_inj (s : State) (g n m : Nat) (h : s.lineAddr g n = s.lineAddr g m) : n = m := by
  simp only [State.lineAddr] at h; omega

/-- The registers from `n` on of thread `t` can be written without an eviction. -/
def State.Avail (s : State) (t n k : Nat) : Prop :=
  (∀ i < k, (s.lineOf (gidOf t) (n + i)).isSome) ∨ (s.lines.filter (fun l => l.core == coreOf t)).length + k ≤ lineCapacity

/-- What writing some registers of one thread leaves: the state but for the register lines, the registers written, every
register of another cell, the lines that were present, and a bound on the lines of each core. -/
structure State.Wrote (s : State) (t n : Nat) (ws : List Word) (s' : State) : Prop where
  frame : s' = { s with lines := s'.lines }
  result : ∀ i (h : i < ws.length), s'.readReg t (n + i) = ws[i]
  other : ∀ u m, (∀ i < ws.length, ¬ s.Same u m t (n + i)) → s'.readReg u m = s.readReg u m
  present : ∀ u m, (s.lineOf (gidOf u) m).isSome → (s'.lineOf (gidOf u) m).isSome
  count : (s'.lines.filter (fun l => l.core == coreOf t)).length ≤
    (s.lines.filter (fun l => l.core == coreOf t)).length + ws.length

theorem writeReg_wrote (s : State) (t n : Nat) (v : Word) (h : s.Placed t n) : s.Wrote t n [v] (s.writeReg t n v) := by
  refine ⟨writeReg_eq s t n v h ▸ rfl, ?_, ?_, ?_, ?_⟩
  · intro i hi
    simp at hi
    subst hi
    simpa using readReg_writeReg_same s t n v h
  · intro u m hc
    exact readReg_writeReg_other s t n u m v h (by simpa [State.Same] using hc 0 (by simp))
  · intro u m hp
    rw [writeReg_eq s t n v h]
    exact lineOf_stays s t n v u m hp
  · rw [writeReg_eq s t n v h]
    refine le_trans (length_linesAfter s t n v (coreOf t)) ?_
    split <;> simp

theorem same_frame (s : State) (L : List RegLine) (u m t n : Nat) : ({ s with lines := L }).Same u m t n ↔ s.Same u m t n := Iff.rfl

/-- Consecutive registers written (R42). -/
theorem writeRegs_wrote (t : Nat) : ∀ (ws : List Word) (s : State) (n : Nat), s.Avail t n ws.length →
    s.Wrote t n ws (s.writeRegs t n ws) := by
  intro ws
  induction ws with
  | nil =>
    intro s n _
    exact ⟨rfl, by simp, fun _ _ _ => rfl, fun _ _ h => h, by simp [State.writeRegs]⟩
  | cons v r ih =>
    intro s n h
    have hp : s.Placed t n := by
      rcases h with h | h
      · exact Or.inl (by simpa using h 0 (by simp))
      · refine Or.inr ?_
        simp only [List.length_cons] at h
        omega
    have w1 := writeReg_wrote s t n v hp
    have ha : (s.writeReg t n v).Avail t (n + 1) r.length := by
      rcases h with h | h
      · refine Or.inl (fun i hi => w1.present t _ ?_)
        have := h (i + 1) (by simpa using hi)
        rwa [show n + 1 + i = n + (i + 1) by omega]
      · refine Or.inr ?_
        have := w1.count
        simp only [List.length_cons, List.length_nil] at h this
        omega
    have w2 := ih (s.writeReg t n v) (n + 1) ha
    have hs : ∀ u m x y, (s.writeReg t n v).Same u m x y ↔ s.Same u m x y := by
      intro u m x y
      rw [w1.frame]; rfl
    show s.Wrote t n (v :: r) ((s.writeReg t n v).writeRegs t (n + 1) r)
    refine ⟨?_, ?_, ?_, ?_, ?_⟩
    · have e := w2.frame
      rw [w1.frame] at e
      exact w1.frame ▸ e
    · intro i hi
      cases i with
      | zero =>
        rw [w2.other]
        · simpa using w1.result 0 (by simp)
        · intro j _ hc
          rw [hs] at hc
          have := lineAddr_inj s _ _ _ hc.2.2.1
          omega
      | succ j =>
        have := w2.result j (by simpa using hi)
        rw [show n + (j + 1) = n + 1 + j by omega]
        simpa using this
    · intro u m hc
      rw [w2.other u m, w1.other u m]
      · intro i hi
        simp at hi
        subst hi
        exact hc 0 (by simp)
      · intro i hi k
        rw [hs] at k
        refine hc (i + 1) (by simpa using hi) ?_
        rwa [show n + (i + 1) = n + 1 + i by omega]
    · exact fun u m hm => w2.present u m (w1.present u m hm)
    · have a := w1.count
      have b := w2.count
      simp only [List.length_cons, List.length_nil] at *
      omega

/-- Registers read one after another. -/
theorem readRegs_eq (s : State) (t n k : Nat) : s.readRegs t n k = (List.range k).map (fun i => s.readReg t (n + i)) := by
  induction k generalizing n with
  | zero => rfl
  | succ k ih =>
    simp only [State.readRegs, ih, List.range_succ_eq_map, List.map_cons, List.map_map]
    congr 1
    apply List.map_congr_left
    intro i _
    simp [Nat.add_comm, Nat.add_left_comm]

theorem wordsOf_length (n x : Nat) : (wordsOf n x).length = n := by simp [wordsOf]

end Sys2Proof.Machine
end

