-- ==== Sys2Proof/Laws/Deliver.lean ====
section
/-! SUPPORT. Delivering results and conditions: the threads of a bundle write one destination each (R42, R43, R201). -/
namespace Sys2Proof.Machine

/-! ## Conditions -/

theorem foldl_or (l : List (BitVec 5)) (x : BitVec 5) : l.foldl (· ||| ·) x = x ||| l.foldl (· ||| ·) 0 := by
  induction l generalizing x with
  | nil => simp
  | cons y r ih =>
    simp only [List.foldl_cons]
    rw [ih (x ||| y), ih (0 ||| y)]
    simp [BitVec.or_assoc]

@[simp] theorem orAll_nil : orAll [] = 0 := rfl
@[simp] theorem orAll_cons (x : BitVec 5) (l : List (BitVec 5)) : orAll (x :: l) = x ||| orAll l := by
  simp only [orAll, List.foldl_cons]
  rw [foldl_or]
  simp

/-- A condition when a test holds. -/
def whenC (p : Bool) (c : BitVec 5) : BitVec 5 := if p then c else 0

theorem orAll_filter_cons (p : Nat → Bool) (c : Nat → BitVec 5) (t : Nat) (r : List Nat) :
    orAll (((t :: r).filter p).map c) = whenC (p t) (c t) ||| orAll ((r.filter p).map c) := by
  simp only [List.filter_cons, whenC]
  cases p t <;> simp

/-- What recording conditions of one thread leaves (R201). -/
structure State.Recorded (s : State) (t : Nat) (c : BitVec 5) (s' : State) : Prop where
  frame : s' = { s with launches := s'.launches, ctxs := s'.ctxs }
  launches : ∀ q, s'.launches.find q =
    (s.launches.find q).map (fun l => { l with conds := l.conds ||| whenC (s.launchOf t == some q) c })
  contexts : ∀ k, s'.ctx k =
    { s.ctx k with fpstat := (s.ctx k).fpstat ||| whenC ((s.launchOf t).isNone && s.ctxOf t == k) c }

theorem record_recorded (s : State) (t : Nat) (c : BitVec 5) : s.Recorded t c (s.record t c) := by
  unfold State.record
  split
  · subst_vars
    refine ⟨rfl, fun q => ?_, fun k => ?_⟩
    · simp [whenC]
    · simp [whenC]
  · split
    · rename_i q0 e
      unfold State.modLaunch
      split
      · rename_i l0 el
        refine ⟨rfl, fun q => ?_, fun k => ?_⟩
        · simp only [Tab.find_put]
          split
          · subst_vars; simp [el, e, whenC]
          · rename_i hq
            have : ¬ (some q0 == some q) = true := by simpa using fun h => hq h.symm
            simp [e, whenC, this]
        · simp [e, whenC, State.ctx]
      · rename_i el
        refine ⟨rfl, fun q => ?_, fun k => ?_⟩
        · by_cases hq : q = q0
          · subst hq; simp [el]
          · have : ¬ (some q0 == some q) = true := by simpa using fun h => hq h.symm
            simp [e, whenC, this]
        · simp [e, whenC]
    · rename_i e
      refine ⟨rfl, fun q => ?_, fun k => ?_⟩
      · simp [State.modCtx, State.setCtx, e, whenC]
      · simp only [State.modCtx, State.setCtx, State.ctx, Tab.at_put]
        split
        · subst_vars; simp [e, whenC]
        · rename_i hk
          have : ¬ (s.ctxOf t == k) = true := by simpa using fun h => hk h.symm
          simp [e, whenC, this]

/-! ## One thread's destination -/

/-- Registers that a destination names. -/
def dstRegs (d : Option Use) : List Nat := regsWritten { dst := d }

theorem regsWritten_eq (f : Form) : regsWritten f = dstRegs f.dst := rfl

/-- A destination's register count fits its width (R42). -/
def fits (d : Option Use) : Prop := ∀ u, d = some u → u.regs = if u.width ≤ 32 then 1 else u.width / 32

/-- Writing a result to a destination that may be absent. -/
def State.putDst (s : State) (t : Nat) (d : Option Use) (v : Nat) : State :=
  match d with
  | some u => s.writeDst t u.code u.width v
  | none => s

/-- What one thread's result leaves. -/
structure State.Put1 (s : State) (t : Nat) (d : Option Use) (v : Nat) (s' : State) : Prop where
  frame : s' = { s with threads := s'.threads, lines := s'.lines }
  own : s'.thread t = (s.thread t).latched d v
  others : ∀ u, u ≠ t → s'.thread u = s.thread u
  result : ∀ u, d = some u → u.code.toNat < 120 → s'.readRegs t u.code.toNat u.regs = wordsOf u.regs (v % 2 ^ u.width)
  registers : ∀ u n, (∀ m ∈ dstRegs d, ¬ s.Same u n t m) → s'.readReg u n = s.readReg u n
  present : ∀ u m, (s.lineOf (gidOf u) m).isSome → (s'.lineOf (gidOf u) m).isSome
  count : (s'.lines.filter (fun l => l.core == coreOf t)).length ≤
    (s.lines.filter (fun l => l.core == coreOf t)).length + (dstRegs d).length

theorem not_latch_of_reg (c : BitVec 7) (h : c.toNat < 120) : isLatch c = false := by
  simp only [isLatch, Bool.and_eq_false_iff, decide_eq_false_iff_not]
  omega

theorem putDst_put (s : State) (t : Nat) (d : Option Use) (v : Nat) (hg : gidOf t < 2 ^ 40) (hf : fits d)
    (ha : ∀ u, d = some u → u.code.toNat < 120 → s.Avail t u.code.toNat u.regs) : s.Put1 t d v (s.putDst t d v) := by
  cases d with
  | none =>
    exact ⟨rfl, rfl, fun _ _ => rfl, by simp, fun _ _ _ => rfl, fun _ _ h => h, by simp [State.putDst, dstRegs, regsWritten]⟩
  | some u =>
    have hr := hf u rfl
    simp only [State.putDst, State.writeDst, if_neg (Nat.not_le.2 hg), ← hr]
    by_cases hc : u.code.toNat < 120
    · rw [if_pos hc]
      have w := writeRegs_wrote t (wordsOf u.regs (v % 2 ^ u.width)) s u.code.toNat
        (by rw [wordsOf_length]; exact ha u rfl hc)
      have hd : dstRegs (some u) = (List.range u.regs).map (u.code.toNat + ·) := by simp [dstRegs, regsWritten, hc]
      refine ⟨?_, ?_, ?_, ?_, ?_, w.present, ?_⟩
      · rw [w.frame]
      · rw [w.frame]
        simp [Thread.latched, not_latch_of_reg _ hc, State.thread]
      · intro x _
        rw [w.frame]; rfl
      · intro x hx _
        cases hx
        rw [readRegs_eq]
        apply List.ext_getElem
        · simp [wordsOf]
        · intro i h1 h2
          simp only [List.getElem_map, List.getElem_range]
          exact w.result i (by simpa using h2)
      · intro x n hx
        refine w.other x n (fun i hi => hx _ ?_)
        rw [hd]
        simp only [List.mem_map, List.mem_range]
        exact ⟨i, by simpa [wordsOf] using hi, rfl⟩
      · have := w.count
        simpa [hd, wordsOf] using this
    · rw [if_neg hc]
      have hd : dstRegs (some u) = [] := by simp [dstRegs, regsWritten, hc]
      by_cases hl : isLatch u.code = true
      · rw [if_pos hl]
        refine ⟨rfl, ?_, ?_, ?_, fun _ _ _ => rfl, fun _ _ h => h, by simp [hd, State.modThread, State.setThread]⟩
        · simp [thread_modThread, Thread.latched, hl]
        · intro x hx
          simp [thread_modThread, hx]
        · intro x hx h; cases hx; omega
      · rw [if_neg hl]
        refine ⟨rfl, ?_, fun _ _ => rfl, ?_, fun _ _ _ => rfl, fun _ _ h => h, by simp [hd]⟩
        · simp [Thread.latched, hl]
        · intro x hx h; cases hx; omega

/-! ## The threads of a bundle -/

/-- Every thread of a list delivers a result and conditions. -/
def State.putAll (s : State) (ts : List Nat) (d : Option Use) (v : Nat → Nat) (c : Nat → BitVec 5) : State :=
  ts.foldl (fun s t => (s.putDst t d (v t)).record t (c t)) s

/-- What the results and conditions of the threads of a bundle leave. -/
structure State.Put (s : State) (ts : List Nat) (d : Option Use) (v : Nat → Nat) (c : Nat → BitVec 5) (s' : State) : Prop where
  frame : s' = { s with threads := s'.threads, lines := s'.lines, launches := s'.launches, ctxs := s'.ctxs }
  own : ∀ u ∈ ts, s'.thread u = (s.thread u).latched d (v u)
  others : ∀ u, u ∉ ts → s'.thread u = s.thread u
  result : ∀ t ∈ ts, ∀ u, d = some u → u.code.toNat < 120 →
    s'.readRegs t u.code.toNat u.regs = wordsOf u.regs (v t % 2 ^ u.width)
  registers : ∀ u n, (∀ x ∈ ts, ∀ m ∈ dstRegs d, ¬ s.Same u n x m) → s'.readReg u n = s.readReg u n
  launches : ∀ q, s'.launches.find q = (s.launches.find q).map (fun l =>
    { l with conds := l.conds ||| orAll ((ts.filter (fun u => s.launchOf u == some q)).map c) })
  contexts : ∀ k, s'.ctx k =
    { s.ctx k with fpstat := (s.ctx k).fpstat ||| orAll ((ts.filter (fun u => (s.launchOf u).isNone && s.ctxOf u == k)).map c) }

/-- Room for the destinations of some threads of one core. -/
def State.RoomFor (s : State) (core : Nat) (ts : List Nat) (ns : List Nat) : Prop :=
  (∀ t ∈ ts, ∀ n ∈ ns, (s.lineOf (gidOf t) n).isSome) ∨
    (s.lines.filter (fun l => l.core == core)).length + ts.length * ns.length ≤ lineCapacity

/-- A register read depends on nothing that recording conditions changes. -/
theorem readReg_conds (s : State) (L : Tab Launch) (C : Tab Ctx) (h : ∀ k, (s.ctxs.at' Ctx.reset k).arena = (C.at' Ctx.reset k).arena)
    (t n : Nat) : ({ s with launches := L, ctxs := C } : State).readReg t n = s.readReg t n := by
  have e : ∀ c a, ({ s with launches := L, ctxs := C } : State).arenaLoc c a = s.arenaLoc c a := by
    intro c a
    simp only [State.arenaLoc, State.ctx]
    rw [h c]
  have e2 : ∀ c a l, ({ s with launches := L, ctxs := C } : State).imageWord c a l = s.imageWord c a l := by
    intro c a l
    simp only [State.imageWord]
    rw [e]
    rfl
  simp only [State.readReg]
  rw [show ({ s with launches := L, ctxs := C } : State).lineOf (gidOf t) n = s.lineOf (gidOf t) n from rfl,
    show ({ s with launches := L, ctxs := C } : State).ctxOfGroup (gidOf t) = s.ctxOfGroup (gidOf t) from rfl,
    show ({ s with launches := L, ctxs := C } : State).lineAddr (gidOf t) n = s.lineAddr (gidOf t) n from rfl,
    show ({ s with launches := L, ctxs := C } : State).group (gidOf t) = s.group (gidOf t) from rfl, e2]

theorem readReg_recorded {s s' : State} {t : Nat} {c : BitVec 5} (r : s.Recorded t c s') (u n : Nat) :
    s'.readReg u n = s.readReg u n := by
  rw [r.frame]
  apply readReg_conds
  intro k
  have := r.contexts k
  simp only [State.ctx] at this
  rw [this]

theorem recorded_eq {s s' : State} {t : Nat} {c : BitVec 5} (r : s.Recorded t c s') :
    s'.threads = s.threads ∧ s'.lines = s.lines ∧ s'.groups = s.groups ∧ s'.teams = s.teams := by
  rw [r.frame]; exact ⟨rfl, rfl, rfl, rfl⟩

theorem launchOf_congr {a b : State} (hg : a.groups = b.groups) (ht : a.teams = b.teams) (t : Nat) :
    a.launchOf t = b.launchOf t := by
  have : a.team (a.teamOf t) = b.team (b.teamOf t) := by simp only [State.team, State.teamOf, State.group, hg, ht]
  simp only [State.launchOf, this]

theorem ctxOf_congr {a b : State} (hg : a.groups = b.groups) (ht : a.teams = b.teams) (t : Nat) : a.ctxOf t = b.ctxOf t := by
  simp only [State.ctxOf, State.team, State.teamOf, State.group, hg, ht]

theorem frame_trans {s a b : State}
    (h1 : a = { s with threads := a.threads, lines := a.lines, launches := a.launches, ctxs := a.ctxs })
    (h2 : b = { a with threads := b.threads, lines := b.lines, launches := b.launches, ctxs := b.ctxs }) :
    b = { s with threads := b.threads, lines := b.lines, launches := b.launches, ctxs := b.ctxs } := by
  rw [h1] at h2
  exact h2

/-- The results and conditions of the threads of a bundle (R42, R43, R201). -/
theorem putAll_put (core : Nat) (d : Option Use) (v : Nat → Nat) (c : Nat → BitVec 5) (hf : fits d) :
    ∀ (ts : List Nat) (s : State), (ts.map laneOf).Nodup → (∀ t ∈ ts, coreOf t = core) → (∀ t ∈ ts, gidOf t < 2 ^ 40) →
      s.RoomFor core ts (dstRegs d) → s.Put ts d v c (s.putAll ts d v c) := by
  intro ts
  induction ts with
  | nil =>
    intro s _ _ _ _
    exact ⟨rfl, by simp, fun _ _ => rfl, by simp, fun _ _ _ => rfl, fun q => by simp [State.putAll], fun k => by simp [State.putAll]⟩
  | cons t r ih =>
    intro s hn hc hg hroom
    simp only [List.map_cons, List.nodup_cons] at hn
    have hlane : ∀ x ∈ r, laneOf x ≠ laneOf t := fun x hx e => hn.1 (e ▸ List.mem_map_of_mem hx)
    have hnot : t ∉ r := fun h => hlane t h rfl
    have hav : ∀ u, d = some u → u.code.toNat < 120 → s.Avail t u.code.toNat u.regs := by
      intro u hu hlt
      have hd : dstRegs d = (List.range u.regs).map (u.code.toNat + ·) := by simp [hu, dstRegs, regsWritten, hlt]
      rcases hroom with h | h
      · refine Or.inl (fun i hi => h t (by simp) _ ?_)
        rw [hd]; exact List.mem_map.2 ⟨i, List.mem_range.2 hi, rfl⟩
      · refine Or.inr ?_
        rw [hc t (by simp)]
        rw [hd] at h
        simp only [List.length_cons, List.length_map, List.length_range, Nat.add_mul, Nat.one_mul] at h
        omega
    have p := putDst_put s t d (v t) (hg t (by simp)) hf hav
    obtain ⟨s1, hs1⟩ : ∃ s1, s1 = s.putDst t d (v t) := ⟨_, rfl⟩
    rw [← hs1] at p
    have q := record_recorded s1 t (c t)
    obtain ⟨s2, hs2⟩ : ∃ s2, s2 = s1.record t (c t) := ⟨_, rfl⟩
    rw [← hs2] at q
    have eq := recorded_eq q
    have ep : s1.groups = s.groups ∧ s1.teams = s.teams ∧ s1.launches = s.launches ∧ s1.ctxs = s.ctxs := by
      rw [p.frame]; exact ⟨rfl, rfl, rfl, rfl⟩
    have hgr : s2.groups = s.groups := eq.2.2.1.trans ep.1
    have htm : s2.teams = s.teams := eq.2.2.2.trans ep.2.1
    have hl1 : ∀ u m, s1.lineOf (gidOf u) m = s2.lineOf (gidOf u) m := by
      intro u m
      simp only [State.lineOf, State.line, State.ctxOfGroup, State.lineAddr, State.groupBlock, State.team, State.group, eq.2.1,
        eq.2.2.1, eq.2.2.2]
    have hroom2 : s2.RoomFor core r (dstRegs d) := by
      rcases hroom with h | h
      · refine Or.inl (fun x hx n hn => ?_)
        rw [← hl1]
        exact p.present x n (h x (by simp [hx]) n hn)
      · refine Or.inr ?_
        have := p.count
        rw [hc t (by simp)] at this
        rw [eq.2.1]
        simp only [List.length_cons, Nat.add_mul, Nat.one_mul] at h
        omega
    have w := ih s2 hn.2 (fun x hx => hc x (by simp [hx])) (fun x hx => hg x (by simp [hx])) hroom2
    have hput : s.putAll (t :: r) d v c = s2.putAll r d v c := by rw [hs2, hs1]; rfl
    rw [hput]
    have hso : ∀ x, s2.launchOf x = s.launchOf x := launchOf_congr hgr htm
    have hct : ∀ x, s2.ctxOf x = s.ctxOf x := ctxOf_congr hgr htm
    have hso1 : s1.launchOf t = s.launchOf t := launchOf_congr ep.1 ep.2.1 t
    have hct1 : s1.ctxOf t = s.ctxOf t := ctxOf_congr ep.1 ep.2.1 t
    have hsame : ∀ u m x n, s2.Same u m x n ↔ s.Same u m x n := by
      intro u m x n
      simp only [State.Same, State.ctxOfGroup, State.lineAddr, State.groupBlock, State.team, State.group, hgr, htm]
    have hthr : ∀ x, s2.thread x = s1.thread x := by intro x; simp only [State.thread, eq.1]
    refine ⟨?_, ?_, ?_, ?_, ?_, ?_, ?_⟩
    · have e1 : s1 = { s with threads := s1.threads, lines := s1.lines, launches := s1.launches, ctxs := s1.ctxs } := by
        rw [p.frame]
      have e2 : s2 = { s1 with threads := s2.threads, lines := s2.lines, launches := s2.launches, ctxs := s2.ctxs } := by
        rw [q.frame]
      exact frame_trans (frame_trans e1 e2) w.frame
    · intro u hu
      rcases List.mem_cons.1 hu with e | hr
      · subst e
        rw [w.others u hnot, hthr, p.own]
      · have hne : u ≠ t := fun e => hnot (e ▸ hr)
        rw [w.own u hr, hthr, p.others u hne]
    · intro u hu
      simp only [List.mem_cons, not_or] at hu
      rw [w.others u hu.2, hthr, p.others u hu.1]
    · intro x hx u hu hlt
      rcases List.mem_cons.1 hx with e | hr
      · subst e
        rw [← p.result u hu hlt, readRegs_eq, readRegs_eq]
        apply List.map_congr_left
        intro i hi
        rw [w.registers, readReg_recorded q]
        intro y hy m _ hs
        rw [hsame] at hs
        exact hlane y hy hs.2.2.2.symm
      · exact w.result x hr u hu hlt
    · intro u n h
      rw [w.registers u n, readReg_recorded q, p.registers u n (h t (by simp))]
      intro x hx m hm hs
      rw [hsame] at hs
      exact h x (by simp [hx]) m hm hs
    · intro k
      rw [w.launches k, q.launches k, ep.2.2.1]
      simp only [hso, hso1, orAll_filter_cons, Option.map_map]
      congr 1
      funext l
      simp [BitVec.or_assoc]
    · intro k
      rw [w.contexts k, q.contexts k]
      have e : s1.ctx k = s.ctx k := by simp only [State.ctx, ep.2.2.2]
      simp only [hso, hct, hso1, hct1, e, orAll_filter_cons]
      simp [BitVec.or_assoc]

end Sys2Proof.Machine
end

