-- ==== Sys2Proof/Laws/Compute.lean ====
section
/-! SUPPORT. The shapes of the meanings that compute a result from operands: what each of them comes to for a bundle that
executes the word. -/
namespace Sys2Proof.Machine

/-! ## What the results of other lanes leave of a thread's operands -/

/-- States between the issue of a word and its end: what a result may depend on is as it was. -/
structure State.Near (s s' : State) : Prop where
  frame : s' = { s with issue := s'.issue, threads := s'.threads, lines := s'.lines, launches := s'.launches, ctxs := s'.ctxs }
  preds : ∀ u, (s'.thread u).preds = (s.thread u).preds
  launch : ∀ q, (s'.launches.find q).map (fun l => (l.gx, l.gy, l.doneTag)) =
    (s.launches.find q).map (fun l => (l.gx, l.gy, l.doneTag))

theorem operand_congr (s s' : State) (h : Hints) (t : Nat) (u : Use) (hr : ∀ n, s'.readReg t n = s.readReg t n)
    (hl : (s'.thread t).latch = (s.thread t).latch) (hk : ∀ n, s'.kreg t n = s.kreg t n) :
    s'.operand h t u = s.operand h t u := by
  simp only [State.operand, readRegs_eq, hr, hk, Thread.latchVal, hl]

theorem operands_congr (s s' : State) (h : Hints) (t : Nat) (f : Form) (hr : ∀ n, s'.readReg t n = s.readReg t n)
    (hl : (s'.thread t).latch = (s.thread t).latch) (hk : ∀ n, s'.kreg t n = s.kreg t n) :
    s'.operands h t f = s.operands h t f := by
  simp only [State.operands]
  apply List.map_congr_left
  intro u _
  exact operand_congr s s' h t u hr hl hk

theorem kreg_congr (s s' : State) (t n : Nat) (hg : s'.groups = s.groups) (ht : s'.teams = s.teams) : s'.kreg t n = s.kreg t n := by
  simp only [State.kreg, State.team, State.teamOf, State.group, hg, ht]

theorem latched_preds (x : Thread) (d : Option Use) (v : Nat) : (x.latched d v).preds = x.preds := by
  simp only [Thread.latched]
  split
  · split <;> rfl
  · rfl

theorem near_put1 {s0 s s' : State} {t : Nat} {d : Option Use} {v : Nat → Nat} {c : Nat → BitVec 5} (n : s0.Near s)
    (p : s.Put [t] d v c s') : s0.Near s' := by
  refine ⟨?_, ?_, ?_⟩
  · have e := p.frame
    have e0 := n.frame
    rw [e0] at e
    rw [e]
  · intro u
    by_cases hu : u = t
    · subst hu
      rw [p.own u (by simp), latched_preds, n.preds]
    · rw [p.others u (by simpa using hu), n.preds]
  · intro q
    rw [← n.launch q, p.launches q, Option.map_map]
    rfl

/-! ## compute -/

/-- An instruction that computes a result of its operands is one delivery to each thread. -/
theorem compute_eq (s0 : State) (core : Nat) (h : Hints) (f : Form) (g : State → Nat → List Nat → Nat × BitVec 5)
    (hf : fits f.dst) (hg : ∀ s', s0.Near s' → ∀ t l, g s' t l = g s0 t l) (v : Nat → Nat) (c : Nat → BitVec 5) :
    ∀ (ts : List Nat) (s : State), s0.Near s → (ts.map laneOf).Nodup → (∀ t ∈ ts, coreOf t = core) →
      (∀ t ∈ ts, gidOf t < 2 ^ 40) → s.RoomFor core ts (dstRegs f.dst) →
      (∀ t ∈ ts, g s0 t (s.operands h t f) = (v t, c t)) → s.compute h f ts g = s.putAll ts f.dst v c := by
  intro ts
  induction ts with
  | nil => intro s _ _ _ _ _ _; rfl
  | cons t r ih =>
    intro s hnear hn hc hgid hroom hv
    have hn' := hn
    simp only [List.map_cons, List.nodup_cons] at hn
    have hlane : ∀ x ∈ r, laneOf x ≠ laneOf t := fun x hx e => hn.1 (e ▸ List.mem_map_of_mem hx)
    have hroom1 : s.RoomFor core [t] (dstRegs f.dst) := by
      rcases hroom with h | h
      · exact Or.inl (fun x hx => h x (by simp at hx; simp [hx]))
      · refine Or.inr ?_
        simp only [List.length_cons, List.length_nil, Nat.add_mul, Nat.one_mul, Nat.zero_mul] at *
        omega
    have p := putAll_put core f.dst v c hf [t] s (by simp) (by intro x hx; exact hc x (by simp at hx; simp [hx]))
      (by intro x hx; exact hgid x (by simp at hx; simp [hx])) hroom1
    obtain ⟨s2, hs2⟩ : ∃ s2, s2 = s.putAll [t] f.dst v c := ⟨_, rfl⟩
    rw [← hs2] at p
    have hstep : s.compute h f (t :: r) g = s2.compute h f r g := by
      have : g s t (s.operands h t f) = (v t, c t) := by rw [hg s hnear]; exact hv t (by simp)
      rw [hs2]
      simp only [State.compute, State.putAll, List.foldl_cons, List.foldl_nil, this, State.putDst]
      cases f.dst <;> rfl
    have hput : s.putAll (t :: r) f.dst v c = s2.putAll r f.dst v c := by rw [hs2]; rfl
    have egr : s2.groups = s.groups ∧ s2.teams = s.teams := by rw [p.frame]; exact ⟨rfl, rfl⟩
    rw [hstep, hput]
    apply ih s2 (near_put1 hnear p) hn.2 (fun x hx => hc x (by simp [hx])) (fun x hx => hgid x (by simp [hx]))
    · rcases hroom with h | h
      · refine Or.inl (fun x hx n hm => ?_)
        have q := putDst_put s t f.dst (v t) (hgid t (by simp)) hf (by
          intro u hu hlt
          refine Or.inl (fun i hi => h t (by simp) _ ?_)
          rw [show dstRegs f.dst = (List.range u.regs).map (u.code.toNat + ·) by simp [hu, dstRegs, regsWritten, hlt]]
          exact List.mem_map.2 ⟨i, List.mem_range.2 hi, rfl⟩)
        have q2 := record_recorded (s.putDst t f.dst (v t)) t (c t)
        have e := recorded_eq q2
        have hs2' : s2 = (s.putDst t f.dst (v t)).record t (c t) := hs2
        have := q.present x n (h x (by simp [hx]) n hm)
        rw [hs2']
        simp only [State.lineOf, State.line, State.ctxOfGroup, State.lineAddr, State.groupBlock, State.team, State.group,
          e.2.1, e.2.2.1, e.2.2.2] at this ⊢
        exact this
      · refine Or.inr ?_
        have q := putDst_put s t f.dst (v t) (hgid t (by simp)) hf (by
          intro u hu hlt
          refine Or.inr ?_
          rw [hc t (by simp)]
          rw [show dstRegs f.dst = (List.range u.regs).map (u.code.toNat + ·) by simp [hu, dstRegs, regsWritten, hlt]] at h
          simp only [List.length_cons, List.length_map, List.length_range, Nat.add_mul, Nat.one_mul] at h
          omega)
        have q2 := record_recorded (s.putDst t f.dst (v t)) t (c t)
        have e := recorded_eq q2
        have hs2' : s2 = (s.putDst t f.dst (v t)).record t (c t) := hs2
        rw [hs2', e.2.1]
        have := q.count
        rw [hc t (by simp)] at this
        simp only [List.length_cons, Nat.add_mul, Nat.one_mul] at h
        omega
    · intro x hx
      rw [operands_congr s s2 h x f, hv x (by simp [hx])]
      · intro n
        apply p.registers
        intro y hy m _ hs
        simp at hy
        subst hy
        exact hlane x hx hs.2.2.2
      · rw [p.others x (by simp; exact fun e => hlane x hx (e ▸ rfl))]
      · intro n
        exact kreg_congr s s2 x n egr.1 egr.2

/-! ## Destinations of the table -/

theorem fits_none : fits none := by intro u h; cases h
theorem fits_useW (d : BitVec 7) (w : Nat) (k : Imm) : fits (some (useW d w k)) := by intro u h; cases h; rfl

/-- Every destination of the table has the registers of its width (R42). -/
theorem fits_formOf (h : Hints) (i : Instr) : fits (formOf h i).dst := by
  cases i <;> dsimp only [formOf, intRow, shiftRow, floatRow, packedRow, convRow, memRow, lineRow, atomRow, syncRow, copyRow,
    matrixRow, texRow, sysRow, dstStatus, dstPair, Option.map, useBlock] <;> (try (split <;> dsimp only [])) <;> first
    | with_reducible exact fits_none
    | with_reducible exact fits_useW _ _ _
    | (intro u hu; cases hu <;> first | rfl | simp)

/-! ## A word that writes its destination -/

theorem keepLatches_eq (s : State) (b : Bundle) (i : Instr) (f : Form) (ts : List Nat) :
    s.keepLatches b i f ts = { s with held := (s.keepLatches b i f ts).held } := by
  unfold State.keepLatches
  dsimp only
  split_ifs <;> rfl

theorem held_keepLatches (s s' : State) (b : Bundle) (i : Instr) (f : Form) (ts : List Nat) (h : s'.held = s.held) :
    (s'.keepLatches b i f ts).held = (s.keepLatches b i f ts).held := by
  unfold State.keepLatches
  dsimp only
  split_ifs <;> simp [h]

theorem gid_small {s : State} {b : Bundle} (h : s.Bundled b) : ∀ t ∈ b.threads, gidOf t < 2 ^ 40 := by
  intro t ht
  have h1 := h.core t ht
  have h2 := h.place
  simp only [coreOf, coreOfGroup, coreCount] at h1 h2
  omega

/-- What a word that writes its destination comes to: the frame of every meaning made with `fpOut` or `aluOut`. -/
theorem fpOut_delivers {s : State} {b : Bundle} {rest : List Bundle} {i : Instr}
    (g : Bundle → State → Nat → List Nat → Nat × BitVec 5) (h : s.Executes b rest i) (hr : s.Room b (formOf b.hints i))
    (hg : ∀ s', s.Near s' → ∀ t l, g b s' t l = g b s t l) :
    ∃ t, s.fpOut i g = .next t ∧
      s.Delivers b rest i (fun u => (g b s u (s.operands b.hints u (formOf b.hints i))).1)
        (fun u => (g b s u (s.operands b.hints u (formOf b.hints i))).2) t := by
  obtain ⟨s1, hs1⟩ : ∃ s1, s1 = ({ s with issue := rest } : State).moveOn b i b.threads := ⟨_, rfl⟩
  have hnd := nodup_of_lanes h.lanes
  have e1 : s1 = { s with issue := rest, threads := s1.threads } := by rw [hs1, moveOn_eq]
  have ht1 : ∀ u, s1.thread u = if u ∈ b.threads then (s.thread u).issued s b i else s.thread u := by
    intro u; rw [hs1, thread_moveOn _ _ _ _ hnd]; rfl
  have hthr : ∀ u, (s1.thread u).preds = (s.thread u).preds ∧ (s1.thread u).latch = (s.thread u).latch := by
    intro u; rw [ht1]; split <;> exact ⟨rfl, rfl⟩
  have near : s.Near s1 := by
    refine ⟨?_, fun u => (hthr u).1, fun q => ?_⟩
    · rw [e1]
    · rw [e1]
  have hrd : ∀ u n, s1.readReg u n = s.readReg u n := by intro u n; rw [e1]; rfl
  have hops : ∀ u, s1.operands b.hints u (formOf b.hints i) = s.operands b.hints u (formOf b.hints i) := by
    intro u
    apply operands_congr
    · exact hrd u
    · exact (hthr u).2
    · intro n; rw [e1]; rfl
  have hroom : s1.RoomFor b.core b.threads (dstRegs (formOf b.hints i).dst) := by
    rw [e1]; exact hr
  let v : Nat → Nat := fun u => (g b s u (s.operands b.hints u (formOf b.hints i))).1
  let c : Nat → BitVec 5 := fun u => (g b s u (s.operands b.hints u (formOf b.hints i))).2
  have hcomp : s1.compute b.hints (formOf b.hints i) b.threads (g b) = s1.putAll b.threads (formOf b.hints i).dst v c :=
    compute_eq s b.core b.hints (formOf b.hints i) (g b) (fits_formOf _ _) hg v c b.threads s1 near h.lanes h.core
      (gid_small h.toBundled) hroom (by intro t _; rw [hops])
  have p := putAll_put b.core (formOf b.hints i).dst v c (fits_formOf _ _) b.threads s1 h.lanes h.core (gid_small h.toBundled)
    hroom
  obtain ⟨s2, hs2⟩ : ∃ s2, s2 = s1.putAll b.threads (formOf b.hints i).dst v c := ⟨_, rfl⟩
  rw [← hs2] at p
  obtain ⟨s3, hs3⟩ : ∃ s3, s3 = s2.keepLatches b i (formOf b.hints i) b.threads := ⟨_, rfl⟩
  have e3 : s3 = { s2 with held := s3.held } := by rw [hs3, keepLatches_eq]
  have e2 := p.frame
  have hheld : s3.held = s.heldAfter b i := by
    rw [hs3]
    exact held_keepLatches s s2 b i _ _ (by rw [e2, e1])
  refine ⟨s3, ?_, ?_⟩
  · show s.issueWord i _ = _
    rw [issueWord_executes h, ← hs1, hcomp, ← hs2, ← hs3]
  · have same : ∀ u n x m, s1.Same u n x m ↔ s.cell u n = s.cell x m := by
      intro u n x m; rw [← same_iff_cell, e1]; rfl
    have t3 : ∀ u, s3.thread u = s2.thread u := by intro u; rw [e3]; rfl
    have r3 : ∀ u n, s3.readReg u n = s2.readReg u n := by intro u n; rw [e3]; rfl
    refine ⟨?_, ?_, ?_, ?_, ?_, ?_, ?_⟩
    · rw [← hheld]
      conv_lhs => rw [e3]
      have a : s2.threads = s3.threads ∧ s2.lines = s3.lines ∧ s2.launches = s3.launches ∧ s2.ctxs = s3.ctxs := by
        rw [e3]; exact ⟨rfl, rfl, rfl, rfl⟩
      rw [← a.1, ← a.2.1, ← a.2.2.1, ← a.2.2.2]
      rw [e2, e1]
    · intro u hu
      rw [t3, p.own u hu, ht1, if_pos hu]
    · intro u hu
      rw [t3, p.others u hu, ht1, if_neg hu]
    · intro u hu d hd hlt
      rw [← p.result u hu d hd hlt, readRegs_eq, readRegs_eq]
      simp only [r3]
    · intro u n hx
      rw [r3, p.registers u n, hrd]
      intro x hxm m hm hs
      rw [same] at hs
      exact hx x hxm m hm hs
    · intro q
      have a : s3.launches = s2.launches := by rw [e3]
      rw [a, p.launches q, e1]
      rfl
    · intro k
      have a : s3.ctx k = s2.ctx k := by rw [e3]; rfl
      rw [a, p.contexts k, e1]
      rfl

/-- What a word that computes a result of its operands comes to. -/
theorem aluOut_delivers {s : State} {b : Bundle} {rest : List Bundle} {i : Instr} (g : Hints → List Nat → Nat)
    (h : s.Executes b rest i) (hr : s.Room b (formOf b.hints i)) :
    ∃ t, s.aluOut i g = .next t ∧
      s.Delivers b rest i (fun u => g b.hints (s.operands b.hints u (formOf b.hints i))) (fun _ => 0) t := by
  exact fpOut_delivers (fun b _ _ l => (g b.hints l, 0)) h hr (by intros; rfl)

end Sys2Proof.Machine
end

