-- ==== Sys2Proof/Laws/Memory.lean ====
section
/-! SUPPORT. Memory: a read after a write, and the canonical form that every write keeps. -/
namespace Sys2Proof.Machine

theorem memOk_mono {lo hi : Nat} (h : lo ≤ hi) (m : List Host.Cell) (w : memOk hi m = true) : memOk lo m = true := by
  cases m with
  | nil => rfl
  | cons p r =>
    simp only [memOk, Bool.and_eq_true, decide_eq_true_eq] at *
    exact ⟨⟨by omega, w.1.2⟩, w.2⟩

theorem memIns_ok (a : Nat) (b : Byte) (hb : b ≠ 0) :
    ∀ (m : List Host.Cell) (lo : Nat), lo ≤ a → memOk lo m = true → memOk lo (memIns m a b) = true := by
  intro m
  induction m with
  | nil => intro lo h _; simpa [memIns, memOk, h] using hb
  | cons p r ih =>
    obtain ⟨k, v⟩ := p
    intro lo h w
    simp only [memOk, Bool.and_eq_true, decide_eq_true_eq] at w
    simp only [memIns]
    split
    · subst_vars; simpa [memOk, h, w.2] using hb
    · split
      · simp only [memOk, Bool.and_eq_true, decide_eq_true_eq]
        exact ⟨⟨h, by simpa using hb⟩, ⟨⟨by omega, w.1.2⟩, w.2⟩⟩
      · simp only [memOk, Bool.and_eq_true, decide_eq_true_eq]
        exact ⟨w.1, ih (k + 1) (by omega) w.2⟩

theorem memDel_ok (a : Nat) : ∀ (m : List Host.Cell) (lo : Nat), memOk lo m = true → memOk lo (memDel m a) = true := by
  intro m
  induction m with
  | nil => intro lo _; rfl
  | cons p r ih =>
    obtain ⟨k, v⟩ := p
    intro lo w
    have w' := w
    simp only [memOk, Bool.and_eq_true, decide_eq_true_eq] at w
    simp only [memDel]
    split
    · exact memOk_mono (by omega) r w.2
    · split
      · exact w'
      · simp only [memOk, Bool.and_eq_true, decide_eq_true_eq]
        exact ⟨w.1, ih (k + 1) w.2⟩

/-- A write keeps the canonical form of memory. -/
theorem memPut_wf (m : List Host.Cell) (a : Nat) (b : Byte) (w : Memory.wf m = true) : Memory.wf (memPut m a b) = true := by
  simp only [memPut]
  split
  · exact memDel_ok a m 0 w
  · exact memIns_ok a b ‹_› m 0 (by omega) w

theorem memGet_low : ∀ (m : List Host.Cell) (lo a : Nat), memOk lo m = true → a < lo → memGet m a = 0 := by
  intro m
  induction m with
  | nil => intro _ _ _ _; rfl
  | cons p r ih =>
    obtain ⟨k, v⟩ := p
    intro lo a w h
    simp only [memOk, Bool.and_eq_true, decide_eq_true_eq] at w
    simp only [memGet]
    rw [if_neg (by omega), if_pos (by omega)]

theorem memGet_ins (b : Byte) : ∀ (m : List Host.Cell) (a c : Nat),
    memGet (memIns m a b) c = if c = a then b else memGet m c := by
  intro m
  induction m with
  | nil => intro a c; simp [memIns, memGet]
  | cons p r ih =>
    obtain ⟨k, v⟩ := p
    intro a c
    simp only [memIns]
    split
    · subst_vars
      simp only [memGet]
      split <;> rfl
    · split
      · simp only [memGet]
        by_cases h1 : c = a
        · simp [h1]
        · simp only [h1, if_false]
          by_cases h2 : c < a
          · rw [if_pos h2, if_neg (by omega), if_pos (by omega)]
          · rw [if_neg h2]
      · simp only [memGet, ih]
        by_cases h1 : c = a
        · subst h1
          rw [if_neg (by omega), if_neg (by omega)]; simp
        · simp [h1]

theorem memGet_del : ∀ (m : List Host.Cell) (lo a c : Nat), memOk lo m = true →
    memGet (memDel m a) c = if c = a then 0 else memGet m c := by
  intro m
  induction m with
  | nil => intro _ a c _; simp [memDel, memGet]
  | cons p r ih =>
    obtain ⟨k, v⟩ := p
    intro lo a c w
    simp only [memOk, Bool.and_eq_true, decide_eq_true_eq] at w
    simp only [memDel]
    split
    · subst_vars
      by_cases h1 : c = a
      · subst h1; simp [memGet_low r (c + 1) c w.2 (by omega)]
      · simp only [h1, if_false, memGet]
        by_cases h2 : c < a
        · rw [if_pos h2, memGet_low r (a + 1) c w.2 (by omega)]
        · rw [if_neg h2]
    · split
      · simp only [memGet]
        by_cases h1 : c = a
        · subst h1; rw [if_neg (by omega), if_pos (by omega), if_pos rfl]
        · simp [h1]
      · simp only [memGet, ih (k + 1) a c w.2]
        by_cases h1 : c = a
        · subst h1; rw [if_neg (by omega), if_neg (by omega)]; simp
        · simp [h1]

/-- What a byte reads as after a write. -/
theorem memGet_put (m : List Host.Cell) (w : Memory.wf m = true) (a c : Nat) (b : Byte) :
    memGet (memPut m a b) c = if c = a then b else memGet m c := by
  simp only [memPut]
  split
  · subst_vars; exact memGet_del m 0 a c w
  · exact memGet_ins b m a c

theorem memOk_ext : ∀ (m n : List Host.Cell) (lo : Nat), memOk lo m = true → memOk lo n = true →
    (∀ a, memGet m a = memGet n a) → m = n := by
  intro m
  induction m with
  | nil =>
    intro n lo _ wn h
    cases n with
    | nil => rfl
    | cons p r =>
      obtain ⟨k, v⟩ := p
      simp only [memOk, Bool.and_eq_true, decide_eq_true_eq, bne_iff_ne] at wn
      have := h k
      simp [memGet] at this
      exact absurd this.symm wn.1.2
  | cons q r ih =>
    obtain ⟨k, v⟩ := q
    intro n lo wm wn h
    simp only [memOk, Bool.and_eq_true, decide_eq_true_eq, bne_iff_ne] at wm
    cases n with
    | nil =>
      have := h k
      simp [memGet] at this
      exact absurd this wm.1.2
    | cons p s =>
      obtain ⟨j, x⟩ := p
      simp only [memOk, Bool.and_eq_true, decide_eq_true_eq, bne_iff_ne] at wn
      have hk := h k
      have hj := h j
      simp only [memGet, if_true] at hk hj
      by_cases e : k = j
      · subst e
        simp only [if_true] at hk
        subst hk
        rw [ih s (k + 1) wm.2 wn.2 ?_]
        intro a
        have ha := h a
        simp only [memGet] at ha
        by_cases h1 : a = k
        · subst h1; rw [memGet_low r (a + 1) a wm.2 (by omega), memGet_low s (a + 1) a wn.2 (by omega)]
        · simp only [h1, if_false] at ha
          by_cases h2 : a < k
          · rw [memGet_low r (k + 1) a wm.2 (by omega), memGet_low s (k + 1) a wn.2 (by omega)]
          · simpa [h2] using ha
      · exfalso
        by_cases h2 : k < j
        · rw [if_neg e, if_pos h2] at hk
          exact wm.1.2 hk
        · rw [if_neg (fun h => e h.symm), if_pos (by omega)] at hj
          exact wn.1.2 hj.symm

/-- Memories that read alike are equal data. -/
theorem memory_ext (m n : List Host.Cell) (wm : Memory.wf m = true) (wn : Memory.wf n = true)
    (h : ∀ a, memGet m a = memGet n a) : m = n := memOk_ext m n 0 wm wn h

theorem setByte_wf (s : State) (a : Nat) (b : Byte) (w : Memory.wf s.mem = true) : Memory.wf (s.setByte a b).mem = true :=
  memPut_wf s.mem a b w

theorem byte_setByte (s : State) (w : Memory.wf s.mem = true) (a c : Nat) (b : Byte) :
    (s.setByte a b).byte c = if c = a then b else s.byte c := memGet_put s.mem w a c b

/-- Writing bytes keeps the canonical form. -/
theorem setBytes_wf : ∀ (l : List Byte) (s : State) (a : Nat), Memory.wf s.mem = true → Memory.wf (s.setBytes a l).mem = true := by
  intro l
  induction l with
  | nil => intro s a w; exact w
  | cons b r ih => intro s a w; exact ih (s.setByte a b) (a + 1) (setByte_wf s a b w)

/-- Bytes outside those written read as before. -/
theorem byte_setBytes_other : ∀ (l : List Byte) (s : State) (a c : Nat), Memory.wf s.mem = true →
    (c < a ∨ a + l.length ≤ c) → (s.setBytes a l).byte c = s.byte c := by
  intro l
  induction l with
  | nil => intro s a c _ _; rfl
  | cons b r ih =>
    intro s a c w h
    simp only [List.length_cons] at h
    simp only [State.setBytes]
    rw [ih (s.setByte a b) (a + 1) c (setByte_wf s a b w) (by omega), byte_setByte s w]
    rw [if_neg (by omega)]

/-- A byte written reads as it was written. -/
theorem byte_setBytes_same : ∀ (l : List Byte) (s : State) (a i : Nat) (h : i < l.length), Memory.wf s.mem = true →
    (s.setBytes a l).byte (a + i) = l[i] := by
  intro l
  induction l with
  | nil => intro s a i h _; simp at h
  | cons b r ih =>
    intro s a i h w
    simp only [State.setBytes]
    cases i with
    | zero =>
      rw [byte_setBytes_other r (s.setByte a b) (a + 1) (a + 0) (setByte_wf s a b w) (by omega), byte_setByte s w]
      simp
    | succ j =>
      have := ih (s.setByte a b) (a + 1) j (by simpa using h) (setByte_wf s a b w)
      simpa [Nat.add_assoc, Nat.add_comm 1 j] using this

end Sys2Proof.Machine
end

