-- ==== Sys2Proof/Laws/PerInstr.lean ====
section
/-! SUPPORT. Statements made for each constructor of Instr: decoding the encoding of a well-formed step gives it back. -/
namespace Sys2Proof

theorem app_nat {a b : Nat} (x : BitVec a) (y : BitVec b) : (x ++ y).toNat = x.toNat * 2 ^ b + y.toNat := by
  rw [BitVec.toNat_append, ← Nat.shiftLeft_add_eq_or_of_lt y.isLt, Nat.shiftLeft_eq]

theorem fld_nat {w : BitVec 32} {lo len : Nat} {x : BitVec len} (h : w.toNat / 2 ^ lo % 2 ^ len = x.toNat) :
    fld w lo len = x := by
  apply BitVec.eq_of_toNat_eq
  simp [fld, Nat.shiftRight_eq_div_pow, h]

theorem fld_ne {w : BitVec 32} {lo len : Nat} {x : BitVec len} (h : w.toNat / 2 ^ lo % 2 ^ len ≠ x.toNat) :
    fld w lo len ≠ x := by
  intro e
  apply h
  rw [← e]
  simp [fld, Nat.shiftRight_eq_div_pow]

theorem bit_nat {w : BitVec 32} {i : Nat} {x : Bool} (h : w.toNat / 2 ^ i % 2 = x.toNat) : bitAt w i = x := by
  simp only [bitAt, BitVec.getLsbD, Nat.testBit_eq_decide_div_mod_eq, h]
  cases x <;> simp

theorem ofBool_nat (b : Bool) : (BitVec.ofBool b).toNat = b.toNat := by cases b <;> rfl

theorem bool_lt (b : Bool) : b.toNat < 2 := by cases b <;> decide

theorem xop_major (w : BitVec 32) (f : fld w 28 4 = 14#4) :
    fld w 26 6 = 56#6 ∨ fld w 26 6 = 57#6 ∨ fld w 26 6 = 58#6 ∨ fld w 26 6 = 59#6 := by
  have a := congrArg BitVec.toNat f
  simp only [fld, BitVec.extractLsb'_toNat, Nat.shiftRight_eq_div_pow, BitVec.toNat_ofNat] at a
  have : (fld w 26 6).toNat = 56 ∨ (fld w 26 6).toNat = 57 ∨ (fld w 26 6).toNat = 58 ∨ (fld w 26 6).toNat = 59 := by
    simp only [fld, BitVec.extractLsb'_toNat, Nat.shiftRight_eq_div_pow]
    omega
  rcases this with h | h | h | h
  · exact Or.inl (BitVec.eq_of_toNat_eq h)
  · exact Or.inr (Or.inl (BitVec.eq_of_toNat_eq h))
  · exact Or.inr (Or.inr (Or.inl (BitVec.eq_of_toNat_eq h)))
  · exact Or.inr (Or.inr (Or.inr (BitVec.eq_of_toNat_eq h)))

theorem decode_shape {h : Hints} {w : BitVec 32} {i : Instr} (a : decodeShape h w = some i) (b : i.wellFormed = true) :
    decode h w = .ok i := by
  simp [decode, decodePlain, a, b]

theorem decodeMicro_shape {w : BitVec 32} {i : Instr} (a : decodeMicroShape w = some i) (b : i.wellFormed = true) :
    decodeMicro w = some i := by
  simp [decodeMicro, a, b]

namespace Laws.RoundTrip
set_option Elab.async false

/-- A well-formed instruction word, or micro-op, decodes from its encoding, under the hints that tell it from the rows it
shares its word with. -/
def Statement (i : Instr) : Prop :=
  (i.isWord = true → i.wellFormed = true → decode (formHints i) (encode i) = .ok i) ∧
    (i.isMicro = true → i.wellFormed = true → decodeMicro (encode i) = some i)

theorem lay0 (w : BitVec 32) (p0 : BitVec 6) (p1 : BitVec 2) (p2 : BitVec 24) (hE : w = p0 ++ p1 ++ p2) :
    w.toNat = ((p0.toNat * 2 ^ 2 + p1.toNat) * 2 ^ 24 + p2.toNat) ∧ fld w 26 6 = p0 ∧ fld w 24 2 = p1 ∧ fld w 0 24 = p2 := by
  have hw : w.toNat = ((p0.toNat * 2 ^ 2 + p1.toNat) * 2 ^ 24 + p2.toNat) := by
    rw [hE]
    erw [app_nat, app_nat]
  exact ⟨hw, fld_nat (by rw [hw]; omega), fld_nat (by rw [hw]; omega), fld_nat (by rw [hw]; omega)⟩

theorem lay1 (w : BitVec 32) (p0 : BitVec 6) (p1 : BitVec 2) (p2 : BitVec 3) (p3 : Bool) (p4 : BitVec 3) (p5 : Bool) (p6 : Bool) (p7 : BitVec 3) (p8 : BitVec 2) (p9 : BitVec 5) (p10 : BitVec 5) (hE : w = p0 ++ p1 ++ p2 ++ BitVec.ofBool p3 ++ p4 ++ BitVec.ofBool p5 ++ BitVec.ofBool p6 ++ p7 ++ p8 ++ p9 ++ p10) :
    w.toNat = ((((((((((p0.toNat * 2 ^ 2 + p1.toNat) * 2 ^ 3 + p2.toNat) * 2 ^ 1 + p3.toNat) * 2 ^ 3 + p4.toNat) * 2 ^ 1 + p5.toNat) * 2 ^ 1 + p6.toNat) * 2 ^ 3 + p7.toNat) * 2 ^ 2 + p8.toNat) * 2 ^ 5 + p9.toNat) * 2 ^ 5 + p10.toNat) ∧ p3.toNat < 2 ∧ p5.toNat < 2 ∧ p6.toNat < 2 ∧ fld w 26 6 = p0 ∧ fld w 24 2 = p1 ∧ fld w 21 3 = p2 ∧ bitAt w 20 = p3 ∧ fld w 17 3 = p4 ∧ bitAt w 16 = p5 ∧ bitAt w 15 = p6 ∧ fld w 12 3 = p7 ∧ fld w 10 2 = p8 ∧ fld w 5 5 = p9 ∧ fld w 0 5 = p10 := by
  have hw : w.toNat = ((((((((((p0.toNat * 2 ^ 2 + p1.toNat) * 2 ^ 3 + p2.toNat) * 2 ^ 1 + p3.toNat) * 2 ^ 3 + p4.toNat) * 2 ^ 1 + p5.toNat) * 2 ^ 1 + p6.toNat) * 2 ^ 3 + p7.toNat) * 2 ^ 2 + p8.toNat) * 2 ^ 5 + p9.toNat) * 2 ^ 5 + p10.toNat) := by
    rw [hE]
    erw [app_nat, app_nat, app_nat, app_nat, app_nat, app_nat, app_nat, app_nat, app_nat, app_nat]
    simp only [ofBool_nat]
  have b3 := bool_lt p3
  have b5 := bool_lt p5
  have b6 := bool_lt p6
  exact ⟨hw, b3, b5, b6, fld_nat (by rw [hw]; omega), fld_nat (by rw [hw]; omega), fld_nat (by rw [hw]; omega), bit_nat (by rw [hw]; omega), fld_nat (by rw [hw]; omega), bit_nat (by rw [hw]; omega), bit_nat (by rw [hw]; omega), fld_nat (by rw [hw]; omega), fld_nat (by rw [hw]; omega), fld_nat (by rw [hw]; omega), fld_nat (by rw [hw]; omega)⟩

theorem lay2 (w : BitVec 32) (p0 : BitVec 6) (p1 : BitVec 2) (p2 : Bool) (p3 : BitVec 7) (p4 : Bool) (p5 : BitVec 6) (p6 : BitVec 9) (hE : w = p0 ++ p1 ++ BitVec.ofBool p2 ++ p3 ++ BitVec.ofBool p4 ++ p5 ++ p6) :
    w.toNat = ((((((p0.toNat * 2 ^ 2 + p1.toNat) * 2 ^ 1 + p2.toNat) * 2 ^ 7 + p3.toNat) * 2 ^ 1 + p4.toNat) * 2 ^ 6 + p5.toNat) * 2 ^ 9 + p6.toNat) ∧ p2.toNat < 2 ∧ p4.toNat < 2 ∧ fld w 26 6 = p0 ∧ fld w 24 2 = p1 ∧ bitAt w 23 = p2 ∧ fld w 16 7 = p3 ∧ bitAt w 15 = p4 ∧ fld w 9 6 = p5 ∧ fld w 0 9 = p6 := by
  have hw : w.toNat = ((((((p0.toNat * 2 ^ 2 + p1.toNat) * 2 ^ 1 + p2.toNat) * 2 ^ 7 + p3.toNat) * 2 ^ 1 + p4.toNat) * 2 ^ 6 + p5.toNat) * 2 ^ 9 + p6.toNat) := by
    rw [hE]
    erw [app_nat, app_nat, app_nat, app_nat, app_nat, app_nat]
    simp only [ofBool_nat]
  have b2 := bool_lt p2
  have b4 := bool_lt p4
  exact ⟨hw, b2, b4, fld_nat (by rw [hw]; omega), fld_nat (by rw [hw]; omega), bit_nat (by rw [hw]; omega), fld_nat (by rw [hw]; omega), bit_nat (by rw [hw]; omega), fld_nat (by rw [hw]; omega), fld_nat (by rw [hw]; omega)⟩

theorem lay3 (w : BitVec 32) (p0 : BitVec 6) (p1 : BitVec 2) (p2 : BitVec 4) (p3 : Bool) (p4 : BitVec 19) (hE : w = p0 ++ p1 ++ p2 ++ BitVec.ofBool p3 ++ p4) :
    w.toNat = ((((p0.toNat * 2 ^ 2 + p1.toNat) * 2 ^ 4 + p2.toNat) * 2 ^ 1 + p3.toNat) * 2 ^ 19 + p4.toNat) ∧ p3.toNat < 2 ∧ fld w 26 6 = p0 ∧ fld w 24 2 = p1 ∧ fld w 20 4 = p2 ∧ bitAt w 19 = p3 ∧ fld w 0 19 = p4 := by
  have hw : w.toNat = ((((p0.toNat * 2 ^ 2 + p1.toNat) * 2 ^ 4 + p2.toNat) * 2 ^ 1 + p3.toNat) * 2 ^ 19 + p4.toNat) := by
    rw [hE]
    erw [app_nat, app_nat, app_nat, app_nat]
    simp only [ofBool_nat]
  have b3 := bool_lt p3
  exact ⟨hw, b3, fld_nat (by rw [hw]; omega), fld_nat (by rw [hw]; omega), fld_nat (by rw [hw]; omega), bit_nat (by rw [hw]; omega), fld_nat (by rw [hw]; omega)⟩

theorem lay4 (w : BitVec 32) (p0 : BitVec 6) (p1 : BitVec 7) (p2 : BitVec 7) (p3 : BitVec 7) (p4 : Bool) (p5 : BitVec 4) (hE : w = p0 ++ p1 ++ p2 ++ p3 ++ BitVec.ofBool p4 ++ p5) :
    w.toNat = (((((p0.toNat * 2 ^ 7 + p1.toNat) * 2 ^ 7 + p2.toNat) * 2 ^ 7 + p3.toNat) * 2 ^ 1 + p4.toNat) * 2 ^ 4 + p5.toNat) ∧ p4.toNat < 2 ∧ fld w 26 6 = p0 ∧ fld w 19 7 = p1 ∧ fld w 12 7 = p2 ∧ fld w 5 7 = p3 ∧ bitAt w 4 = p4 ∧ fld w 0 4 = p5 := by
  have hw : w.toNat = (((((p0.toNat * 2 ^ 7 + p1.toNat) * 2 ^ 7 + p2.toNat) * 2 ^ 7 + p3.toNat) * 2 ^ 1 + p4.toNat) * 2 ^ 4 + p5.toNat) := by
    rw [hE]
    erw [app_nat, app_nat, app_nat, app_nat, app_nat]
    simp only [ofBool_nat]
  have b4 := bool_lt p4
  exact ⟨hw, b4, fld_nat (by rw [hw]; omega), fld_nat (by rw [hw]; omega), fld_nat (by rw [hw]; omega), fld_nat (by rw [hw]; omega), bit_nat (by rw [hw]; omega), fld_nat (by rw [hw]; omega)⟩

theorem lay5 (w : BitVec 32) (p0 : BitVec 6) (p1 : BitVec 7) (p2 : BitVec 7) (p3 : BitVec 12) (hE : w = p0 ++ p1 ++ p2 ++ p3) :
    w.toNat = (((p0.toNat * 2 ^ 7 + p1.toNat) * 2 ^ 7 + p2.toNat) * 2 ^ 12 + p3.toNat) ∧ fld w 26 6 = p0 ∧ fld w 19 7 = p1 ∧ fld w 12 7 = p2 ∧ fld w 0 12 = p3 := by
  have hw : w.toNat = (((p0.toNat * 2 ^ 7 + p1.toNat) * 2 ^ 7 + p2.toNat) * 2 ^ 12 + p3.toNat) := by
    rw [hE]
    erw [app_nat, app_nat, app_nat]
  exact ⟨hw, fld_nat (by rw [hw]; omega), fld_nat (by rw [hw]; omega), fld_nat (by rw [hw]; omega), fld_nat (by rw [hw]; omega)⟩

theorem lay6 (w : BitVec 32) (p0 : BitVec 6) (p1 : BitVec 3) (p2 : BitVec 4) (p3 : BitVec 4) (p4 : BitVec 3) (p5 : BitVec 4) (p6 : BitVec 3) (p7 : BitVec 5) (hE : w = p0 ++ p1 ++ p2 ++ p3 ++ p4 ++ p5 ++ p6 ++ p7) :
    w.toNat = (((((((p0.toNat * 2 ^ 3 + p1.toNat) * 2 ^ 4 + p2.toNat) * 2 ^ 4 + p3.toNat) * 2 ^ 3 + p4.toNat) * 2 ^ 4 + p5.toNat) * 2 ^ 3 + p6.toNat) * 2 ^ 5 + p7.toNat) ∧ fld w 26 6 = p0 ∧ fld w 23 3 = p1 ∧ fld w 19 4 = p2 ∧ fld w 15 4 = p3 ∧ fld w 12 3 = p4 ∧ fld w 8 4 = p5 ∧ fld w 5 3 = p6 ∧ fld w 0 5 = p7 := by
  have hw : w.toNat = (((((((p0.toNat * 2 ^ 3 + p1.toNat) * 2 ^ 4 + p2.toNat) * 2 ^ 4 + p3.toNat) * 2 ^ 3 + p4.toNat) * 2 ^ 4 + p5.toNat) * 2 ^ 3 + p6.toNat) * 2 ^ 5 + p7.toNat) := by
    rw [hE]
    erw [app_nat, app_nat, app_nat, app_nat, app_nat, app_nat, app_nat]
  exact ⟨hw, fld_nat (by rw [hw]; omega), fld_nat (by rw [hw]; omega), fld_nat (by rw [hw]; omega), fld_nat (by rw [hw]; omega), fld_nat (by rw [hw]; omega), fld_nat (by rw [hw]; omega), fld_nat (by rw [hw]; omega), fld_nat (by rw [hw]; omega)⟩

theorem lay7 (w : BitVec 32) (p0 : BitVec 6) (p1 : BitVec 3) (p2 : BitVec 4) (p3 : BitVec 7) (p4 : BitVec 7) (p5 : BitVec 1) (p6 : BitVec 4) (hE : w = p0 ++ p1 ++ p2 ++ p3 ++ p4 ++ p5 ++ p6) :
    w.toNat = ((((((p0.toNat * 2 ^ 3 + p1.toNat) * 2 ^ 4 + p2.toNat) * 2 ^ 7 + p3.toNat) * 2 ^ 7 + p4.toNat) * 2 ^ 1 + p5.toNat) * 2 ^ 4 + p6.toNat) ∧ fld w 26 6 = p0 ∧ fld w 23 3 = p1 ∧ fld w 19 4 = p2 ∧ fld w 12 7 = p3 ∧ fld w 5 7 = p4 ∧ fld w 4 1 = p5 ∧ fld w 0 4 = p6 := by
  have hw : w.toNat = ((((((p0.toNat * 2 ^ 3 + p1.toNat) * 2 ^ 4 + p2.toNat) * 2 ^ 7 + p3.toNat) * 2 ^ 7 + p4.toNat) * 2 ^ 1 + p5.toNat) * 2 ^ 4 + p6.toNat) := by
    rw [hE]
    erw [app_nat, app_nat, app_nat, app_nat, app_nat, app_nat]
  exact ⟨hw, fld_nat (by rw [hw]; omega), fld_nat (by rw [hw]; omega), fld_nat (by rw [hw]; omega), fld_nat (by rw [hw]; omega), fld_nat (by rw [hw]; omega), fld_nat (by rw [hw]; omega), fld_nat (by rw [hw]; omega)⟩

theorem lay8 (w : BitVec 32) (p0 : BitVec 6) (p1 : BitVec 7) (p2 : BitVec 6) (p3 : BitVec 7) (p4 : BitVec 6) (hE : w = p0 ++ p1 ++ p2 ++ p3 ++ p4) :
    w.toNat = ((((p0.toNat * 2 ^ 7 + p1.toNat) * 2 ^ 6 + p2.toNat) * 2 ^ 7 + p3.toNat) * 2 ^ 6 + p4.toNat) ∧ fld w 26 6 = p0 ∧ fld w 19 7 = p1 ∧ fld w 13 6 = p2 ∧ fld w 6 7 = p3 ∧ fld w 0 6 = p4 := by
  have hw : w.toNat = ((((p0.toNat * 2 ^ 7 + p1.toNat) * 2 ^ 6 + p2.toNat) * 2 ^ 7 + p3.toNat) * 2 ^ 6 + p4.toNat) := by
    rw [hE]
    erw [app_nat, app_nat, app_nat, app_nat]
  exact ⟨hw, fld_nat (by rw [hw]; omega), fld_nat (by rw [hw]; omega), fld_nat (by rw [hw]; omega), fld_nat (by rw [hw]; omega), fld_nat (by rw [hw]; omega)⟩

theorem lay9 (w : BitVec 32) (p0 : BitVec 6) (p1 : BitVec 1) (p2 : BitVec 6) (p3 : BitVec 6) (p4 : BitVec 7) (p5 : BitVec 6) (hE : w = p0 ++ p1 ++ p2 ++ p3 ++ p4 ++ p5) :
    w.toNat = (((((p0.toNat * 2 ^ 1 + p1.toNat) * 2 ^ 6 + p2.toNat) * 2 ^ 6 + p3.toNat) * 2 ^ 7 + p4.toNat) * 2 ^ 6 + p5.toNat) ∧ fld w 26 6 = p0 ∧ fld w 25 1 = p1 ∧ fld w 19 6 = p2 ∧ fld w 13 6 = p3 ∧ fld w 6 7 = p4 ∧ fld w 0 6 = p5 := by
  have hw : w.toNat = (((((p0.toNat * 2 ^ 1 + p1.toNat) * 2 ^ 6 + p2.toNat) * 2 ^ 6 + p3.toNat) * 2 ^ 7 + p4.toNat) * 2 ^ 6 + p5.toNat) := by
    rw [hE]
    erw [app_nat, app_nat, app_nat, app_nat, app_nat]
  exact ⟨hw, fld_nat (by rw [hw]; omega), fld_nat (by rw [hw]; omega), fld_nat (by rw [hw]; omega), fld_nat (by rw [hw]; omega), fld_nat (by rw [hw]; omega), fld_nat (by rw [hw]; omega)⟩

theorem lay10 (w : BitVec 32) (p0 : BitVec 6) (p1 : BitVec 7) (p2 : BitVec 7) (p3 : BitVec 7) (p4 : BitVec 1) (p5 : BitVec 4) (hE : w = p0 ++ p1 ++ p2 ++ p3 ++ p4 ++ p5) :
    w.toNat = (((((p0.toNat * 2 ^ 7 + p1.toNat) * 2 ^ 7 + p2.toNat) * 2 ^ 7 + p3.toNat) * 2 ^ 1 + p4.toNat) * 2 ^ 4 + p5.toNat) ∧ fld w 26 6 = p0 ∧ fld w 19 7 = p1 ∧ fld w 12 7 = p2 ∧ fld w 5 7 = p3 ∧ fld w 4 1 = p4 ∧ fld w 0 4 = p5 := by
  have hw : w.toNat = (((((p0.toNat * 2 ^ 7 + p1.toNat) * 2 ^ 7 + p2.toNat) * 2 ^ 7 + p3.toNat) * 2 ^ 1 + p4.toNat) * 2 ^ 4 + p5.toNat) := by
    rw [hE]
    erw [app_nat, app_nat, app_nat, app_nat, app_nat]
  exact ⟨hw, fld_nat (by rw [hw]; omega), fld_nat (by rw [hw]; omega), fld_nat (by rw [hw]; omega), fld_nat (by rw [hw]; omega), fld_nat (by rw [hw]; omega), fld_nat (by rw [hw]; omega)⟩

theorem lay11 (w : BitVec 32) (p0 : BitVec 6) (p1 : BitVec 7) (p2 : BitVec 7) (p3 : BitVec 7) (p4 : BitVec 5) (hE : w = p0 ++ p1 ++ p2 ++ p3 ++ p4) :
    w.toNat = ((((p0.toNat * 2 ^ 7 + p1.toNat) * 2 ^ 7 + p2.toNat) * 2 ^ 7 + p3.toNat) * 2 ^ 5 + p4.toNat) ∧ fld w 26 6 = p0 ∧ fld w 19 7 = p1 ∧ fld w 12 7 = p2 ∧ fld w 5 7 = p3 ∧ fld w 0 5 = p4 := by
  have hw : w.toNat = ((((p0.toNat * 2 ^ 7 + p1.toNat) * 2 ^ 7 + p2.toNat) * 2 ^ 7 + p3.toNat) * 2 ^ 5 + p4.toNat) := by
    rw [hE]
    erw [app_nat, app_nat, app_nat, app_nat]
  exact ⟨hw, fld_nat (by rw [hw]; omega), fld_nat (by rw [hw]; omega), fld_nat (by rw [hw]; omega), fld_nat (by rw [hw]; omega), fld_nat (by rw [hw]; omega)⟩

theorem lay12 (w : BitVec 32) (p0 : BitVec 6) (p1 : BitVec 26) (hE : w = p0 ++ p1) :
    w.toNat = (p0.toNat * 2 ^ 26 + p1.toNat) ∧ fld w 26 6 = p0 ∧ fld w 0 26 = p1 := by
  have hw : w.toNat = (p0.toNat * 2 ^ 26 + p1.toNat) := by
    rw [hE]
    erw [app_nat]
  exact ⟨hw, fld_nat (by rw [hw]; omega), fld_nat (by rw [hw]; omega)⟩

theorem lay13 (w : BitVec 32) (p0 : BitVec 6) (p1 : BitVec 7) (p2 : BitVec 14) (p3 : Bool) (p4 : BitVec 4) (hE : w = p0 ++ p1 ++ p2 ++ BitVec.ofBool p3 ++ p4) :
    w.toNat = ((((p0.toNat * 2 ^ 7 + p1.toNat) * 2 ^ 14 + p2.toNat) * 2 ^ 1 + p3.toNat) * 2 ^ 4 + p4.toNat) ∧ p3.toNat < 2 ∧ fld w 26 6 = p0 ∧ fld w 19 7 = p1 ∧ fld w 5 14 = p2 ∧ bitAt w 4 = p3 ∧ fld w 0 4 = p4 := by
  have hw : w.toNat = ((((p0.toNat * 2 ^ 7 + p1.toNat) * 2 ^ 14 + p2.toNat) * 2 ^ 1 + p3.toNat) * 2 ^ 4 + p4.toNat) := by
    rw [hE]
    erw [app_nat, app_nat, app_nat, app_nat]
    simp only [ofBool_nat]
  have b3 := bool_lt p3
  exact ⟨hw, b3, fld_nat (by rw [hw]; omega), fld_nat (by rw [hw]; omega), fld_nat (by rw [hw]; omega), bit_nat (by rw [hw]; omega), fld_nat (by rw [hw]; omega)⟩

theorem lay14 (w : BitVec 32) (p0 : BitVec 6) (p1 : BitVec 3) (p2 : Bool) (p3 : Bool) (p4 : BitVec 21) (hE : w = p0 ++ p1 ++ BitVec.ofBool p2 ++ BitVec.ofBool p3 ++ p4) :
    w.toNat = ((((p0.toNat * 2 ^ 3 + p1.toNat) * 2 ^ 1 + p2.toNat) * 2 ^ 1 + p3.toNat) * 2 ^ 21 + p4.toNat) ∧ p2.toNat < 2 ∧ p3.toNat < 2 ∧ fld w 26 6 = p0 ∧ fld w 23 3 = p1 ∧ bitAt w 22 = p2 ∧ bitAt w 21 = p3 ∧ fld w 0 21 = p4 := by
  have hw : w.toNat = ((((p0.toNat * 2 ^ 3 + p1.toNat) * 2 ^ 1 + p2.toNat) * 2 ^ 1 + p3.toNat) * 2 ^ 21 + p4.toNat) := by
    rw [hE]
    erw [app_nat, app_nat, app_nat, app_nat]
    simp only [ofBool_nat]
  have b2 := bool_lt p2
  have b3 := bool_lt p3
  exact ⟨hw, b2, b3, fld_nat (by rw [hw]; omega), fld_nat (by rw [hw]; omega), bit_nat (by rw [hw]; omega), bit_nat (by rw [hw]; omega), fld_nat (by rw [hw]; omega)⟩

theorem lay15 (w : BitVec 32) (p0 : BitVec 6) (p1 : BitVec 14) (p2 : BitVec 7) (p3 : BitVec 5) (hE : w = p0 ++ p1 ++ p2 ++ p3) :
    w.toNat = (((p0.toNat * 2 ^ 14 + p1.toNat) * 2 ^ 7 + p2.toNat) * 2 ^ 5 + p3.toNat) ∧ fld w 26 6 = p0 ∧ fld w 12 14 = p1 ∧ fld w 5 7 = p2 ∧ fld w 0 5 = p3 := by
  have hw : w.toNat = (((p0.toNat * 2 ^ 14 + p1.toNat) * 2 ^ 7 + p2.toNat) * 2 ^ 5 + p3.toNat) := by
    rw [hE]
    erw [app_nat, app_nat, app_nat]
  exact ⟨hw, fld_nat (by rw [hw]; omega), fld_nat (by rw [hw]; omega), fld_nat (by rw [hw]; omega), fld_nat (by rw [hw]; omega)⟩

theorem lay16 (w : BitVec 32) (p0 : BitVec 6) (p1 : BitVec 7) (p2 : BitVec 7) (p3 : BitVec 3) (p4 : Bool) (p5 : BitVec 3) (p6 : Bool) (p7 : BitVec 4) (hE : w = p0 ++ p1 ++ p2 ++ p3 ++ BitVec.ofBool p4 ++ p5 ++ BitVec.ofBool p6 ++ p7) :
    w.toNat = (((((((p0.toNat * 2 ^ 7 + p1.toNat) * 2 ^ 7 + p2.toNat) * 2 ^ 3 + p3.toNat) * 2 ^ 1 + p4.toNat) * 2 ^ 3 + p5.toNat) * 2 ^ 1 + p6.toNat) * 2 ^ 4 + p7.toNat) ∧ p4.toNat < 2 ∧ p6.toNat < 2 ∧ fld w 26 6 = p0 ∧ fld w 19 7 = p1 ∧ fld w 12 7 = p2 ∧ fld w 9 3 = p3 ∧ bitAt w 8 = p4 ∧ fld w 5 3 = p5 ∧ bitAt w 4 = p6 ∧ fld w 0 4 = p7 := by
  have hw : w.toNat = (((((((p0.toNat * 2 ^ 7 + p1.toNat) * 2 ^ 7 + p2.toNat) * 2 ^ 3 + p3.toNat) * 2 ^ 1 + p4.toNat) * 2 ^ 3 + p5.toNat) * 2 ^ 1 + p6.toNat) * 2 ^ 4 + p7.toNat) := by
    rw [hE]
    erw [app_nat, app_nat, app_nat, app_nat, app_nat, app_nat, app_nat]
    simp only [ofBool_nat]
  have b4 := bool_lt p4
  have b6 := bool_lt p6
  exact ⟨hw, b4, b6, fld_nat (by rw [hw]; omega), fld_nat (by rw [hw]; omega), fld_nat (by rw [hw]; omega), fld_nat (by rw [hw]; omega), bit_nat (by rw [hw]; omega), fld_nat (by rw [hw]; omega), bit_nat (by rw [hw]; omega), fld_nat (by rw [hw]; omega)⟩

theorem lay17 (w : BitVec 32) (p0 : BitVec 4) (p1 : BitVec 2) (p2 : BitVec 7) (p3 : BitVec 7) (p4 : BitVec 7) (p5 : Bool) (p6 : BitVec 4) (hE : w = p0 ++ p1 ++ p2 ++ p3 ++ p4 ++ BitVec.ofBool p5 ++ p6) :
    w.toNat = ((((((p0.toNat * 2 ^ 2 + p1.toNat) * 2 ^ 7 + p2.toNat) * 2 ^ 7 + p3.toNat) * 2 ^ 7 + p4.toNat) * 2 ^ 1 + p5.toNat) * 2 ^ 4 + p6.toNat) ∧ p5.toNat < 2 ∧ fld w 28 4 = p0 ∧ fld w 26 2 = p1 ∧ fld w 19 7 = p2 ∧ fld w 12 7 = p3 ∧ fld w 5 7 = p4 ∧ bitAt w 4 = p5 ∧ fld w 0 4 = p6 := by
  have hw : w.toNat = ((((((p0.toNat * 2 ^ 2 + p1.toNat) * 2 ^ 7 + p2.toNat) * 2 ^ 7 + p3.toNat) * 2 ^ 7 + p4.toNat) * 2 ^ 1 + p5.toNat) * 2 ^ 4 + p6.toNat) := by
    rw [hE]
    erw [app_nat, app_nat, app_nat, app_nat, app_nat, app_nat]
    simp only [ofBool_nat]
  have b5 := bool_lt p5
  exact ⟨hw, b5, fld_nat (by rw [hw]; omega), fld_nat (by rw [hw]; omega), fld_nat (by rw [hw]; omega), fld_nat (by rw [hw]; omega), fld_nat (by rw [hw]; omega), bit_nat (by rw [hw]; omega), fld_nat (by rw [hw]; omega)⟩

theorem lay18 (w : BitVec 32) (p0 : BitVec 6) (p1 : BitVec 3) (p2 : BitVec 3) (p3 : BitVec 3) (p4 : BitVec 17) (hE : w = p0 ++ p1 ++ p2 ++ p3 ++ p4) :
    w.toNat = ((((p0.toNat * 2 ^ 3 + p1.toNat) * 2 ^ 3 + p2.toNat) * 2 ^ 3 + p3.toNat) * 2 ^ 17 + p4.toNat) ∧ fld w 26 6 = p0 ∧ fld w 23 3 = p1 ∧ fld w 20 3 = p2 ∧ fld w 17 3 = p3 ∧ fld w 0 17 = p4 := by
  have hw : w.toNat = ((((p0.toNat * 2 ^ 3 + p1.toNat) * 2 ^ 3 + p2.toNat) * 2 ^ 3 + p3.toNat) * 2 ^ 17 + p4.toNat) := by
    rw [hE]
    erw [app_nat, app_nat, app_nat, app_nat]
  exact ⟨hw, fld_nat (by rw [hw]; omega), fld_nat (by rw [hw]; omega), fld_nat (by rw [hw]; omega), fld_nat (by rw [hw]; omega), fld_nat (by rw [hw]; omega)⟩

theorem lay19 (w : BitVec 32) (p0 : BitVec 6) (p1 : BitVec 3) (p2 : BitVec 6) (p3 : BitVec 17) (hE : w = p0 ++ p1 ++ p2 ++ p3) :
    w.toNat = (((p0.toNat * 2 ^ 3 + p1.toNat) * 2 ^ 6 + p2.toNat) * 2 ^ 17 + p3.toNat) ∧ fld w 26 6 = p0 ∧ fld w 23 3 = p1 ∧ fld w 17 6 = p2 ∧ fld w 0 17 = p3 := by
  have hw : w.toNat = (((p0.toNat * 2 ^ 3 + p1.toNat) * 2 ^ 6 + p2.toNat) * 2 ^ 17 + p3.toNat) := by
    rw [hE]
    erw [app_nat, app_nat, app_nat]
  exact ⟨hw, fld_nat (by rw [hw]; omega), fld_nat (by rw [hw]; omega), fld_nat (by rw [hw]; omega), fld_nat (by rw [hw]; omega)⟩

theorem lay20 (w : BitVec 32) (p0 : BitVec 6) (p1 : BitVec 3) (p2 : BitVec 3) (p3 : BitVec 3) (p4 : BitVec 4) (p5 : BitVec 3) (p6 : Bool) (p7 : BitVec 9) (hE : w = p0 ++ p1 ++ p2 ++ p3 ++ p4 ++ p5 ++ BitVec.ofBool p6 ++ p7) :
    w.toNat = (((((((p0.toNat * 2 ^ 3 + p1.toNat) * 2 ^ 3 + p2.toNat) * 2 ^ 3 + p3.toNat) * 2 ^ 4 + p4.toNat) * 2 ^ 3 + p5.toNat) * 2 ^ 1 + p6.toNat) * 2 ^ 9 + p7.toNat) ∧ p6.toNat < 2 ∧ fld w 26 6 = p0 ∧ fld w 23 3 = p1 ∧ fld w 20 3 = p2 ∧ fld w 17 3 = p3 ∧ fld w 13 4 = p4 ∧ fld w 10 3 = p5 ∧ bitAt w 9 = p6 ∧ fld w 0 9 = p7 := by
  have hw : w.toNat = (((((((p0.toNat * 2 ^ 3 + p1.toNat) * 2 ^ 3 + p2.toNat) * 2 ^ 3 + p3.toNat) * 2 ^ 4 + p4.toNat) * 2 ^ 3 + p5.toNat) * 2 ^ 1 + p6.toNat) * 2 ^ 9 + p7.toNat) := by
    rw [hE]
    erw [app_nat, app_nat, app_nat, app_nat, app_nat, app_nat, app_nat]
    simp only [ofBool_nat]
  have b6 := bool_lt p6
  exact ⟨hw, b6, fld_nat (by rw [hw]; omega), fld_nat (by rw [hw]; omega), fld_nat (by rw [hw]; omega), fld_nat (by rw [hw]; omega), fld_nat (by rw [hw]; omega), fld_nat (by rw [hw]; omega), bit_nat (by rw [hw]; omega), fld_nat (by rw [hw]; omega)⟩

theorem lay21 (w : BitVec 32) (p0 : BitVec 6) (p1 : BitVec 3) (p2 : BitVec 3) (p3 : BitVec 3) (p4 : BitVec 4) (p5 : BitVec 13) (hE : w = p0 ++ p1 ++ p2 ++ p3 ++ p4 ++ p5) :
    w.toNat = (((((p0.toNat * 2 ^ 3 + p1.toNat) * 2 ^ 3 + p2.toNat) * 2 ^ 3 + p3.toNat) * 2 ^ 4 + p4.toNat) * 2 ^ 13 + p5.toNat) ∧ fld w 26 6 = p0 ∧ fld w 23 3 = p1 ∧ fld w 20 3 = p2 ∧ fld w 17 3 = p3 ∧ fld w 13 4 = p4 ∧ fld w 0 13 = p5 := by
  have hw : w.toNat = (((((p0.toNat * 2 ^ 3 + p1.toNat) * 2 ^ 3 + p2.toNat) * 2 ^ 3 + p3.toNat) * 2 ^ 4 + p4.toNat) * 2 ^ 13 + p5.toNat) := by
    rw [hE]
    erw [app_nat, app_nat, app_nat, app_nat, app_nat]
  exact ⟨hw, fld_nat (by rw [hw]; omega), fld_nat (by rw [hw]; omega), fld_nat (by rw [hw]; omega), fld_nat (by rw [hw]; omega), fld_nat (by rw [hw]; omega), fld_nat (by rw [hw]; omega)⟩

theorem lay22 (w : BitVec 32) (p0 : BitVec 6) (p1 : BitVec 3) (p2 : BitVec 3) (p3 : BitVec 3) (p4 : BitVec 4) (p5 : BitVec 3) (p6 : Bool) (p7 : BitVec 4) (p8 : BitVec 5) (hE : w = p0 ++ p1 ++ p2 ++ p3 ++ p4 ++ p5 ++ BitVec.ofBool p6 ++ p7 ++ p8) :
    w.toNat = ((((((((p0.toNat * 2 ^ 3 + p1.toNat) * 2 ^ 3 + p2.toNat) * 2 ^ 3 + p3.toNat) * 2 ^ 4 + p4.toNat) * 2 ^ 3 + p5.toNat) * 2 ^ 1 + p6.toNat) * 2 ^ 4 + p7.toNat) * 2 ^ 5 + p8.toNat) ∧ p6.toNat < 2 ∧ fld w 26 6 = p0 ∧ fld w 23 3 = p1 ∧ fld w 20 3 = p2 ∧ fld w 17 3 = p3 ∧ fld w 13 4 = p4 ∧ fld w 10 3 = p5 ∧ bitAt w 9 = p6 ∧ fld w 5 4 = p7 ∧ fld w 0 5 = p8 := by
  have hw : w.toNat = ((((((((p0.toNat * 2 ^ 3 + p1.toNat) * 2 ^ 3 + p2.toNat) * 2 ^ 3 + p3.toNat) * 2 ^ 4 + p4.toNat) * 2 ^ 3 + p5.toNat) * 2 ^ 1 + p6.toNat) * 2 ^ 4 + p7.toNat) * 2 ^ 5 + p8.toNat) := by
    rw [hE]
    erw [app_nat, app_nat, app_nat, app_nat, app_nat, app_nat, app_nat, app_nat]
    simp only [ofBool_nat]
  have b6 := bool_lt p6
  exact ⟨hw, b6, fld_nat (by rw [hw]; omega), fld_nat (by rw [hw]; omega), fld_nat (by rw [hw]; omega), fld_nat (by rw [hw]; omega), fld_nat (by rw [hw]; omega), fld_nat (by rw [hw]; omega), bit_nat (by rw [hw]; omega), fld_nat (by rw [hw]; omega), fld_nat (by rw [hw]; omega)⟩

theorem lay23 (w : BitVec 32) (p0 : BitVec 6) (p1 : BitVec 3) (p2 : BitVec 3) (p3 : BitVec 3) (p4 : BitVec 4) (p5 : BitVec 4) (p6 : BitVec 9) (hE : w = p0 ++ p1 ++ p2 ++ p3 ++ p4 ++ p5 ++ p6) :
    w.toNat = ((((((p0.toNat * 2 ^ 3 + p1.toNat) * 2 ^ 3 + p2.toNat) * 2 ^ 3 + p3.toNat) * 2 ^ 4 + p4.toNat) * 2 ^ 4 + p5.toNat) * 2 ^ 9 + p6.toNat) ∧ fld w 26 6 = p0 ∧ fld w 23 3 = p1 ∧ fld w 20 3 = p2 ∧ fld w 17 3 = p3 ∧ fld w 13 4 = p4 ∧ fld w 9 4 = p5 ∧ fld w 0 9 = p6 := by
  have hw : w.toNat = ((((((p0.toNat * 2 ^ 3 + p1.toNat) * 2 ^ 3 + p2.toNat) * 2 ^ 3 + p3.toNat) * 2 ^ 4 + p4.toNat) * 2 ^ 4 + p5.toNat) * 2 ^ 9 + p6.toNat) := by
    rw [hE]
    erw [app_nat, app_nat, app_nat, app_nat, app_nat, app_nat]
  exact ⟨hw, fld_nat (by rw [hw]; omega), fld_nat (by rw [hw]; omega), fld_nat (by rw [hw]; omega), fld_nat (by rw [hw]; omega), fld_nat (by rw [hw]; omega), fld_nat (by rw [hw]; omega), fld_nat (by rw [hw]; omega)⟩

theorem lay24 (w : BitVec 32) (p0 : BitVec 6) (p1 : BitVec 3) (p2 : BitVec 2) (p3 : BitVec 4) (p4 : BitVec 2) (p5 : BitVec 15) (hE : w = p0 ++ p1 ++ p2 ++ p3 ++ p4 ++ p5) :
    w.toNat = (((((p0.toNat * 2 ^ 3 + p1.toNat) * 2 ^ 2 + p2.toNat) * 2 ^ 4 + p3.toNat) * 2 ^ 2 + p4.toNat) * 2 ^ 15 + p5.toNat) ∧ fld w 26 6 = p0 ∧ fld w 23 3 = p1 ∧ fld w 21 2 = p2 ∧ fld w 17 4 = p3 ∧ fld w 15 2 = p4 ∧ fld w 0 15 = p5 := by
  have hw : w.toNat = (((((p0.toNat * 2 ^ 3 + p1.toNat) * 2 ^ 2 + p2.toNat) * 2 ^ 4 + p3.toNat) * 2 ^ 2 + p4.toNat) * 2 ^ 15 + p5.toNat) := by
    rw [hE]
    erw [app_nat, app_nat, app_nat, app_nat, app_nat]
  exact ⟨hw, fld_nat (by rw [hw]; omega), fld_nat (by rw [hw]; omega), fld_nat (by rw [hw]; omega), fld_nat (by rw [hw]; omega), fld_nat (by rw [hw]; omega), fld_nat (by rw [hw]; omega)⟩

theorem lay25 (w : BitVec 32) (p0 : BitVec 6) (p1 : BitVec 3) (p2 : BitVec 3) (p3 : BitVec 2) (p4 : BitVec 1) (p5 : BitVec 17) (hE : w = p0 ++ p1 ++ p2 ++ p3 ++ p4 ++ p5) :
    w.toNat = (((((p0.toNat * 2 ^ 3 + p1.toNat) * 2 ^ 3 + p2.toNat) * 2 ^ 2 + p3.toNat) * 2 ^ 1 + p4.toNat) * 2 ^ 17 + p5.toNat) ∧ fld w 26 6 = p0 ∧ fld w 23 3 = p1 ∧ fld w 20 3 = p2 ∧ fld w 18 2 = p3 ∧ fld w 17 1 = p4 ∧ fld w 0 17 = p5 := by
  have hw : w.toNat = (((((p0.toNat * 2 ^ 3 + p1.toNat) * 2 ^ 3 + p2.toNat) * 2 ^ 2 + p3.toNat) * 2 ^ 1 + p4.toNat) * 2 ^ 17 + p5.toNat) := by
    rw [hE]
    erw [app_nat, app_nat, app_nat, app_nat, app_nat]
  exact ⟨hw, fld_nat (by rw [hw]; omega), fld_nat (by rw [hw]; omega), fld_nat (by rw [hw]; omega), fld_nat (by rw [hw]; omega), fld_nat (by rw [hw]; omega), fld_nat (by rw [hw]; omega)⟩

theorem lay26 (w : BitVec 32) (p0 : BitVec 6) (p1 : BitVec 3) (p2 : BitVec 3) (p3 : BitVec 2) (p4 : BitVec 8) (p5 : BitVec 10) (hE : w = p0 ++ p1 ++ p2 ++ p3 ++ p4 ++ p5) :
    w.toNat = (((((p0.toNat * 2 ^ 3 + p1.toNat) * 2 ^ 3 + p2.toNat) * 2 ^ 2 + p3.toNat) * 2 ^ 8 + p4.toNat) * 2 ^ 10 + p5.toNat) ∧ fld w 26 6 = p0 ∧ fld w 23 3 = p1 ∧ fld w 20 3 = p2 ∧ fld w 18 2 = p3 ∧ fld w 10 8 = p4 ∧ fld w 0 10 = p5 := by
  have hw : w.toNat = (((((p0.toNat * 2 ^ 3 + p1.toNat) * 2 ^ 3 + p2.toNat) * 2 ^ 2 + p3.toNat) * 2 ^ 8 + p4.toNat) * 2 ^ 10 + p5.toNat) := by
    rw [hE]
    erw [app_nat, app_nat, app_nat, app_nat, app_nat]
  exact ⟨hw, fld_nat (by rw [hw]; omega), fld_nat (by rw [hw]; omega), fld_nat (by rw [hw]; omega), fld_nat (by rw [hw]; omega), fld_nat (by rw [hw]; omega), fld_nat (by rw [hw]; omega)⟩

theorem lay27 (w : BitVec 32) (p0 : BitVec 6) (p1 : BitVec 3) (p2 : BitVec 3) (p3 : BitVec 4) (p4 : BitVec 11) (p5 : BitVec 5) (hE : w = p0 ++ p1 ++ p2 ++ p3 ++ p4 ++ p5) :
    w.toNat = (((((p0.toNat * 2 ^ 3 + p1.toNat) * 2 ^ 3 + p2.toNat) * 2 ^ 4 + p3.toNat) * 2 ^ 11 + p4.toNat) * 2 ^ 5 + p5.toNat) ∧ fld w 26 6 = p0 ∧ fld w 23 3 = p1 ∧ fld w 20 3 = p2 ∧ fld w 16 4 = p3 ∧ fld w 5 11 = p4 ∧ fld w 0 5 = p5 := by
  have hw : w.toNat = (((((p0.toNat * 2 ^ 3 + p1.toNat) * 2 ^ 3 + p2.toNat) * 2 ^ 4 + p3.toNat) * 2 ^ 11 + p4.toNat) * 2 ^ 5 + p5.toNat) := by
    rw [hE]
    erw [app_nat, app_nat, app_nat, app_nat, app_nat]
  exact ⟨hw, fld_nat (by rw [hw]; omega), fld_nat (by rw [hw]; omega), fld_nat (by rw [hw]; omega), fld_nat (by rw [hw]; omega), fld_nat (by rw [hw]; omega), fld_nat (by rw [hw]; omega)⟩

theorem lay28 (w : BitVec 32) (p0 : BitVec 6) (p1 : BitVec 10) (p2 : BitVec 16) (hE : w = p0 ++ p1 ++ p2) :
    w.toNat = ((p0.toNat * 2 ^ 10 + p1.toNat) * 2 ^ 16 + p2.toNat) ∧ fld w 26 6 = p0 ∧ fld w 16 10 = p1 ∧ fld w 0 16 = p2 := by
  have hw : w.toNat = ((p0.toNat * 2 ^ 10 + p1.toNat) * 2 ^ 16 + p2.toNat) := by
    rw [hE]
    erw [app_nat, app_nat]
  exact ⟨hw, fld_nat (by rw [hw]; omega), fld_nat (by rw [hw]; omega), fld_nat (by rw [hw]; omega)⟩

theorem ximm (x : BitVec 24) : Statement (.ximm x) := by
  have shape : decodeShape (formHints (.ximm x)) (encode (.ximm x)) = some (.ximm x) := by
    obtain ⟨hw, f0, f1, f2⟩ := lay0 (encode (.ximm x)) (63#6) (0#2) x rfl
    generalize encode (.ximm x) = wd at hw f0 f1 f2 ⊢
    have m0 : decodeShape (formHints (.ximm x)) wd = shape3F wd := by simp only [decodeShape, f0, BitVec.toNat_ofNat]
    rw [m0]
    simp [shape3F, f1, f2]
  exact ⟨fun _ b => decode_shape shape b, fun m => (Bool.false_ne_true m).elim⟩

theorem mod (g : BitVec 3) (s : Bool) (r : BitVec 3) (t : Bool) (u : Bool) (c : BitVec 3) (h' : BitVec 2) (y : BitVec 5) (x : BitVec 5) : Statement (.mod g s r t u c h' y x) := by
  have shape : decodeShape (formHints (.mod g s r t u c h' y x)) (encode (.mod g s r t u c h' y x)) = some (.mod g s r t u c h' y x) := by
    obtain ⟨hw, b3, b5, b6, f0, f1, f2, f3, f4, f5, f6, f7, f8, f9, f10⟩ := lay1 (encode (.mod g s r t u c h' y x)) (63#6) (1#2) g s r t u c h' y x rfl
    generalize encode (.mod g s r t u c h' y x) = wd at hw f0 f1 f2 f3 f4 f5 f6 f7 f8 f9 f10 ⊢
    have m0 : decodeShape (formHints (.mod g s r t u c h' y x)) wd = shape3F wd := by simp only [decodeShape, f0, BitVec.toNat_ofNat]
    rw [m0]
    simp [shape3F, f1, f2, f3, f4, f5, f6, f7, f8, f9, f10]
  exact ⟨fun _ b => decode_shape shape b, fun m => (Bool.false_ne_true m).elim⟩

theorem src (v : Bool) (s : BitVec 7) (k : Bool) (q : BitVec 6) : Statement (.src v s k q) := by
  have shape : decodeShape (formHints (.src v s k q)) (encode (.src v s k q)) = some (.src v s k q) := by
    obtain ⟨hw, b2, b4, f0, f1, f2, f3, f4, f5, f6⟩ := lay2 (encode (.src v s k q)) (63#6) (2#2) v s k q (0#9) rfl
    generalize encode (.src v s k q) = wd at hw f0 f1 f2 f3 f4 f5 f6 ⊢
    have m0 : decodeShape (formHints (.src v s k q)) wd = shape3F wd := by simp only [decodeShape, f0, BitVec.toNat_ofNat]
    rw [m0]
    simp [shape3F, f1, f2, f3, f4, f5, f6]
  exact ⟨fun _ b => decode_shape shape b, fun m => (Bool.false_ne_true m).elim⟩

theorem sched (t : BitVec 4) (y : Bool) : Statement (.sched t y) := by
  have shape : decodeShape (formHints (.sched t y)) (encode (.sched t y)) = some (.sched t y) := by
    obtain ⟨hw, b3, f0, f1, f2, f3, f4⟩ := lay3 (encode (.sched t y)) (63#6) (3#2) t y (0#19) rfl
    generalize encode (.sched t y) = wd at hw f0 f1 f2 f3 f4 ⊢
    have f5 : fld wd 0 9 = 0#9 := fld_nat (by rw [hw]; simp only [BitVec.toNat_ofNat]; omega)
    have m0 : decodeShape (formHints (.sched t y)) wd = shape3F wd := by simp only [decodeShape, f0, BitVec.toNat_ofNat]
    rw [m0]
    simp [shape3F, f1, f2, f3, f4, f5]
  exact ⟨fun _ b => decode_shape shape b, fun m => (Bool.false_ne_true m).elim⟩

theorem iadd (d : BitVec 7) (a : BitVec 7) (b : BitVec 7) (n : Bool) : Statement (.iadd d a b n) := by
  have shape : decodeShape (formHints (.iadd d a b n)) (encode (.iadd d a b n)) = some (.iadd d a b n) := by
    obtain ⟨hw, b4, f0, f1, f2, f3, f4, f5⟩ := lay4 (encode (.iadd d a b n)) (0#6) d a b n (1#4) rfl
    generalize encode (.iadd d a b n) = wd at hw f0 f1 f2 f3 f4 f5 ⊢
    have m0 : decodeShape (formHints (.iadd d a b n)) wd = shape00 wd := by simp only [decodeShape, f0, BitVec.toNat_ofNat]
    rw [m0]
    simp [shape00, f1, f2, f3, f4, f5]
  exact ⟨fun _ b => decode_shape shape b, fun m => (Bool.false_ne_true m).elim⟩

theorem isub (d : BitVec 7) (a : BitVec 7) (b : BitVec 7) (n : Bool) : Statement (.isub d a b n) := by
  have shape : decodeShape (formHints (.isub d a b n)) (encode (.isub d a b n)) = some (.isub d a b n) := by
    obtain ⟨hw, b4, f0, f1, f2, f3, f4, f5⟩ := lay4 (encode (.isub d a b n)) (0#6) d a b n (2#4) rfl
    generalize encode (.isub d a b n) = wd at hw f0 f1 f2 f3 f4 f5 ⊢
    have m0 : decodeShape (formHints (.isub d a b n)) wd = shape00 wd := by simp only [decodeShape, f0, BitVec.toNat_ofNat]
    rw [m0]
    simp [shape00, f1, f2, f3, f4, f5]
  exact ⟨fun _ b => decode_shape shape b, fun m => (Bool.false_ne_true m).elim⟩

theorem imul (d : BitVec 7) (a : BitVec 7) (b : BitVec 7) (n : Bool) : Statement (.imul d a b n) := by
  have shape : decodeShape (formHints (.imul d a b n)) (encode (.imul d a b n)) = some (.imul d a b n) := by
    obtain ⟨hw, b4, f0, f1, f2, f3, f4, f5⟩ := lay4 (encode (.imul d a b n)) (0#6) d a b n (3#4) rfl
    generalize encode (.imul d a b n) = wd at hw f0 f1 f2 f3 f4 f5 ⊢
    have m0 : decodeShape (formHints (.imul d a b n)) wd = shape00 wd := by simp only [decodeShape, f0, BitVec.toNat_ofNat]
    rw [m0]
    simp [shape00, f1, f2, f3, f4, f5]
  exact ⟨fun _ b => decode_shape shape b, fun m => (Bool.false_ne_true m).elim⟩

theorem imulh (d : BitVec 7) (a : BitVec 7) (b : BitVec 7) (n : Bool) : Statement (.imulh d a b n) := by
  have shape : decodeShape (formHints (.imulh d a b n)) (encode (.imulh d a b n)) = some (.imulh d a b n) := by
    obtain ⟨hw, b4, f0, f1, f2, f3, f4, f5⟩ := lay4 (encode (.imulh d a b n)) (0#6) d a b n (4#4) rfl
    generalize encode (.imulh d a b n) = wd at hw f0 f1 f2 f3 f4 f5 ⊢
    have m0 : decodeShape (formHints (.imulh d a b n)) wd = shape00 wd := by simp only [decodeShape, f0, BitVec.toNat_ofNat]
    rw [m0]
    simp [shape00, f1, f2, f3, f4, f5]
  exact ⟨fun _ b => decode_shape shape b, fun m => (Bool.false_ne_true m).elim⟩

theorem imad (d : BitVec 7) (a : BitVec 7) (b : BitVec 7) (n : Bool) : Statement (.imad d a b n) := by
  have shape : decodeShape (formHints (.imad d a b n)) (encode (.imad d a b n)) = some (.imad d a b n) := by
    obtain ⟨hw, b4, f0, f1, f2, f3, f4, f5⟩ := lay4 (encode (.imad d a b n)) (0#6) d a b n (5#4) rfl
    generalize encode (.imad d a b n) = wd at hw f0 f1 f2 f3 f4 f5 ⊢
    have m0 : decodeShape (formHints (.imad d a b n)) wd = shape00 wd := by simp only [decodeShape, f0, BitVec.toNat_ofNat]
    rw [m0]
    simp [shape00, f1, f2, f3, f4, f5]
  exact ⟨fun _ b => decode_shape shape b, fun m => (Bool.false_ne_true m).elim⟩

theorem iabs (d : BitVec 7) (a : BitVec 7) (n : Bool) : Statement (.iabs d a n) := by
  have shape : decodeShape (formHints (.iabs d a n)) (encode (.iabs d a n)) = some (.iabs d a n) := by
    obtain ⟨hw, b4, f0, f1, f2, f3, f4, f5⟩ := lay4 (encode (.iabs d a n)) (0#6) d a (0#7) n (6#4) rfl
    generalize encode (.iabs d a n) = wd at hw f0 f1 f2 f3 f4 f5 ⊢
    have m0 : decodeShape (formHints (.iabs d a n)) wd = shape00 wd := by simp only [decodeShape, f0, BitVec.toNat_ofNat]
    rw [m0]
    simp [shape00, f1, f2, f3, f4, f5]
  exact ⟨fun _ b => decode_shape shape b, fun m => (Bool.false_ne_true m).elim⟩

theorem imin (d : BitVec 7) (a : BitVec 7) (b : BitVec 7) (n : Bool) : Statement (.imin d a b n) := by
  have shape : decodeShape (formHints (.imin d a b n)) (encode (.imin d a b n)) = some (.imin d a b n) := by
    obtain ⟨hw, b4, f0, f1, f2, f3, f4, f5⟩ := lay4 (encode (.imin d a b n)) (0#6) d a b n (7#4) rfl
    generalize encode (.imin d a b n) = wd at hw f0 f1 f2 f3 f4 f5 ⊢
    have m0 : decodeShape (formHints (.imin d a b n)) wd = shape00 wd := by simp only [decodeShape, f0, BitVec.toNat_ofNat]
    rw [m0]
    simp [shape00, f1, f2, f3, f4, f5]
  exact ⟨fun _ b => decode_shape shape b, fun m => (Bool.false_ne_true m).elim⟩

theorem imax (d : BitVec 7) (a : BitVec 7) (b : BitVec 7) (n : Bool) : Statement (.imax d a b n) := by
  have shape : decodeShape (formHints (.imax d a b n)) (encode (.imax d a b n)) = some (.imax d a b n) := by
    obtain ⟨hw, b4, f0, f1, f2, f3, f4, f5⟩ := lay4 (encode (.imax d a b n)) (0#6) d a b n (8#4) rfl
    generalize encode (.imax d a b n) = wd at hw f0 f1 f2 f3 f4 f5 ⊢
    have m0 : decodeShape (formHints (.imax d a b n)) wd = shape00 wd := by simp only [decodeShape, f0, BitVec.toNat_ofNat]
    rw [m0]
    simp [shape00, f1, f2, f3, f4, f5]
  exact ⟨fun _ b => decode_shape shape b, fun m => (Bool.false_ne_true m).elim⟩

theorem isad (d : BitVec 7) (a : BitVec 7) (b : BitVec 7) (n : Bool) : Statement (.isad d a b n) := by
  have shape : decodeShape (formHints (.isad d a b n)) (encode (.isad d a b n)) = some (.isad d a b n) := by
    obtain ⟨hw, b4, f0, f1, f2, f3, f4, f5⟩ := lay4 (encode (.isad d a b n)) (0#6) d a b n (9#4) rfl
    generalize encode (.isad d a b n) = wd at hw f0 f1 f2 f3 f4 f5 ⊢
    have m0 : decodeShape (formHints (.isad d a b n)) wd = shape00 wd := by simp only [decodeShape, f0, BitVec.toNat_ofNat]
    rw [m0]
    simp [shape00, f1, f2, f3, f4, f5]
  exact ⟨fun _ b => decode_shape shape b, fun m => (Bool.false_ne_true m).elim⟩

theorem lea (d : BitVec 7) (a : BitVec 7) (b : BitVec 7) (n : Bool) : Statement (.lea d a b n) := by
  have shape : decodeShape (formHints (.lea d a b n)) (encode (.lea d a b n)) = some (.lea d a b n) := by
    obtain ⟨hw, b4, f0, f1, f2, f3, f4, f5⟩ := lay4 (encode (.lea d a b n)) (0#6) d a b n (10#4) rfl
    generalize encode (.lea d a b n) = wd at hw f0 f1 f2 f3 f4 f5 ⊢
    have m0 : decodeShape (formHints (.lea d a b n)) wd = shape00 wd := by simp only [decodeShape, f0, BitVec.toNat_ofNat]
    rw [m0]
    simp [shape00, f1, f2, f3, f4, f5]
  exact ⟨fun _ b => decode_shape shape b, fun m => (Bool.false_ne_true m).elim⟩

theorem iaddi (d : BitVec 7) (a : BitVec 7) (i : BitVec 12) : Statement (.iaddi d a i) := by
  have shape : decodeShape (formHints (.iaddi d a i)) (encode (.iaddi d a i)) = some (.iaddi d a i) := by
    obtain ⟨hw, f0, f1, f2, f3⟩ := lay5 (encode (.iaddi d a i)) (1#6) d a i rfl
    generalize encode (.iaddi d a i) = wd at hw f0 f1 f2 f3 ⊢
    have m0 : decodeShape (formHints (.iaddi d a i)) wd = shape01 wd := by simp only [decodeShape, f0, BitVec.toNat_ofNat]
    rw [m0]
    simp [shape01, f1, f2, f3]
  exact ⟨fun _ b => decode_shape shape b, fun m => (Bool.false_ne_true m).elim⟩

theorem and (d : BitVec 7) (a : BitVec 7) (b : BitVec 7) (n : Bool) : Statement (.and d a b n) := by
  have shape : decodeShape (formHints (.and d a b n)) (encode (.and d a b n)) = some (.and d a b n) := by
    obtain ⟨hw, b4, f0, f1, f2, f3, f4, f5⟩ := lay4 (encode (.and d a b n)) (2#6) d a b n (0#4) rfl
    generalize encode (.and d a b n) = wd at hw f0 f1 f2 f3 f4 f5 ⊢
    have m0 : decodeShape (formHints (.and d a b n)) wd = shape02 wd := by simp only [decodeShape, f0, BitVec.toNat_ofNat]
    rw [m0]
    simp [shape02, f1, f2, f3, f4, f5]
  exact ⟨fun _ b => decode_shape shape b, fun m => (Bool.false_ne_true m).elim⟩

theorem or (d : BitVec 7) (a : BitVec 7) (b : BitVec 7) (n : Bool) : Statement (.or d a b n) := by
  have shape : decodeShape (formHints (.or d a b n)) (encode (.or d a b n)) = some (.or d a b n) := by
    obtain ⟨hw, b4, f0, f1, f2, f3, f4, f5⟩ := lay4 (encode (.or d a b n)) (2#6) d a b n (1#4) rfl
    generalize encode (.or d a b n) = wd at hw f0 f1 f2 f3 f4 f5 ⊢
    have m0 : decodeShape (formHints (.or d a b n)) wd = shape02 wd := by simp only [decodeShape, f0, BitVec.toNat_ofNat]
    rw [m0]
    simp [shape02, f1, f2, f3, f4, f5]
  exact ⟨fun _ b => decode_shape shape b, fun m => (Bool.false_ne_true m).elim⟩

theorem xor (d : BitVec 7) (a : BitVec 7) (b : BitVec 7) (n : Bool) : Statement (.xor d a b n) := by
  have shape : decodeShape (formHints (.xor d a b n)) (encode (.xor d a b n)) = some (.xor d a b n) := by
    obtain ⟨hw, b4, f0, f1, f2, f3, f4, f5⟩ := lay4 (encode (.xor d a b n)) (2#6) d a b n (2#4) rfl
    generalize encode (.xor d a b n) = wd at hw f0 f1 f2 f3 f4 f5 ⊢
    have m0 : decodeShape (formHints (.xor d a b n)) wd = shape02 wd := by simp only [decodeShape, f0, BitVec.toNat_ofNat]
    rw [m0]
    simp [shape02, f1, f2, f3, f4, f5]
  exact ⟨fun _ b => decode_shape shape b, fun m => (Bool.false_ne_true m).elim⟩

theorem andn (d : BitVec 7) (a : BitVec 7) (b : BitVec 7) (n : Bool) : Statement (.andn d a b n) := by
  have shape : decodeShape (formHints (.andn d a b n)) (encode (.andn d a b n)) = some (.andn d a b n) := by
    obtain ⟨hw, b4, f0, f1, f2, f3, f4, f5⟩ := lay4 (encode (.andn d a b n)) (2#6) d a b n (3#4) rfl
    generalize encode (.andn d a b n) = wd at hw f0 f1 f2 f3 f4 f5 ⊢
    have m0 : decodeShape (formHints (.andn d a b n)) wd = shape02 wd := by simp only [decodeShape, f0, BitVec.toNat_ofNat]
    rw [m0]
    simp [shape02, f1, f2, f3, f4, f5]
  exact ⟨fun _ b => decode_shape shape b, fun m => (Bool.false_ne_true m).elim⟩

theorem shl (d : BitVec 7) (a : BitVec 7) (b : BitVec 7) (n : Bool) : Statement (.shl d a b n) := by
  have shape : decodeShape (formHints (.shl d a b n)) (encode (.shl d a b n)) = some (.shl d a b n) := by
    obtain ⟨hw, b4, f0, f1, f2, f3, f4, f5⟩ := lay4 (encode (.shl d a b n)) (2#6) d a b n (4#4) rfl
    generalize encode (.shl d a b n) = wd at hw f0 f1 f2 f3 f4 f5 ⊢
    have m0 : decodeShape (formHints (.shl d a b n)) wd = shape02 wd := by simp only [decodeShape, f0, BitVec.toNat_ofNat]
    rw [m0]
    simp [shape02, f1, f2, f3, f4, f5]
  exact ⟨fun _ b => decode_shape shape b, fun m => (Bool.false_ne_true m).elim⟩

theorem shr (d : BitVec 7) (a : BitVec 7) (b : BitVec 7) (n : Bool) : Statement (.shr d a b n) := by
  have shape : decodeShape (formHints (.shr d a b n)) (encode (.shr d a b n)) = some (.shr d a b n) := by
    obtain ⟨hw, b4, f0, f1, f2, f3, f4, f5⟩ := lay4 (encode (.shr d a b n)) (2#6) d a b n (5#4) rfl
    generalize encode (.shr d a b n) = wd at hw f0 f1 f2 f3 f4 f5 ⊢
    have m0 : decodeShape (formHints (.shr d a b n)) wd = shape02 wd := by simp only [decodeShape, f0, BitVec.toNat_ofNat]
    rw [m0]
    simp [shape02, f1, f2, f3, f4, f5]
  exact ⟨fun _ b => decode_shape shape b, fun m => (Bool.false_ne_true m).elim⟩

theorem sar (d : BitVec 7) (a : BitVec 7) (b : BitVec 7) (n : Bool) : Statement (.sar d a b n) := by
  have shape : decodeShape (formHints (.sar d a b n)) (encode (.sar d a b n)) = some (.sar d a b n) := by
    obtain ⟨hw, b4, f0, f1, f2, f3, f4, f5⟩ := lay4 (encode (.sar d a b n)) (2#6) d a b n (6#4) rfl
    generalize encode (.sar d a b n) = wd at hw f0 f1 f2 f3 f4 f5 ⊢
    have m0 : decodeShape (formHints (.sar d a b n)) wd = shape02 wd := by simp only [decodeShape, f0, BitVec.toNat_ofNat]
    rw [m0]
    simp [shape02, f1, f2, f3, f4, f5]
  exact ⟨fun _ b => decode_shape shape b, fun m => (Bool.false_ne_true m).elim⟩

theorem rot (d : BitVec 7) (a : BitVec 7) (b : BitVec 7) (n : Bool) : Statement (.rot d a b n) := by
  have shape : decodeShape (formHints (.rot d a b n)) (encode (.rot d a b n)) = some (.rot d a b n) := by
    obtain ⟨hw, b4, f0, f1, f2, f3, f4, f5⟩ := lay4 (encode (.rot d a b n)) (2#6) d a b n (7#4) rfl
    generalize encode (.rot d a b n) = wd at hw f0 f1 f2 f3 f4 f5 ⊢
    have m0 : decodeShape (formHints (.rot d a b n)) wd = shape02 wd := by simp only [decodeShape, f0, BitVec.toNat_ofNat]
    rw [m0]
    simp [shape02, f1, f2, f3, f4, f5]
  exact ⟨fun _ b => decode_shape shape b, fun m => (Bool.false_ne_true m).elim⟩

theorem fshf (d : BitVec 7) (a : BitVec 7) (b : BitVec 7) (n : Bool) : Statement (.fshf d a b n) := by
  have shape : decodeShape (formHints (.fshf d a b n)) (encode (.fshf d a b n)) = some (.fshf d a b n) := by
    obtain ⟨hw, b4, f0, f1, f2, f3, f4, f5⟩ := lay4 (encode (.fshf d a b n)) (2#6) d a b n (8#4) rfl
    generalize encode (.fshf d a b n) = wd at hw f0 f1 f2 f3 f4 f5 ⊢
    have m0 : decodeShape (formHints (.fshf d a b n)) wd = shape02 wd := by simp only [decodeShape, f0, BitVec.toNat_ofNat]
    rw [m0]
    simp [shape02, f1, f2, f3, f4, f5]
  exact ⟨fun _ b => decode_shape shape b, fun m => (Bool.false_ne_true m).elim⟩

theorem bfx (d : BitVec 7) (a : BitVec 7) (b : BitVec 7) (n : Bool) : Statement (.bfx d a b n) := by
  have shape : decodeShape (formHints (.bfx d a b n)) (encode (.bfx d a b n)) = some (.bfx d a b n) := by
    obtain ⟨hw, b4, f0, f1, f2, f3, f4, f5⟩ := lay4 (encode (.bfx d a b n)) (2#6) d a b n (9#4) rfl
    generalize encode (.bfx d a b n) = wd at hw f0 f1 f2 f3 f4 f5 ⊢
    have m0 : decodeShape (formHints (.bfx d a b n)) wd = shape02 wd := by simp only [decodeShape, f0, BitVec.toNat_ofNat]
    rw [m0]
    simp [shape02, f1, f2, f3, f4, f5]
  exact ⟨fun _ b => decode_shape shape b, fun m => (Bool.false_ne_true m).elim⟩

theorem bfi (d : BitVec 7) (a : BitVec 7) (b : BitVec 7) (n : Bool) : Statement (.bfi d a b n) := by
  have shape : decodeShape (formHints (.bfi d a b n)) (encode (.bfi d a b n)) = some (.bfi d a b n) := by
    obtain ⟨hw, b4, f0, f1, f2, f3, f4, f5⟩ := lay4 (encode (.bfi d a b n)) (2#6) d a b n (10#4) rfl
    generalize encode (.bfi d a b n) = wd at hw f0 f1 f2 f3 f4 f5 ⊢
    have m0 : decodeShape (formHints (.bfi d a b n)) wd = shape02 wd := by simp only [decodeShape, f0, BitVec.toNat_ofNat]
    rw [m0]
    simp [shape02, f1, f2, f3, f4, f5]
  exact ⟨fun _ b => decode_shape shape b, fun m => (Bool.false_ne_true m).elim⟩

theorem bperm (d : BitVec 7) (a : BitVec 7) (b : BitVec 7) (n : Bool) : Statement (.bperm d a b n) := by
  have shape : decodeShape (formHints (.bperm d a b n)) (encode (.bperm d a b n)) = some (.bperm d a b n) := by
    obtain ⟨hw, b4, f0, f1, f2, f3, f4, f5⟩ := lay4 (encode (.bperm d a b n)) (2#6) d a b n (11#4) rfl
    generalize encode (.bperm d a b n) = wd at hw f0 f1 f2 f3 f4 f5 ⊢
    have m0 : decodeShape (formHints (.bperm d a b n)) wd = shape02 wd := by simp only [decodeShape, f0, BitVec.toNat_ofNat]
    rw [m0]
    simp [shape02, f1, f2, f3, f4, f5]
  exact ⟨fun _ b => decode_shape shape b, fun m => (Bool.false_ne_true m).elim⟩

theorem popc (d : BitVec 7) (a : BitVec 7) (n : Bool) : Statement (.popc d a n) := by
  have shape : decodeShape (formHints (.popc d a n)) (encode (.popc d a n)) = some (.popc d a n) := by
    obtain ⟨hw, b4, f0, f1, f2, f3, f4, f5⟩ := lay4 (encode (.popc d a n)) (3#6) d a (0#7) n (0#4) rfl
    generalize encode (.popc d a n) = wd at hw f0 f1 f2 f3 f4 f5 ⊢
    have m0 : decodeShape (formHints (.popc d a n)) wd = shape03 wd := by simp only [decodeShape, f0, BitVec.toNat_ofNat]
    rw [m0]
    simp [shape03, f1, f2, f3, f4, f5]
  exact ⟨fun _ b => decode_shape shape b, fun m => (Bool.false_ne_true m).elim⟩

theorem clz (d : BitVec 7) (a : BitVec 7) (n : Bool) : Statement (.clz d a n) := by
  have shape : decodeShape (formHints (.clz d a n)) (encode (.clz d a n)) = some (.clz d a n) := by
    obtain ⟨hw, b4, f0, f1, f2, f3, f4, f5⟩ := lay4 (encode (.clz d a n)) (3#6) d a (0#7) n (1#4) rfl
    generalize encode (.clz d a n) = wd at hw f0 f1 f2 f3 f4 f5 ⊢
    have m0 : decodeShape (formHints (.clz d a n)) wd = shape03 wd := by simp only [decodeShape, f0, BitVec.toNat_ofNat]
    rw [m0]
    simp [shape03, f1, f2, f3, f4, f5]
  exact ⟨fun _ b => decode_shape shape b, fun m => (Bool.false_ne_true m).elim⟩

theorem ctz (d : BitVec 7) (a : BitVec 7) (n : Bool) : Statement (.ctz d a n) := by
  have shape : decodeShape (formHints (.ctz d a n)) (encode (.ctz d a n)) = some (.ctz d a n) := by
    obtain ⟨hw, b4, f0, f1, f2, f3, f4, f5⟩ := lay4 (encode (.ctz d a n)) (3#6) d a (0#7) n (2#4) rfl
    generalize encode (.ctz d a n) = wd at hw f0 f1 f2 f3 f4 f5 ⊢
    have m0 : decodeShape (formHints (.ctz d a n)) wd = shape03 wd := by simp only [decodeShape, f0, BitVec.toNat_ofNat]
    rw [m0]
    simp [shape03, f1, f2, f3, f4, f5]
  exact ⟨fun _ b => decode_shape shape b, fun m => (Bool.false_ne_true m).elim⟩

theorem brev (d : BitVec 7) (a : BitVec 7) (n : Bool) : Statement (.brev d a n) := by
  have shape : decodeShape (formHints (.brev d a n)) (encode (.brev d a n)) = some (.brev d a n) := by
    obtain ⟨hw, b4, f0, f1, f2, f3, f4, f5⟩ := lay4 (encode (.brev d a n)) (3#6) d a (0#7) n (3#4) rfl
    generalize encode (.brev d a n) = wd at hw f0 f1 f2 f3 f4 f5 ⊢
    have m0 : decodeShape (formHints (.brev d a n)) wd = shape03 wd := by simp only [decodeShape, f0, BitVec.toNat_ofNat]
    rw [m0]
    simp [shape03, f1, f2, f3, f4, f5]
  exact ⟨fun _ b => decode_shape shape b, fun m => (Bool.false_ne_true m).elim⟩

theorem plop (p : BitVec 3) (l : BitVec 4) (q : BitVec 3) (r : BitVec 3) : Statement (.plop p l q r) := by
  have shape : decodeShape (formHints (.plop p l q r)) (encode (.plop p l q r)) = some (.plop p l q r) := by
    obtain ⟨hw, f0, f1, f2, f3, f4, f5, f6, f7⟩ := lay6 (encode (.plop p l q r)) (4#6) p (0#4) l q (0#4) r (0#5) rfl
    generalize encode (.plop p l q r) = wd at hw f0 f1 f2 f3 f4 f5 f6 f7 ⊢
    have f8 : fld wd 0 4 = 0#4 := fld_nat (by rw [hw]; simp only [BitVec.toNat_ofNat]; omega)
    have m0 : decodeShape (formHints (.plop p l q r)) wd = shape04 wd := by simp only [decodeShape, f0, BitVec.toNat_ofNat]
    rw [m0]
    simp [shape04, f1, f2, f3, f4, f5, f6, f7, f8]
  exact ⟨fun _ b => decode_shape shape b, fun m => (Bool.false_ne_true m).elim⟩

theorem sel (d : BitVec 7) (a : BitVec 7) (b : BitVec 7) (n : Bool) : Statement (.sel d a b n) := by
  have shape : decodeShape (formHints (.sel d a b n)) (encode (.sel d a b n)) = some (.sel d a b n) := by
    obtain ⟨hw, b4, f0, f1, f2, f3, f4, f5⟩ := lay4 (encode (.sel d a b n)) (4#6) d a b n (1#4) rfl
    generalize encode (.sel d a b n) = wd at hw f0 f1 f2 f3 f4 f5 ⊢
    have f6 : fld wd 0 5 ≠ 0#5 := fld_ne (by rw [hw]; simp only [BitVec.toNat_ofNat]; omega)
    have m0 : decodeShape (formHints (.sel d a b n)) wd = shape04 wd := by simp only [decodeShape, f0, BitVec.toNat_ofNat]
    rw [m0]
    simp [shape04, f1, f2, f3, f4, f5, f6]
  exact ⟨fun _ b => decode_shape shape b, fun m => (Bool.false_ne_true m).elim⟩

theorem mov (d : BitVec 7) (a : BitVec 7) (n : Bool) : Statement (.mov d a n) := by
  have shape : decodeShape (formHints (.mov d a n)) (encode (.mov d a n)) = some (.mov d a n) := by
    obtain ⟨hw, b4, f0, f1, f2, f3, f4, f5⟩ := lay4 (encode (.mov d a n)) (4#6) d a (0#7) n (2#4) rfl
    generalize encode (.mov d a n) = wd at hw f0 f1 f2 f3 f4 f5 ⊢
    have f6 : fld wd 0 5 ≠ 0#5 := fld_ne (by rw [hw]; simp only [BitVec.toNat_ofNat]; omega)
    have f7 : fld wd 8 4 = 0#4 := fld_nat (by rw [hw]; simp only [BitVec.toNat_ofNat]; omega)
    have m0 : decodeShape (formHints (.mov d a n)) wd = shape04 wd := by simp only [decodeShape, f0, BitVec.toNat_ofNat]
    rw [m0]
    simp [shape04, f1, f2, f3, f4, f5, f6, f7]
  exact ⟨fun _ b => decode_shape shape b, fun m => (Bool.false_ne_true m).elim⟩

theorem movs (d : BitVec 7) (s : BitVec 7) (n : Bool) : Statement (.movs d s n) := by
  have shape : decodeShape (formHints (.movs d s n)) (encode (.movs d s n)) = some (.movs d s n) := by
    obtain ⟨hw, b4, f0, f1, f2, f3, f4, f5⟩ := lay4 (encode (.movs d s n)) (4#6) d s (0#7) n (3#4) rfl
    generalize encode (.movs d s n) = wd at hw f0 f1 f2 f3 f4 f5 ⊢
    have f6 : fld wd 0 5 ≠ 0#5 := fld_ne (by rw [hw]; simp only [BitVec.toNat_ofNat]; omega)
    have f7 : fld wd 8 4 = 0#4 := fld_nat (by rw [hw]; simp only [BitVec.toNat_ofNat]; omega)
    have m0 : decodeShape (formHints (.movs d s n)) wd = shape04 wd := by simp only [decodeShape, f0, BitVec.toNat_ofNat]
    rw [m0]
    simp [shape04, f1, f2, f3, f4, f5, f6, f7]
  exact ⟨fun _ b => decode_shape shape b, fun m => (Bool.false_ne_true m).elim⟩

theorem isetp (p : BitVec 3) (a : BitVec 7) (b : BitVec 7) (c : BitVec 4) : Statement (.isetp p a b c) := by
  have shape : decodeShape (formHints (.isetp p a b c)) (encode (.isetp p a b c)) = some (.isetp p a b c) := by
    obtain ⟨hw, f0, f1, f2, f3, f4, f5, f6⟩ := lay7 (encode (.isetp p a b c)) (5#6) p (0#4) a b (0#1) c rfl
    generalize encode (.isetp p a b c) = wd at hw f0 f1 f2 f3 f4 f5 f6 ⊢
    have m0 : decodeShape (formHints (.isetp p a b c)) wd = shape05 wd := by simp only [decodeShape, f0, BitVec.toNat_ofNat]
    rw [m0]
    simp [shape05, f1, f2, f3, f4, f5, f6]
  exact ⟨fun _ b => decode_shape shape b, fun m => (Bool.false_ne_true m).elim⟩

theorem fadd (d : BitVec 7) (a : BitVec 7) (b : BitVec 7) (n : Bool) : Statement (.fadd d a b n) := by
  have shape : decodeShape (formHints (.fadd d a b n)) (encode (.fadd d a b n)) = some (.fadd d a b n) := by
    obtain ⟨hw, b4, f0, f1, f2, f3, f4, f5⟩ := lay4 (encode (.fadd d a b n)) (16#6) d a b n (0#4) rfl
    generalize encode (.fadd d a b n) = wd at hw f0 f1 f2 f3 f4 f5 ⊢
    have m0 : decodeShape (formHints (.fadd d a b n)) wd = shape10 wd := by simp only [decodeShape, f0, BitVec.toNat_ofNat]
    rw [m0]
    simp [shape10, f1, f2, f3, f4, f5]
  exact ⟨fun _ b => decode_shape shape b, fun m => (Bool.false_ne_true m).elim⟩

theorem fsub (d : BitVec 7) (a : BitVec 7) (b : BitVec 7) (n : Bool) : Statement (.fsub d a b n) := by
  have shape : decodeShape (formHints (.fsub d a b n)) (encode (.fsub d a b n)) = some (.fsub d a b n) := by
    obtain ⟨hw, b4, f0, f1, f2, f3, f4, f5⟩ := lay4 (encode (.fsub d a b n)) (16#6) d a b n (1#4) rfl
    generalize encode (.fsub d a b n) = wd at hw f0 f1 f2 f3 f4 f5 ⊢
    have m0 : decodeShape (formHints (.fsub d a b n)) wd = shape10 wd := by simp only [decodeShape, f0, BitVec.toNat_ofNat]
    rw [m0]
    simp [shape10, f1, f2, f3, f4, f5]
  exact ⟨fun _ b => decode_shape shape b, fun m => (Bool.false_ne_true m).elim⟩

theorem fmul (d : BitVec 7) (a : BitVec 7) (b : BitVec 7) (n : Bool) : Statement (.fmul d a b n) := by
  have shape : decodeShape (formHints (.fmul d a b n)) (encode (.fmul d a b n)) = some (.fmul d a b n) := by
    obtain ⟨hw, b4, f0, f1, f2, f3, f4, f5⟩ := lay4 (encode (.fmul d a b n)) (16#6) d a b n (2#4) rfl
    generalize encode (.fmul d a b n) = wd at hw f0 f1 f2 f3 f4 f5 ⊢
    have m0 : decodeShape (formHints (.fmul d a b n)) wd = shape10 wd := by simp only [decodeShape, f0, BitVec.toNat_ofNat]
    rw [m0]
    simp [shape10, f1, f2, f3, f4, f5]
  exact ⟨fun _ b => decode_shape shape b, fun m => (Bool.false_ne_true m).elim⟩

theorem ffma (d : BitVec 7) (a : BitVec 7) (b : BitVec 7) (n : Bool) : Statement (.ffma d a b n) := by
  have shape : decodeShape (formHints (.ffma d a b n)) (encode (.ffma d a b n)) = some (.ffma d a b n) := by
    obtain ⟨hw, b4, f0, f1, f2, f3, f4, f5⟩ := lay4 (encode (.ffma d a b n)) (16#6) d a b n (3#4) rfl
    generalize encode (.ffma d a b n) = wd at hw f0 f1 f2 f3 f4 f5 ⊢
    have m0 : decodeShape (formHints (.ffma d a b n)) wd = shape10 wd := by simp only [decodeShape, f0, BitVec.toNat_ofNat]
    rw [m0]
    simp [shape10, f1, f2, f3, f4, f5]
  exact ⟨fun _ b => decode_shape shape b, fun m => (Bool.false_ne_true m).elim⟩

theorem fmin (d : BitVec 7) (a : BitVec 7) (b : BitVec 7) (n : Bool) : Statement (.fmin d a b n) := by
  have shape : decodeShape (formHints (.fmin d a b n)) (encode (.fmin d a b n)) = some (.fmin d a b n) := by
    obtain ⟨hw, b4, f0, f1, f2, f3, f4, f5⟩ := lay4 (encode (.fmin d a b n)) (16#6) d a b n (4#4) rfl
    generalize encode (.fmin d a b n) = wd at hw f0 f1 f2 f3 f4 f5 ⊢
    have m0 : decodeShape (formHints (.fmin d a b n)) wd = shape10 wd := by simp only [decodeShape, f0, BitVec.toNat_ofNat]
    rw [m0]
    simp [shape10, f1, f2, f3, f4, f5]
  exact ⟨fun _ b => decode_shape shape b, fun m => (Bool.false_ne_true m).elim⟩

theorem fmax (d : BitVec 7) (a : BitVec 7) (b : BitVec 7) (n : Bool) : Statement (.fmax d a b n) := by
  have shape : decodeShape (formHints (.fmax d a b n)) (encode (.fmax d a b n)) = some (.fmax d a b n) := by
    obtain ⟨hw, b4, f0, f1, f2, f3, f4, f5⟩ := lay4 (encode (.fmax d a b n)) (16#6) d a b n (5#4) rfl
    generalize encode (.fmax d a b n) = wd at hw f0 f1 f2 f3 f4 f5 ⊢
    have m0 : decodeShape (formHints (.fmax d a b n)) wd = shape10 wd := by simp only [decodeShape, f0, BitVec.toNat_ofNat]
    rw [m0]
    simp [shape10, f1, f2, f3, f4, f5]
  exact ⟨fun _ b => decode_shape shape b, fun m => (Bool.false_ne_true m).elim⟩

theorem fclass (d : BitVec 7) (a : BitVec 7) (n : Bool) : Statement (.fclass d a n) := by
  have shape : decodeShape (formHints (.fclass d a n)) (encode (.fclass d a n)) = some (.fclass d a n) := by
    obtain ⟨hw, b4, f0, f1, f2, f3, f4, f5⟩ := lay4 (encode (.fclass d a n)) (16#6) d a (0#7) n (6#4) rfl
    generalize encode (.fclass d a n) = wd at hw f0 f1 f2 f3 f4 f5 ⊢
    have m0 : decodeShape (formHints (.fclass d a n)) wd = shape10 wd := by simp only [decodeShape, f0, BitVec.toNat_ofNat]
    rw [m0]
    simp [shape10, f1, f2, f3, f4, f5]
  exact ⟨fun _ b => decode_shape shape b, fun m => (Bool.false_ne_true m).elim⟩

theorem fscale (d : BitVec 7) (a : BitVec 7) (b : BitVec 7) (n : Bool) : Statement (.fscale d a b n) := by
  have shape : decodeShape (formHints (.fscale d a b n)) (encode (.fscale d a b n)) = some (.fscale d a b n) := by
    obtain ⟨hw, b4, f0, f1, f2, f3, f4, f5⟩ := lay4 (encode (.fscale d a b n)) (16#6) d a b n (7#4) rfl
    generalize encode (.fscale d a b n) = wd at hw f0 f1 f2 f3 f4 f5 ⊢
    have m0 : decodeShape (formHints (.fscale d a b n)) wd = shape10 wd := by simp only [decodeShape, f0, BitVec.toNat_ofNat]
    rw [m0]
    simp [shape10, f1, f2, f3, f4, f5]
  exact ⟨fun _ b => decode_shape shape b, fun m => (Bool.false_ne_true m).elim⟩

theorem frnd (d : BitVec 7) (a : BitVec 7) (n : Bool) : Statement (.frnd d a n) := by
  have shape : decodeShape (formHints (.frnd d a n)) (encode (.frnd d a n)) = some (.frnd d a n) := by
    obtain ⟨hw, b4, f0, f1, f2, f3, f4, f5⟩ := lay4 (encode (.frnd d a n)) (16#6) d a (0#7) n (8#4) rfl
    generalize encode (.frnd d a n) = wd at hw f0 f1 f2 f3 f4 f5 ⊢
    have m0 : decodeShape (formHints (.frnd d a n)) wd = shape10 wd := by simp only [decodeShape, f0, BitVec.toNat_ofNat]
    rw [m0]
    simp [shape10, f1, f2, f3, f4, f5]
  exact ⟨fun _ b => decode_shape shape b, fun m => (Bool.false_ne_true m).elim⟩

theorem fdp2 (d : BitVec 7) (a : BitVec 7) (b : BitVec 7) (n : Bool) : Statement (.fdp2 d a b n) := by
  have shape : decodeShape (formHints (.fdp2 d a b n)) (encode (.fdp2 d a b n)) = some (.fdp2 d a b n) := by
    obtain ⟨hw, b4, f0, f1, f2, f3, f4, f5⟩ := lay4 (encode (.fdp2 d a b n)) (16#6) d a b n (9#4) rfl
    generalize encode (.fdp2 d a b n) = wd at hw f0 f1 f2 f3 f4 f5 ⊢
    have m0 : decodeShape (formHints (.fdp2 d a b n)) wd = shape10 wd := by simp only [decodeShape, f0, BitVec.toNat_ofNat]
    rw [m0]
    simp [shape10, f1, f2, f3, f4, f5]
  exact ⟨fun _ b => decode_shape shape b, fun m => (Bool.false_ne_true m).elim⟩

theorem dp4a (d : BitVec 7) (a : BitVec 7) (b : BitVec 7) (n : Bool) : Statement (.dp4a d a b n) := by
  have shape : decodeShape (formHints (.dp4a d a b n)) (encode (.dp4a d a b n)) = some (.dp4a d a b n) := by
    obtain ⟨hw, b4, f0, f1, f2, f3, f4, f5⟩ := lay4 (encode (.dp4a d a b n)) (16#6) d a b n (10#4) rfl
    generalize encode (.dp4a d a b n) = wd at hw f0 f1 f2 f3 f4 f5 ⊢
    have m0 : decodeShape (formHints (.dp4a d a b n)) wd = shape10 wd := by simp only [decodeShape, f0, BitVec.toNat_ofNat]
    rw [m0]
    simp [shape10, f1, f2, f3, f4, f5]
  exact ⟨fun _ b => decode_shape shape b, fun m => (Bool.false_ne_true m).elim⟩

theorem hadd2 (d : BitVec 7) (a : BitVec 7) (b : BitVec 7) (n : Bool) : Statement (.hadd2 d a b n) := by
  have shape : decodeShape (formHints (.hadd2 d a b n)) (encode (.hadd2 d a b n)) = some (.hadd2 d a b n) := by
    obtain ⟨hw, b4, f0, f1, f2, f3, f4, f5⟩ := lay4 (encode (.hadd2 d a b n)) (17#6) d a b n (0#4) rfl
    generalize encode (.hadd2 d a b n) = wd at hw f0 f1 f2 f3 f4 f5 ⊢
    have m0 : decodeShape (formHints (.hadd2 d a b n)) wd = shape11 wd := by simp only [decodeShape, f0, BitVec.toNat_ofNat]
    rw [m0]
    simp [shape11, f1, f2, f3, f4, f5]
  exact ⟨fun _ b => decode_shape shape b, fun m => (Bool.false_ne_true m).elim⟩

theorem hmul2 (d : BitVec 7) (a : BitVec 7) (b : BitVec 7) (n : Bool) : Statement (.hmul2 d a b n) := by
  have shape : decodeShape (formHints (.hmul2 d a b n)) (encode (.hmul2 d a b n)) = some (.hmul2 d a b n) := by
    obtain ⟨hw, b4, f0, f1, f2, f3, f4, f5⟩ := lay4 (encode (.hmul2 d a b n)) (17#6) d a b n (1#4) rfl
    generalize encode (.hmul2 d a b n) = wd at hw f0 f1 f2 f3 f4 f5 ⊢
    have m0 : decodeShape (formHints (.hmul2 d a b n)) wd = shape11 wd := by simp only [decodeShape, f0, BitVec.toNat_ofNat]
    rw [m0]
    simp [shape11, f1, f2, f3, f4, f5]
  exact ⟨fun _ b => decode_shape shape b, fun m => (Bool.false_ne_true m).elim⟩

theorem hfma2 (d : BitVec 7) (a : BitVec 7) (b : BitVec 7) (n : Bool) : Statement (.hfma2 d a b n) := by
  have shape : decodeShape (formHints (.hfma2 d a b n)) (encode (.hfma2 d a b n)) = some (.hfma2 d a b n) := by
    obtain ⟨hw, b4, f0, f1, f2, f3, f4, f5⟩ := lay4 (encode (.hfma2 d a b n)) (17#6) d a b n (2#4) rfl
    generalize encode (.hfma2 d a b n) = wd at hw f0 f1 f2 f3 f4 f5 ⊢
    have m0 : decodeShape (formHints (.hfma2 d a b n)) wd = shape11 wd := by simp only [decodeShape, f0, BitVec.toNat_ofNat]
    rw [m0]
    simp [shape11, f1, f2, f3, f4, f5]
  exact ⟨fun _ b => decode_shape shape b, fun m => (Bool.false_ne_true m).elim⟩

theorem hmax2 (d : BitVec 7) (a : BitVec 7) (b : BitVec 7) (n : Bool) : Statement (.hmax2 d a b n) := by
  have shape : decodeShape (formHints (.hmax2 d a b n)) (encode (.hmax2 d a b n)) = some (.hmax2 d a b n) := by
    obtain ⟨hw, b4, f0, f1, f2, f3, f4, f5⟩ := lay4 (encode (.hmax2 d a b n)) (17#6) d a b n (3#4) rfl
    generalize encode (.hmax2 d a b n) = wd at hw f0 f1 f2 f3 f4 f5 ⊢
    have m0 : decodeShape (formHints (.hmax2 d a b n)) wd = shape11 wd := by simp only [decodeShape, f0, BitVec.toNat_ofNat]
    rw [m0]
    simp [shape11, f1, f2, f3, f4, f5]
  exact ⟨fun _ b => decode_shape shape b, fun m => (Bool.false_ne_true m).elim⟩

theorem fsetp (p : BitVec 3) (a : BitVec 7) (b : BitVec 7) (c : BitVec 4) : Statement (.fsetp p a b c) := by
  have shape : decodeShape (formHints (.fsetp p a b c)) (encode (.fsetp p a b c)) = some (.fsetp p a b c) := by
    obtain ⟨hw, f0, f1, f2, f3, f4, f5, f6⟩ := lay7 (encode (.fsetp p a b c)) (18#6) p (0#4) a b (0#1) c rfl
    generalize encode (.fsetp p a b c) = wd at hw f0 f1 f2 f3 f4 f5 f6 ⊢
    have m0 : decodeShape (formHints (.fsetp p a b c)) wd = shape12 wd := by simp only [decodeShape, f0, BitVec.toNat_ofNat]
    rw [m0]
    simp [shape12, f1, f2, f3, f4, f5, f6]
  exact ⟨fun _ b => decode_shape shape b, fun m => (Bool.false_ne_true m).elim⟩

theorem dadd (d : BitVec 7) (a : BitVec 7) (b : BitVec 7) (n : Bool) : Statement (.dadd d a b n) := by
  have shape : decodeShape (formHints (.dadd d a b n)) (encode (.dadd d a b n)) = some (.dadd d a b n) := by
    obtain ⟨hw, b4, f0, f1, f2, f3, f4, f5⟩ := lay4 (encode (.dadd d a b n)) (24#6) d a b n (0#4) rfl
    generalize encode (.dadd d a b n) = wd at hw f0 f1 f2 f3 f4 f5 ⊢
    have m0 : decodeShape (formHints (.dadd d a b n)) wd = shape18 wd := by simp only [decodeShape, f0, BitVec.toNat_ofNat]
    rw [m0]
    simp [shape18, f1, f2, f3, f4, f5]
  exact ⟨fun _ b => decode_shape shape b, fun m => (Bool.false_ne_true m).elim⟩

theorem dmul (d : BitVec 7) (a : BitVec 7) (b : BitVec 7) (n : Bool) : Statement (.dmul d a b n) := by
  have shape : decodeShape (formHints (.dmul d a b n)) (encode (.dmul d a b n)) = some (.dmul d a b n) := by
    obtain ⟨hw, b4, f0, f1, f2, f3, f4, f5⟩ := lay4 (encode (.dmul d a b n)) (24#6) d a b n (1#4) rfl
    generalize encode (.dmul d a b n) = wd at hw f0 f1 f2 f3 f4 f5 ⊢
    have m0 : decodeShape (formHints (.dmul d a b n)) wd = shape18 wd := by simp only [decodeShape, f0, BitVec.toNat_ofNat]
    rw [m0]
    simp [shape18, f1, f2, f3, f4, f5]
  exact ⟨fun _ b => decode_shape shape b, fun m => (Bool.false_ne_true m).elim⟩

theorem dfma (d : BitVec 7) (a : BitVec 7) (b : BitVec 7) (n : Bool) : Statement (.dfma d a b n) := by
  have shape : decodeShape (formHints (.dfma d a b n)) (encode (.dfma d a b n)) = some (.dfma d a b n) := by
    obtain ⟨hw, b4, f0, f1, f2, f3, f4, f5⟩ := lay4 (encode (.dfma d a b n)) (24#6) d a b n (2#4) rfl
    generalize encode (.dfma d a b n) = wd at hw f0 f1 f2 f3 f4 f5 ⊢
    have m0 : decodeShape (formHints (.dfma d a b n)) wd = shape18 wd := by simp only [decodeShape, f0, BitVec.toNat_ofNat]
    rw [m0]
    simp [shape18, f1, f2, f3, f4, f5]
  exact ⟨fun _ b => decode_shape shape b, fun m => (Bool.false_ne_true m).elim⟩

theorem dmin (d : BitVec 7) (a : BitVec 7) (b : BitVec 7) (n : Bool) : Statement (.dmin d a b n) := by
  have shape : decodeShape (formHints (.dmin d a b n)) (encode (.dmin d a b n)) = some (.dmin d a b n) := by
    obtain ⟨hw, b4, f0, f1, f2, f3, f4, f5⟩ := lay4 (encode (.dmin d a b n)) (24#6) d a b n (3#4) rfl
    generalize encode (.dmin d a b n) = wd at hw f0 f1 f2 f3 f4 f5 ⊢
    have m0 : decodeShape (formHints (.dmin d a b n)) wd = shape18 wd := by simp only [decodeShape, f0, BitVec.toNat_ofNat]
    rw [m0]
    simp [shape18, f1, f2, f3, f4, f5]
  exact ⟨fun _ b => decode_shape shape b, fun m => (Bool.false_ne_true m).elim⟩

theorem dmax (d : BitVec 7) (a : BitVec 7) (b : BitVec 7) (n : Bool) : Statement (.dmax d a b n) := by
  have shape : decodeShape (formHints (.dmax d a b n)) (encode (.dmax d a b n)) = some (.dmax d a b n) := by
    obtain ⟨hw, b4, f0, f1, f2, f3, f4, f5⟩ := lay4 (encode (.dmax d a b n)) (24#6) d a b n (4#4) rfl
    generalize encode (.dmax d a b n) = wd at hw f0 f1 f2 f3 f4 f5 ⊢
    have m0 : decodeShape (formHints (.dmax d a b n)) wd = shape18 wd := by simp only [decodeShape, f0, BitVec.toNat_ofNat]
    rw [m0]
    simp [shape18, f1, f2, f3, f4, f5]
  exact ⟨fun _ b => decode_shape shape b, fun m => (Bool.false_ne_true m).elim⟩

theorem drcp (d : BitVec 7) (a : BitVec 7) (n : Bool) : Statement (.drcp d a n) := by
  have shape : decodeShape (formHints (.drcp d a n)) (encode (.drcp d a n)) = some (.drcp d a n) := by
    obtain ⟨hw, b4, f0, f1, f2, f3, f4, f5⟩ := lay4 (encode (.drcp d a n)) (24#6) d a (0#7) n (5#4) rfl
    generalize encode (.drcp d a n) = wd at hw f0 f1 f2 f3 f4 f5 ⊢
    have m0 : decodeShape (formHints (.drcp d a n)) wd = shape18 wd := by simp only [decodeShape, f0, BitVec.toNat_ofNat]
    rw [m0]
    simp [shape18, f1, f2, f3, f4, f5]
  exact ⟨fun _ b => decode_shape shape b, fun m => (Bool.false_ne_true m).elim⟩

theorem drsq (d : BitVec 7) (a : BitVec 7) (n : Bool) : Statement (.drsq d a n) := by
  have shape : decodeShape (formHints (.drsq d a n)) (encode (.drsq d a n)) = some (.drsq d a n) := by
    obtain ⟨hw, b4, f0, f1, f2, f3, f4, f5⟩ := lay4 (encode (.drsq d a n)) (24#6) d a (0#7) n (6#4) rfl
    generalize encode (.drsq d a n) = wd at hw f0 f1 f2 f3 f4 f5 ⊢
    have m0 : decodeShape (formHints (.drsq d a n)) wd = shape18 wd := by simp only [decodeShape, f0, BitVec.toNat_ofNat]
    rw [m0]
    simp [shape18, f1, f2, f3, f4, f5]
  exact ⟨fun _ b => decode_shape shape b, fun m => (Bool.false_ne_true m).elim⟩

theorem dsetp (p : BitVec 3) (a : BitVec 7) (b : BitVec 7) (c : BitVec 4) : Statement (.dsetp p a b c) := by
  have shape : decodeShape (formHints (.dsetp p a b c)) (encode (.dsetp p a b c)) = some (.dsetp p a b c) := by
    obtain ⟨hw, f0, f1, f2, f3, f4, f5, f6⟩ := lay7 (encode (.dsetp p a b c)) (25#6) p (0#4) a b (0#1) c rfl
    generalize encode (.dsetp p a b c) = wd at hw f0 f1 f2 f3 f4 f5 f6 ⊢
    have m0 : decodeShape (formHints (.dsetp p a b c)) wd = shape19 wd := by simp only [decodeShape, f0, BitVec.toNat_ofNat]
    rw [m0]
    simp [shape19, f1, f2, f3, f4, f5, f6]
  exact ⟨fun _ b => decode_shape shape b, fun m => (Bool.false_ne_true m).elim⟩

theorem frcp (d : BitVec 7) (a : BitVec 7) (n : Bool) : Statement (.frcp d a n) := by
  have shape : decodeShape (formHints (.frcp d a n)) (encode (.frcp d a n)) = some (.frcp d a n) := by
    obtain ⟨hw, b4, f0, f1, f2, f3, f4, f5⟩ := lay4 (encode (.frcp d a n)) (28#6) d a (0#7) n (0#4) rfl
    generalize encode (.frcp d a n) = wd at hw f0 f1 f2 f3 f4 f5 ⊢
    have m0 : decodeShape (formHints (.frcp d a n)) wd = shape1C wd := by simp only [decodeShape, f0, BitVec.toNat_ofNat]
    rw [m0]
    simp [shape1C, f1, f2, f3, f4, f5]
  exact ⟨fun _ b => decode_shape shape b, fun m => (Bool.false_ne_true m).elim⟩

theorem frsq (d : BitVec 7) (a : BitVec 7) (n : Bool) : Statement (.frsq d a n) := by
  have shape : decodeShape (formHints (.frsq d a n)) (encode (.frsq d a n)) = some (.frsq d a n) := by
    obtain ⟨hw, b4, f0, f1, f2, f3, f4, f5⟩ := lay4 (encode (.frsq d a n)) (28#6) d a (0#7) n (1#4) rfl
    generalize encode (.frsq d a n) = wd at hw f0 f1 f2 f3 f4 f5 ⊢
    have m0 : decodeShape (formHints (.frsq d a n)) wd = shape1C wd := by simp only [decodeShape, f0, BitVec.toNat_ofNat]
    rw [m0]
    simp [shape1C, f1, f2, f3, f4, f5]
  exact ⟨fun _ b => decode_shape shape b, fun m => (Bool.false_ne_true m).elim⟩

theorem fsqrt (d : BitVec 7) (a : BitVec 7) (n : Bool) : Statement (.fsqrt d a n) := by
  have shape : decodeShape (formHints (.fsqrt d a n)) (encode (.fsqrt d a n)) = some (.fsqrt d a n) := by
    obtain ⟨hw, b4, f0, f1, f2, f3, f4, f5⟩ := lay4 (encode (.fsqrt d a n)) (28#6) d a (0#7) n (2#4) rfl
    generalize encode (.fsqrt d a n) = wd at hw f0 f1 f2 f3 f4 f5 ⊢
    have m0 : decodeShape (formHints (.fsqrt d a n)) wd = shape1C wd := by simp only [decodeShape, f0, BitVec.toNat_ofNat]
    rw [m0]
    simp [shape1C, f1, f2, f3, f4, f5]
  exact ⟨fun _ b => decode_shape shape b, fun m => (Bool.false_ne_true m).elim⟩

theorem fex2 (d : BitVec 7) (a : BitVec 7) (n : Bool) : Statement (.fex2 d a n) := by
  have shape : decodeShape (formHints (.fex2 d a n)) (encode (.fex2 d a n)) = some (.fex2 d a n) := by
    obtain ⟨hw, b4, f0, f1, f2, f3, f4, f5⟩ := lay4 (encode (.fex2 d a n)) (28#6) d a (0#7) n (3#4) rfl
    generalize encode (.fex2 d a n) = wd at hw f0 f1 f2 f3 f4 f5 ⊢
    have m0 : decodeShape (formHints (.fex2 d a n)) wd = shape1C wd := by simp only [decodeShape, f0, BitVec.toNat_ofNat]
    rw [m0]
    simp [shape1C, f1, f2, f3, f4, f5]
  exact ⟨fun _ b => decode_shape shape b, fun m => (Bool.false_ne_true m).elim⟩

theorem flg2 (d : BitVec 7) (a : BitVec 7) (n : Bool) : Statement (.flg2 d a n) := by
  have shape : decodeShape (formHints (.flg2 d a n)) (encode (.flg2 d a n)) = some (.flg2 d a n) := by
    obtain ⟨hw, b4, f0, f1, f2, f3, f4, f5⟩ := lay4 (encode (.flg2 d a n)) (28#6) d a (0#7) n (4#4) rfl
    generalize encode (.flg2 d a n) = wd at hw f0 f1 f2 f3 f4 f5 ⊢
    have m0 : decodeShape (formHints (.flg2 d a n)) wd = shape1C wd := by simp only [decodeShape, f0, BitVec.toNat_ofNat]
    rw [m0]
    simp [shape1C, f1, f2, f3, f4, f5]
  exact ⟨fun _ b => decode_shape shape b, fun m => (Bool.false_ne_true m).elim⟩

theorem fsin (d : BitVec 7) (a : BitVec 7) (n : Bool) : Statement (.fsin d a n) := by
  have shape : decodeShape (formHints (.fsin d a n)) (encode (.fsin d a n)) = some (.fsin d a n) := by
    obtain ⟨hw, b4, f0, f1, f2, f3, f4, f5⟩ := lay4 (encode (.fsin d a n)) (28#6) d a (0#7) n (5#4) rfl
    generalize encode (.fsin d a n) = wd at hw f0 f1 f2 f3 f4 f5 ⊢
    have m0 : decodeShape (formHints (.fsin d a n)) wd = shape1C wd := by simp only [decodeShape, f0, BitVec.toNat_ofNat]
    rw [m0]
    simp [shape1C, f1, f2, f3, f4, f5]
  exact ⟨fun _ b => decode_shape shape b, fun m => (Bool.false_ne_true m).elim⟩

theorem fcos (d : BitVec 7) (a : BitVec 7) (n : Bool) : Statement (.fcos d a n) := by
  have shape : decodeShape (formHints (.fcos d a n)) (encode (.fcos d a n)) = some (.fcos d a n) := by
    obtain ⟨hw, b4, f0, f1, f2, f3, f4, f5⟩ := lay4 (encode (.fcos d a n)) (28#6) d a (0#7) n (6#4) rfl
    generalize encode (.fcos d a n) = wd at hw f0 f1 f2 f3 f4 f5 ⊢
    have m0 : decodeShape (formHints (.fcos d a n)) wd = shape1C wd := by simp only [decodeShape, f0, BitVec.toNat_ofNat]
    rw [m0]
    simp [shape1C, f1, f2, f3, f4, f5]
  exact ⟨fun _ b => decode_shape shape b, fun m => (Bool.false_ne_true m).elim⟩

theorem ftanh (d : BitVec 7) (a : BitVec 7) (n : Bool) : Statement (.ftanh d a n) := by
  have shape : decodeShape (formHints (.ftanh d a n)) (encode (.ftanh d a n)) = some (.ftanh d a n) := by
    obtain ⟨hw, b4, f0, f1, f2, f3, f4, f5⟩ := lay4 (encode (.ftanh d a n)) (28#6) d a (0#7) n (7#4) rfl
    generalize encode (.ftanh d a n) = wd at hw f0 f1 f2 f3 f4 f5 ⊢
    have m0 : decodeShape (formHints (.ftanh d a n)) wd = shape1C wd := by simp only [decodeShape, f0, BitVec.toNat_ofNat]
    rw [m0]
    simp [shape1C, f1, f2, f3, f4, f5]
  exact ⟨fun _ b => decode_shape shape b, fun m => (Bool.false_ne_true m).elim⟩

theorem f2i (d : BitVec 7) (a : BitVec 7) (n : Bool) : Statement (.f2i d a n) := by
  have shape : decodeShape (formHints (.f2i d a n)) (encode (.f2i d a n)) = some (.f2i d a n) := by
    obtain ⟨hw, b4, f0, f1, f2, f3, f4, f5⟩ := lay4 (encode (.f2i d a n)) (29#6) d a (0#7) n (0#4) rfl
    generalize encode (.f2i d a n) = wd at hw f0 f1 f2 f3 f4 f5 ⊢
    have m0 : decodeShape (formHints (.f2i d a n)) wd = shape1D wd := by simp only [decodeShape, f0, BitVec.toNat_ofNat]
    rw [m0]
    simp [shape1D, f1, f2, f3, f4, f5]
  exact ⟨fun _ b => decode_shape shape b, fun m => (Bool.false_ne_true m).elim⟩

theorem i2f (d : BitVec 7) (a : BitVec 7) (n : Bool) : Statement (.i2f d a n) := by
  have shape : decodeShape (formHints (.i2f d a n)) (encode (.i2f d a n)) = some (.i2f d a n) := by
    obtain ⟨hw, b4, f0, f1, f2, f3, f4, f5⟩ := lay4 (encode (.i2f d a n)) (29#6) d a (0#7) n (1#4) rfl
    generalize encode (.i2f d a n) = wd at hw f0 f1 f2 f3 f4 f5 ⊢
    have m0 : decodeShape (formHints (.i2f d a n)) wd = shape1D wd := by simp only [decodeShape, f0, BitVec.toNat_ofNat]
    rw [m0]
    simp [shape1D, f1, f2, f3, f4, f5]
  exact ⟨fun _ b => decode_shape shape b, fun m => (Bool.false_ne_true m).elim⟩

theorem f2f (d : BitVec 7) (a : BitVec 7) (n : Bool) : Statement (.f2f d a n) := by
  have shape : decodeShape (formHints (.f2f d a n)) (encode (.f2f d a n)) = some (.f2f d a n) := by
    obtain ⟨hw, b4, f0, f1, f2, f3, f4, f5⟩ := lay4 (encode (.f2f d a n)) (29#6) d a (0#7) n (2#4) rfl
    generalize encode (.f2f d a n) = wd at hw f0 f1 f2 f3 f4 f5 ⊢
    have m0 : decodeShape (formHints (.f2f d a n)) wd = shape1D wd := by simp only [decodeShape, f0, BitVec.toNat_ofNat]
    rw [m0]
    simp [shape1D, f1, f2, f3, f4, f5]
  exact ⟨fun _ b => decode_shape shape b, fun m => (Bool.false_ne_true m).elim⟩

theorem fpack (d : BitVec 7) (a : BitVec 7) (b : BitVec 7) (n : Bool) : Statement (.fpack d a b n) := by
  have shape : decodeShape (formHints (.fpack d a b n)) (encode (.fpack d a b n)) = some (.fpack d a b n) := by
    obtain ⟨hw, b4, f0, f1, f2, f3, f4, f5⟩ := lay4 (encode (.fpack d a b n)) (29#6) d a b n (3#4) rfl
    generalize encode (.fpack d a b n) = wd at hw f0 f1 f2 f3 f4 f5 ⊢
    have m0 : decodeShape (formHints (.fpack d a b n)) wd = shape1D wd := by simp only [decodeShape, f0, BitVec.toNat_ofNat]
    rw [m0]
    simp [shape1D, f1, f2, f3, f4, f5]
  exact ⟨fun _ b => decode_shape shape b, fun m => (Bool.false_ne_true m).elim⟩

theorem d2f (d : BitVec 7) (a : BitVec 7) (n : Bool) : Statement (.d2f d a n) := by
  have shape : decodeShape (formHints (.d2f d a n)) (encode (.d2f d a n)) = some (.d2f d a n) := by
    obtain ⟨hw, b4, f0, f1, f2, f3, f4, f5⟩ := lay4 (encode (.d2f d a n)) (29#6) d a (0#7) n (4#4) rfl
    generalize encode (.d2f d a n) = wd at hw f0 f1 f2 f3 f4 f5 ⊢
    have m0 : decodeShape (formHints (.d2f d a n)) wd = shape1D wd := by simp only [decodeShape, f0, BitVec.toNat_ofNat]
    rw [m0]
    simp [shape1D, f1, f2, f3, f4, f5]
  exact ⟨fun _ b => decode_shape shape b, fun m => (Bool.false_ne_true m).elim⟩

theorem f2d (d : BitVec 7) (a : BitVec 7) (n : Bool) : Statement (.f2d d a n) := by
  have shape : decodeShape (formHints (.f2d d a n)) (encode (.f2d d a n)) = some (.f2d d a n) := by
    obtain ⟨hw, b4, f0, f1, f2, f3, f4, f5⟩ := lay4 (encode (.f2d d a n)) (29#6) d a (0#7) n (5#4) rfl
    generalize encode (.f2d d a n) = wd at hw f0 f1 f2 f3 f4 f5 ⊢
    have m0 : decodeShape (formHints (.f2d d a n)) wd = shape1D wd := by simp only [decodeShape, f0, BitVec.toNat_ofNat]
    rw [m0]
    simp [shape1D, f1, f2, f3, f4, f5]
  exact ⟨fun _ b => decode_shape shape b, fun m => (Bool.false_ne_true m).elim⟩

theorem ld (d : BitVec 7) (k : BitVec 6) (o : BitVec 7) (i : BitVec 6) : Statement (.ld d k o i) := by
  have shape : decodeShape (formHints (.ld d k o i)) (encode (.ld d k o i)) = some (.ld d k o i) := by
    obtain ⟨hw, f0, f1, f2, f3, f4⟩ := lay8 (encode (.ld d k o i)) (32#6) d k o i rfl
    generalize encode (.ld d k o i) = wd at hw f0 f1 f2 f3 f4 ⊢
    have m0 : decodeShape (formHints (.ld d k o i)) wd = shape20 wd := by simp only [decodeShape, f0, BitVec.toNat_ofNat]
    rw [m0]
    simp [shape20, f1, f2, f3, f4]
  exact ⟨fun _ b => decode_shape shape b, fun m => (Bool.false_ne_true m).elim⟩

theorem st (d : BitVec 7) (k : BitVec 6) (o : BitVec 7) (i : BitVec 6) : Statement (.st d k o i) := by
  have shape : decodeShape (formHints (.st d k o i)) (encode (.st d k o i)) = some (.st d k o i) := by
    obtain ⟨hw, f0, f1, f2, f3, f4⟩ := lay8 (encode (.st d k o i)) (33#6) d k o i rfl
    generalize encode (.st d k o i) = wd at hw f0 f1 f2 f3 f4 ⊢
    have m0 : decodeShape (formHints (.st d k o i)) wd = shape21 wd := by simp only [decodeShape, f0, BitVec.toNat_ofNat]
    rw [m0]
    simp [shape21, f1, f2, f3, f4]
  exact ⟨fun _ b => decode_shape shape b, fun m => (Bool.false_ne_true m).elim⟩

theorem lds (d : BitVec 7) (k : BitVec 6) (o : BitVec 7) (i : BitVec 6) : Statement (.lds d k o i) := by
  have shape : decodeShape (formHints (.lds d k o i)) (encode (.lds d k o i)) = some (.lds d k o i) := by
    obtain ⟨hw, f0, f1, f2, f3, f4⟩ := lay8 (encode (.lds d k o i)) (34#6) d k o i rfl
    generalize encode (.lds d k o i) = wd at hw f0 f1 f2 f3 f4 ⊢
    have m0 : decodeShape (formHints (.lds d k o i)) wd = shape22 wd := by simp only [decodeShape, f0, BitVec.toNat_ofNat]
    rw [m0]
    simp [shape22, f1, f2, f3, f4]
  exact ⟨fun _ b => decode_shape shape b, fun m => (Bool.false_ne_true m).elim⟩

theorem sts (d : BitVec 7) (k : BitVec 6) (o : BitVec 7) (i : BitVec 6) : Statement (.sts d k o i) := by
  have shape : decodeShape (formHints (.sts d k o i)) (encode (.sts d k o i)) = some (.sts d k o i) := by
    obtain ⟨hw, f0, f1, f2, f3, f4⟩ := lay8 (encode (.sts d k o i)) (35#6) d k o i rfl
    generalize encode (.sts d k o i) = wd at hw f0 f1 f2 f3 f4 ⊢
    have m0 : decodeShape (formHints (.sts d k o i)) wd = shape23 wd := by simp only [decodeShape, f0, BitVec.toNat_ofNat]
    rw [m0]
    simp [shape23, f1, f2, f3, f4]
  exact ⟨fun _ b => decode_shape shape b, fun m => (Bool.false_ne_true m).elim⟩

theorem ldk (d : BitVec 6) (k : BitVec 6) (i : BitVec 6) : Statement (.ldk d k i) := by
  have shape : decodeShape (formHints (.ldk d k i)) (encode (.ldk d k i)) = some (.ldk d k i) := by
    obtain ⟨hw, f0, f1, f2, f3, f4, f5⟩ := lay9 (encode (.ldk d k i)) (36#6) (0#1) d k (126#7) i rfl
    generalize encode (.ldk d k i) = wd at hw f0 f1 f2 f3 f4 f5 ⊢
    have m0 : decodeShape (formHints (.ldk d k i)) wd = shape24 wd := by simp only [decodeShape, f0, BitVec.toNat_ofNat]
    rw [m0]
    simp [shape24, f1, f2, f3, f4, f5]
  exact ⟨fun _ b => decode_shape shape b, fun m => (Bool.false_ne_true m).elim⟩

theorem pref (k : BitVec 6) (o : BitVec 7) (i : BitVec 6) : Statement (.pref k o i) := by
  have shape : decodeShape (formHints (.pref k o i)) (encode (.pref k o i)) = some (.pref k o i) := by
    obtain ⟨hw, f0, f1, f2, f3, f4⟩ := lay8 (encode (.pref k o i)) (37#6) (126#7) k o i rfl
    generalize encode (.pref k o i) = wd at hw f0 f1 f2 f3 f4 ⊢
    have m0 : decodeShape (formHints (.pref k o i)) wd = shape25 wd := by simp only [decodeShape, f0, BitVec.toNat_ofNat]
    rw [m0]
    simp [shape25, f1, f2, f3, f4]
  exact ⟨fun _ b => decode_shape shape b, fun m => (Bool.false_ne_true m).elim⟩

theorem cflush (k : BitVec 6) (o : BitVec 7) (i : BitVec 6) : Statement (.cflush k o i) := by
  have shape : decodeShape (formHints (.cflush k o i)) (encode (.cflush k o i)) = some (.cflush k o i) := by
    obtain ⟨hw, f0, f1, f2, f3, f4⟩ := lay8 (encode (.cflush k o i)) (38#6) (0#7) k o i rfl
    generalize encode (.cflush k o i) = wd at hw f0 f1 f2 f3 f4 ⊢
    have m0 : decodeShape (formHints (.cflush k o i)) wd = shape26 wd := by simp only [decodeShape, f0, BitVec.toNat_ofNat]
    rw [m0]
    simp [shape26, f1, f2, f3, f4]
  exact ⟨fun _ b => decode_shape shape b, fun m => (Bool.false_ne_true m).elim⟩

theorem cinv (k : BitVec 6) (o : BitVec 7) (i : BitVec 6) : Statement (.cinv k o i) := by
  have shape : decodeShape (formHints (.cinv k o i)) (encode (.cinv k o i)) = some (.cinv k o i) := by
    obtain ⟨hw, f0, f1, f2, f3, f4⟩ := lay8 (encode (.cinv k o i)) (38#6) (1#7) k o i rfl
    generalize encode (.cinv k o i) = wd at hw f0 f1 f2 f3 f4 ⊢
    have m0 : decodeShape (formHints (.cinv k o i)) wd = shape26 wd := by simp only [decodeShape, f0, BitVec.toNat_ofNat]
    rw [m0]
    simp [shape26, f1, f2, f3, f4]
  exact ⟨fun _ b => decode_shape shape b, fun m => (Bool.false_ne_true m).elim⟩

theorem persist (k : BitVec 6) (o : BitVec 7) (i : BitVec 6) : Statement (.persist k o i) := by
  have shape : decodeShape (formHints (.persist k o i)) (encode (.persist k o i)) = some (.persist k o i) := by
    obtain ⟨hw, f0, f1, f2, f3, f4⟩ := lay8 (encode (.persist k o i)) (38#6) (2#7) k o i rfl
    generalize encode (.persist k o i) = wd at hw f0 f1 f2 f3 f4 ⊢
    have m0 : decodeShape (formHints (.persist k o i)) wd = shape26 wd := by simp only [decodeShape, f0, BitVec.toNat_ofNat]
    rw [m0]
    simp [shape26, f1, f2, f3, f4]
  exact ⟨fun _ b => decode_shape shape b, fun m => (Bool.false_ne_true m).elim⟩

theorem atom (d : BitVec 7) (a : BitVec 7) (b : BitVec 7) (o : BitVec 4) : Statement (.atom d a b o) := by
  have shape : decodeShape (formHints (.atom d a b o)) (encode (.atom d a b o)) = some (.atom d a b o) := by
    obtain ⟨hw, f0, f1, f2, f3, f4, f5⟩ := lay10 (encode (.atom d a b o)) (40#6) d a b (0#1) o rfl
    generalize encode (.atom d a b o) = wd at hw f0 f1 f2 f3 f4 f5 ⊢
    have m0 : decodeShape (formHints (.atom d a b o)) wd = shape28 wd := by simp only [decodeShape, f0, BitVec.toNat_ofNat]
    rw [m0]
    simp [shape28, f1, f2, f3, f4, f5]
  exact ⟨fun _ b => decode_shape shape b, fun m => (Bool.false_ne_true m).elim⟩

theorem red (a : BitVec 7) (b : BitVec 7) (o : BitVec 4) : Statement (.red a b o) := by
  have shape : decodeShape (formHints (.red a b o)) (encode (.red a b o)) = some (.red a b o) := by
    obtain ⟨hw, f0, f1, f2, f3, f4, f5⟩ := lay10 (encode (.red a b o)) (40#6) (126#7) a b (1#1) o rfl
    generalize encode (.red a b o) = wd at hw f0 f1 f2 f3 f4 f5 ⊢
    have m0 : decodeShape (formHints (.red a b o)) wd = shape28 wd := by simp only [decodeShape, f0, BitVec.toNat_ofNat]
    rw [m0]
    simp [shape28, f1, f2, f3, f4, f5]
  exact ⟨fun _ b => decode_shape shape b, fun m => (Bool.false_ne_true m).elim⟩

theorem atoms (d : BitVec 7) (a : BitVec 7) (b : BitVec 7) (o : BitVec 4) : Statement (.atoms d a b o) := by
  have shape : decodeShape (formHints (.atoms d a b o)) (encode (.atoms d a b o)) = some (.atoms d a b o) := by
    obtain ⟨hw, f0, f1, f2, f3, f4, f5⟩ := lay10 (encode (.atoms d a b o)) (41#6) d a b (0#1) o rfl
    generalize encode (.atoms d a b o) = wd at hw f0 f1 f2 f3 f4 f5 ⊢
    have m0 : decodeShape (formHints (.atoms d a b o)) wd = shape29 wd := by simp only [decodeShape, f0, BitVec.toNat_ofNat]
    rw [m0]
    simp [shape29, f1, f2, f3, f4, f5]
  exact ⟨fun _ b => decode_shape shape b, fun m => (Bool.false_ne_true m).elim⟩

theorem reds (a : BitVec 7) (b : BitVec 7) (o : BitVec 4) : Statement (.reds a b o) := by
  have shape : decodeShape (formHints (.reds a b o)) (encode (.reds a b o)) = some (.reds a b o) := by
    obtain ⟨hw, f0, f1, f2, f3, f4, f5⟩ := lay10 (encode (.reds a b o)) (41#6) (126#7) a b (1#1) o rfl
    generalize encode (.reds a b o) = wd at hw f0 f1 f2 f3 f4 f5 ⊢
    have m0 : decodeShape (formHints (.reds a b o)) wd = shape29 wd := by simp only [decodeShape, f0, BitVec.toNat_ofNat]
    rw [m0]
    simp [shape29, f1, f2, f3, f4, f5]
  exact ⟨fun _ b => decode_shape shape b, fun m => (Bool.false_ne_true m).elim⟩

theorem atomcas (d : BitVec 7) (a : BitVec 7) (b : BitVec 7) : Statement (.atomcas d a b) := by
  have shape : decodeShape (formHints (.atomcas d a b)) (encode (.atomcas d a b)) = some (.atomcas d a b) := by
    obtain ⟨hw, f0, f1, f2, f3, f4⟩ := lay11 (encode (.atomcas d a b)) (42#6) d a b (0#5) rfl
    generalize encode (.atomcas d a b) = wd at hw f0 f1 f2 f3 f4 ⊢
    have f5 : fld wd 0 4 = 0#4 := fld_nat (by rw [hw]; simp only [BitVec.toNat_ofNat]; omega)
    have m0 : decodeShape (formHints (.atomcas d a b)) wd = shape2A wd := by simp only [decodeShape, f0, BitVec.toNat_ofNat]
    rw [m0]
    simp [shape2A, f1, f2, f3, f4, f5]
  exact ⟨fun _ b => decode_shape shape b, fun m => (Bool.false_ne_true m).elim⟩

theorem atomscas (d : BitVec 7) (a : BitVec 7) (b : BitVec 7) : Statement (.atomscas d a b) := by
  have shape : decodeShape (formHints (.atomscas d a b)) (encode (.atomscas d a b)) = some (.atomscas d a b) := by
    obtain ⟨hw, f0, f1, f2, f3, f4⟩ := lay11 (encode (.atomscas d a b)) (42#6) d a b (1#5) rfl
    generalize encode (.atomscas d a b) = wd at hw f0 f1 f2 f3 f4 ⊢
    have f5 : fld wd 0 4 = 1#4 := fld_nat (by rw [hw]; simp only [BitVec.toNat_ofNat]; omega)
    have m0 : decodeShape (formHints (.atomscas d a b)) wd = shape2A wd := by simp only [decodeShape, f0, BitVec.toNat_ofNat]
    rw [m0]
    simp [shape2A, f1, f2, f3, f4, f5]
  exact ⟨fun _ b => decode_shape shape b, fun m => (Bool.false_ne_true m).elim⟩

theorem waitc (d : BitVec 7) (a : BitVec 7) (b : BitVec 7) (n : Bool) : Statement (.waitc d a b n) := by
  have shape : decodeShape (formHints (.waitc d a b n)) (encode (.waitc d a b n)) = some (.waitc d a b n) := by
    obtain ⟨hw, b4, f0, f1, f2, f3, f4, f5⟩ := lay4 (encode (.waitc d a b n)) (42#6) d a b n (2#4) rfl
    generalize encode (.waitc d a b n) = wd at hw f0 f1 f2 f3 f4 f5 ⊢
    have f6 : fld wd 0 5 ≠ 0#5 := fld_ne (by rw [hw]; simp only [BitVec.toNat_ofNat]; omega)
    have f7 : fld wd 0 5 ≠ 1#5 := fld_ne (by rw [hw]; simp only [BitVec.toNat_ofNat]; omega)
    have m0 : decodeShape (formHints (.waitc d a b n)) wd = shape2A wd := by simp only [decodeShape, f0, BitVec.toNat_ofNat]
    rw [m0]
    simp [shape2A, f1, f2, f3, f4, f5, f6, f7]
  exact ⟨fun _ b => decode_shape shape b, fun m => (Bool.false_ne_true m).elim⟩

theorem wdecl (d : BitVec 7) (a : BitVec 7) (b : BitVec 7) (n : Bool) : Statement (.wdecl d a b n) := by
  have shape : decodeShape (formHints (.wdecl d a b n)) (encode (.wdecl d a b n)) = some (.wdecl d a b n) := by
    obtain ⟨hw, b4, f0, f1, f2, f3, f4, f5⟩ := lay4 (encode (.wdecl d a b n)) (42#6) d a b n (3#4) rfl
    generalize encode (.wdecl d a b n) = wd at hw f0 f1 f2 f3 f4 f5 ⊢
    have f6 : fld wd 0 5 ≠ 0#5 := fld_ne (by rw [hw]; simp only [BitVec.toNat_ofNat]; omega)
    have f7 : fld wd 0 5 ≠ 1#5 := fld_ne (by rw [hw]; simp only [BitVec.toNat_ofNat]; omega)
    have m0 : decodeShape (formHints (.wdecl d a b n)) wd = shape2A wd := by simp only [decodeShape, f0, BitVec.toNat_ofNat]
    rw [m0]
    simp [shape2A, f1, f2, f3, f4, f5, f6, f7]
  exact ⟨fun _ b => decode_shape shape b, fun m => (Bool.false_ne_true m).elim⟩

theorem fence : Statement .fence := by
  have shape : decodeShape (formHints .fence) (encode .fence) = some .fence := by
    obtain ⟨hw, f0, f1⟩ := lay12 (encode .fence) (43#6) (0#26) rfl
    generalize encode .fence = wd at hw f0 f1 ⊢
    have f2 : fld wd 0 4 = 0#4 := fld_nat (by rw [hw]; simp only [BitVec.toNat_ofNat]; omega)
    have f3 : fld wd 0 5 = 0#5 := fld_nat (by rw [hw]; simp only [BitVec.toNat_ofNat]; omega)
    have f4 : fld wd 5 7 = 0#7 := fld_nat (by rw [hw]; simp only [BitVec.toNat_ofNat]; omega)
    have f5 : fld wd 5 14 = 0#14 := fld_nat (by rw [hw]; simp only [BitVec.toNat_ofNat]; omega)
    have f6 : fld wd 19 7 = 0#7 := fld_nat (by rw [hw]; simp only [BitVec.toNat_ofNat]; omega)
    have m0 : decodeShape (formHints .fence) wd = shape2B wd := by simp only [decodeShape, f0, BitVec.toNat_ofNat]
    rw [m0]
    simp [shape2B, f1, f2, f3, f4, f5, f6]
  exact ⟨fun _ b => decode_shape shape b, fun m => (Bool.false_ne_true m).elim⟩

theorem bind (d : BitVec 7) (a : BitVec 7) (b : BitVec 7) (n : Bool) : Statement (.bind d a b n) := by
  have shape : decodeShape (formHints (.bind d a b n)) (encode (.bind d a b n)) = some (.bind d a b n) := by
    obtain ⟨hw, b4, f0, f1, f2, f3, f4, f5⟩ := lay4 (encode (.bind d a b n)) (43#6) d a b n (1#4) rfl
    generalize encode (.bind d a b n) = wd at hw f0 f1 f2 f3 f4 f5 ⊢
    have f6 : fld wd 0 5 ≠ 20#5 := fld_ne (by rw [hw]; simp only [BitVec.toNat_ofNat]; omega)
    have f7 : fld wd 0 26 ≠ 0#26 := fld_ne (by rw [hw]; simp only [BitVec.toNat_ofNat]; omega)
    have m0 : decodeShape (formHints (.bind d a b n)) wd = shape2B wd := by simp only [decodeShape, f0, BitVec.toNat_ofNat]
    rw [m0]
    simp [shape2B, f1, f2, f3, f4, f5, f6, f7]
  exact ⟨fun _ b => decode_shape shape b, fun m => (Bool.false_ne_true m).elim⟩

theorem unbind (d : BitVec 7) (a : BitVec 7) (b : BitVec 7) (n : Bool) : Statement (.unbind d a b n) := by
  have shape : decodeShape (formHints (.unbind d a b n)) (encode (.unbind d a b n)) = some (.unbind d a b n) := by
    obtain ⟨hw, b4, f0, f1, f2, f3, f4, f5⟩ := lay4 (encode (.unbind d a b n)) (43#6) d a b n (2#4) rfl
    generalize encode (.unbind d a b n) = wd at hw f0 f1 f2 f3 f4 f5 ⊢
    have f6 : fld wd 0 5 ≠ 20#5 := fld_ne (by rw [hw]; simp only [BitVec.toNat_ofNat]; omega)
    have f7 : fld wd 0 26 ≠ 0#26 := fld_ne (by rw [hw]; simp only [BitVec.toNat_ofNat]; omega)
    have m0 : decodeShape (formHints (.unbind d a b n)) wd = shape2B wd := by simp only [decodeShape, f0, BitVec.toNat_ofNat]
    rw [m0]
    simp [shape2B, f1, f2, f3, f4, f5, f6, f7]
  exact ⟨fun _ b => decode_shape shape b, fun m => (Bool.false_ne_true m).elim⟩

theorem acq (d : BitVec 7) (a : BitVec 7) (n : Bool) : Statement (.acq d a n) := by
  have shape : decodeShape (formHints (.acq d a n)) (encode (.acq d a n)) = some (.acq d a n) := by
    obtain ⟨hw, b4, f0, f1, f2, f3, f4, f5⟩ := lay4 (encode (.acq d a n)) (43#6) d a (0#7) n (3#4) rfl
    generalize encode (.acq d a n) = wd at hw f0 f1 f2 f3 f4 f5 ⊢
    have f6 : fld wd 0 5 ≠ 20#5 := fld_ne (by rw [hw]; simp only [BitVec.toNat_ofNat]; omega)
    have f7 : fld wd 0 26 ≠ 0#26 := fld_ne (by rw [hw]; simp only [BitVec.toNat_ofNat]; omega)
    have m0 : decodeShape (formHints (.acq d a n)) wd = shape2B wd := by simp only [decodeShape, f0, BitVec.toNat_ofNat]
    rw [m0]
    simp [shape2B, f1, f2, f3, f4, f5, f6, f7]
  exact ⟨fun _ b => decode_shape shape b, fun m => (Bool.false_ne_true m).elim⟩

theorem rel (a : BitVec 7) (b : BitVec 7) : Statement (.rel a b) := by
  have shape : decodeShape (formHints (.rel a b)) (encode (.rel a b)) = some (.rel a b) := by
    obtain ⟨hw, f0, f1, f2, f3, f4⟩ := lay11 (encode (.rel a b)) (43#6) (126#7) a b (20#5) rfl
    generalize encode (.rel a b) = wd at hw f0 f1 f2 f3 f4 ⊢
    have f5 : fld wd 0 4 = 4#4 := fld_nat (by rw [hw]; simp only [BitVec.toNat_ofNat]; omega)
    have f6 : fld wd 0 26 ≠ 0#26 := fld_ne (by rw [hw]; simp only [BitVec.toNat_ofNat]; omega)
    have m0 : decodeShape (formHints (.rel a b)) wd = shape2B wd := by simp only [decodeShape, f0, BitVec.toNat_ofNat]
    rw [m0]
    simp [shape2B, f1, f2, f3, f4, f5, f6]
  exact ⟨fun _ b => decode_shape shape b, fun m => (Bool.false_ne_true m).elim⟩

theorem bar (d : BitVec 7) (a : BitVec 7) (n : Bool) : Statement (.bar d a n) := by
  have shape : decodeShape (formHints (.bar d a n)) (encode (.bar d a n)) = some (.bar d a n) := by
    obtain ⟨hw, b4, f0, f1, f2, f3, f4, f5⟩ := lay4 (encode (.bar d a n)) (43#6) d a (0#7) n (5#4) rfl
    generalize encode (.bar d a n) = wd at hw f0 f1 f2 f3 f4 f5 ⊢
    have f6 : fld wd 0 5 ≠ 20#5 := fld_ne (by rw [hw]; simp only [BitVec.toNat_ofNat]; omega)
    have f7 : fld wd 0 26 ≠ 0#26 := fld_ne (by rw [hw]; simp only [BitVec.toNat_ofNat]; omega)
    have m0 : decodeShape (formHints (.bar d a n)) wd = shape2B wd := by simp only [decodeShape, f0, BitVec.toNat_ofNat]
    rw [m0]
    simp [shape2B, f1, f2, f3, f4, f5, f6, f7]
  exact ⟨fun _ b => decode_shape shape b, fun m => (Bool.false_ne_true m).elim⟩

theorem cbarArv (d : BitVec 7) (n : Bool) : Statement (.cbarArv d n) := by
  have shape : decodeShape (formHints (.cbarArv d n)) (encode (.cbarArv d n)) = some (.cbarArv d n) := by
    obtain ⟨hw, b3, f0, f1, f2, f3, f4⟩ := lay13 (encode (.cbarArv d n)) (43#6) d (0#14) n (6#4) rfl
    generalize encode (.cbarArv d n) = wd at hw f0 f1 f2 f3 f4 ⊢
    have f5 : fld wd 0 5 ≠ 20#5 := fld_ne (by rw [hw]; simp only [BitVec.toNat_ofNat]; omega)
    have f6 : fld wd 0 26 ≠ 0#26 := fld_ne (by rw [hw]; simp only [BitVec.toNat_ofNat]; omega)
    have f7 : fld wd 5 7 = 0#7 := fld_nat (by rw [hw]; simp only [BitVec.toNat_ofNat]; omega)
    have m0 : decodeShape (formHints (.cbarArv d n)) wd = shape2B wd := by simp only [decodeShape, f0, BitVec.toNat_ofNat]
    rw [m0]
    simp [shape2B, f1, f2, f3, f4, f5, f6, f7]
  exact ⟨fun _ b => decode_shape shape b, fun m => (Bool.false_ne_true m).elim⟩

theorem cbarWait (d : BitVec 7) (a : BitVec 7) (n : Bool) : Statement (.cbarWait d a n) := by
  have shape : decodeShape (formHints (.cbarWait d a n)) (encode (.cbarWait d a n)) = some (.cbarWait d a n) := by
    obtain ⟨hw, b4, f0, f1, f2, f3, f4, f5⟩ := lay4 (encode (.cbarWait d a n)) (43#6) d a (0#7) n (7#4) rfl
    generalize encode (.cbarWait d a n) = wd at hw f0 f1 f2 f3 f4 f5 ⊢
    have f6 : fld wd 0 5 ≠ 20#5 := fld_ne (by rw [hw]; simp only [BitVec.toNat_ofNat]; omega)
    have f7 : fld wd 0 26 ≠ 0#26 := fld_ne (by rw [hw]; simp only [BitVec.toNat_ofNat]; omega)
    have m0 : decodeShape (formHints (.cbarWait d a n)) wd = shape2B wd := by simp only [decodeShape, f0, BitVec.toNat_ofNat]
    rw [m0]
    simp [shape2B, f1, f2, f3, f4, f5, f6, f7]
  exact ⟨fun _ b => decode_shape shape b, fun m => (Bool.false_ne_true m).elim⟩

theorem cpy (a : BitVec 7) (b : BitVec 7) : Statement (.cpy a b) := by
  have shape : decodeShape (formHints (.cpy a b)) (encode (.cpy a b)) = some (.cpy a b) := by
    obtain ⟨hw, f0, f1, f2, f3, f4⟩ := lay11 (encode (.cpy a b)) (44#6) (126#7) a b (16#5) rfl
    generalize encode (.cpy a b) = wd at hw f0 f1 f2 f3 f4 ⊢
    have m0 : decodeShape (formHints (.cpy a b)) wd = shape2C wd := by simp only [decodeShape, f0, BitVec.toNat_ofNat]
    rw [m0]
    simp [shape2C, f1, f2, f3, f4]
  exact ⟨fun _ b => decode_shape shape b, fun m => (Bool.false_ne_true m).elim⟩

theorem cpyg (a : BitVec 7) (b : BitVec 7) : Statement (.cpyg a b) := by
  have shape : decodeShape (formHints (.cpyg a b)) (encode (.cpyg a b)) = some (.cpyg a b) := by
    obtain ⟨hw, f0, f1, f2, f3, f4⟩ := lay11 (encode (.cpyg a b)) (44#6) (126#7) a b (17#5) rfl
    generalize encode (.cpyg a b) = wd at hw f0 f1 f2 f3 f4 ⊢
    have m0 : decodeShape (formHints (.cpyg a b)) wd = shape2C wd := by simp only [decodeShape, f0, BitVec.toNat_ofNat]
    rw [m0]
    simp [shape2C, f1, f2, f3, f4]
  exact ⟨fun _ b => decode_shape shape b, fun m => (Bool.false_ne_true m).elim⟩

theorem cpys (a : BitVec 7) (b : BitVec 7) : Statement (.cpys a b) := by
  have shape : decodeShape (formHints (.cpys a b)) (encode (.cpys a b)) = some (.cpys a b) := by
    obtain ⟨hw, f0, f1, f2, f3, f4⟩ := lay11 (encode (.cpys a b)) (44#6) (126#7) a b (18#5) rfl
    generalize encode (.cpys a b) = wd at hw f0 f1 f2 f3 f4 ⊢
    have m0 : decodeShape (formHints (.cpys a b)) wd = shape2C wd := by simp only [decodeShape, f0, BitVec.toNat_ofNat]
    rw [m0]
    simp [shape2C, f1, f2, f3, f4]
  exact ⟨fun _ b => decode_shape shape b, fun m => (Bool.false_ne_true m).elim⟩

theorem cpym (a : BitVec 7) (b : BitVec 7) : Statement (.cpym a b) := by
  have shape : decodeShape (formHints (.cpym a b)) (encode (.cpym a b)) = some (.cpym a b) := by
    obtain ⟨hw, f0, f1, f2, f3, f4⟩ := lay11 (encode (.cpym a b)) (44#6) (126#7) a b (19#5) rfl
    generalize encode (.cpym a b) = wd at hw f0 f1 f2 f3 f4 ⊢
    have m0 : decodeShape (formHints (.cpym a b)) wd = shape2C wd := by simp only [decodeShape, f0, BitVec.toNat_ofNat]
    rw [m0]
    simp [shape2C, f1, f2, f3, f4]
  exact ⟨fun _ b => decode_shape shape b, fun m => (Bool.false_ne_true m).elim⟩

theorem tbarInit (a : BitVec 7) (b : BitVec 7) : Statement (.tbarInit a b) := by
  have shape : decodeShape (formHints (.tbarInit a b)) (encode (.tbarInit a b)) = some (.tbarInit a b) := by
    obtain ⟨hw, f0, f1, f2, f3, f4⟩ := lay11 (encode (.tbarInit a b)) (45#6) (126#7) a b (16#5) rfl
    generalize encode (.tbarInit a b) = wd at hw f0 f1 f2 f3 f4 ⊢
    have f5 : fld wd 0 4 = 0#4 := fld_nat (by rw [hw]; simp only [BitVec.toNat_ofNat]; omega)
    have f6 : fld wd 0 12 ≠ 18#12 := fld_ne (by rw [hw]; simp only [BitVec.toNat_ofNat]; omega)
    have m0 : decodeShape (formHints (.tbarInit a b)) wd = shape2D wd := by simp only [decodeShape, f0, BitVec.toNat_ofNat]
    rw [m0]
    simp [shape2D, f1, f2, f3, f4, f5, f6]
  exact ⟨fun _ b => decode_shape shape b, fun m => (Bool.false_ne_true m).elim⟩

theorem tbarExp (a : BitVec 7) (b : BitVec 7) : Statement (.tbarExp a b) := by
  have shape : decodeShape (formHints (.tbarExp a b)) (encode (.tbarExp a b)) = some (.tbarExp a b) := by
    obtain ⟨hw, f0, f1, f2, f3, f4⟩ := lay11 (encode (.tbarExp a b)) (45#6) (126#7) a b (17#5) rfl
    generalize encode (.tbarExp a b) = wd at hw f0 f1 f2 f3 f4 ⊢
    have f5 : fld wd 0 4 = 1#4 := fld_nat (by rw [hw]; simp only [BitVec.toNat_ofNat]; omega)
    have f6 : fld wd 0 12 ≠ 18#12 := fld_ne (by rw [hw]; simp only [BitVec.toNat_ofNat]; omega)
    have m0 : decodeShape (formHints (.tbarExp a b)) wd = shape2D wd := by simp only [decodeShape, f0, BitVec.toNat_ofNat]
    rw [m0]
    simp [shape2D, f1, f2, f3, f4, f5, f6]
  exact ⟨fun _ b => decode_shape shape b, fun m => (Bool.false_ne_true m).elim⟩

theorem tbarAck (a : BitVec 7) : Statement (.tbarAck a) := by
  have shape : decodeShape (formHints (.tbarAck a)) (encode (.tbarAck a)) = some (.tbarAck a) := by
    obtain ⟨hw, f0, f1, f2, f3⟩ := lay5 (encode (.tbarAck a)) (45#6) (126#7) a (18#12) rfl
    generalize encode (.tbarAck a) = wd at hw f0 f1 f2 f3 ⊢
    have f4 : fld wd 0 4 = 2#4 := fld_nat (by rw [hw]; simp only [BitVec.toNat_ofNat]; omega)
    have f5 : fld wd 0 5 = 18#5 := fld_nat (by rw [hw]; simp only [BitVec.toNat_ofNat]; omega)
    have m0 : decodeShape (formHints (.tbarAck a)) wd = shape2D wd := by simp only [decodeShape, f0, BitVec.toNat_ofNat]
    rw [m0]
    simp [shape2D, f1, f2, f3, f4, f5]
  exact ⟨fun _ b => decode_shape shape b, fun m => (Bool.false_ne_true m).elim⟩

theorem tbarWait (d : BitVec 7) (a : BitVec 7) (b : BitVec 7) (n : Bool) : Statement (.tbarWait d a b n) := by
  have shape : decodeShape (formHints (.tbarWait d a b n)) (encode (.tbarWait d a b n)) = some (.tbarWait d a b n) := by
    obtain ⟨hw, b4, f0, f1, f2, f3, f4, f5⟩ := lay4 (encode (.tbarWait d a b n)) (45#6) d a b n (3#4) rfl
    generalize encode (.tbarWait d a b n) = wd at hw f0 f1 f2 f3 f4 f5 ⊢
    have f6 : fld wd 0 5 ≠ 16#5 := fld_ne (by rw [hw]; simp only [BitVec.toNat_ofNat]; omega)
    have f7 : fld wd 0 5 ≠ 17#5 := fld_ne (by rw [hw]; simp only [BitVec.toNat_ofNat]; omega)
    have f8 : fld wd 0 12 ≠ 18#12 := fld_ne (by rw [hw]; simp only [BitVec.toNat_ofNat]; omega)
    have m0 : decodeShape (formHints (.tbarWait d a b n)) wd = shape2D wd := by simp only [decodeShape, f0, BitVec.toNat_ofNat]
    rw [m0]
    simp [shape2D, f1, f2, f3, f4, f5, f6, f7, f8]
  exact ⟨fun _ b => decode_shape shape b, fun m => (Bool.false_ne_true m).elim⟩

theorem tcfg (d : BitVec 7) (a : BitVec 7) (n : Bool) : Statement (.tcfg d a n) := by
  have shape : decodeShape (formHints (.tcfg d a n)) (encode (.tcfg d a n)) = some (.tcfg d a n) := by
    obtain ⟨hw, b4, f0, f1, f2, f3, f4, f5⟩ := lay4 (encode (.tcfg d a n)) (46#6) d a (0#7) n (0#4) rfl
    generalize encode (.tcfg d a n) = wd at hw f0 f1 f2 f3 f4 f5 ⊢
    have f6 : fld wd 0 5 ≠ 19#5 := fld_ne (by rw [hw]; simp only [BitVec.toNat_ofNat]; omega)
    have m0 : decodeShape (formHints (.tcfg d a n)) wd = shape2E wd := by simp only [decodeShape, f0, BitVec.toNat_ofNat]
    rw [m0]
    simp [shape2E, f1, f2, f3, f4, f5, f6]
  exact ⟨fun _ b => decode_shape shape b, fun m => (Bool.false_ne_true m).elim⟩

theorem tzero (d : BitVec 7) (a : BitVec 7) (n : Bool) : Statement (.tzero d a n) := by
  have shape : decodeShape (formHints (.tzero d a n)) (encode (.tzero d a n)) = some (.tzero d a n) := by
    obtain ⟨hw, b4, f0, f1, f2, f3, f4, f5⟩ := lay4 (encode (.tzero d a n)) (46#6) d a (0#7) n (1#4) rfl
    generalize encode (.tzero d a n) = wd at hw f0 f1 f2 f3 f4 f5 ⊢
    have f6 : fld wd 0 5 ≠ 19#5 := fld_ne (by rw [hw]; simp only [BitVec.toNat_ofNat]; omega)
    have m0 : decodeShape (formHints (.tzero d a n)) wd = shape2E wd := by simp only [decodeShape, f0, BitVec.toNat_ofNat]
    rw [m0]
    simp [shape2E, f1, f2, f3, f4, f5, f6]
  exact ⟨fun _ b => decode_shape shape b, fun m => (Bool.false_ne_true m).elim⟩

theorem tld (d : BitVec 7) (a : BitVec 7) (b : BitVec 7) (n : Bool) : Statement (.tld d a b n) := by
  have shape : decodeShape (formHints (.tld d a b n)) (encode (.tld d a b n)) = some (.tld d a b n) := by
    obtain ⟨hw, b4, f0, f1, f2, f3, f4, f5⟩ := lay4 (encode (.tld d a b n)) (46#6) d a b n (2#4) rfl
    generalize encode (.tld d a b n) = wd at hw f0 f1 f2 f3 f4 f5 ⊢
    have f6 : fld wd 0 5 ≠ 19#5 := fld_ne (by rw [hw]; simp only [BitVec.toNat_ofNat]; omega)
    have m0 : decodeShape (formHints (.tld d a b n)) wd = shape2E wd := by simp only [decodeShape, f0, BitVec.toNat_ofNat]
    rw [m0]
    simp [shape2E, f1, f2, f3, f4, f5, f6]
  exact ⟨fun _ b => decode_shape shape b, fun m => (Bool.false_ne_true m).elim⟩

theorem tst (a : BitVec 7) (b : BitVec 7) : Statement (.tst a b) := by
  have shape : decodeShape (formHints (.tst a b)) (encode (.tst a b)) = some (.tst a b) := by
    obtain ⟨hw, f0, f1, f2, f3, f4⟩ := lay11 (encode (.tst a b)) (46#6) (126#7) a b (19#5) rfl
    generalize encode (.tst a b) = wd at hw f0 f1 f2 f3 f4 ⊢
    have f5 : fld wd 0 4 = 3#4 := fld_nat (by rw [hw]; simp only [BitVec.toNat_ofNat]; omega)
    have m0 : decodeShape (formHints (.tst a b)) wd = shape2E wd := by simp only [decodeShape, f0, BitVec.toNat_ofNat]
    rw [m0]
    simp [shape2E, f1, f2, f3, f4, f5]
  exact ⟨fun _ b => decode_shape shape b, fun m => (Bool.false_ne_true m).elim⟩

theorem mma (d : BitVec 7) (a : BitVec 7) (n : Bool) : Statement (.mma d a n) := by
  have shape : decodeShape (formHints (.mma d a n)) (encode (.mma d a n)) = some (.mma d a n) := by
    obtain ⟨hw, b4, f0, f1, f2, f3, f4, f5⟩ := lay4 (encode (.mma d a n)) (46#6) d a (0#7) n (4#4) rfl
    generalize encode (.mma d a n) = wd at hw f0 f1 f2 f3 f4 f5 ⊢
    have f6 : fld wd 0 5 ≠ 19#5 := fld_ne (by rw [hw]; simp only [BitVec.toNat_ofNat]; omega)
    have m0 : decodeShape (formHints (.mma d a n)) wd = shape2E wd := by simp only [decodeShape, f0, BitVec.toNat_ofNat]
    rw [m0]
    simp [shape2E, f1, f2, f3, f4, f5, f6]
  exact ⟨fun _ b => decode_shape shape b, fun m => (Bool.false_ne_true m).elim⟩

theorem tact (d : BitVec 7) (a : BitVec 7) (n : Bool) : Statement (.tact d a n) := by
  have shape : decodeShape (formHints (.tact d a n)) (encode (.tact d a n)) = some (.tact d a n) := by
    obtain ⟨hw, b4, f0, f1, f2, f3, f4, f5⟩ := lay4 (encode (.tact d a n)) (46#6) d a (0#7) n (5#4) rfl
    generalize encode (.tact d a n) = wd at hw f0 f1 f2 f3 f4 f5 ⊢
    have f6 : fld wd 0 5 ≠ 19#5 := fld_ne (by rw [hw]; simp only [BitVec.toNat_ofNat]; omega)
    have m0 : decodeShape (formHints (.tact d a n)) wd = shape2E wd := by simp only [decodeShape, f0, BitVec.toNat_ofNat]
    rw [m0]
    simp [shape2E, f1, f2, f3, f4, f5, f6]
  exact ⟨fun _ b => decode_shape shape b, fun m => (Bool.false_ne_true m).elim⟩

theorem twait (d : BitVec 7) (a : BitVec 7) (n : Bool) : Statement (.twait d a n) := by
  have shape : decodeShape (formHints (.twait d a n)) (encode (.twait d a n)) = some (.twait d a n) := by
    obtain ⟨hw, b4, f0, f1, f2, f3, f4, f5⟩ := lay4 (encode (.twait d a n)) (46#6) d a (0#7) n (6#4) rfl
    generalize encode (.twait d a n) = wd at hw f0 f1 f2 f3 f4 f5 ⊢
    have f6 : fld wd 0 5 ≠ 19#5 := fld_ne (by rw [hw]; simp only [BitVec.toNat_ofNat]; omega)
    have m0 : decodeShape (formHints (.twait d a n)) wd = shape2E wd := by simp only [decodeShape, f0, BitVec.toNat_ofNat]
    rw [m0]
    simp [shape2E, f1, f2, f3, f4, f5, f6]
  exact ⟨fun _ b => decode_shape shape b, fun m => (Bool.false_ne_true m).elim⟩

theorem bxu (d : BitVec 7) (a : BitVec 7) (b : BitVec 7) : Statement (.bxu d a b) := by
  have shape : decodeShape (formHints (.bxu d a b)) (encode (.bxu d a b)) = some (.bxu d a b) := by
    obtain ⟨hw, f0, f1, f2, f3, f4⟩ := lay11 (encode (.bxu d a b)) (48#6) d a b (0#5) rfl
    generalize encode (.bxu d a b) = wd at hw f0 f1 f2 f3 f4 ⊢
    have m0 : decodeShape (formHints (.bxu d a b)) wd = shape30 wd := by simp only [decodeShape, f0, BitVec.toNat_ofNat]
    rw [m0]
    simp [shape30, f1, f2, f3, f4]
  exact ⟨fun _ b => decode_shape shape b, fun m => (Bool.false_ne_true m).elim⟩

theorem bsah (d : BitVec 7) (a : BitVec 7) (b : BitVec 7) : Statement (.bsah d a b) := by
  have shape : decodeShape (formHints (.bsah d a b)) (encode (.bsah d a b)) = some (.bsah d a b) := by
    obtain ⟨hw, f0, f1, f2, f3, f4⟩ := lay11 (encode (.bsah d a b)) (48#6) d a b (1#5) rfl
    generalize encode (.bsah d a b) = wd at hw f0 f1 f2 f3 f4 ⊢
    have m0 : decodeShape (formHints (.bsah d a b)) wd = shape30 wd := by simp only [decodeShape, f0, BitVec.toNat_ofNat]
    rw [m0]
    simp [shape30, f1, f2, f3, f4]
  exact ⟨fun _ b => decode_shape shape b, fun m => (Bool.false_ne_true m).elim⟩

theorem npack (d : BitVec 7) (a : BitVec 7) (b : BitVec 7) : Statement (.npack d a b) := by
  have shape : decodeShape (formHints (.npack d a b)) (encode (.npack d a b)) = some (.npack d a b) := by
    obtain ⟨hw, f0, f1, f2, f3, f4⟩ := lay11 (encode (.npack d a b)) (48#6) d a b (2#5) rfl
    generalize encode (.npack d a b) = wd at hw f0 f1 f2 f3 f4 ⊢
    have m0 : decodeShape (formHints (.npack d a b)) wd = shape30 wd := by simp only [decodeShape, f0, BitVec.toNat_ofNat]
    rw [m0]
    simp [shape30, f1, f2, f3, f4]
  exact ⟨fun _ b => decode_shape shape b, fun m => (Bool.false_ne_true m).elim⟩

theorem trace (d : BitVec 7) (a : BitVec 7) : Statement (.trace d a) := by
  have shape : decodeShape (formHints (.trace d a)) (encode (.trace d a)) = some (.trace d a) := by
    obtain ⟨hw, f0, f1, f2, f3⟩ := lay5 (encode (.trace d a)) (49#6) d a (0#12) rfl
    generalize encode (.trace d a) = wd at hw f0 f1 f2 f3 ⊢
    have f4 : fld wd 0 4 = 0#4 := fld_nat (by rw [hw]; simp only [BitVec.toNat_ofNat]; omega)
    have f5 : fld wd 5 7 = 0#7 := fld_nat (by rw [hw]; simp only [BitVec.toNat_ofNat]; omega)
    have m0 : decodeShape (formHints (.trace d a)) wd = shape31 wd := by simp only [decodeShape, f0, BitVec.toNat_ofNat]
    rw [m0]
    simp [shape31, f1, f2, f3, f4, f5]
  exact ⟨fun _ b => decode_shape shape b, fun m => (Bool.false_ne_true m).elim⟩

theorem beam (d : BitVec 7) (a : BitVec 7) (n : Bool) : Statement (.beam d a n) := by
  have shape : decodeShape (formHints (.beam d a n)) (encode (.beam d a n)) = some (.beam d a n) := by
    obtain ⟨hw, b4, f0, f1, f2, f3, f4, f5⟩ := lay4 (encode (.beam d a n)) (49#6) d a (0#7) n (1#4) rfl
    generalize encode (.beam d a n) = wd at hw f0 f1 f2 f3 f4 f5 ⊢
    have f6 : fld wd 0 12 ≠ 0#12 := fld_ne (by rw [hw]; simp only [BitVec.toNat_ofNat]; omega)
    have m0 : decodeShape (formHints (.beam d a n)) wd = shape31 wd := by simp only [decodeShape, f0, BitVec.toNat_ofNat]
    rw [m0]
    simp [shape31, f1, f2, f3, f4, f5, f6]
  exact ⟨fun _ b => decode_shape shape b, fun m => (Bool.false_ne_true m).elim⟩

theorem cov (d : BitVec 7) (a : BitVec 7) (n : Bool) : Statement (.cov d a n) := by
  have shape : decodeShape (formHints (.cov d a n)) (encode (.cov d a n)) = some (.cov d a n) := by
    obtain ⟨hw, b4, f0, f1, f2, f3, f4, f5⟩ := lay4 (encode (.cov d a n)) (49#6) d a (0#7) n (2#4) rfl
    generalize encode (.cov d a n) = wd at hw f0 f1 f2 f3 f4 f5 ⊢
    have f6 : fld wd 0 12 ≠ 0#12 := fld_ne (by rw [hw]; simp only [BitVec.toNat_ofNat]; omega)
    have m0 : decodeShape (formHints (.cov d a n)) wd = shape31 wd := by simp only [decodeShape, f0, BitVec.toNat_ofNat]
    rw [m0]
    simp [shape31, f1, f2, f3, f4, f5, f6]
  exact ⟨fun _ b => decode_shape shape b, fun m => (Bool.false_ne_true m).elim⟩

theorem tex (d : BitVec 7) (a : BitVec 7) (b : BitVec 7) : Statement (.tex d a b) := by
  have shape : decodeShape (formHints (.tex d a b)) (encode (.tex d a b)) = some (.tex d a b) := by
    obtain ⟨hw, f0, f1, f2, f3, f4⟩ := lay11 (encode (.tex d a b)) (50#6) d a b (0#5) rfl
    generalize encode (.tex d a b) = wd at hw f0 f1 f2 f3 f4 ⊢
    have m0 : decodeShape (formHints (.tex d a b)) wd = shape32 wd := by simp only [decodeShape, f0, BitVec.toNat_ofNat]
    rw [m0]
    simp [shape32, f1, f2, f3, f4]
  exact ⟨fun _ b => decode_shape shape b, fun m => (Bool.false_ne_true m).elim⟩

theorem texg (d : BitVec 7) (a : BitVec 7) (b : BitVec 7) : Statement (.texg d a b) := by
  have shape : decodeShape (formHints (.texg d a b)) (encode (.texg d a b)) = some (.texg d a b) := by
    obtain ⟨hw, f0, f1, f2, f3, f4⟩ := lay11 (encode (.texg d a b)) (50#6) d a b (1#5) rfl
    generalize encode (.texg d a b) = wd at hw f0 f1 f2 f3 f4 ⊢
    have m0 : decodeShape (formHints (.texg d a b)) wd = shape32 wd := by simp only [decodeShape, f0, BitVec.toNat_ofNat]
    rw [m0]
    simp [shape32, f1, f2, f3, f4]
  exact ⟨fun _ b => decode_shape shape b, fun m => (Bool.false_ne_true m).elim⟩

theorem texq (d : BitVec 7) (a : BitVec 7) (b : BitVec 7) : Statement (.texq d a b) := by
  have shape : decodeShape (formHints (.texq d a b)) (encode (.texq d a b)) = some (.texq d a b) := by
    obtain ⟨hw, f0, f1, f2, f3, f4⟩ := lay11 (encode (.texq d a b)) (50#6) d a b (2#5) rfl
    generalize encode (.texq d a b) = wd at hw f0 f1 f2 f3 f4 ⊢
    have m0 : decodeShape (formHints (.texq d a b)) wd = shape32 wd := by simp only [decodeShape, f0, BitVec.toNat_ofNat]
    rw [m0]
    simp [shape32, f1, f2, f3, f4]
  exact ⟨fun _ b => decode_shape shape b, fun m => (Bool.false_ne_true m).elim⟩

theorem qrc (d : BitVec 7) (a : BitVec 7) : Statement (.qrc d a) := by
  have shape : decodeShape (formHints (.qrc d a)) (encode (.qrc d a)) = some (.qrc d a) := by
    obtain ⟨hw, f0, f1, f2, f3⟩ := lay5 (encode (.qrc d a)) (51#6) d a (0#12) rfl
    generalize encode (.qrc d a) = wd at hw f0 f1 f2 f3 ⊢
    have f4 : fld wd 0 4 = 0#4 := fld_nat (by rw [hw]; simp only [BitVec.toNat_ofNat]; omega)
    have f5 : fld wd 5 7 = 0#7 := fld_nat (by rw [hw]; simp only [BitVec.toNat_ofNat]; omega)
    have m0 : decodeShape (formHints (.qrc d a)) wd = shape33 (formHints (.qrc d a)) wd := by simp only [decodeShape, f0, BitVec.toNat_ofNat]
    rw [m0]
    simp [shape33, f1, f2, f3, f4, f5]
  exact ⟨fun _ b => decode_shape shape b, fun m => (Bool.false_ne_true m).elim⟩

theorem rccfgLoad (d : BitVec 7) (a : BitVec 7) (n : Bool) : Statement (.rccfgLoad d a n) := by
  have shape : decodeShape (formHints (.rccfgLoad d a n)) (encode (.rccfgLoad d a n)) = some (.rccfgLoad d a n) := by
    obtain ⟨hw, b4, f0, f1, f2, f3, f4, f5⟩ := lay4 (encode (.rccfgLoad d a n)) (51#6) d a (0#7) n (1#4) rfl
    generalize encode (.rccfgLoad d a n) = wd at hw f0 f1 f2 f3 f4 f5 ⊢
    have f6 : fld wd 0 12 ≠ 0#12 := fld_ne (by rw [hw]; simp only [BitVec.toNat_ofNat]; omega)
    have hh : formHints (.rccfgLoad d a n) = { mod := none } := rfl
    have x0 : xmodBit (formHints (.rccfgLoad d a n)) 0 = false := by rw [hh]; decide
    have x1 : xmodLow2 (formHints (.rccfgLoad d a n)) = 0#2 := by rw [hh]; decide
    have m0 : decodeShape (formHints (.rccfgLoad d a n)) wd = shape33 (formHints (.rccfgLoad d a n)) wd := by simp only [decodeShape, f0, BitVec.toNat_ofNat]
    rw [m0]
    simp [shape33, f1, f2, f3, f4, f5, f6, x0, x1]
  exact ⟨fun _ b => decode_shape shape b, fun m => (Bool.false_ne_true m).elim⟩

theorem rccfgSave (d : BitVec 7) (a : BitVec 7) (n : Bool) : Statement (.rccfgSave d a n) := by
  have shape : decodeShape (formHints (.rccfgSave d a n)) (encode (.rccfgSave d a n)) = some (.rccfgSave d a n) := by
    obtain ⟨hw, b4, f0, f1, f2, f3, f4, f5⟩ := lay4 (encode (.rccfgSave d a n)) (51#6) d a (0#7) n (1#4) rfl
    generalize encode (.rccfgSave d a n) = wd at hw f0 f1 f2 f3 f4 f5 ⊢
    have f6 : fld wd 0 12 ≠ 0#12 := fld_ne (by rw [hw]; simp only [BitVec.toNat_ofNat]; omega)
    have hh : formHints (.rccfgSave d a n) = { mod := some 0xE00001#24 } := rfl
    have x0 : xmodBit (formHints (.rccfgSave d a n)) 0 = true := by rw [hh]; decide
    have x1 : xmodLow2 (formHints (.rccfgSave d a n)) = 1#2 := by rw [hh]; decide
    have m0 : decodeShape (formHints (.rccfgSave d a n)) wd = shape33 (formHints (.rccfgSave d a n)) wd := by simp only [decodeShape, f0, BitVec.toNat_ofNat]
    rw [m0]
    simp [shape33, f1, f2, f3, f4, f5, f6, x0, x1]
  exact ⟨fun _ b => decode_shape shape b, fun m => (Bool.false_ne_true m).elim⟩

theorem rccfgRelease (d : BitVec 7) (a : BitVec 7) (n : Bool) : Statement (.rccfgRelease d a n) := by
  have shape : decodeShape (formHints (.rccfgRelease d a n)) (encode (.rccfgRelease d a n)) = some (.rccfgRelease d a n) := by
    obtain ⟨hw, b4, f0, f1, f2, f3, f4, f5⟩ := lay4 (encode (.rccfgRelease d a n)) (51#6) d a (0#7) n (1#4) rfl
    generalize encode (.rccfgRelease d a n) = wd at hw f0 f1 f2 f3 f4 f5 ⊢
    have f6 : fld wd 0 12 ≠ 0#12 := fld_ne (by rw [hw]; simp only [BitVec.toNat_ofNat]; omega)
    have hh : formHints (.rccfgRelease d a n) = { mod := some 0xE00002#24 } := rfl
    have x0 : xmodBit (formHints (.rccfgRelease d a n)) 0 = false := by rw [hh]; decide
    have x1 : xmodLow2 (formHints (.rccfgRelease d a n)) = 2#2 := by rw [hh]; decide
    have m0 : decodeShape (formHints (.rccfgRelease d a n)) wd = shape33 (formHints (.rccfgRelease d a n)) wd := by simp only [decodeShape, f0, BitVec.toNat_ofNat]
    rw [m0]
    simp [shape33, f1, f2, f3, f4, f5, f6, x0, x1]
  exact ⟨fun _ b => decode_shape shape b, fun m => (Bool.false_ne_true m).elim⟩

theorem rcgen (d : BitVec 7) (n : Bool) : Statement (.rcgen d n) := by
  have shape : decodeShape (formHints (.rcgen d n)) (encode (.rcgen d n)) = some (.rcgen d n) := by
    obtain ⟨hw, b3, f0, f1, f2, f3, f4⟩ := lay13 (encode (.rcgen d n)) (51#6) d (0#14) n (2#4) rfl
    generalize encode (.rcgen d n) = wd at hw f0 f1 f2 f3 f4 ⊢
    have f5 : fld wd 0 12 ≠ 0#12 := fld_ne (by rw [hw]; simp only [BitVec.toNat_ofNat]; omega)
    have f6 : fld wd 5 7 = 0#7 := fld_nat (by rw [hw]; simp only [BitVec.toNat_ofNat]; omega)
    have m0 : decodeShape (formHints (.rcgen d n)) wd = shape33 (formHints (.rcgen d n)) wd := by simp only [decodeShape, f0, BitVec.toNat_ofNat]
    rw [m0]
    simp [shape33, f1, f2, f3, f4, f5, f6]
  exact ⟨fun _ b => decode_shape shape b, fun m => (Bool.false_ne_true m).elim⟩

theorem bra (p : BitVec 3) (s : Bool) (h' : Bool) (o : BitVec 21) : Statement (.bra p s h' o) := by
  have shape : decodeShape (formHints (.bra p s h' o)) (encode (.bra p s h' o)) = some (.bra p s h' o) := by
    obtain ⟨hw, b2, b3, f0, f1, f2, f3, f4⟩ := lay14 (encode (.bra p s h' o)) (52#6) p s h' o rfl
    generalize encode (.bra p s h' o) = wd at hw f0 f1 f2 f3 f4 ⊢
    have hh : formHints (.bra p s h' o) = { mod := none } := rfl
    have x0 : xmodBit (formHints (.bra p s h' o)) 0 = false := by rw [hh]; decide
    have x1 : xmodLow2 (formHints (.bra p s h' o)) = 0#2 := by rw [hh]; decide
    have m0 : decodeShape (formHints (.bra p s h' o)) wd = shape34 (formHints (.bra p s h' o)) wd := by simp only [decodeShape, f0, BitVec.toNat_ofNat]
    rw [m0]
    simp [shape34, f1, f2, f3, f4, x0, x1]
  exact ⟨fun _ b => decode_shape shape b, fun m => (Bool.false_ne_true m).elim⟩

theorem braD (p : BitVec 3) (s : Bool) (h' : Bool) (o : BitVec 21) : Statement (.braD p s h' o) := by
  have shape : decodeShape (formHints (.braD p s h' o)) (encode (.braD p s h' o)) = some (.braD p s h' o) := by
    obtain ⟨hw, b2, b3, f0, f1, f2, f3, f4⟩ := lay14 (encode (.braD p s h' o)) (52#6) p s h' o rfl
    generalize encode (.braD p s h' o) = wd at hw f0 f1 f2 f3 f4 ⊢
    have hh : formHints (.braD p s h' o) = { mod := some 0xE00001#24 } := rfl
    have x0 : xmodBit (formHints (.braD p s h' o)) 0 = true := by rw [hh]; decide
    have x1 : xmodLow2 (formHints (.braD p s h' o)) = 1#2 := by rw [hh]; decide
    have m0 : decodeShape (formHints (.braD p s h' o)) wd = shape34 (formHints (.braD p s h' o)) wd := by simp only [decodeShape, f0, BitVec.toNat_ofNat]
    rw [m0]
    simp [shape34, f1, f2, f3, f4, x0, x1]
  exact ⟨fun _ b => decode_shape shape b, fun m => (Bool.false_ne_true m).elim⟩

theorem join : Statement .join := by
  have shape : decodeShape (formHints .join) (encode .join) = some .join := by
    obtain ⟨hw, f0, f1⟩ := lay12 (encode .join) (53#6) (0#26) rfl
    generalize encode .join = wd at hw f0 f1 ⊢
    have f2 : fld wd 0 4 = 0#4 := fld_nat (by rw [hw]; simp only [BitVec.toNat_ofNat]; omega)
    have f3 : fld wd 0 12 = 0#12 := fld_nat (by rw [hw]; simp only [BitVec.toNat_ofNat]; omega)
    have f4 : fld wd 5 7 = 0#7 := fld_nat (by rw [hw]; simp only [BitVec.toNat_ofNat]; omega)
    have f5 : fld wd 19 7 = 0#7 := fld_nat (by rw [hw]; simp only [BitVec.toNat_ofNat]; omega)
    have m0 : decodeShape (formHints .join) wd = shape35 (formHints .join) wd := by simp only [decodeShape, f0, BitVec.toNat_ofNat]
    rw [m0]
    simp [shape35, f1, f2, f3, f4, f5]
  exact ⟨fun _ b => decode_shape shape b, fun m => (Bool.false_ne_true m).elim⟩

theorem call (d : BitVec 7) (a : BitVec 7) (n : Bool) : Statement (.call d a n) := by
  have shape : decodeShape (formHints (.call d a n)) (encode (.call d a n)) = some (.call d a n) := by
    obtain ⟨hw, b4, f0, f1, f2, f3, f4, f5⟩ := lay4 (encode (.call d a n)) (53#6) d a (0#7) n (1#4) rfl
    generalize encode (.call d a n) = wd at hw f0 f1 f2 f3 f4 f5 ⊢
    have f6 : fld wd 0 12 ≠ 2#12 := fld_ne (by rw [hw]; simp only [BitVec.toNat_ofNat]; omega)
    have f7 : fld wd 0 12 ≠ 4#12 := fld_ne (by rw [hw]; simp only [BitVec.toNat_ofNat]; omega)
    have f8 : fld wd 0 12 ≠ 6#12 := fld_ne (by rw [hw]; simp only [BitVec.toNat_ofNat]; omega)
    have f9 : fld wd 0 26 ≠ 0#26 := fld_ne (by rw [hw]; simp only [BitVec.toNat_ofNat]; omega)
    have f10 : fld wd 0 26 ≠ 3#26 := fld_ne (by rw [hw]; simp only [BitVec.toNat_ofNat]; omega)
    have f11 : fld wd 0 26 ≠ 5#26 := fld_ne (by rw [hw]; simp only [BitVec.toNat_ofNat]; omega)
    have m0 : decodeShape (formHints (.call d a n)) wd = shape35 (formHints (.call d a n)) wd := by simp only [decodeShape, f0, BitVec.toNat_ofNat]
    rw [m0]
    simp [shape35, f1, f2, f3, f4, f5, f6, f7, f8, f9, f10, f11]
  exact ⟨fun _ b => decode_shape shape b, fun m => (Bool.false_ne_true m).elim⟩

theorem ret (a : BitVec 7) : Statement (.ret a) := by
  have shape : decodeShape (formHints (.ret a)) (encode (.ret a)) = some (.ret a) := by
    obtain ⟨hw, f0, f1, f2, f3⟩ := lay5 (encode (.ret a)) (53#6) (0#7) a (2#12) rfl
    generalize encode (.ret a) = wd at hw f0 f1 f2 f3 ⊢
    have f4 : fld wd 0 4 = 2#4 := fld_nat (by rw [hw]; simp only [BitVec.toNat_ofNat]; omega)
    have f5 : fld wd 0 26 ≠ 0#26 := fld_ne (by rw [hw]; simp only [BitVec.toNat_ofNat]; omega)
    have f6 : fld wd 0 26 ≠ 3#26 := fld_ne (by rw [hw]; simp only [BitVec.toNat_ofNat]; omega)
    have f7 : fld wd 0 26 ≠ 5#26 := fld_ne (by rw [hw]; simp only [BitVec.toNat_ofNat]; omega)
    have f8 : fld wd 5 7 = 0#7 := fld_nat (by rw [hw]; simp only [BitVec.toNat_ofNat]; omega)
    have m0 : decodeShape (formHints (.ret a)) wd = shape35 (formHints (.ret a)) wd := by simp only [decodeShape, f0, BitVec.toNat_ofNat]
    rw [m0]
    simp [shape35, f1, f2, f3, f4, f5, f6, f7, f8]
  exact ⟨fun _ b => decode_shape shape b, fun m => (Bool.false_ne_true m).elim⟩

theorem exit : Statement .exit := by
  have shape : decodeShape (formHints .exit) (encode .exit) = some .exit := by
    obtain ⟨hw, f0, f1⟩ := lay12 (encode .exit) (53#6) (3#26) rfl
    generalize encode .exit = wd at hw f0 f1 ⊢
    have f2 : fld wd 0 4 = 3#4 := fld_nat (by rw [hw]; simp only [BitVec.toNat_ofNat]; omega)
    have f3 : fld wd 0 12 = 3#12 := fld_nat (by rw [hw]; simp only [BitVec.toNat_ofNat]; omega)
    have f4 : fld wd 5 7 = 0#7 := fld_nat (by rw [hw]; simp only [BitVec.toNat_ofNat]; omega)
    have f5 : fld wd 19 7 = 0#7 := fld_nat (by rw [hw]; simp only [BitVec.toNat_ofNat]; omega)
    have hh : formHints .exit = { mod := none } := rfl
    have x0 : xmodBit (formHints .exit) 0 = false := by rw [hh]; decide
    have x1 : xmodLow2 (formHints .exit) = 0#2 := by rw [hh]; decide
    have m0 : decodeShape (formHints .exit) wd = shape35 (formHints .exit) wd := by simp only [decodeShape, f0, BitVec.toNat_ofNat]
    rw [m0]
    simp [shape35, f1, f2, f3, f4, f5, x0, x1]
  exact ⟨fun _ b => decode_shape shape b, fun m => (Bool.false_ne_true m).elim⟩

theorem exitH : Statement .exitH := by
  have shape : decodeShape (formHints .exitH) (encode .exitH) = some .exitH := by
    obtain ⟨hw, f0, f1⟩ := lay12 (encode .exitH) (53#6) (3#26) rfl
    generalize encode .exitH = wd at hw f0 f1 ⊢
    have f2 : fld wd 0 4 = 3#4 := fld_nat (by rw [hw]; simp only [BitVec.toNat_ofNat]; omega)
    have f3 : fld wd 0 12 = 3#12 := fld_nat (by rw [hw]; simp only [BitVec.toNat_ofNat]; omega)
    have f4 : fld wd 5 7 = 0#7 := fld_nat (by rw [hw]; simp only [BitVec.toNat_ofNat]; omega)
    have f5 : fld wd 19 7 = 0#7 := fld_nat (by rw [hw]; simp only [BitVec.toNat_ofNat]; omega)
    have hh : formHints .exitH = { mod := some 0xE00001#24 } := rfl
    have x0 : xmodBit (formHints .exitH) 0 = true := by rw [hh]; decide
    have x1 : xmodLow2 (formHints .exitH) = 1#2 := by rw [hh]; decide
    have m0 : decodeShape (formHints .exitH) wd = shape35 (formHints .exitH) wd := by simp only [decodeShape, f0, BitVec.toNat_ofNat]
    rw [m0]
    simp [shape35, f1, f2, f3, f4, f5, x0, x1]
  exact ⟨fun _ b => decode_shape shape b, fun m => (Bool.false_ne_true m).elim⟩

theorem yield (a : BitVec 7) : Statement (.yield a) := by
  have shape : decodeShape (formHints (.yield a)) (encode (.yield a)) = some (.yield a) := by
    obtain ⟨hw, f0, f1, f2, f3⟩ := lay5 (encode (.yield a)) (53#6) (0#7) a (4#12) rfl
    generalize encode (.yield a) = wd at hw f0 f1 f2 f3 ⊢
    have f4 : fld wd 0 4 = 4#4 := fld_nat (by rw [hw]; simp only [BitVec.toNat_ofNat]; omega)
    have f5 : fld wd 0 26 ≠ 0#26 := fld_ne (by rw [hw]; simp only [BitVec.toNat_ofNat]; omega)
    have f6 : fld wd 0 26 ≠ 3#26 := fld_ne (by rw [hw]; simp only [BitVec.toNat_ofNat]; omega)
    have f7 : fld wd 0 26 ≠ 5#26 := fld_ne (by rw [hw]; simp only [BitVec.toNat_ofNat]; omega)
    have f8 : fld wd 5 7 = 0#7 := fld_nat (by rw [hw]; simp only [BitVec.toNat_ofNat]; omega)
    have m0 : decodeShape (formHints (.yield a)) wd = shape35 (formHints (.yield a)) wd := by simp only [decodeShape, f0, BitVec.toNat_ofNat]
    rw [m0]
    simp [shape35, f1, f2, f3, f4, f5, f6, f7, f8]
  exact ⟨fun _ b => decode_shape shape b, fun m => (Bool.false_ne_true m).elim⟩

theorem nop : Statement .nop := by
  have shape : decodeShape (formHints .nop) (encode .nop) = some .nop := by
    obtain ⟨hw, f0, f1⟩ := lay12 (encode .nop) (53#6) (5#26) rfl
    generalize encode .nop = wd at hw f0 f1 ⊢
    have f2 : fld wd 0 4 = 5#4 := fld_nat (by rw [hw]; simp only [BitVec.toNat_ofNat]; omega)
    have f3 : fld wd 0 12 = 5#12 := fld_nat (by rw [hw]; simp only [BitVec.toNat_ofNat]; omega)
    have f4 : fld wd 5 7 = 0#7 := fld_nat (by rw [hw]; simp only [BitVec.toNat_ofNat]; omega)
    have f5 : fld wd 19 7 = 0#7 := fld_nat (by rw [hw]; simp only [BitVec.toNat_ofNat]; omega)
    have m0 : decodeShape (formHints .nop) wd = shape35 (formHints .nop) wd := by simp only [decodeShape, f0, BitVec.toNat_ofNat]
    rw [m0]
    simp [shape35, f1, f2, f3, f4, f5]
  exact ⟨fun _ b => decode_shape shape b, fun m => (Bool.false_ne_true m).elim⟩

theorem brx (a : BitVec 7) : Statement (.brx a) := by
  have shape : decodeShape (formHints (.brx a)) (encode (.brx a)) = some (.brx a) := by
    obtain ⟨hw, f0, f1, f2, f3⟩ := lay5 (encode (.brx a)) (53#6) (0#7) a (6#12) rfl
    generalize encode (.brx a) = wd at hw f0 f1 f2 f3 ⊢
    have f4 : fld wd 0 4 = 6#4 := fld_nat (by rw [hw]; simp only [BitVec.toNat_ofNat]; omega)
    have f5 : fld wd 0 26 ≠ 0#26 := fld_ne (by rw [hw]; simp only [BitVec.toNat_ofNat]; omega)
    have f6 : fld wd 0 26 ≠ 3#26 := fld_ne (by rw [hw]; simp only [BitVec.toNat_ofNat]; omega)
    have f7 : fld wd 0 26 ≠ 5#26 := fld_ne (by rw [hw]; simp only [BitVec.toNat_ofNat]; omega)
    have f8 : fld wd 5 7 = 0#7 := fld_nat (by rw [hw]; simp only [BitVec.toNat_ofNat]; omega)
    have m0 : decodeShape (formHints (.brx a)) wd = shape35 (formHints (.brx a)) wd := by simp only [decodeShape, f0, BitVec.toNat_ofNat]
    rw [m0]
    simp [shape35, f1, f2, f3, f4, f5, f6, f7, f8]
  exact ⟨fun _ b => decode_shape shape b, fun m => (Bool.false_ne_true m).elim⟩

theorem trap (d : BitVec 7) (a : BitVec 7) (b : BitVec 7) (n : Bool) : Statement (.trap d a b n) := by
  have shape : decodeShape (formHints (.trap d a b n)) (encode (.trap d a b n)) = some (.trap d a b n) := by
    obtain ⟨hw, b4, f0, f1, f2, f3, f4, f5⟩ := lay4 (encode (.trap d a b n)) (54#6) d a b n (0#4) rfl
    generalize encode (.trap d a b n) = wd at hw f0 f1 f2 f3 f4 f5 ⊢
    have f6 : fld wd 0 5 ≠ 2#5 := fld_ne (by rw [hw]; simp only [BitVec.toNat_ofNat]; omega)
    have f7 : fld wd 0 5 ≠ 22#5 := fld_ne (by rw [hw]; simp only [BitVec.toNat_ofNat]; omega)
    have f8 : fld wd 0 12 ≠ 5#12 := fld_ne (by rw [hw]; simp only [BitVec.toNat_ofNat]; omega)
    have f9 : fld wd 0 12 ≠ 7#12 := fld_ne (by rw [hw]; simp only [BitVec.toNat_ofNat]; omega)
    have m0 : decodeShape (formHints (.trap d a b n)) wd = shape36 (formHints (.trap d a b n)) wd := by simp only [decodeShape, f0, BitVec.toNat_ofNat]
    rw [m0]
    simp [shape36, f1, f2, f3, f4, f5, f6, f7, f8, f9]
  exact ⟨fun _ b => decode_shape shape b, fun m => (Bool.false_ne_true m).elim⟩

theorem svret (d : BitVec 7) (a : BitVec 7) (b : BitVec 7) (n : Bool) : Statement (.svret d a b n) := by
  have shape : decodeShape (formHints (.svret d a b n)) (encode (.svret d a b n)) = some (.svret d a b n) := by
    obtain ⟨hw, b4, f0, f1, f2, f3, f4, f5⟩ := lay4 (encode (.svret d a b n)) (54#6) d a b n (1#4) rfl
    generalize encode (.svret d a b n) = wd at hw f0 f1 f2 f3 f4 f5 ⊢
    have f6 : fld wd 0 5 ≠ 2#5 := fld_ne (by rw [hw]; simp only [BitVec.toNat_ofNat]; omega)
    have f7 : fld wd 0 5 ≠ 22#5 := fld_ne (by rw [hw]; simp only [BitVec.toNat_ofNat]; omega)
    have f8 : fld wd 0 12 ≠ 5#12 := fld_ne (by rw [hw]; simp only [BitVec.toNat_ofNat]; omega)
    have f9 : fld wd 0 12 ≠ 7#12 := fld_ne (by rw [hw]; simp only [BitVec.toNat_ofNat]; omega)
    have m0 : decodeShape (formHints (.svret d a b n)) wd = shape36 (formHints (.svret d a b n)) wd := by simp only [decodeShape, f0, BitVec.toNat_ofNat]
    rw [m0]
    simp [shape36, f1, f2, f3, f4, f5, f6, f7, f8, f9]
  exact ⟨fun _ b => decode_shape shape b, fun m => (Bool.false_ne_true m).elim⟩

theorem bpt (b : BitVec 7) : Statement (.bpt b) := by
  have shape : decodeShape (formHints (.bpt b)) (encode (.bpt b)) = some (.bpt b) := by
    obtain ⟨hw, f0, f1, f2, f3⟩ := lay15 (encode (.bpt b)) (54#6) (0#14) b (2#5) rfl
    generalize encode (.bpt b) = wd at hw f0 f1 f2 f3 ⊢
    have f4 : fld wd 0 4 = 2#4 := fld_nat (by rw [hw]; simp only [BitVec.toNat_ofNat]; omega)
    have f5 : fld wd 0 12 ≠ 5#12 := fld_ne (by rw [hw]; simp only [BitVec.toNat_ofNat]; omega)
    have f6 : fld wd 0 12 ≠ 7#12 := fld_ne (by rw [hw]; simp only [BitVec.toNat_ofNat]; omega)
    have f7 : fld wd 5 14 ≠ 16128#14 := fld_ne (by rw [hw]; simp only [BitVec.toNat_ofNat]; omega)
    have f8 : fld wd 19 7 = 0#7 := fld_nat (by rw [hw]; simp only [BitVec.toNat_ofNat]; omega)
    have m0 : decodeShape (formHints (.bpt b)) wd = shape36 (formHints (.bpt b)) wd := by simp only [decodeShape, f0, BitVec.toNat_ofNat]
    rw [m0]
    simp [shape36, f1, f2, f3, f4, f5, f6, f7, f8]
  exact ⟨fun _ b => decode_shape shape b, fun m => (Bool.false_ne_true m).elim⟩

theorem launch (d : BitVec 7) (a : BitVec 7) (n : Bool) : Statement (.launch d a n) := by
  have shape : decodeShape (formHints (.launch d a n)) (encode (.launch d a n)) = some (.launch d a n) := by
    obtain ⟨hw, b4, f0, f1, f2, f3, f4, f5⟩ := lay4 (encode (.launch d a n)) (54#6) d a (0#7) n (3#4) rfl
    generalize encode (.launch d a n) = wd at hw f0 f1 f2 f3 f4 f5 ⊢
    have f6 : fld wd 0 5 ≠ 2#5 := fld_ne (by rw [hw]; simp only [BitVec.toNat_ofNat]; omega)
    have f7 : fld wd 0 5 ≠ 22#5 := fld_ne (by rw [hw]; simp only [BitVec.toNat_ofNat]; omega)
    have f8 : fld wd 0 12 ≠ 5#12 := fld_ne (by rw [hw]; simp only [BitVec.toNat_ofNat]; omega)
    have f9 : fld wd 0 12 ≠ 7#12 := fld_ne (by rw [hw]; simp only [BitVec.toNat_ofNat]; omega)
    have m0 : decodeShape (formHints (.launch d a n)) wd = shape36 (formHints (.launch d a n)) wd := by simp only [decodeShape, f0, BitVec.toNat_ofNat]
    rw [m0]
    simp [shape36, f1, f2, f3, f4, f5, f6, f7, f8, f9]
  exact ⟨fun _ b => decode_shape shape b, fun m => (Bool.false_ne_true m).elim⟩

theorem sendam (d : BitVec 7) (a : BitVec 7) (b : BitVec 7) (n : Bool) : Statement (.sendam d a b n) := by
  have shape : decodeShape (formHints (.sendam d a b n)) (encode (.sendam d a b n)) = some (.sendam d a b n) := by
    obtain ⟨hw, b4, f0, f1, f2, f3, f4, f5⟩ := lay4 (encode (.sendam d a b n)) (54#6) d a b n (4#4) rfl
    generalize encode (.sendam d a b n) = wd at hw f0 f1 f2 f3 f4 f5 ⊢
    have f6 : fld wd 0 5 ≠ 2#5 := fld_ne (by rw [hw]; simp only [BitVec.toNat_ofNat]; omega)
    have f7 : fld wd 0 5 ≠ 22#5 := fld_ne (by rw [hw]; simp only [BitVec.toNat_ofNat]; omega)
    have f8 : fld wd 0 12 ≠ 5#12 := fld_ne (by rw [hw]; simp only [BitVec.toNat_ofNat]; omega)
    have f9 : fld wd 0 12 ≠ 7#12 := fld_ne (by rw [hw]; simp only [BitVec.toNat_ofNat]; omega)
    have m0 : decodeShape (formHints (.sendam d a b n)) wd = shape36 (formHints (.sendam d a b n)) wd := by simp only [decodeShape, f0, BitVec.toNat_ofNat]
    rw [m0]
    simp [shape36, f1, f2, f3, f4, f5, f6, f7, f8, f9]
  exact ⟨fun _ b => decode_shape shape b, fun m => (Bool.false_ne_true m).elim⟩

theorem csrr (d : BitVec 7) (a : BitVec 7) : Statement (.csrr d a) := by
  have shape : decodeShape (formHints (.csrr d a)) (encode (.csrr d a)) = some (.csrr d a) := by
    obtain ⟨hw, f0, f1, f2, f3⟩ := lay5 (encode (.csrr d a)) (54#6) d a (5#12) rfl
    generalize encode (.csrr d a) = wd at hw f0 f1 f2 f3 ⊢
    have f4 : fld wd 0 4 = 5#4 := fld_nat (by rw [hw]; simp only [BitVec.toNat_ofNat]; omega)
    have f5 : fld wd 0 5 = 5#5 := fld_nat (by rw [hw]; simp only [BitVec.toNat_ofNat]; omega)
    have f6 : fld wd 5 7 = 0#7 := fld_nat (by rw [hw]; simp only [BitVec.toNat_ofNat]; omega)
    have m0 : decodeShape (formHints (.csrr d a)) wd = shape36 (formHints (.csrr d a)) wd := by simp only [decodeShape, f0, BitVec.toNat_ofNat]
    rw [m0]
    simp [shape36, f1, f2, f3, f4, f5, f6]
  exact ⟨fun _ b => decode_shape shape b, fun m => (Bool.false_ne_true m).elim⟩

theorem csrw (a : BitVec 7) (b : BitVec 7) : Statement (.csrw a b) := by
  have shape : decodeShape (formHints (.csrw a b)) (encode (.csrw a b)) = some (.csrw a b) := by
    obtain ⟨hw, f0, f1, f2, f3, f4⟩ := lay11 (encode (.csrw a b)) (54#6) (126#7) a b (22#5) rfl
    generalize encode (.csrw a b) = wd at hw f0 f1 f2 f3 f4 ⊢
    have f5 : fld wd 0 4 = 6#4 := fld_nat (by rw [hw]; simp only [BitVec.toNat_ofNat]; omega)
    have f6 : fld wd 0 12 ≠ 5#12 := fld_ne (by rw [hw]; simp only [BitVec.toNat_ofNat]; omega)
    have f7 : fld wd 0 12 ≠ 7#12 := fld_ne (by rw [hw]; simp only [BitVec.toNat_ofNat]; omega)
    have f8 : fld wd 12 14 ≠ 0#14 := fld_ne (by rw [hw]; simp only [BitVec.toNat_ofNat]; omega)
    have m0 : decodeShape (formHints (.csrw a b)) wd = shape36 (formHints (.csrw a b)) wd := by simp only [decodeShape, f0, BitVec.toNat_ofNat]
    rw [m0]
    simp [shape36, f1, f2, f3, f4, f5, f6, f7, f8]
  exact ⟨fun _ b => decode_shape shape b, fun m => (Bool.false_ne_true m).elim⟩

theorem rplget (d : BitVec 7) (a : BitVec 7) : Statement (.rplget d a) := by
  have shape : decodeShape (formHints (.rplget d a)) (encode (.rplget d a)) = some (.rplget d a) := by
    obtain ⟨hw, f0, f1, f2, f3⟩ := lay5 (encode (.rplget d a)) (54#6) d a (7#12) rfl
    generalize encode (.rplget d a) = wd at hw f0 f1 f2 f3 ⊢
    have f4 : fld wd 0 4 = 7#4 := fld_nat (by rw [hw]; simp only [BitVec.toNat_ofNat]; omega)
    have f5 : fld wd 0 5 = 7#5 := fld_nat (by rw [hw]; simp only [BitVec.toNat_ofNat]; omega)
    have f6 : fld wd 5 7 = 0#7 := fld_nat (by rw [hw]; simp only [BitVec.toNat_ofNat]; omega)
    have m0 : decodeShape (formHints (.rplget d a)) wd = shape36 (formHints (.rplget d a)) wd := by simp only [decodeShape, f0, BitVec.toNat_ofNat]
    rw [m0]
    simp [shape36, f1, f2, f3, f4, f5, f6]
  exact ⟨fun _ b => decode_shape shape b, fun m => (Bool.false_ne_true m).elim⟩

theorem rplrun (d : BitVec 7) (a : BitVec 7) (n : Bool) : Statement (.rplrun d a n) := by
  have shape : decodeShape (formHints (.rplrun d a n)) (encode (.rplrun d a n)) = some (.rplrun d a n) := by
    obtain ⟨hw, b4, f0, f1, f2, f3, f4, f5⟩ := lay4 (encode (.rplrun d a n)) (54#6) d a (0#7) n (8#4) rfl
    generalize encode (.rplrun d a n) = wd at hw f0 f1 f2 f3 f4 f5 ⊢
    have f6 : fld wd 0 5 ≠ 2#5 := fld_ne (by rw [hw]; simp only [BitVec.toNat_ofNat]; omega)
    have f7 : fld wd 0 5 ≠ 22#5 := fld_ne (by rw [hw]; simp only [BitVec.toNat_ofNat]; omega)
    have f8 : fld wd 0 12 ≠ 5#12 := fld_ne (by rw [hw]; simp only [BitVec.toNat_ofNat]; omega)
    have f9 : fld wd 0 12 ≠ 7#12 := fld_ne (by rw [hw]; simp only [BitVec.toNat_ofNat]; omega)
    have m0 : decodeShape (formHints (.rplrun d a n)) wd = shape36 (formHints (.rplrun d a n)) wd := by simp only [decodeShape, f0, BitVec.toNat_ofNat]
    rw [m0]
    simp [shape36, f1, f2, f3, f4, f5, f6, f7, f8, f9]
  exact ⟨fun _ b => decode_shape shape b, fun m => (Bool.false_ne_true m).elim⟩

theorem csload (d : BitVec 7) (a : BitVec 7) (n : Bool) : Statement (.csload d a n) := by
  have shape : decodeShape (formHints (.csload d a n)) (encode (.csload d a n)) = some (.csload d a n) := by
    obtain ⟨hw, b4, f0, f1, f2, f3, f4, f5⟩ := lay4 (encode (.csload d a n)) (54#6) d a (0#7) n (9#4) rfl
    generalize encode (.csload d a n) = wd at hw f0 f1 f2 f3 f4 f5 ⊢
    have f6 : fld wd 0 5 ≠ 2#5 := fld_ne (by rw [hw]; simp only [BitVec.toNat_ofNat]; omega)
    have f7 : fld wd 0 5 ≠ 22#5 := fld_ne (by rw [hw]; simp only [BitVec.toNat_ofNat]; omega)
    have f8 : fld wd 0 12 ≠ 5#12 := fld_ne (by rw [hw]; simp only [BitVec.toNat_ofNat]; omega)
    have f9 : fld wd 0 12 ≠ 7#12 := fld_ne (by rw [hw]; simp only [BitVec.toNat_ofNat]; omega)
    have hh : formHints (.csload d a n) = { mod := none } := rfl
    have x0 : xmodBit (formHints (.csload d a n)) 0 = false := by rw [hh]; decide
    have x1 : xmodLow2 (formHints (.csload d a n)) = 0#2 := by rw [hh]; decide
    have m0 : decodeShape (formHints (.csload d a n)) wd = shape36 (formHints (.csload d a n)) wd := by simp only [decodeShape, f0, BitVec.toNat_ofNat]
    rw [m0]
    simp [shape36, f1, f2, f3, f4, f5, f6, f7, f8, f9, x0, x1]
  exact ⟨fun _ b => decode_shape shape b, fun m => (Bool.false_ne_true m).elim⟩

theorem csloadClear (d : BitVec 7) (n : Bool) : Statement (.csloadClear d n) := by
  have shape : decodeShape (formHints (.csloadClear d n)) (encode (.csloadClear d n)) = some (.csloadClear d n) := by
    obtain ⟨hw, b3, f0, f1, f2, f3, f4⟩ := lay13 (encode (.csloadClear d n)) (54#6) d (16128#14) n (9#4) rfl
    generalize encode (.csloadClear d n) = wd at hw f0 f1 f2 f3 f4 ⊢
    have f5 : fld wd 0 5 ≠ 2#5 := fld_ne (by rw [hw]; simp only [BitVec.toNat_ofNat]; omega)
    have f6 : fld wd 0 5 ≠ 22#5 := fld_ne (by rw [hw]; simp only [BitVec.toNat_ofNat]; omega)
    have f7 : fld wd 0 12 ≠ 5#12 := fld_ne (by rw [hw]; simp only [BitVec.toNat_ofNat]; omega)
    have f8 : fld wd 0 12 ≠ 7#12 := fld_ne (by rw [hw]; simp only [BitVec.toNat_ofNat]; omega)
    have f9 : fld wd 5 7 = 0#7 := fld_nat (by rw [hw]; simp only [BitVec.toNat_ofNat]; omega)
    have f10 : fld wd 12 14 ≠ 0#14 := fld_ne (by rw [hw]; simp only [BitVec.toNat_ofNat]; omega)
    have hh : formHints (.csloadClear d n) = { mod := some 0xE00001#24 } := rfl
    have x0 : xmodBit (formHints (.csloadClear d n)) 0 = true := by rw [hh]; decide
    have x1 : xmodLow2 (formHints (.csloadClear d n)) = 1#2 := by rw [hh]; decide
    have m0 : decodeShape (formHints (.csloadClear d n)) wd = shape36 (formHints (.csloadClear d n)) wd := by simp only [decodeShape, f0, BitVec.toNat_ofNat]
    rw [m0]
    simp [shape36, f1, f2, f3, f4, f5, f6, f7, f8, f9, f10, x0, x1]
  exact ⟨fun _ b => decode_shape shape b, fun m => (Bool.false_ne_true m).elim⟩

theorem vote (d : BitVec 7) (a : BitVec 7) (i : Bool) (v : BitVec 3) (n : Bool) : Statement (.vote d a i v n) := by
  have shape : decodeShape (formHints (.vote d a i v n)) (encode (.vote d a i v n)) = some (.vote d a i v n) := by
    obtain ⟨hw, b4, b6, f0, f1, f2, f3, f4, f5, f6, f7⟩ := lay16 (encode (.vote d a i v n)) (55#6) d a (0#3) i v n (0#4) rfl
    generalize encode (.vote d a i v n) = wd at hw f0 f1 f2 f3 f4 f5 f6 f7 ⊢
    have m0 : decodeShape (formHints (.vote d a i v n)) wd = shape37 wd := by simp only [decodeShape, f0, BitVec.toNat_ofNat]
    rw [m0]
    simp [shape37, f1, f2, f3, f4, f5, f6, f7]
  exact ⟨fun _ b => decode_shape shape b, fun m => (Bool.false_ne_true m).elim⟩

theorem matchVal (d : BitVec 7) (a : BitVec 7) (b : BitVec 7) (n : Bool) : Statement (.matchVal d a b n) := by
  have shape : decodeShape (formHints (.matchVal d a b n)) (encode (.matchVal d a b n)) = some (.matchVal d a b n) := by
    obtain ⟨hw, b4, f0, f1, f2, f3, f4, f5⟩ := lay4 (encode (.matchVal d a b n)) (55#6) d a b n (1#4) rfl
    generalize encode (.matchVal d a b n) = wd at hw f0 f1 f2 f3 f4 f5 ⊢
    have m0 : decodeShape (formHints (.matchVal d a b n)) wd = shape37 wd := by simp only [decodeShape, f0, BitVec.toNat_ofNat]
    rw [m0]
    simp [shape37, f1, f2, f3, f4, f5]
  exact ⟨fun _ b => decode_shape shape b, fun m => (Bool.false_ne_true m).elim⟩

theorem shfl (d : BitVec 7) (a : BitVec 7) (b : BitVec 7) (n : Bool) : Statement (.shfl d a b n) := by
  have shape : decodeShape (formHints (.shfl d a b n)) (encode (.shfl d a b n)) = some (.shfl d a b n) := by
    obtain ⟨hw, b4, f0, f1, f2, f3, f4, f5⟩ := lay4 (encode (.shfl d a b n)) (55#6) d a b n (2#4) rfl
    generalize encode (.shfl d a b n) = wd at hw f0 f1 f2 f3 f4 f5 ⊢
    have m0 : decodeShape (formHints (.shfl d a b n)) wd = shape37 wd := by simp only [decodeShape, f0, BitVec.toNat_ofNat]
    rw [m0]
    simp [shape37, f1, f2, f3, f4, f5]
  exact ⟨fun _ b => decode_shape shape b, fun m => (Bool.false_ne_true m).elim⟩

theorem gred (d : BitVec 7) (a : BitVec 7) (b : BitVec 7) (n : Bool) : Statement (.gred d a b n) := by
  have shape : decodeShape (formHints (.gred d a b n)) (encode (.gred d a b n)) = some (.gred d a b n) := by
    obtain ⟨hw, b4, f0, f1, f2, f3, f4, f5⟩ := lay4 (encode (.gred d a b n)) (55#6) d a b n (3#4) rfl
    generalize encode (.gred d a b n) = wd at hw f0 f1 f2 f3 f4 f5 ⊢
    have m0 : decodeShape (formHints (.gred d a b n)) wd = shape37 wd := by simp only [decodeShape, f0, BitVec.toNat_ofNat]
    rw [m0]
    simp [shape37, f1, f2, f3, f4, f5]
  exact ⟨fun _ b => decode_shape shape b, fun m => (Bool.false_ne_true m).elim⟩

theorem elect (d : BitVec 7) (a : BitVec 7) (n : Bool) : Statement (.elect d a n) := by
  have shape : decodeShape (formHints (.elect d a n)) (encode (.elect d a n)) = some (.elect d a n) := by
    obtain ⟨hw, b4, f0, f1, f2, f3, f4, f5⟩ := lay4 (encode (.elect d a n)) (55#6) d a (0#7) n (4#4) rfl
    generalize encode (.elect d a n) = wd at hw f0 f1 f2 f3 f4 f5 ⊢
    have f6 : fld wd 9 3 = 0#3 := fld_nat (by rw [hw]; simp only [BitVec.toNat_ofNat]; omega)
    have m0 : decodeShape (formHints (.elect d a n)) wd = shape37 wd := by simp only [decodeShape, f0, BitVec.toNat_ofNat]
    rw [m0]
    simp [shape37, f1, f2, f3, f4, f5, f6]
  exact ⟨fun _ b => decode_shape shape b, fun m => (Bool.false_ne_true m).elim⟩

theorem xop (j : BitVec 2) (d : BitVec 7) (a : BitVec 7) (b : BitVec 7) (n : Bool) (i : BitVec 4) : Statement (.xop j d a b n i) := by
  have shape : decodeShape (formHints (.xop j d a b n i)) (encode (.xop j d a b n i)) = some (.xop j d a b n i) := by
    obtain ⟨hw, b5, f0, f1, f2, f3, f4, f5, f6⟩ := lay17 (encode (.xop j d a b n i)) (14#4) j d a b n i rfl
    generalize encode (.xop j d a b n i) = wd at hw f0 f1 f2 f3 f4 f5 f6 ⊢
    rcases xop_major wd f0 with e | e | e | e <;>
      simp [decodeShape, e, shape38, f1, f2, f3, f4, f5, f6]
  exact ⟨fun _ b => decode_shape shape b, fun m => (Bool.false_ne_true m).elim⟩

theorem kmov (d : BitVec 7) (a : BitVec 7) : Statement (.kmov d a) := by
  have shape : decodeShape (formHints (.kmov d a)) (encode (.kmov d a)) = some (.kmov d a) := by
    obtain ⟨hw, f0, f1, f2, f3⟩ := lay5 (encode (.kmov d a)) (62#6) d a (0#12) rfl
    generalize encode (.kmov d a) = wd at hw f0 f1 f2 f3 ⊢
    have f4 : fld wd 0 5 = 0#5 := fld_nat (by rw [hw]; simp only [BitVec.toNat_ofNat]; omega)
    have m0 : decodeShape (formHints (.kmov d a)) wd = shape3E wd := by simp only [decodeShape, f0, BitVec.toNat_ofNat]
    rw [m0]
    simp [shape3E, f1, f2, f3, f4]
  exact ⟨fun _ b => decode_shape shape b, fun m => (Bool.false_ne_true m).elim⟩

theorem kadd (d : BitVec 7) (a : BitVec 7) (b : BitVec 7) : Statement (.kadd d a b) := by
  have shape : decodeShape (formHints (.kadd d a b)) (encode (.kadd d a b)) = some (.kadd d a b) := by
    obtain ⟨hw, f0, f1, f2, f3, f4⟩ := lay11 (encode (.kadd d a b)) (62#6) d a b (1#5) rfl
    generalize encode (.kadd d a b) = wd at hw f0 f1 f2 f3 f4 ⊢
    have f5 : fld wd 0 12 ≠ 0#12 := fld_ne (by rw [hw]; simp only [BitVec.toNat_ofNat]; omega)
    have f6 : fld wd 0 12 ≠ 5#12 := fld_ne (by rw [hw]; simp only [BitVec.toNat_ofNat]; omega)
    have m0 : decodeShape (formHints (.kadd d a b)) wd = shape3E wd := by simp only [decodeShape, f0, BitVec.toNat_ofNat]
    rw [m0]
    simp [shape3E, f1, f2, f3, f4, f5, f6]
  exact ⟨fun _ b => decode_shape shape b, fun m => (Bool.false_ne_true m).elim⟩

theorem kaddi (d : BitVec 7) (a : BitVec 7) (i : BitVec 7) : Statement (.kaddi d a i) := by
  have shape : decodeShape (formHints (.kaddi d a i)) (encode (.kaddi d a i)) = some (.kaddi d a i) := by
    obtain ⟨hw, f0, f1, f2, f3, f4⟩ := lay11 (encode (.kaddi d a i)) (62#6) d a i (2#5) rfl
    generalize encode (.kaddi d a i) = wd at hw f0 f1 f2 f3 f4 ⊢
    have f5 : fld wd 0 12 ≠ 0#12 := fld_ne (by rw [hw]; simp only [BitVec.toNat_ofNat]; omega)
    have f6 : fld wd 0 12 ≠ 5#12 := fld_ne (by rw [hw]; simp only [BitVec.toNat_ofNat]; omega)
    have m0 : decodeShape (formHints (.kaddi d a i)) wd = shape3E wd := by simp only [decodeShape, f0, BitVec.toNat_ofNat]
    rw [m0]
    simp [shape3E, f1, f2, f3, f4, f5, f6]
  exact ⟨fun _ b => decode_shape shape b, fun m => (Bool.false_ne_true m).elim⟩

theorem kshl (d : BitVec 7) (a : BitVec 7) (b : BitVec 7) : Statement (.kshl d a b) := by
  have shape : decodeShape (formHints (.kshl d a b)) (encode (.kshl d a b)) = some (.kshl d a b) := by
    obtain ⟨hw, f0, f1, f2, f3, f4⟩ := lay11 (encode (.kshl d a b)) (62#6) d a b (3#5) rfl
    generalize encode (.kshl d a b) = wd at hw f0 f1 f2 f3 f4 ⊢
    have f5 : fld wd 0 12 ≠ 0#12 := fld_ne (by rw [hw]; simp only [BitVec.toNat_ofNat]; omega)
    have f6 : fld wd 0 12 ≠ 5#12 := fld_ne (by rw [hw]; simp only [BitVec.toNat_ofNat]; omega)
    have m0 : decodeShape (formHints (.kshl d a b)) wd = shape3E wd := by simp only [decodeShape, f0, BitVec.toNat_ofNat]
    rw [m0]
    simp [shape3E, f1, f2, f3, f4, f5, f6]
  exact ⟨fun _ b => decode_shape shape b, fun m => (Bool.false_ne_true m).elim⟩

theorem kand (d : BitVec 7) (a : BitVec 7) (b : BitVec 7) : Statement (.kand d a b) := by
  have shape : decodeShape (formHints (.kand d a b)) (encode (.kand d a b)) = some (.kand d a b) := by
    obtain ⟨hw, f0, f1, f2, f3, f4⟩ := lay11 (encode (.kand d a b)) (62#6) d a b (4#5) rfl
    generalize encode (.kand d a b) = wd at hw f0 f1 f2 f3 f4 ⊢
    have f5 : fld wd 0 12 ≠ 0#12 := fld_ne (by rw [hw]; simp only [BitVec.toNat_ofNat]; omega)
    have f6 : fld wd 0 12 ≠ 5#12 := fld_ne (by rw [hw]; simp only [BitVec.toNat_ofNat]; omega)
    have m0 : decodeShape (formHints (.kand d a b)) wd = shape3E wd := by simp only [decodeShape, f0, BitVec.toNat_ofNat]
    rw [m0]
    simp [shape3E, f1, f2, f3, f4, f5, f6]
  exact ⟨fun _ b => decode_shape shape b, fun m => (Bool.false_ne_true m).elim⟩

theorem kfromv (d : BitVec 7) (a : BitVec 7) : Statement (.kfromv d a) := by
  have shape : decodeShape (formHints (.kfromv d a)) (encode (.kfromv d a)) = some (.kfromv d a) := by
    obtain ⟨hw, f0, f1, f2, f3⟩ := lay5 (encode (.kfromv d a)) (62#6) d a (5#12) rfl
    generalize encode (.kfromv d a) = wd at hw f0 f1 f2 f3 ⊢
    have f4 : fld wd 0 5 = 5#5 := fld_nat (by rw [hw]; simp only [BitVec.toNat_ofNat]; omega)
    have m0 : decodeShape (formHints (.kfromv d a)) wd = shape3E wd := by simp only [decodeShape, f0, BitVec.toNat_ofNat]
    rw [m0]
    simp [shape3E, f1, f2, f3, f4]
  exact ⟨fun _ b => decode_shape shape b, fun m => (Bool.false_ne_true m).elim⟩

theorem uadd (d : BitVec 3) (a : BitVec 3) (b : BitVec 3) : Statement (.uadd d a b) := by
  have shape : decodeMicroShape (encode (.uadd d a b)) = some (.uadd d a b) := by
    obtain ⟨hw, f0, f1, f2, f3, f4⟩ := lay18 (encode (.uadd d a b)) (1#6) d a b (0#17) rfl
    generalize encode (.uadd d a b) = wd at hw f0 f1 f2 f3 f4 ⊢
    simp [decodeMicroShape, f0, f1, f2, f3, f4]
  exact ⟨fun m => (Bool.false_ne_true m).elim, fun _ b => decodeMicro_shape shape b⟩

theorem usub (d : BitVec 3) (a : BitVec 3) (b : BitVec 3) : Statement (.usub d a b) := by
  have shape : decodeMicroShape (encode (.usub d a b)) = some (.usub d a b) := by
    obtain ⟨hw, f0, f1, f2, f3, f4⟩ := lay18 (encode (.usub d a b)) (2#6) d a b (0#17) rfl
    generalize encode (.usub d a b) = wd at hw f0 f1 f2 f3 f4 ⊢
    simp [decodeMicroShape, f0, f1, f2, f3, f4]
  exact ⟨fun m => (Bool.false_ne_true m).elim, fun _ b => decodeMicro_shape shape b⟩

theorem uand (d : BitVec 3) (a : BitVec 3) (b : BitVec 3) : Statement (.uand d a b) := by
  have shape : decodeMicroShape (encode (.uand d a b)) = some (.uand d a b) := by
    obtain ⟨hw, f0, f1, f2, f3, f4⟩ := lay18 (encode (.uand d a b)) (3#6) d a b (0#17) rfl
    generalize encode (.uand d a b) = wd at hw f0 f1 f2 f3 f4 ⊢
    simp [decodeMicroShape, f0, f1, f2, f3, f4]
  exact ⟨fun m => (Bool.false_ne_true m).elim, fun _ b => decodeMicro_shape shape b⟩

theorem uor (d : BitVec 3) (a : BitVec 3) (b : BitVec 3) : Statement (.uor d a b) := by
  have shape : decodeMicroShape (encode (.uor d a b)) = some (.uor d a b) := by
    obtain ⟨hw, f0, f1, f2, f3, f4⟩ := lay18 (encode (.uor d a b)) (4#6) d a b (0#17) rfl
    generalize encode (.uor d a b) = wd at hw f0 f1 f2 f3 f4 ⊢
    simp [decodeMicroShape, f0, f1, f2, f3, f4]
  exact ⟨fun m => (Bool.false_ne_true m).elim, fun _ b => decodeMicro_shape shape b⟩

theorem uxor (d : BitVec 3) (a : BitVec 3) (b : BitVec 3) : Statement (.uxor d a b) := by
  have shape : decodeMicroShape (encode (.uxor d a b)) = some (.uxor d a b) := by
    obtain ⟨hw, f0, f1, f2, f3, f4⟩ := lay18 (encode (.uxor d a b)) (5#6) d a b (0#17) rfl
    generalize encode (.uxor d a b) = wd at hw f0 f1 f2 f3 f4 ⊢
    simp [decodeMicroShape, f0, f1, f2, f3, f4]
  exact ⟨fun m => (Bool.false_ne_true m).elim, fun _ b => decodeMicro_shape shape b⟩

theorem ushl (d : BitVec 3) (a : BitVec 3) (b : BitVec 3) : Statement (.ushl d a b) := by
  have shape : decodeMicroShape (encode (.ushl d a b)) = some (.ushl d a b) := by
    obtain ⟨hw, f0, f1, f2, f3, f4⟩ := lay18 (encode (.ushl d a b)) (6#6) d a b (0#17) rfl
    generalize encode (.ushl d a b) = wd at hw f0 f1 f2 f3 f4 ⊢
    simp [decodeMicroShape, f0, f1, f2, f3, f4]
  exact ⟨fun m => (Bool.false_ne_true m).elim, fun _ b => decodeMicro_shape shape b⟩

theorem ushr (d : BitVec 3) (a : BitVec 3) (b : BitVec 3) : Statement (.ushr d a b) := by
  have shape : decodeMicroShape (encode (.ushr d a b)) = some (.ushr d a b) := by
    obtain ⟨hw, f0, f1, f2, f3, f4⟩ := lay18 (encode (.ushr d a b)) (7#6) d a b (0#17) rfl
    generalize encode (.ushr d a b) = wd at hw f0 f1 f2 f3 f4 ⊢
    simp [decodeMicroShape, f0, f1, f2, f3, f4]
  exact ⟨fun m => (Bool.false_ne_true m).elim, fun _ b => decodeMicro_shape shape b⟩

theorem usar (d : BitVec 3) (a : BitVec 3) (b : BitVec 3) : Statement (.usar d a b) := by
  have shape : decodeMicroShape (encode (.usar d a b)) = some (.usar d a b) := by
    obtain ⟨hw, f0, f1, f2, f3, f4⟩ := lay18 (encode (.usar d a b)) (8#6) d a b (0#17) rfl
    generalize encode (.usar d a b) = wd at hw f0 f1 f2 f3 f4 ⊢
    simp [decodeMicroShape, f0, f1, f2, f3, f4]
  exact ⟨fun m => (Bool.false_ne_true m).elim, fun _ b => decodeMicro_shape shape b⟩

theorem umul (d : BitVec 3) (a : BitVec 3) (b : BitVec 3) : Statement (.umul d a b) := by
  have shape : decodeMicroShape (encode (.umul d a b)) = some (.umul d a b) := by
    obtain ⟨hw, f0, f1, f2, f3, f4⟩ := lay18 (encode (.umul d a b)) (12#6) d a b (0#17) rfl
    generalize encode (.umul d a b) = wd at hw f0 f1 f2 f3 f4 ⊢
    simp [decodeMicroShape, f0, f1, f2, f3, f4]
  exact ⟨fun m => (Bool.false_ne_true m).elim, fun _ b => decodeMicro_shape shape b⟩

theorem uaddi (d : BitVec 3) (a : BitVec 3) (i : BitVec 17) : Statement (.uaddi d a i) := by
  have shape : decodeMicroShape (encode (.uaddi d a i)) = some (.uaddi d a i) := by
    obtain ⟨hw, f0, f1, f2, f3, f4⟩ := lay18 (encode (.uaddi d a i)) (9#6) d a (0#3) i rfl
    generalize encode (.uaddi d a i) = wd at hw f0 f1 f2 f3 f4 ⊢
    simp [decodeMicroShape, f0, f1, f2, f3, f4]
  exact ⟨fun m => (Bool.false_ne_true m).elim, fun _ b => decodeMicro_shape shape b⟩

theorem umovi (d : BitVec 3) (i : BitVec 17) : Statement (.umovi d i) := by
  have shape : decodeMicroShape (encode (.umovi d i)) = some (.umovi d i) := by
    obtain ⟨hw, f0, f1, f2, f3⟩ := lay19 (encode (.umovi d i)) (10#6) d (0#6) i rfl
    generalize encode (.umovi d i) = wd at hw f0 f1 f2 f3 ⊢
    simp [decodeMicroShape, f0, f1, f2, f3]
  exact ⟨fun m => (Bool.false_ne_true m).elim, fun _ b => decodeMicro_shape shape b⟩

theorem uhi (d : BitVec 3) (a : BitVec 3) (i : BitVec 17) : Statement (.uhi d a i) := by
  have shape : decodeMicroShape (encode (.uhi d a i)) = some (.uhi d a i) := by
    obtain ⟨hw, f0, f1, f2, f3, f4⟩ := lay18 (encode (.uhi d a i)) (11#6) d a (0#3) i rfl
    generalize encode (.uhi d a i) = wd at hw f0 f1 f2 f3 f4 ⊢
    simp [decodeMicroShape, f0, f1, f2, f3, f4]
  exact ⟨fun m => (Bool.false_ne_true m).elim, fun _ b => decodeMicro_shape shape b⟩

theorem ufadd (d : BitVec 3) (a : BitVec 3) (b : BitVec 3) (t : BitVec 4) (r : BitVec 3) (s : Bool) : Statement (.ufadd d a b t r s) := by
  have shape : decodeMicroShape (encode (.ufadd d a b t r s)) = some (.ufadd d a b t r s) := by
    obtain ⟨hw, b6, f0, f1, f2, f3, f4, f5, f6, f7⟩ := lay20 (encode (.ufadd d a b t r s)) (16#6) d a b t r s (0#9) rfl
    generalize encode (.ufadd d a b t r s) = wd at hw f0 f1 f2 f3 f4 f5 f6 f7 ⊢
    simp [decodeMicroShape, f0, f1, f2, f3, f4, f5, f6, f7]
  exact ⟨fun m => (Bool.false_ne_true m).elim, fun _ b => decodeMicro_shape shape b⟩

theorem ufsub (d : BitVec 3) (a : BitVec 3) (b : BitVec 3) (t : BitVec 4) (r : BitVec 3) (s : Bool) : Statement (.ufsub d a b t r s) := by
  have shape : decodeMicroShape (encode (.ufsub d a b t r s)) = some (.ufsub d a b t r s) := by
    obtain ⟨hw, b6, f0, f1, f2, f3, f4, f5, f6, f7⟩ := lay20 (encode (.ufsub d a b t r s)) (17#6) d a b t r s (0#9) rfl
    generalize encode (.ufsub d a b t r s) = wd at hw f0 f1 f2 f3 f4 f5 f6 f7 ⊢
    simp [decodeMicroShape, f0, f1, f2, f3, f4, f5, f6, f7]
  exact ⟨fun m => (Bool.false_ne_true m).elim, fun _ b => decodeMicro_shape shape b⟩

theorem ufmul (d : BitVec 3) (a : BitVec 3) (b : BitVec 3) (t : BitVec 4) (r : BitVec 3) (s : Bool) : Statement (.ufmul d a b t r s) := by
  have shape : decodeMicroShape (encode (.ufmul d a b t r s)) = some (.ufmul d a b t r s) := by
    obtain ⟨hw, b6, f0, f1, f2, f3, f4, f5, f6, f7⟩ := lay20 (encode (.ufmul d a b t r s)) (18#6) d a b t r s (0#9) rfl
    generalize encode (.ufmul d a b t r s) = wd at hw f0 f1 f2 f3 f4 f5 f6 f7 ⊢
    simp [decodeMicroShape, f0, f1, f2, f3, f4, f5, f6, f7]
  exact ⟨fun m => (Bool.false_ne_true m).elim, fun _ b => decodeMicro_shape shape b⟩

theorem ufma (d : BitVec 3) (a : BitVec 3) (b : BitVec 3) (t : BitVec 4) (r : BitVec 3) (s : Bool) : Statement (.ufma d a b t r s) := by
  have shape : decodeMicroShape (encode (.ufma d a b t r s)) = some (.ufma d a b t r s) := by
    obtain ⟨hw, b6, f0, f1, f2, f3, f4, f5, f6, f7⟩ := lay20 (encode (.ufma d a b t r s)) (19#6) d a b t r s (0#9) rfl
    generalize encode (.ufma d a b t r s) = wd at hw f0 f1 f2 f3 f4 f5 f6 f7 ⊢
    simp [decodeMicroShape, f0, f1, f2, f3, f4, f5, f6, f7]
  exact ⟨fun m => (Bool.false_ne_true m).elim, fun _ b => decodeMicro_shape shape b⟩

theorem ufmin (d : BitVec 3) (a : BitVec 3) (b : BitVec 3) (t : BitVec 4) : Statement (.ufmin d a b t) := by
  have shape : decodeMicroShape (encode (.ufmin d a b t)) = some (.ufmin d a b t) := by
    obtain ⟨hw, f0, f1, f2, f3, f4, f5⟩ := lay21 (encode (.ufmin d a b t)) (20#6) d a b t (0#13) rfl
    generalize encode (.ufmin d a b t) = wd at hw f0 f1 f2 f3 f4 f5 ⊢
    simp [decodeMicroShape, f0, f1, f2, f3, f4, f5]
  exact ⟨fun m => (Bool.false_ne_true m).elim, fun _ b => decodeMicro_shape shape b⟩

theorem ufmax (d : BitVec 3) (a : BitVec 3) (b : BitVec 3) (t : BitVec 4) : Statement (.ufmax d a b t) := by
  have shape : decodeMicroShape (encode (.ufmax d a b t)) = some (.ufmax d a b t) := by
    obtain ⟨hw, f0, f1, f2, f3, f4, f5⟩ := lay21 (encode (.ufmax d a b t)) (21#6) d a b t (0#13) rfl
    generalize encode (.ufmax d a b t) = wd at hw f0 f1 f2 f3 f4 f5 ⊢
    simp [decodeMicroShape, f0, f1, f2, f3, f4, f5]
  exact ⟨fun m => (Bool.false_ne_true m).elim, fun _ b => decodeMicro_shape shape b⟩

theorem ucvt (d : BitVec 3) (a : BitVec 3) (t : BitVec 4) (r : BitVec 3) (s : Bool) (u : BitVec 4) : Statement (.ucvt d a t r s u) := by
  have shape : decodeMicroShape (encode (.ucvt d a t r s u)) = some (.ucvt d a t r s u) := by
    obtain ⟨hw, b6, f0, f1, f2, f3, f4, f5, f6, f7, f8⟩ := lay22 (encode (.ucvt d a t r s u)) (22#6) d a (0#3) t r s u (0#5) rfl
    generalize encode (.ucvt d a t r s u) = wd at hw f0 f1 f2 f3 f4 f5 f6 f7 f8 ⊢
    simp [decodeMicroShape, f0, f1, f2, f3, f4, f5, f6, f7, f8]
  exact ⟨fun m => (Bool.false_ne_true m).elim, fun _ b => decodeMicro_shape shape b⟩

theorem ucmp (d : BitVec 3) (a : BitVec 3) (b : BitVec 3) (t : BitVec 4) (c : BitVec 4) : Statement (.ucmp d a b t c) := by
  have shape : decodeMicroShape (encode (.ucmp d a b t c)) = some (.ucmp d a b t c) := by
    obtain ⟨hw, f0, f1, f2, f3, f4, f5, f6⟩ := lay23 (encode (.ucmp d a b t c)) (24#6) d a b t c (0#9) rfl
    generalize encode (.ucmp d a b t c) = wd at hw f0 f1 f2 f3 f4 f5 f6 ⊢
    simp [decodeMicroShape, f0, f1, f2, f3, f4, f5, f6]
  exact ⟨fun m => (Bool.false_ne_true m).elim, fun _ b => decodeMicro_shape shape b⟩

theorem urdv (h' : BitVec 3) (s : BitVec 2) (o : BitVec 4) (w : BitVec 2) : Statement (.urdv h' s o w) := by
  have shape : decodeMicroShape (encode (.urdv h' s o w)) = some (.urdv h' s o w) := by
    obtain ⟨hw, f0, f1, f2, f3, f4, f5⟩ := lay24 (encode (.urdv h' s o w)) (32#6) h' s o w (0#15) rfl
    generalize encode (.urdv h' s o w) = wd at hw f0 f1 f2 f3 f4 f5 ⊢
    simp [decodeMicroShape, f0, f1, f2, f3, f4, f5]
  exact ⟨fun m => (Bool.false_ne_true m).elim, fun _ b => decodeMicro_shape shape b⟩

theorem uwrv (h' : BitVec 3) (o : BitVec 4) (w : BitVec 2) : Statement (.uwrv h' o w) := by
  have shape : decodeMicroShape (encode (.uwrv h' o w)) = some (.uwrv h' o w) := by
    obtain ⟨hw, f0, f1, f2, f3, f4, f5⟩ := lay24 (encode (.uwrv h' o w)) (33#6) h' (0#2) o w (0#15) rfl
    generalize encode (.uwrv h' o w) = wd at hw f0 f1 f2 f3 f4 f5 ⊢
    simp [decodeMicroShape, f0, f1, f2, f3, f4, f5]
  exact ⟨fun m => (Bool.false_ne_true m).elim, fun _ b => decodeMicro_shape shape b⟩

theorem urdk (h' : BitVec 3) (k : BitVec 6) : Statement (.urdk h' k) := by
  have shape : decodeMicroShape (encode (.urdk h' k)) = some (.urdk h' k) := by
    obtain ⟨hw, f0, f1, f2, f3⟩ := lay19 (encode (.urdk h' k)) (34#6) h' k (0#17) rfl
    generalize encode (.urdk h' k) = wd at hw f0 f1 f2 f3 ⊢
    simp [decodeMicroShape, f0, f1, f2, f3]
  exact ⟨fun m => (Bool.false_ne_true m).elim, fun _ b => decodeMicro_shape shape b⟩

theorem uld (h' : BitVec 3) (a : BitVec 3) (z : BitVec 2) (i : BitVec 17) : Statement (.uld h' a z i) := by
  have shape : decodeMicroShape (encode (.uld h' a z i)) = some (.uld h' a z i) := by
    obtain ⟨hw, f0, f1, f2, f3, f4, f5⟩ := lay25 (encode (.uld h' a z i)) (40#6) h' a z (0#1) i rfl
    generalize encode (.uld h' a z i) = wd at hw f0 f1 f2 f3 f4 f5 ⊢
    simp [decodeMicroShape, f0, f1, f2, f3, f4, f5]
  exact ⟨fun m => (Bool.false_ne_true m).elim, fun _ b => decodeMicro_shape shape b⟩

theorem uprobe (a : BitVec 3) (z : BitVec 2) (i : BitVec 17) : Statement (.uprobe a z i) := by
  have shape : decodeMicroShape (encode (.uprobe a z i)) = some (.uprobe a z i) := by
    obtain ⟨hw, f0, f1, f2, f3, f4, f5⟩ := lay25 (encode (.uprobe a z i)) (41#6) (0#3) a z (0#1) i rfl
    generalize encode (.uprobe a z i) = wd at hw f0 f1 f2 f3 f4 f5 ⊢
    simp [decodeMicroShape, f0, f1, f2, f3, f4, f5]
  exact ⟨fun m => (Bool.false_ne_true m).elim, fun _ b => decodeMicro_shape shape b⟩

theorem ust (h' : BitVec 3) (a : BitVec 3) (z : BitVec 2) (i : BitVec 17) : Statement (.ust h' a z i) := by
  have shape : decodeMicroShape (encode (.ust h' a z i)) = some (.ust h' a z i) := by
    obtain ⟨hw, f0, f1, f2, f3, f4, f5⟩ := lay25 (encode (.ust h' a z i)) (42#6) h' a z (0#1) i rfl
    generalize encode (.ust h' a z i) = wd at hw f0 f1 f2 f3 f4 f5 ⊢
    simp [decodeMicroShape, f0, f1, f2, f3, f4, f5]
  exact ⟨fun m => (Bool.false_ne_true m).elim, fun _ b => decodeMicro_shape shape b⟩

theorem ubr (a : BitVec 3) (c : BitVec 2) (o : BitVec 10) : Statement (.ubr a c o) := by
  have shape : decodeMicroShape (encode (.ubr a c o)) = some (.ubr a c o) := by
    obtain ⟨hw, f0, f1, f2, f3, f4, f5⟩ := lay26 (encode (.ubr a c o)) (48#6) (0#3) a c (0#8) o rfl
    generalize encode (.ubr a c o) = wd at hw f0 f1 f2 f3 f4 f5 ⊢
    simp [decodeMicroShape, f0, f1, f2, f3, f4, f5]
  exact ⟨fun m => (Bool.false_ne_true m).elim, fun _ b => decodeMicro_shape shape b⟩

theorem uloop (a : BitVec 3) (m : BitVec 4) (l : BitVec 5) : Statement (.uloop a m l) := by
  have shape : decodeMicroShape (encode (.uloop a m l)) = some (.uloop a m l) := by
    obtain ⟨hw, f0, f1, f2, f3, f4, f5⟩ := lay27 (encode (.uloop a m l)) (49#6) (0#3) a m (0#11) l rfl
    generalize encode (.uloop a m l) = wd at hw f0 f1 f2 f3 f4 f5 ⊢
    simp [decodeMicroShape, f0, f1, f2, f3, f4, f5]
  exact ⟨fun m => (Bool.false_ne_true m).elim, fun _ b => decodeMicro_shape shape b⟩

theorem uend : Statement .uend := by
  have shape : decodeMicroShape (encode .uend) = some .uend := by
    obtain ⟨hw, f0, f1⟩ := lay12 (encode .uend) (50#6) (0#26) rfl
    generalize encode .uend = wd at hw f0 f1 ⊢
    simp [decodeMicroShape, f0, f1]
  exact ⟨fun m => (Bool.false_ne_true m).elim, fun _ b => decodeMicro_shape shape b⟩

theorem utrap (c : BitVec 16) : Statement (.utrap c) := by
  have shape : decodeMicroShape (encode (.utrap c)) = some (.utrap c) := by
    obtain ⟨hw, f0, f1, f2⟩ := lay28 (encode (.utrap c)) (51#6) (0#10) c rfl
    generalize encode (.utrap c) = wd at hw f0 f1 f2 ⊢
    simp [decodeMicroShape, f0, f1, f2]
  exact ⟨fun m => (Bool.false_ne_true m).elim, fun _ b => decodeMicro_shape shape b⟩

theorem moduleReset : Statement .moduleReset := ⟨fun m => (Bool.false_ne_true m).elim, fun m => (Bool.false_ne_true m).elim⟩

theorem functionLevelReset : Statement .functionLevelReset := ⟨fun m => (Bool.false_ne_true m).elim, fun m => (Bool.false_ne_true m).elim⟩

theorem firmwareCheckDone : Statement .firmwareCheckDone := ⟨fun m => (Bool.false_ne_true m).elim, fun m => (Bool.false_ne_true m).elim⟩

theorem blockReady : Statement .blockReady := ⟨fun m => (Bool.false_ne_true m).elim, fun m => (Bool.false_ne_true m).elim⟩

theorem columnReady : Statement .columnReady := ⟨fun m => (Bool.false_ne_true m).elim, fun m => (Bool.false_ne_true m).elim⟩

theorem cxlRequestTimeout : Statement .cxlRequestTimeout := ⟨fun m => (Bool.false_ne_true m).elim, fun m => (Bool.false_ne_true m).elim⟩

theorem blockFailure : Statement .blockFailure := ⟨fun m => (Bool.false_ne_true m).elim, fun m => (Bool.false_ne_true m).elim⟩

theorem featCommit : Statement .featCommit := ⟨fun m => (Bool.false_ne_true m).elim, fun m => (Bool.false_ne_true m).elim⟩

theorem popArm : Statement .popArm := ⟨fun m => (Bool.false_ne_true m).elim, fun m => (Bool.false_ne_true m).elim⟩

theorem popData : Statement .popData := ⟨fun m => (Bool.false_ne_true m).elim, fun m => (Bool.false_ne_true m).elim⟩

theorem ctxLpageWrite : Statement .ctxLpageWrite := ⟨fun m => (Bool.false_ne_true m).elim, fun m => (Bool.false_ne_true m).elim⟩

theorem ctxSvcodeWrite : Statement .ctxSvcodeWrite := ⟨fun m => (Bool.false_ne_true m).elim, fun m => (Bool.false_ne_true m).elim⟩

theorem arenaPinningStart : Statement .arenaPinningStart := ⟨fun m => (Bool.false_ne_true m).elim, fun m => (Bool.false_ne_true m).elim⟩

theorem arenaPinningEnd : Statement .arenaPinningEnd := ⟨fun m => (Bool.false_ne_true m).elim, fun m => (Bool.false_ne_true m).elim⟩

theorem invRange : Statement .invRange := ⟨fun m => (Bool.false_ne_true m).elim, fun m => (Bool.false_ne_true m).elim⟩

theorem invRangeRelease : Statement .invRangeRelease := ⟨fun m => (Bool.false_ne_true m).elim, fun m => (Bool.false_ne_true m).elim⟩

theorem invContext : Statement .invContext := ⟨fun m => (Bool.false_ne_true m).elim, fun m => (Bool.false_ne_true m).elim⟩

theorem invalidationDone : Statement .invalidationDone := ⟨fun m => (Bool.false_ne_true m).elim, fun m => (Bool.false_ne_true m).elim⟩

theorem biasToDevice : Statement .biasToDevice := ⟨fun m => (Bool.false_ne_true m).elim, fun m => (Bool.false_ne_true m).elim⟩

theorem biasToHost : Statement .biasToHost := ⟨fun m => (Bool.false_ne_true m).elim, fun m => (Bool.false_ne_true m).elim⟩

theorem biasFlipDone : Statement .biasFlipDone := ⟨fun m => (Bool.false_ne_true m).elim, fun m => (Bool.false_ne_true m).elim⟩

theorem devmemCtlWrite : Statement .devmemCtlWrite := ⟨fun m => (Bool.false_ne_true m).elim, fun m => (Bool.false_ne_true m).elim⟩

theorem ctxFqCtlWrite : Statement .ctxFqCtlWrite := ⟨fun m => (Bool.false_ne_true m).elim, fun m => (Bool.false_ne_true m).elim⟩

theorem registerWrite : Statement .registerWrite := ⟨fun m => (Bool.false_ne_true m).elim, fun m => (Bool.false_ne_true m).elim⟩

theorem startStampObserved : Statement .startStampObserved := ⟨fun m => (Bool.false_ne_true m).elim, fun m => (Bool.false_ne_true m).elim⟩

theorem priorityAging : Statement .priorityAging := ⟨fun m => (Bool.false_ne_true m).elim, fun m => (Bool.false_ne_true m).elim⟩

theorem placementRound : Statement .placementRound := ⟨fun m => (Bool.false_ne_true m).elim, fun m => (Bool.false_ne_true m).elim⟩

theorem level7Preemption : Statement .level7Preemption := ⟨fun m => (Bool.false_ne_true m).elim, fun m => (Bool.false_ne_true m).elim⟩

theorem dispatchRunnable : Statement .dispatchRunnable := ⟨fun m => (Bool.false_ne_true m).elim, fun m => (Bool.false_ne_true m).elim⟩

theorem rebindWritebackDone : Statement .rebindWritebackDone := ⟨fun m => (Bool.false_ne_true m).elim, fun m => (Bool.false_ne_true m).elim⟩

theorem amArrival : Statement .amArrival := ⟨fun m => (Bool.false_ne_true m).elim, fun m => (Bool.false_ne_true m).elim⟩

theorem handlerStart : Statement .handlerStart := ⟨fun m => (Bool.false_ne_true m).elim, fun m => (Bool.false_ne_true m).elim⟩

theorem amWaitPreemption : Statement .amWaitPreemption := ⟨fun m => (Bool.false_ne_true m).elim, fun m => (Bool.false_ne_true m).elim⟩

theorem bundleFormation : Statement .bundleFormation := ⟨fun m => (Bool.false_ne_true m).elim, fun m => (Bool.false_ne_true m).elim⟩

theorem instructionLineArrival : Statement .instructionLineArrival := ⟨fun m => (Bool.false_ne_true m).elim, fun m => (Bool.false_ne_true m).elim⟩

theorem registerFill : Statement .registerFill := ⟨fun m => (Bool.false_ne_true m).elim, fun m => (Bool.false_ne_true m).elim⟩

theorem reconvergenceTimeout : Statement .reconvergenceTimeout := ⟨fun m => (Bool.false_ne_true m).elim, fun m => (Bool.false_ne_true m).elim⟩

theorem stallExpiry : Statement .stallExpiry := ⟨fun m => (Bool.false_ne_true m).elim, fun m => (Bool.false_ne_true m).elim⟩

theorem yieldDelayEnd : Statement .yieldDelayEnd := ⟨fun m => (Bool.false_ne_true m).elim, fun m => (Bool.false_ne_true m).elim⟩

theorem fetchSuspensionEnd : Statement .fetchSuspensionEnd := ⟨fun m => (Bool.false_ne_true m).elim, fun m => (Bool.false_ne_true m).elim⟩

theorem loadDataReturn : Statement .loadDataReturn := ⟨fun m => (Bool.false_ne_true m).elim, fun m => (Bool.false_ne_true m).elim⟩

theorem storePerformed : Statement .storePerformed := ⟨fun m => (Bool.false_ne_true m).elim, fun m => (Bool.false_ne_true m).elim⟩

theorem externalSnoop : Statement .externalSnoop := ⟨fun m => (Bool.false_ne_true m).elim, fun m => (Bool.false_ne_true m).elim⟩

theorem hostCxlMemAccess : Statement .hostCxlMemAccess := ⟨fun m => (Bool.false_ne_true m).elim, fun m => (Bool.false_ne_true m).elim⟩

theorem monitorPoll : Statement .monitorPoll := ⟨fun m => (Bool.false_ne_true m).elim, fun m => (Bool.false_ne_true m).elim⟩

theorem atomicLaneApplied : Statement .atomicLaneApplied := ⟨fun m => (Bool.false_ne_true m).elim, fun m => (Bool.false_ne_true m).elim⟩

theorem cacheMaintenanceDone : Statement .cacheMaintenanceDone := ⟨fun m => (Bool.false_ne_true m).elim, fun m => (Bool.false_ne_true m).elim⟩

theorem persistDone : Statement .persistDone := ⟨fun m => (Bool.false_ne_true m).elim, fun m => (Bool.false_ne_true m).elim⟩

theorem copyStart : Statement .copyStart := ⟨fun m => (Bool.false_ne_true m).elim, fun m => (Bool.false_ne_true m).elim⟩

theorem copySectorLanded : Statement .copySectorLanded := ⟨fun m => (Bool.false_ne_true m).elim, fun m => (Bool.false_ne_true m).elim⟩

theorem copyPark : Statement .copyPark := ⟨fun m => (Bool.false_ne_true m).elim, fun m => (Bool.false_ne_true m).elim⟩

theorem copyStampWrite : Statement .copyStampWrite := ⟨fun m => (Bool.false_ne_true m).elim, fun m => (Bool.false_ne_true m).elim⟩

theorem copyRetire : Statement .copyRetire := ⟨fun m => (Bool.false_ne_true m).elim, fun m => (Bool.false_ne_true m).elim⟩

theorem waitForWalk : Statement .waitForWalk := ⟨fun m => (Bool.false_ne_true m).elim, fun m => (Bool.false_ne_true m).elim⟩

theorem clusterIdle : Statement .clusterIdle := ⟨fun m => (Bool.false_ne_true m).elim, fun m => (Bool.false_ne_true m).elim⟩

theorem matrixRequestComplete : Statement .matrixRequestComplete := ⟨fun m => (Bool.false_ne_true m).elim, fun m => (Bool.false_ne_true m).elim⟩

theorem tcfgUnitsGranted : Statement .tcfgUnitsGranted := ⟨fun m => (Bool.false_ne_true m).elim, fun m => (Bool.false_ne_true m).elim⟩

theorem walkEnd : Statement .walkEnd := ⟨fun m => (Bool.false_ne_true m).elim, fun m => (Bool.false_ne_true m).elim⟩

theorem textureSampleEnd : Statement .textureSampleEnd := ⟨fun m => (Bool.false_ne_true m).elim, fun m => (Bool.false_ne_true m).elim⟩

theorem optimiserStep : Statement .optimiserStep := ⟨fun m => (Bool.false_ne_true m).elim, fun m => (Bool.false_ne_true m).elim⟩

theorem radianceCommit : Statement .radianceCommit := ⟨fun m => (Bool.false_ne_true m).elim, fun m => (Bool.false_ne_true m).elim⟩

theorem generationSwitch : Statement .generationSwitch := ⟨fun m => (Bool.false_ne_true m).elim, fun m => (Bool.false_ne_true m).elim⟩

theorem controlStoreBankFill : Statement .controlStoreBankFill := ⟨fun m => (Bool.false_ne_true m).elim, fun m => (Bool.false_ne_true m).elim⟩

theorem loessBatchPost : Statement .loessBatchPost := ⟨fun m => (Bool.false_ne_true m).elim, fun m => (Bool.false_ne_true m).elim⟩

theorem batchDoneObserved : Statement .batchDoneObserved := ⟨fun m => (Bool.false_ne_true m).elim, fun m => (Bool.false_ne_true m).elim⟩

theorem preemptionOrder : Statement .preemptionOrder := ⟨fun m => (Bool.false_ne_true m).elim, fun m => (Bool.false_ne_true m).elim⟩

theorem teamStopped : Statement .teamStopped := ⟨fun m => (Bool.false_ne_true m).elim, fun m => (Bool.false_ne_true m).elim⟩

theorem rebindRestore : Statement .rebindRestore := ⟨fun m => (Bool.false_ne_true m).elim, fun m => (Bool.false_ne_true m).elim⟩

theorem halt : Statement .halt := ⟨fun m => (Bool.false_ne_true m).elim, fun m => (Bool.false_ne_true m).elim⟩

theorem haltDone : Statement .haltDone := ⟨fun m => (Bool.false_ne_true m).elim, fun m => (Bool.false_ne_true m).elim⟩

theorem resume : Statement .resume := ⟨fun m => (Bool.false_ne_true m).elim, fun m => (Bool.false_ne_true m).elim⟩

theorem teardown : Statement .teardown := ⟨fun m => (Bool.false_ne_true m).elim, fun m => (Bool.false_ne_true m).elim⟩

theorem teardownDone : Statement .teardownDone := ⟨fun m => (Bool.false_ne_true m).elim, fun m => (Bool.false_ne_true m).elim⟩

theorem linkPoisonResponse : Statement .linkPoisonResponse := ⟨fun m => (Bool.false_ne_true m).elim, fun m => (Bool.false_ne_true m).elim⟩

theorem launchComplete : Statement .launchComplete := ⟨fun m => (Bool.false_ne_true m).elim, fun m => (Bool.false_ne_true m).elim⟩

theorem powerLimitWrite : Statement .powerLimitWrite := ⟨fun m => (Bool.false_ne_true m).elim, fun m => (Bool.false_ne_true m).elim⟩

theorem budgetApplied : Statement .budgetApplied := ⟨fun m => (Bool.false_ne_true m).elim, fun m => (Bool.false_ne_true m).elim⟩

theorem thermalThrottle : Statement .thermalThrottle := ⟨fun m => (Bool.false_ne_true m).elim, fun m => (Bool.false_ne_true m).elim⟩

theorem thermalUnthrottle : Statement .thermalUnthrottle := ⟨fun m => (Bool.false_ne_true m).elim, fun m => (Bool.false_ne_true m).elim⟩

theorem thermalTrip : Statement .thermalTrip := ⟨fun m => (Bool.false_ne_true m).elim, fun m => (Bool.false_ne_true m).elim⟩

theorem thermalPowerOff : Statement .thermalPowerOff := ⟨fun m => (Bool.false_ne_true m).elim, fun m => (Bool.false_ne_true m).elim⟩

theorem mbSpdm : Statement .mbSpdm := ⟨fun m => (Bool.false_ne_true m).elim, fun m => (Bool.false_ne_true m).elim⟩

theorem mbImageChunk : Statement .mbImageChunk := ⟨fun m => (Bool.false_ne_true m).elim, fun m => (Bool.false_ne_true m).elim⟩

theorem mbImageCommit : Statement .mbImageCommit := ⟨fun m => (Bool.false_ne_true m).elim, fun m => (Bool.false_ne_true m).elim⟩

theorem mbKeySet : Statement .mbKeySet := ⟨fun m => (Bool.false_ne_true m).elim, fun m => (Bool.false_ne_true m).elim⟩

theorem mbKeyClear : Statement .mbKeyClear := ⟨fun m => (Bool.false_ne_true m).elim, fun m => (Bool.false_ne_true m).elim⟩

theorem lossOfPower : Statement .lossOfPower := ⟨fun m => (Bool.false_ne_true m).elim, fun m => (Bool.false_ne_true m).elim⟩

end Laws.RoundTrip
end Sys2Proof
end

