-- ==== Sys2Proof/Laws/Shapes.lean ====
section
/-! SUPPORT. The other shapes of meanings: words that write a predicate or k registers, words that steer their threads, and
fault-capable words at issue. -/
namespace Sys2Proof.Machine

/-! ## After the issue frame -/

/-- The state in which the effect of a word begins. -/
structure State.Begun (s : State) (b : Bundle) (i : Instr) (rest : List Bundle) (s1 : State) : Prop where
  frame : s1 = { s with issue := rest, threads := s1.threads }
  threads : ∀ u, s1.thread u = if u ∈ b.threads then (s.thread u).issued s b i else s.thread u

theorem begun {s : State} {b : Bundle} (i : Instr) (rest : List Bundle) (h : s.Bundled b) :
    s.Begun b i rest (({ s with issue := rest } : State).moveOn b i b.threads) := by
  refine ⟨?_, ?_⟩
  · rw [moveOn_eq]
  · intro u
    rw [thread_moveOn _ _ _ _ (nodup_of_lanes h.lanes)]
    rfl

theorem State.Begun.near {s s1 : State} {b : Bundle} {i : Instr} {rest : List Bundle} (h : s.Begun b i rest s1) : s.Near s1 := by
  refine ⟨?_, fun u => ?_, fun q => ?_⟩
  · rw [h.frame]
  · rw [h.threads]; split <;> rfl
  · rw [h.frame]

theorem State.Begun.operand {s s1 : State} {b : Bundle} {i : Instr} {rest : List Bundle} (h : s.Begun b i rest s1) (hs : Hints) (t : Nat) (u : Use) :
    s1.operand hs t u = s.operand hs t u := by
  apply operand_congr
  · intro n; rw [h.frame]; rfl
  · rw [h.threads]; split <;> rfl
  · intro n; rw [h.frame]; rfl

theorem State.Begun.operands {s s1 : State} {b : Bundle} {i : Instr} {rest : List Bundle} (h : s.Begun b i rest s1) (hs : Hints) (t : Nat) (f : Form) :
    s1.operands hs t f = s.operands hs t f := by
  simp only [State.operands]
  apply List.map_congr_left
  intro u _
  exact h.operand hs t u

theorem State.Begun.kreg {s s1 : State} {b : Bundle} {i : Instr} {rest : List Bundle} (h : s.Begun b i rest s1) (t n : Nat) :
    s1.kreg t n = s.kreg t n := by rw [h.frame]; rfl

/-- A word comes to its effect on the state in which it begins, and the latch counts. -/
theorem issueWord_begun {s : State} {b : Bundle} {rest : List Bundle} {i : Instr} (h : s.Executes b rest i) (eff : Effect) :
    ∃ s1, s.Begun b i rest s1 ∧ s.issueWord i eff = .next
      { eff b b.threads s1 with held := ((eff b b.threads s1).keepLatches b i (formOf b.hints i) b.threads).held } := by
  refine ⟨_, begun i rest h.toBundled, ?_⟩
  rw [issueWord_executes h, keepLatches_eq]

/-- A word whose effect is on its threads' control state alone. -/
theorem steers_of_fold {s : State} {b : Bundle} {rest : List Bundle} {i : Instr} (h : s.Executes b rest i) (eff : Effect)
    (f : Nat → Thread → Thread)
    (he : ∀ s1, s.Begun b i rest s1 → eff b b.threads s1 = b.threads.foldl (fun s t => s.modThread t (f t)) s1) :
    ∃ t, s.issueWord i eff = .next t ∧ s.Steers b rest i f t := by
  obtain ⟨s1, hb, e⟩ := issueWord_begun h eff
  rw [he s1 hb] at e
  have hf := foldl_mod_eq b.threads f s1
  obtain ⟨s2, hs2⟩ : ∃ s2, s2 = b.threads.foldl (fun s t => s.modThread t (f t)) s1 := ⟨_, rfl⟩
  rw [← hs2] at e hf
  have hh : (s2.keepLatches b i (formOf b.hints i) b.threads).held = s.heldAfter b i :=
    held_keepLatches s s2 b i _ _ (by rw [hf, hb.frame])
  rw [hh] at e
  have ht : ∀ u, s2.thread u = if u ∈ b.threads then f u (s1.thread u) else s1.thread u := by
    intro u; rw [hs2, thread_foldl_mod _ _ _ (nodup_of_lanes h.lanes)]
  refine ⟨_, e, ?_, ?_, ?_⟩
  · rw [hf, hb.frame]
  · intro u hu
    show s2.thread u = _
    rw [ht, if_pos hu, hb.threads, if_pos hu]
  · intro u hu
    show s2.thread u = _
    rw [ht, if_neg hu, hb.threads, if_neg hu]

/-! ## Sorted lists -/

theorem mem_insertBy {α : Type} (le : α → α → Bool) (x y : α) (l : List α) : y ∈ insertBy le x l ↔ y = x ∨ y ∈ l := by
  induction l with
  | nil => simp [insertBy]
  | cons z r ih =>
    simp only [insertBy]
    split
    · simp only [List.mem_cons, ih]; tauto
    · simp

theorem mem_foldl_insert {α : Type} (le : α → α → Bool) (y : α) (l acc : List α) :
    y ∈ l.foldl (fun acc x => insertBy le x acc) acc ↔ y ∈ l ∨ y ∈ acc := by
  induction l generalizing acc with
  | nil => simp
  | cons x r ih =>
    simp only [List.foldl_cons, ih, mem_insertBy, List.mem_cons]
    tauto

/-- Sorting keeps the members. -/
theorem mem_sortBy {α : Type} (le : α → α → Bool) (y : α) (l : List α) : y ∈ sortBy le l ↔ y ∈ l := by
  simp [sortBy, mem_foldl_insert]

theorem perm_insertBy {α : Type} (le : α → α → Bool) (x : α) (l : List α) : List.Perm (insertBy le x l) (x :: l) := by
  induction l with
  | nil => exact List.Perm.refl _
  | cons z r ih =>
    simp only [insertBy]
    split
    · exact (List.Perm.cons z ih).trans (List.Perm.swap x z r)
    · exact List.Perm.refl _

theorem perm_foldl_insert {α : Type} (le : α → α → Bool) (l acc : List α) :
    List.Perm (l.foldl (fun acc x => insertBy le x acc) acc) (l ++ acc) := by
  induction l generalizing acc with
  | nil => exact List.Perm.refl _
  | cons x r ih =>
    simp only [List.foldl_cons, List.cons_append]
    exact (ih _).trans ((List.Perm.append_left r (perm_insertBy le x acc)).trans List.perm_middle)

/-- Sorting is a rearrangement. -/
theorem perm_sortBy {α : Type} (le : α → α → Bool) (l : List α) : List.Perm (sortBy le l) l := by
  simpa [sortBy] using perm_foldl_insert le l []

theorem nodup_sortBy (le : Nat → Nat → Bool) (l : List Nat) (h : l.Nodup) : (sortBy le l).Nodup :=
  (perm_sortBy le l).nodup_iff.2 h

/-! ## Fault-capable words at issue (R136, R141) -/

theorem suspendAt_eq (s : State) (b : Bundle) (t : Nat) (w : WaitFor) :
    s.suspendAt b t w = s.modThread t (fun x => { x with pc := b.runPc, runPc := b.runPc, waitFor := w }) := rfl

theorem partition_nil (l : List Nat) (p : Nat → Bool) (h : ∀ t ∈ l, p t = false) : l.partition p = ([], l) := by
  rw [List.partition_eq_filter_filter]
  congr 1
  · rw [List.filter_eq_nil_iff]
    intro t ht
    simp [h t ht]
  · rw [List.filter_eq_self]
    intro t ht
    simp [h t ht]

/-- Threads that are no helpers are not suppressed. -/
theorem suppress_none (s : State) (i : Instr) (h : Hints) (ts : List Nat) (hh : ∀ t ∈ ts, (s.thread t).helper = false) :
    s.suppress i h ts = (s, ts) := by
  simp only [State.suppress, partition_nil ts _ hh, List.foldl_nil]

/-- What a fault-capable word comes to at issue. -/
theorem memOut_suspends {s : State} {b : Bundle} {rest : List Bundle} {i : Instr} (supp : Bool)
    (mk : State → Bundle → Nat → Lane) (h : s.Executes b rest i) (hn : s.NoHelper b)
    (hmk : ∀ s1, s.Begun b i rest s1 → ∀ t, mk s1 b t = mk s b t) (htid : ∀ t, (mk s b t).tid = t) :
    ∃ t, s.memOut i supp mk = .next t ∧ s.Suspends b rest i (fun u => mk s b u) t := by
  obtain ⟨s1, hb, e⟩ := issueWord_begun h (fun b act s =>
    let (s, ts) := if supp then s.suppress i b.hints act else (s, act)
    s.beginOp b i ts (fun s t => mk s b t))
  have hhelp : ∀ t ∈ b.threads, (s1.thread t).helper = false := by
    intro t ht; rw [hb.threads, if_pos ht]; exact hn t ht
  have hset : ∀ t ∈ b.threads, (s1.thread t).inSet = none := by
    intro t ht; rw [hb.threads, if_pos ht]; exact h.fresh t ht
  have hsup : (if supp then s1.suppress i b.hints b.threads else (s1, b.threads)) = (s1, b.threads) := by
    split
    · exact suppress_none s1 i b.hints b.threads hhelp
    · rfl
  have hfroz : ∀ t ∈ b.threads, s1.frozen t = false := by
    intro t ht
    simp only [State.frozen, State.replaying, hset t ht, Option.bind_none]
  have hmap : (sortBy (fun x y => decide (laneOf x ≤ laneOf y)) b.threads).map (fun t => mk s1 b t) =
      b.byLane.map (fun u => mk s b u) := by
    apply List.map_congr_left
    intro t _
    exact hmk s1 hb t
  have hbeg : s1.beginOp b i b.threads (fun s t => mk s b t) = s1.suspendOp b i b.core (b.byLane.map (fun u => mk s b u)) := by
    simp only [State.beginOp, partition_nil b.threads _ hfroz, List.filterMap_nil, dedupBy, List.foldl_nil, hmap]
  obtain ⟨u0, r0, hby⟩ : ∃ u0 r0, b.byLane = u0 :: r0 := by
    cases e0 : b.byLane with
    | nil =>
      have := (perm_sortBy (fun x y => decide (laneOf x ≤ laneOf y)) b.threads)
      rw [show sortBy (fun x y => decide (laneOf x ≤ laneOf y)) b.threads = b.byLane from rfl, e0] at this
      exact absurd this.nil_eq.symm h.inhabited
    | cons u0 r0 => exact ⟨u0, r0, rfl⟩
  have hmem : ∀ u, u ∈ b.byLane ↔ u ∈ b.threads := fun u => mem_sortBy _ u _
  have hnd : b.byLane.Nodup := nodup_sortBy _ _ (nodup_of_lanes h.lanes)
  have hctx : s1.ctxOf u0 = s.bundleCtx b := by
    rw [hb.frame]
    exact h.ctx u0 ((hmem u0).1 (by simp [hby]))
  have hbinds : ∀ c, (s1.ctx c).binds = (s.ctx c).binds := by intro c; rw [hb.frame]; rfl
  have hword : s1.bundleWord b = s.bundleWord b := by rw [hb.frame]; rfl
  have hid : s1.nextId = s.nextId := by rw [hb.frame]
  have hops : s1.ops = s.ops := by rw [hb.frame]
  obtain ⟨sa, hsa⟩ : ∃ sa : State, sa = { s1 with nextId := s.nextId + 1, ops := s.ops ++ [s.opOf b i (b.byLane.map (fun u => mk s b u))] } := ⟨_, rfl⟩
  have hsus : s1.suspendOp b i b.core (b.byLane.map (fun u => mk s b u)) =
      b.byLane.foldl (fun s' t => s'.modThread t (fun x => { x with pc := b.runPc, runPc := b.runPc, waitFor := .check s.nextId })) sa := by
    rw [hsa]
    unfold State.suspendOp State.opOf
    simp only [hby, List.map_cons]
    simp only [htid, hctx, hword, hid, hops, hbinds]
    rw [show mk s b u0 :: List.map (fun u => mk s b u) r0 = List.map (fun u => mk s b u) (u0 :: r0) from rfl]
    rw [List.foldl_map]
    simp only [htid, suspendAt_eq]
  have hf := foldl_mod_eq b.byLane (fun _ x => { x with pc := b.runPc, runPc := b.runPc, waitFor := .check s.nextId }) sa
  have ht : ∀ u, (b.byLane.foldl (fun s' t => s'.modThread t (fun x => { x with pc := b.runPc, runPc := b.runPc, waitFor := .check s.nextId })) sa).thread u =
      if u ∈ b.threads then { (s.thread u).issued s b i with pc := b.runPc, runPc := b.runPc, waitFor := .check s.nextId } else s.thread u := by
    intro u
    rw [thread_foldl_mod _ _ _ hnd]
    have : sa.thread u = s1.thread u := by rw [hsa]; rfl
    rw [this, hb.threads]
    simp only [hmem]
    split <;> rfl
  obtain ⟨s2, hs2⟩ : ∃ s2, s2 = b.byLane.foldl (fun s' t => s'.modThread t (fun x => { x with pc := b.runPc, runPc := b.runPc, waitFor := .check s.nextId })) sa := ⟨_, rfl⟩
  rw [← hs2] at hf ht hsus
  simp only [hsup, hbeg, hsus] at e
  have hh : (s2.keepLatches b i (formOf b.hints i) b.threads).held = s.heldAfter b i :=
    held_keepLatches s s2 b i _ _ (by rw [hf, hsa, hb.frame])
  rw [hh] at e
  refine ⟨_, e, ?_, ?_, ?_⟩
  · rw [hf, hsa, hb.frame]
  · intro u hu
    show s2.thread u = _
    rw [ht, if_pos hu]
  · intro u hu
    show s2.thread u = _
    rw [ht, if_neg hu]

/-! ## Words that write a predicate (R44) -/

/-- Control state changed, and conditions recorded, thread by thread. -/
def State.modAll (s : State) (ts : List Nat) (f : Nat → Thread → Thread) (c : Nat → BitVec 5) : State :=
  ts.foldl (fun s t => (s.modThread t (f t)).record t (c t)) s

/-- What such changes leave. -/
structure State.Modded (s : State) (ts : List Nat) (f : Nat → Thread → Thread) (c : Nat → BitVec 5) (s' : State) : Prop where
  frame : s' = { s with threads := s'.threads, launches := s'.launches, ctxs := s'.ctxs }
  threads : ∀ u, s'.thread u = if u ∈ ts then f u (s.thread u) else s.thread u
  launches : ∀ q, s'.launches.find q = (s.launches.find q).map (fun l =>
    { l with conds := l.conds ||| orAll ((ts.filter (fun u => s.launchOf u == some q)).map c) })
  contexts : ∀ k, s'.ctx k =
    { s.ctx k with fpstat := (s.ctx k).fpstat ||| orAll ((ts.filter (fun u => (s.launchOf u).isNone && s.ctxOf u == k)).map c) }

theorem frame_trans3 {s a b : State} (h1 : a = { s with threads := a.threads, launches := a.launches, ctxs := a.ctxs })
    (h2 : b = { a with threads := b.threads, launches := b.launches, ctxs := b.ctxs }) :
    b = { s with threads := b.threads, launches := b.launches, ctxs := b.ctxs } := by
  rw [h1] at h2
  exact h2

theorem modAll_modded (f : Nat → Thread → Thread) (c : Nat → BitVec 5) :
    ∀ (ts : List Nat) (s : State), ts.Nodup → s.Modded ts f c (s.modAll ts f c) := by
  intro ts
  induction ts with
  | nil => intro s _; exact ⟨rfl, by simp [State.modAll], fun q => by simp [State.modAll], fun k => by simp [State.modAll]⟩
  | cons t r ih =>
    intro s hn
    have hn' := List.nodup_cons.1 hn
    obtain ⟨s2, hs2⟩ : ∃ s2, s2 = (s.modThread t (f t)).record t (c t) := ⟨_, rfl⟩
    have q := record_recorded (s.modThread t (f t)) t (c t)
    rw [← hs2] at q
    have e := recorded_eq q
    have w := ih s2 hn'.2
    have hcons : s.modAll (t :: r) f c = s2.modAll r f c := by rw [hs2]; rfl
    rw [hcons]
    have hth : ∀ u, s2.thread u = if u = t then f t (s.thread t) else s.thread u := by
      intro u
      rw [show s2.thread u = (s.modThread t (f t)).thread u by simp only [State.thread, e.1], thread_modThread]
    have hso : ∀ x, s2.launchOf x = s.launchOf x := launchOf_congr (e.2.2.1) (e.2.2.2)
    have hct : ∀ x, s2.ctxOf x = s.ctxOf x := ctxOf_congr (e.2.2.1) (e.2.2.2)
    refine ⟨?_, ?_, ?_, ?_⟩
    · have e2 : s2 = { s with threads := s2.threads, launches := s2.launches, ctxs := s2.ctxs } := by
        have := q.frame
        have e3 := e.1
        rw [this]
        rfl
      exact frame_trans3 e2 w.frame
    · intro u
      rw [w.threads, hth]
      by_cases hu : u = t
      · subst hu; simp [hn'.1]
      · simp [hu]
    · intro k
      rw [w.launches k, q.launches k]
      simp only [hso, orAll_filter_cons, Option.map_map]
      rw [show (s.modThread t (f t)).launches = s.launches from rfl]
      congr 1
      funext l
      simp [BitVec.or_assoc]
      rfl
    · intro k
      rw [w.contexts k, q.contexts k]
      simp only [hso, hct, orAll_filter_cons]
      rw [show (s.modThread t (f t)).ctx k = s.ctx k from rfl]
      simp [BitVec.or_assoc]
      rfl

theorem State.Modded.readReg {s s' : State} {ts : List Nat} {f : Nat → Thread → Thread} {c : Nat → BitVec 5}
    (m : s.Modded ts f c s') (u n : Nat) : s'.readReg u n = s.readReg u n := by
  have ha : ∀ k, (s.ctxs.at' Ctx.reset k).arena = (s'.ctxs.at' Ctx.reset k).arena := by
    intro k
    have := m.contexts k
    simp only [State.ctx] at this
    rw [this]
  have e := readReg_conds ({ s with threads := s'.threads } : State) s'.launches s'.ctxs ha u n
  rw [m.frame]
  exact e

/-- What a word that writes a predicate comes to. -/
theorem predOut_sets {s : State} {b : Bundle} {rest : List Bundle} {i : Instr} (p : BitVec 3)
    (g : Hints → State → Nat → List Nat → Bool × BitVec 5) (h : s.Executes b rest i)
    (hg : ∀ s' t l, (∀ u, u = t → (s'.thread u).preds = (s.thread u).preds) → g b.hints s' t l = g b.hints s t l) :
    ∃ t, s.predOut i p g = .next t ∧
      s.SetsPred b rest i p.toNat (fun u => (g b.hints s u (s.operands b.hints u (formOf b.hints i))).1)
        (fun u => (g b.hints s u (s.operands b.hints u (formOf b.hints i))).2) t := by
  obtain ⟨s1, hb, e⟩ := issueWord_begun h (fun b act s => act.foldl (fun s t =>
    let (v, c) := g b.hints s t (s.operands b.hints t (formOf b.hints i))
    (s.modThread t (fun x => x.setPred p.toNat v)).record t c) s)
  let v : Nat → Bool := fun u => (g b.hints s u (s.operands b.hints u (formOf b.hints i))).1
  let c : Nat → BitVec 5 := fun u => (g b.hints s u (s.operands b.hints u (formOf b.hints i))).2
  have key : ∀ (ts : List Nat) (s' : State), ts.Nodup →
      (∀ t ∈ ts, (s'.thread t).preds = (s.thread t).preds ∧ s'.operands b.hints t (formOf b.hints i) =
        s.operands b.hints t (formOf b.hints i)) →
      ts.foldl (fun s t =>
        let (v, c) := g b.hints s t (s.operands b.hints t (formOf b.hints i))
        (s.modThread t (fun x => x.setPred p.toNat v)).record t c) s' =
      s'.modAll ts (fun t x => x.setPred p.toNat (v t)) c := by
    intro ts
    induction ts with
    | nil => intro s' _ _; rfl
    | cons t r ih =>
      intro s' hn hs
      have hn' := List.nodup_cons.1 hn
      have h0 := hs t (by simp)
      have hv : g b.hints s' t (s'.operands b.hints t (formOf b.hints i)) = (v t, c t) := by
        rw [h0.2, hg s' t _ (by intro u hu; rw [hu]; exact h0.1)]
      simp only [List.foldl_cons, hv, State.modAll]
      apply ih _ hn'.2
      intro u hu
      have hne : u ≠ t := fun e => hn'.1 (e ▸ hu)
      have m := modAll_modded (fun t x => x.setPred p.toNat (v t)) c [t] s' (by simp)
      have hm : (s'.modThread t (fun x => x.setPred p.toNat (v t))).record t (c t) =
          s'.modAll [t] (fun t x => x.setPred p.toNat (v t)) c := rfl
      rw [hm]
      have ht := m.threads u
      simp only [List.mem_singleton, hne, if_false] at ht
      refine ⟨by rw [ht]; exact (hs u (by simp [hu])).1, ?_⟩
      rw [← (hs u (by simp [hu])).2]
      apply operands_congr
      · intro n; exact m.readReg u n
      · rw [ht]
      · intro n; rw [m.frame]; rfl
  have hk := key b.threads s1 (nodup_of_lanes h.lanes) (by
    intro t ht
    refine ⟨?_, hb.operands _ _ _⟩
    rw [hb.threads]; split <;> rfl)
  rw [hk] at e
  have m := modAll_modded (fun t x => x.setPred p.toNat (v t)) c b.threads s1 (nodup_of_lanes h.lanes)
  obtain ⟨s2, hs2⟩ : ∃ s2, s2 = s1.modAll b.threads (fun t x => x.setPred p.toNat (v t)) c := ⟨_, rfl⟩
  rw [← hs2] at e m
  have hh : (s2.keepLatches b i (formOf b.hints i) b.threads).held = s.heldAfter b i :=
    held_keepLatches s s2 b i _ _ (by rw [m.frame, hb.frame])
  rw [hh] at e
  refine ⟨_, e, ?_, ?_, ?_, ?_, ?_⟩
  · have := m.frame
    rw [hb.frame] at this
    rw [this]
  · intro u hu
    show s2.thread u = _
    rw [m.threads, if_pos hu, hb.threads, if_pos hu]
  · intro u hu
    show s2.thread u = _
    rw [m.threads, if_neg hu, hb.threads, if_neg hu]
  · intro q
    show s2.launches.find q = _
    rw [m.launches, hb.frame]
    rfl
  · intro k
    show s2.ctx k = _
    rw [m.contexts, hb.frame]
    rfl

/-! ## Uniform words (R125, R171) -/

theorem mem_dedup (x : Nat) (l : List Nat) : x ∈ dedupBy id l ↔ x ∈ l := by
  induction l with
  | nil => simp [dedupBy]
  | cons y r ih =>
    simp only [dedupBy, List.mem_cons, List.mem_filter, ih, id_eq, bne_iff_ne]
    by_cases e : x = y <;> simp [e]

theorem nodup_dedup (l : List Nat) : (dedupBy id l).Nodup := by
  induction l with
  | nil => simp [dedupBy]
  | cons y r ih =>
    simp only [dedupBy, List.nodup_cons, List.mem_filter, id_eq, bne_iff_ne]
    exact ⟨fun h => h.2 rfl, ih.filter _⟩

theorem team_setK (s : State) (k j n : Nat) (v : DWord) :
    (s.setK k n v).team j = if j = k then { s.team k with k := (s.team k).k.put n v } else s.team j := by
  simp only [State.setK, State.modTeam, State.setTeam, State.team, Tab.at_put]

theorem setK_fold (d : Nat) (v : Team → DWord) : ∀ (ks : List Nat) (s : State), ks.Nodup →
    (ks.foldl (fun s k => s.setK k d (v (s.team k))) s) =
      { s with teams := (ks.foldl (fun s k => s.setK k d (v (s.team k))) s).teams } ∧
    ∀ j, (ks.foldl (fun s k => s.setK k d (v (s.team k))) s).team j =
      if j ∈ ks then { s.team j with k := (s.team j).k.put d (v (s.team j)) } else s.team j := by
  intro ks
  induction ks with
  | nil => intro s _; exact ⟨rfl, by simp⟩
  | cons k r ih =>
    intro s hn
    have hn' := List.nodup_cons.1 hn
    have w := ih (s.setK k d (v (s.team k))) hn'.2
    simp only [List.foldl_cons]
    refine ⟨?_, fun j => ?_⟩
    · have e := w.1
      rw [e]
      rfl
    · rw [w.2 j, team_setK]
      by_cases hj : j = k
      · subst hj; simp [hn'.1]
      · simp [hj]

/-- What a uniform word comes to. -/
theorem uniformOut_sets {s : State} {b : Bundle} {rest : List Bundle} {i : Instr} (d : BitVec 7) (g : Hints → Team → Nat)
    (h : s.Executes b rest i) :
    ∃ t, s.uniformOut i d g = .next t ∧
      s.SetsUniform b rest i d.toNat (fun k => BitVec.ofNat 64 (g b.hints (s.team k))) t := by
  obtain ⟨s1, hb, e⟩ := issueWord_begun h (fun b act s => (s.teamsOf act).foldl (fun s k =>
    s.setK k d.toNat (BitVec.ofNat 64 (g b.hints (s.team k)))) s)
  have w := setK_fold d.toNat (fun m => BitVec.ofNat 64 (g b.hints m)) (s1.teamsOf b.threads) s1 (nodup_dedup _)
  obtain ⟨s2, hs2⟩ : ∃ s2, s2 = (s1.teamsOf b.threads).foldl (fun s k =>
    s.setK k d.toNat (BitVec.ofNat 64 (g b.hints (s.team k)))) s1 := ⟨_, rfl⟩
  rw [← hs2] at e w
  have hmem : ∀ k, k ∈ s1.teamsOf b.threads ↔ ∃ u ∈ b.threads, s.teamOf u = k := by
    intro k
    simp only [State.teamsOf, mem_dedup, List.mem_map]
    rw [hb.frame]
    exact Iff.rfl
  have hteam : ∀ k, s1.team k = s.team k := by intro k; rw [hb.frame]; rfl
  have hh : (s2.keepLatches b i (formOf b.hints i) b.threads).held = s.heldAfter b i :=
    held_keepLatches s s2 b i _ _ (by rw [w.1, hb.frame])
  rw [hh] at e
  have hth : ∀ u, s2.thread u = s1.thread u := by intro u; rw [w.1]; rfl
  refine ⟨_, e, ?_, ?_, ?_, ?_, ?_⟩
  · have := w.1
    rw [hb.frame] at this
    rw [this]
  · intro u hu
    show s2.thread u = _
    rw [hth, hb.threads, if_pos hu]
  · intro u hu
    show s2.thread u = _
    rw [hth, hb.threads, if_neg hu]
  · intro u hu
    show s2.team _ = _
    rw [w.2, if_pos ((hmem _).2 ⟨u, hu, rfl⟩), hteam]
  · intro k hk
    show s2.team k = _
    rw [w.2, if_neg (fun hm => by obtain ⟨u, hu, e⟩ := (hmem k).1 hm; exact hk u hu e), hteam]

/-! ## Hint words (R48, R49) -/

/-- What a hint word comes to. -/
theorem hintOut_next {s : State} {b : Bundle} {rest : List Bundle} (f : Hints → Hints) (h : s.issue = b :: rest)
    (hp : (b.pc - b.runPc).toNat < 20) :
    s.hintOut f = .next { s with issue := { b with hints := f b.hints, pc := b.pc + 4 } :: rest } := by
  unfold State.hintOut
  rw [h]
  simp only [ge_iff_le, Nat.not_le.2 hp, if_false]

end Sys2Proof.Machine
end

