-- ==== Sys2Proof/Laws/State.lean ====
section
/-! SUPPORT. Each update of the state, field by field: the fields it leaves as they are, and what a reader of the field it
changes finds. -/
namespace Sys2Proof.Machine
set_option Elab.async false


/-! ## setThread -/

section
variable (s : State) (t : Nat) (v : Thread)
@[simp] theorem State.setThread_clk : (s.setThread t v).clk = s.clk := rfl
@[simp] theorem State.setThread_wall : (s.setThread t v).wall = s.wall := rfl
@[simp] theorem State.setThread_powered : (s.setThread t v).powered = s.powered := rfl
@[simp] theorem State.setThread_inputs : (s.setThread t v).inputs = s.inputs := rfl
@[simp] theorem State.setThread_subj : (s.setThread t v).subj = s.subj := rfl
@[simp] theorem State.setThread_waiting : (s.setThread t v).waiting = s.waiting := rfl
@[simp] theorem State.setThread_issue : (s.setThread t v).issue = s.issue := rfl
@[simp] theorem State.setThread_held : (s.setThread t v).held = s.held := rfl
@[simp] theorem State.setThread_freeCount : (s.setThread t v).freeCount = s.freeCount := rfl
@[simp] theorem State.setThread_nextId : (s.setThread t v).nextId = s.nextId := rfl
@[simp] theorem State.setThread_hostData : (s.setThread t v).hostData = s.hostData := rfl
@[simp] theorem State.setThread_msix : (s.setThread t v).msix = s.msix := rfl
@[simp] theorem State.setThread_msiWait : (s.setThread t v).msiWait = s.msiWait := rfl
@[simp] theorem State.setThread_boot : (s.setThread t v).boot = s.boot := rfl
@[simp] theorem State.setThread_funcs : (s.setThread t v).funcs = s.funcs := rfl
@[simp] theorem State.setThread_dev : (s.setThread t v).dev = s.dev := rfl
@[simp] theorem State.setThread_ctxs : (s.setThread t v).ctxs = s.ctxs := rfl
@[simp] theorem State.setThread_launches : (s.setThread t v).launches = s.launches := rfl
@[simp] theorem State.setThread_outst : (s.setThread t v).outst = s.outst := rfl
@[simp] theorem State.setThread_clusters : (s.setThread t v).clusters = s.clusters := rfl
@[simp] theorem State.setThread_cores : (s.setThread t v).cores = s.cores := rfl
@[simp] theorem State.setThread_teams : (s.setThread t v).teams = s.teams := rfl
@[simp] theorem State.setThread_groups : (s.setThread t v).groups = s.groups := rfl
@[simp] theorem State.setThread_lines : (s.setThread t v).lines = s.lines := rfl
@[simp] theorem State.setThread_tlb2 : (s.setThread t v).tlb2 = s.tlb2 := rfl
@[simp] theorem State.setThread_wcache : (s.setThread t v).wcache = s.wcache := rfl
@[simp] theorem State.setThread_inbox : (s.setThread t v).inbox = s.inbox := rfl
@[simp] theorem State.setThread_mem : (s.setThread t v).mem = s.mem := rfl
@[simp] theorem State.setThread_claims : (s.setThread t v).claims = s.claims := rfl
@[simp] theorem State.setThread_bias : (s.setThread t v).bias = s.bias := rfl
@[simp] theorem State.setThread_dir : (s.setThread t v).dir = s.dir := rfl
@[simp] theorem State.setThread_replicas : (s.setThread t v).replicas = s.replicas := rfl
@[simp] theorem State.setThread_stale : (s.setThread t v).stale = s.stale := rfl
@[simp] theorem State.setThread_ucopies : (s.setThread t v).ucopies = s.ucopies := rfl
@[simp] theorem State.setThread_frames : (s.setThread t v).frames = s.frames := rfl
@[simp] theorem State.setThread_poison : (s.setThread t v).poison = s.poison := rfl
@[simp] theorem State.setThread_sectorKey : (s.setThread t v).sectorKey = s.sectorKey := rfl
@[simp] theorem State.setThread_notDurable : (s.setThread t v).notDurable = s.notDurable := rfl
@[simp] theorem State.setThread_heldReqs : (s.setThread t v).heldReqs = s.heldReqs := rfl
@[simp] theorem State.setThread_ecc : (s.setThread t v).ecc = s.ecc := rfl
@[simp] theorem State.setThread_ops : (s.setThread t v).ops = s.ops := rfl
@[simp] theorem State.setThread_accs : (s.setThread t v).accs = s.accs := rfl
@[simp] theorem State.setThread_copies : (s.setThread t v).copies = s.copies := rfl
@[simp] theorem State.setThread_quar : (s.setThread t v).quar = s.quar := rfl
@[simp] theorem State.setThread_sets : (s.setThread t v).sets = s.sets := rfl
@[simp] theorem State.setThread_batches : (s.setThread t v).batches = s.batches := rfl
@[simp] theorem State.setThread_requests : (s.setThread t v).requests = s.requests := rfl
@[simp] theorem State.setThread_rejected : (s.setThread t v).rejected = s.rejected := rfl
@[simp] theorem State.setThread_monitors : (s.setThread t v).monitors = s.monitors := rfl
@[simp] theorem State.setThread_wft : (s.setThread t v).wft = s.wft := rfl
@[simp] theorem State.setThread_decls : (s.setThread t v).decls = s.decls := rfl
@[simp] theorem State.setThread_accepted : (s.setThread t v).accepted = s.accepted := rfl
@[simp] theorem State.setThread_lastCycle : (s.setThread t v).lastCycle = s.lastCycle := rfl
@[simp] theorem State.setThread_lastWaits : (s.setThread t v).lastWaits = s.lastWaits := rfl
@[simp] theorem State.setThread_nextWalk : (s.setThread t v).nextWalk = s.nextWalk := rfl
@[simp] theorem State.setThread_acc : (s.setThread t v).acc = s.acc := rfl
@[simp] theorem State.setThread_accPoison : (s.setThread t v).accPoison = s.accPoison := rfl
@[simp] theorem State.setThread_mreqs : (s.setThread t v).mreqs = s.mreqs := rfl
@[simp] theorem State.setThread_marl : (s.setThread t v).marl = s.marl := rfl
end

/-! ## modThread -/

section
variable (s : State) (t : Nat) (f : Thread → Thread)
@[simp] theorem State.modThread_clk : (s.modThread t f).clk = s.clk := rfl
@[simp] theorem State.modThread_wall : (s.modThread t f).wall = s.wall := rfl
@[simp] theorem State.modThread_powered : (s.modThread t f).powered = s.powered := rfl
@[simp] theorem State.modThread_inputs : (s.modThread t f).inputs = s.inputs := rfl
@[simp] theorem State.modThread_subj : (s.modThread t f).subj = s.subj := rfl
@[simp] theorem State.modThread_waiting : (s.modThread t f).waiting = s.waiting := rfl
@[simp] theorem State.modThread_issue : (s.modThread t f).issue = s.issue := rfl
@[simp] theorem State.modThread_held : (s.modThread t f).held = s.held := rfl
@[simp] theorem State.modThread_freeCount : (s.modThread t f).freeCount = s.freeCount := rfl
@[simp] theorem State.modThread_nextId : (s.modThread t f).nextId = s.nextId := rfl
@[simp] theorem State.modThread_hostData : (s.modThread t f).hostData = s.hostData := rfl
@[simp] theorem State.modThread_msix : (s.modThread t f).msix = s.msix := rfl
@[simp] theorem State.modThread_msiWait : (s.modThread t f).msiWait = s.msiWait := rfl
@[simp] theorem State.modThread_boot : (s.modThread t f).boot = s.boot := rfl
@[simp] theorem State.modThread_funcs : (s.modThread t f).funcs = s.funcs := rfl
@[simp] theorem State.modThread_dev : (s.modThread t f).dev = s.dev := rfl
@[simp] theorem State.modThread_ctxs : (s.modThread t f).ctxs = s.ctxs := rfl
@[simp] theorem State.modThread_launches : (s.modThread t f).launches = s.launches := rfl
@[simp] theorem State.modThread_outst : (s.modThread t f).outst = s.outst := rfl
@[simp] theorem State.modThread_clusters : (s.modThread t f).clusters = s.clusters := rfl
@[simp] theorem State.modThread_cores : (s.modThread t f).cores = s.cores := rfl
@[simp] theorem State.modThread_teams : (s.modThread t f).teams = s.teams := rfl
@[simp] theorem State.modThread_groups : (s.modThread t f).groups = s.groups := rfl
@[simp] theorem State.modThread_lines : (s.modThread t f).lines = s.lines := rfl
@[simp] theorem State.modThread_tlb2 : (s.modThread t f).tlb2 = s.tlb2 := rfl
@[simp] theorem State.modThread_wcache : (s.modThread t f).wcache = s.wcache := rfl
@[simp] theorem State.modThread_inbox : (s.modThread t f).inbox = s.inbox := rfl
@[simp] theorem State.modThread_mem : (s.modThread t f).mem = s.mem := rfl
@[simp] theorem State.modThread_claims : (s.modThread t f).claims = s.claims := rfl
@[simp] theorem State.modThread_bias : (s.modThread t f).bias = s.bias := rfl
@[simp] theorem State.modThread_dir : (s.modThread t f).dir = s.dir := rfl
@[simp] theorem State.modThread_replicas : (s.modThread t f).replicas = s.replicas := rfl
@[simp] theorem State.modThread_stale : (s.modThread t f).stale = s.stale := rfl
@[simp] theorem State.modThread_ucopies : (s.modThread t f).ucopies = s.ucopies := rfl
@[simp] theorem State.modThread_frames : (s.modThread t f).frames = s.frames := rfl
@[simp] theorem State.modThread_poison : (s.modThread t f).poison = s.poison := rfl
@[simp] theorem State.modThread_sectorKey : (s.modThread t f).sectorKey = s.sectorKey := rfl
@[simp] theorem State.modThread_notDurable : (s.modThread t f).notDurable = s.notDurable := rfl
@[simp] theorem State.modThread_heldReqs : (s.modThread t f).heldReqs = s.heldReqs := rfl
@[simp] theorem State.modThread_ecc : (s.modThread t f).ecc = s.ecc := rfl
@[simp] theorem State.modThread_ops : (s.modThread t f).ops = s.ops := rfl
@[simp] theorem State.modThread_accs : (s.modThread t f).accs = s.accs := rfl
@[simp] theorem State.modThread_copies : (s.modThread t f).copies = s.copies := rfl
@[simp] theorem State.modThread_quar : (s.modThread t f).quar = s.quar := rfl
@[simp] theorem State.modThread_sets : (s.modThread t f).sets = s.sets := rfl
@[simp] theorem State.modThread_batches : (s.modThread t f).batches = s.batches := rfl
@[simp] theorem State.modThread_requests : (s.modThread t f).requests = s.requests := rfl
@[simp] theorem State.modThread_rejected : (s.modThread t f).rejected = s.rejected := rfl
@[simp] theorem State.modThread_monitors : (s.modThread t f).monitors = s.monitors := rfl
@[simp] theorem State.modThread_wft : (s.modThread t f).wft = s.wft := rfl
@[simp] theorem State.modThread_decls : (s.modThread t f).decls = s.decls := rfl
@[simp] theorem State.modThread_accepted : (s.modThread t f).accepted = s.accepted := rfl
@[simp] theorem State.modThread_lastCycle : (s.modThread t f).lastCycle = s.lastCycle := rfl
@[simp] theorem State.modThread_lastWaits : (s.modThread t f).lastWaits = s.lastWaits := rfl
@[simp] theorem State.modThread_nextWalk : (s.modThread t f).nextWalk = s.nextWalk := rfl
@[simp] theorem State.modThread_acc : (s.modThread t f).acc = s.acc := rfl
@[simp] theorem State.modThread_accPoison : (s.modThread t f).accPoison = s.accPoison := rfl
@[simp] theorem State.modThread_mreqs : (s.modThread t f).mreqs = s.mreqs := rfl
@[simp] theorem State.modThread_marl : (s.modThread t f).marl = s.marl := rfl
end

/-! ## setGroup -/

section
variable (s : State) (g : Nat) (v : Group)
@[simp] theorem State.setGroup_clk : (s.setGroup g v).clk = s.clk := rfl
@[simp] theorem State.setGroup_wall : (s.setGroup g v).wall = s.wall := rfl
@[simp] theorem State.setGroup_powered : (s.setGroup g v).powered = s.powered := rfl
@[simp] theorem State.setGroup_inputs : (s.setGroup g v).inputs = s.inputs := rfl
@[simp] theorem State.setGroup_subj : (s.setGroup g v).subj = s.subj := rfl
@[simp] theorem State.setGroup_waiting : (s.setGroup g v).waiting = s.waiting := rfl
@[simp] theorem State.setGroup_issue : (s.setGroup g v).issue = s.issue := rfl
@[simp] theorem State.setGroup_held : (s.setGroup g v).held = s.held := rfl
@[simp] theorem State.setGroup_freeCount : (s.setGroup g v).freeCount = s.freeCount := rfl
@[simp] theorem State.setGroup_nextId : (s.setGroup g v).nextId = s.nextId := rfl
@[simp] theorem State.setGroup_hostData : (s.setGroup g v).hostData = s.hostData := rfl
@[simp] theorem State.setGroup_msix : (s.setGroup g v).msix = s.msix := rfl
@[simp] theorem State.setGroup_msiWait : (s.setGroup g v).msiWait = s.msiWait := rfl
@[simp] theorem State.setGroup_boot : (s.setGroup g v).boot = s.boot := rfl
@[simp] theorem State.setGroup_funcs : (s.setGroup g v).funcs = s.funcs := rfl
@[simp] theorem State.setGroup_dev : (s.setGroup g v).dev = s.dev := rfl
@[simp] theorem State.setGroup_ctxs : (s.setGroup g v).ctxs = s.ctxs := rfl
@[simp] theorem State.setGroup_launches : (s.setGroup g v).launches = s.launches := rfl
@[simp] theorem State.setGroup_outst : (s.setGroup g v).outst = s.outst := rfl
@[simp] theorem State.setGroup_clusters : (s.setGroup g v).clusters = s.clusters := rfl
@[simp] theorem State.setGroup_cores : (s.setGroup g v).cores = s.cores := rfl
@[simp] theorem State.setGroup_teams : (s.setGroup g v).teams = s.teams := rfl
@[simp] theorem State.setGroup_threads : (s.setGroup g v).threads = s.threads := rfl
@[simp] theorem State.setGroup_lines : (s.setGroup g v).lines = s.lines := rfl
@[simp] theorem State.setGroup_tlb2 : (s.setGroup g v).tlb2 = s.tlb2 := rfl
@[simp] theorem State.setGroup_wcache : (s.setGroup g v).wcache = s.wcache := rfl
@[simp] theorem State.setGroup_inbox : (s.setGroup g v).inbox = s.inbox := rfl
@[simp] theorem State.setGroup_mem : (s.setGroup g v).mem = s.mem := rfl
@[simp] theorem State.setGroup_claims : (s.setGroup g v).claims = s.claims := rfl
@[simp] theorem State.setGroup_bias : (s.setGroup g v).bias = s.bias := rfl
@[simp] theorem State.setGroup_dir : (s.setGroup g v).dir = s.dir := rfl
@[simp] theorem State.setGroup_replicas : (s.setGroup g v).replicas = s.replicas := rfl
@[simp] theorem State.setGroup_stale : (s.setGroup g v).stale = s.stale := rfl
@[simp] theorem State.setGroup_ucopies : (s.setGroup g v).ucopies = s.ucopies := rfl
@[simp] theorem State.setGroup_frames : (s.setGroup g v).frames = s.frames := rfl
@[simp] theorem State.setGroup_poison : (s.setGroup g v).poison = s.poison := rfl
@[simp] theorem State.setGroup_sectorKey : (s.setGroup g v).sectorKey = s.sectorKey := rfl
@[simp] theorem State.setGroup_notDurable : (s.setGroup g v).notDurable = s.notDurable := rfl
@[simp] theorem State.setGroup_heldReqs : (s.setGroup g v).heldReqs = s.heldReqs := rfl
@[simp] theorem State.setGroup_ecc : (s.setGroup g v).ecc = s.ecc := rfl
@[simp] theorem State.setGroup_ops : (s.setGroup g v).ops = s.ops := rfl
@[simp] theorem State.setGroup_accs : (s.setGroup g v).accs = s.accs := rfl
@[simp] theorem State.setGroup_copies : (s.setGroup g v).copies = s.copies := rfl
@[simp] theorem State.setGroup_quar : (s.setGroup g v).quar = s.quar := rfl
@[simp] theorem State.setGroup_sets : (s.setGroup g v).sets = s.sets := rfl
@[simp] theorem State.setGroup_batches : (s.setGroup g v).batches = s.batches := rfl
@[simp] theorem State.setGroup_requests : (s.setGroup g v).requests = s.requests := rfl
@[simp] theorem State.setGroup_rejected : (s.setGroup g v).rejected = s.rejected := rfl
@[simp] theorem State.setGroup_monitors : (s.setGroup g v).monitors = s.monitors := rfl
@[simp] theorem State.setGroup_wft : (s.setGroup g v).wft = s.wft := rfl
@[simp] theorem State.setGroup_decls : (s.setGroup g v).decls = s.decls := rfl
@[simp] theorem State.setGroup_accepted : (s.setGroup g v).accepted = s.accepted := rfl
@[simp] theorem State.setGroup_lastCycle : (s.setGroup g v).lastCycle = s.lastCycle := rfl
@[simp] theorem State.setGroup_lastWaits : (s.setGroup g v).lastWaits = s.lastWaits := rfl
@[simp] theorem State.setGroup_nextWalk : (s.setGroup g v).nextWalk = s.nextWalk := rfl
@[simp] theorem State.setGroup_acc : (s.setGroup g v).acc = s.acc := rfl
@[simp] theorem State.setGroup_accPoison : (s.setGroup g v).accPoison = s.accPoison := rfl
@[simp] theorem State.setGroup_mreqs : (s.setGroup g v).mreqs = s.mreqs := rfl
@[simp] theorem State.setGroup_marl : (s.setGroup g v).marl = s.marl := rfl
end

/-! ## modGroup -/

section
variable (s : State) (g : Nat) (f : Group → Group)
@[simp] theorem State.modGroup_clk : (s.modGroup g f).clk = s.clk := rfl
@[simp] theorem State.modGroup_wall : (s.modGroup g f).wall = s.wall := rfl
@[simp] theorem State.modGroup_powered : (s.modGroup g f).powered = s.powered := rfl
@[simp] theorem State.modGroup_inputs : (s.modGroup g f).inputs = s.inputs := rfl
@[simp] theorem State.modGroup_subj : (s.modGroup g f).subj = s.subj := rfl
@[simp] theorem State.modGroup_waiting : (s.modGroup g f).waiting = s.waiting := rfl
@[simp] theorem State.modGroup_issue : (s.modGroup g f).issue = s.issue := rfl
@[simp] theorem State.modGroup_held : (s.modGroup g f).held = s.held := rfl
@[simp] theorem State.modGroup_freeCount : (s.modGroup g f).freeCount = s.freeCount := rfl
@[simp] theorem State.modGroup_nextId : (s.modGroup g f).nextId = s.nextId := rfl
@[simp] theorem State.modGroup_hostData : (s.modGroup g f).hostData = s.hostData := rfl
@[simp] theorem State.modGroup_msix : (s.modGroup g f).msix = s.msix := rfl
@[simp] theorem State.modGroup_msiWait : (s.modGroup g f).msiWait = s.msiWait := rfl
@[simp] theorem State.modGroup_boot : (s.modGroup g f).boot = s.boot := rfl
@[simp] theorem State.modGroup_funcs : (s.modGroup g f).funcs = s.funcs := rfl
@[simp] theorem State.modGroup_dev : (s.modGroup g f).dev = s.dev := rfl
@[simp] theorem State.modGroup_ctxs : (s.modGroup g f).ctxs = s.ctxs := rfl
@[simp] theorem State.modGroup_launches : (s.modGroup g f).launches = s.launches := rfl
@[simp] theorem State.modGroup_outst : (s.modGroup g f).outst = s.outst := rfl
@[simp] theorem State.modGroup_clusters : (s.modGroup g f).clusters = s.clusters := rfl
@[simp] theorem State.modGroup_cores : (s.modGroup g f).cores = s.cores := rfl
@[simp] theorem State.modGroup_teams : (s.modGroup g f).teams = s.teams := rfl
@[simp] theorem State.modGroup_threads : (s.modGroup g f).threads = s.threads := rfl
@[simp] theorem State.modGroup_lines : (s.modGroup g f).lines = s.lines := rfl
@[simp] theorem State.modGroup_tlb2 : (s.modGroup g f).tlb2 = s.tlb2 := rfl
@[simp] theorem State.modGroup_wcache : (s.modGroup g f).wcache = s.wcache := rfl
@[simp] theorem State.modGroup_inbox : (s.modGroup g f).inbox = s.inbox := rfl
@[simp] theorem State.modGroup_mem : (s.modGroup g f).mem = s.mem := rfl
@[simp] theorem State.modGroup_claims : (s.modGroup g f).claims = s.claims := rfl
@[simp] theorem State.modGroup_bias : (s.modGroup g f).bias = s.bias := rfl
@[simp] theorem State.modGroup_dir : (s.modGroup g f).dir = s.dir := rfl
@[simp] theorem State.modGroup_replicas : (s.modGroup g f).replicas = s.replicas := rfl
@[simp] theorem State.modGroup_stale : (s.modGroup g f).stale = s.stale := rfl
@[simp] theorem State.modGroup_ucopies : (s.modGroup g f).ucopies = s.ucopies := rfl
@[simp] theorem State.modGroup_frames : (s.modGroup g f).frames = s.frames := rfl
@[simp] theorem State.modGroup_poison : (s.modGroup g f).poison = s.poison := rfl
@[simp] theorem State.modGroup_sectorKey : (s.modGroup g f).sectorKey = s.sectorKey := rfl
@[simp] theorem State.modGroup_notDurable : (s.modGroup g f).notDurable = s.notDurable := rfl
@[simp] theorem State.modGroup_heldReqs : (s.modGroup g f).heldReqs = s.heldReqs := rfl
@[simp] theorem State.modGroup_ecc : (s.modGroup g f).ecc = s.ecc := rfl
@[simp] theorem State.modGroup_ops : (s.modGroup g f).ops = s.ops := rfl
@[simp] theorem State.modGroup_accs : (s.modGroup g f).accs = s.accs := rfl
@[simp] theorem State.modGroup_copies : (s.modGroup g f).copies = s.copies := rfl
@[simp] theorem State.modGroup_quar : (s.modGroup g f).quar = s.quar := rfl
@[simp] theorem State.modGroup_sets : (s.modGroup g f).sets = s.sets := rfl
@[simp] theorem State.modGroup_batches : (s.modGroup g f).batches = s.batches := rfl
@[simp] theorem State.modGroup_requests : (s.modGroup g f).requests = s.requests := rfl
@[simp] theorem State.modGroup_rejected : (s.modGroup g f).rejected = s.rejected := rfl
@[simp] theorem State.modGroup_monitors : (s.modGroup g f).monitors = s.monitors := rfl
@[simp] theorem State.modGroup_wft : (s.modGroup g f).wft = s.wft := rfl
@[simp] theorem State.modGroup_decls : (s.modGroup g f).decls = s.decls := rfl
@[simp] theorem State.modGroup_accepted : (s.modGroup g f).accepted = s.accepted := rfl
@[simp] theorem State.modGroup_lastCycle : (s.modGroup g f).lastCycle = s.lastCycle := rfl
@[simp] theorem State.modGroup_lastWaits : (s.modGroup g f).lastWaits = s.lastWaits := rfl
@[simp] theorem State.modGroup_nextWalk : (s.modGroup g f).nextWalk = s.nextWalk := rfl
@[simp] theorem State.modGroup_acc : (s.modGroup g f).acc = s.acc := rfl
@[simp] theorem State.modGroup_accPoison : (s.modGroup g f).accPoison = s.accPoison := rfl
@[simp] theorem State.modGroup_mreqs : (s.modGroup g f).mreqs = s.mreqs := rfl
@[simp] theorem State.modGroup_marl : (s.modGroup g f).marl = s.marl := rfl
end

/-! ## setTeam -/

section
variable (s : State) (k : Nat) (v : Team)
@[simp] theorem State.setTeam_clk : (s.setTeam k v).clk = s.clk := rfl
@[simp] theorem State.setTeam_wall : (s.setTeam k v).wall = s.wall := rfl
@[simp] theorem State.setTeam_powered : (s.setTeam k v).powered = s.powered := rfl
@[simp] theorem State.setTeam_inputs : (s.setTeam k v).inputs = s.inputs := rfl
@[simp] theorem State.setTeam_subj : (s.setTeam k v).subj = s.subj := rfl
@[simp] theorem State.setTeam_waiting : (s.setTeam k v).waiting = s.waiting := rfl
@[simp] theorem State.setTeam_issue : (s.setTeam k v).issue = s.issue := rfl
@[simp] theorem State.setTeam_held : (s.setTeam k v).held = s.held := rfl
@[simp] theorem State.setTeam_freeCount : (s.setTeam k v).freeCount = s.freeCount := rfl
@[simp] theorem State.setTeam_nextId : (s.setTeam k v).nextId = s.nextId := rfl
@[simp] theorem State.setTeam_hostData : (s.setTeam k v).hostData = s.hostData := rfl
@[simp] theorem State.setTeam_msix : (s.setTeam k v).msix = s.msix := rfl
@[simp] theorem State.setTeam_msiWait : (s.setTeam k v).msiWait = s.msiWait := rfl
@[simp] theorem State.setTeam_boot : (s.setTeam k v).boot = s.boot := rfl
@[simp] theorem State.setTeam_funcs : (s.setTeam k v).funcs = s.funcs := rfl
@[simp] theorem State.setTeam_dev : (s.setTeam k v).dev = s.dev := rfl
@[simp] theorem State.setTeam_ctxs : (s.setTeam k v).ctxs = s.ctxs := rfl
@[simp] theorem State.setTeam_launches : (s.setTeam k v).launches = s.launches := rfl
@[simp] theorem State.setTeam_outst : (s.setTeam k v).outst = s.outst := rfl
@[simp] theorem State.setTeam_clusters : (s.setTeam k v).clusters = s.clusters := rfl
@[simp] theorem State.setTeam_cores : (s.setTeam k v).cores = s.cores := rfl
@[simp] theorem State.setTeam_groups : (s.setTeam k v).groups = s.groups := rfl
@[simp] theorem State.setTeam_threads : (s.setTeam k v).threads = s.threads := rfl
@[simp] theorem State.setTeam_lines : (s.setTeam k v).lines = s.lines := rfl
@[simp] theorem State.setTeam_tlb2 : (s.setTeam k v).tlb2 = s.tlb2 := rfl
@[simp] theorem State.setTeam_wcache : (s.setTeam k v).wcache = s.wcache := rfl
@[simp] theorem State.setTeam_inbox : (s.setTeam k v).inbox = s.inbox := rfl
@[simp] theorem State.setTeam_mem : (s.setTeam k v).mem = s.mem := rfl
@[simp] theorem State.setTeam_claims : (s.setTeam k v).claims = s.claims := rfl
@[simp] theorem State.setTeam_bias : (s.setTeam k v).bias = s.bias := rfl
@[simp] theorem State.setTeam_dir : (s.setTeam k v).dir = s.dir := rfl
@[simp] theorem State.setTeam_replicas : (s.setTeam k v).replicas = s.replicas := rfl
@[simp] theorem State.setTeam_stale : (s.setTeam k v).stale = s.stale := rfl
@[simp] theorem State.setTeam_ucopies : (s.setTeam k v).ucopies = s.ucopies := rfl
@[simp] theorem State.setTeam_frames : (s.setTeam k v).frames = s.frames := rfl
@[simp] theorem State.setTeam_poison : (s.setTeam k v).poison = s.poison := rfl
@[simp] theorem State.setTeam_sectorKey : (s.setTeam k v).sectorKey = s.sectorKey := rfl
@[simp] theorem State.setTeam_notDurable : (s.setTeam k v).notDurable = s.notDurable := rfl
@[simp] theorem State.setTeam_heldReqs : (s.setTeam k v).heldReqs = s.heldReqs := rfl
@[simp] theorem State.setTeam_ecc : (s.setTeam k v).ecc = s.ecc := rfl
@[simp] theorem State.setTeam_ops : (s.setTeam k v).ops = s.ops := rfl
@[simp] theorem State.setTeam_accs : (s.setTeam k v).accs = s.accs := rfl
@[simp] theorem State.setTeam_copies : (s.setTeam k v).copies = s.copies := rfl
@[simp] theorem State.setTeam_quar : (s.setTeam k v).quar = s.quar := rfl
@[simp] theorem State.setTeam_sets : (s.setTeam k v).sets = s.sets := rfl
@[simp] theorem State.setTeam_batches : (s.setTeam k v).batches = s.batches := rfl
@[simp] theorem State.setTeam_requests : (s.setTeam k v).requests = s.requests := rfl
@[simp] theorem State.setTeam_rejected : (s.setTeam k v).rejected = s.rejected := rfl
@[simp] theorem State.setTeam_monitors : (s.setTeam k v).monitors = s.monitors := rfl
@[simp] theorem State.setTeam_wft : (s.setTeam k v).wft = s.wft := rfl
@[simp] theorem State.setTeam_decls : (s.setTeam k v).decls = s.decls := rfl
@[simp] theorem State.setTeam_accepted : (s.setTeam k v).accepted = s.accepted := rfl
@[simp] theorem State.setTeam_lastCycle : (s.setTeam k v).lastCycle = s.lastCycle := rfl
@[simp] theorem State.setTeam_lastWaits : (s.setTeam k v).lastWaits = s.lastWaits := rfl
@[simp] theorem State.setTeam_nextWalk : (s.setTeam k v).nextWalk = s.nextWalk := rfl
@[simp] theorem State.setTeam_acc : (s.setTeam k v).acc = s.acc := rfl
@[simp] theorem State.setTeam_accPoison : (s.setTeam k v).accPoison = s.accPoison := rfl
@[simp] theorem State.setTeam_mreqs : (s.setTeam k v).mreqs = s.mreqs := rfl
@[simp] theorem State.setTeam_marl : (s.setTeam k v).marl = s.marl := rfl
end

/-! ## modTeam -/

section
variable (s : State) (k : Nat) (f : Team → Team)
@[simp] theorem State.modTeam_clk : (s.modTeam k f).clk = s.clk := rfl
@[simp] theorem State.modTeam_wall : (s.modTeam k f).wall = s.wall := rfl
@[simp] theorem State.modTeam_powered : (s.modTeam k f).powered = s.powered := rfl
@[simp] theorem State.modTeam_inputs : (s.modTeam k f).inputs = s.inputs := rfl
@[simp] theorem State.modTeam_subj : (s.modTeam k f).subj = s.subj := rfl
@[simp] theorem State.modTeam_waiting : (s.modTeam k f).waiting = s.waiting := rfl
@[simp] theorem State.modTeam_issue : (s.modTeam k f).issue = s.issue := rfl
@[simp] theorem State.modTeam_held : (s.modTeam k f).held = s.held := rfl
@[simp] theorem State.modTeam_freeCount : (s.modTeam k f).freeCount = s.freeCount := rfl
@[simp] theorem State.modTeam_nextId : (s.modTeam k f).nextId = s.nextId := rfl
@[simp] theorem State.modTeam_hostData : (s.modTeam k f).hostData = s.hostData := rfl
@[simp] theorem State.modTeam_msix : (s.modTeam k f).msix = s.msix := rfl
@[simp] theorem State.modTeam_msiWait : (s.modTeam k f).msiWait = s.msiWait := rfl
@[simp] theorem State.modTeam_boot : (s.modTeam k f).boot = s.boot := rfl
@[simp] theorem State.modTeam_funcs : (s.modTeam k f).funcs = s.funcs := rfl
@[simp] theorem State.modTeam_dev : (s.modTeam k f).dev = s.dev := rfl
@[simp] theorem State.modTeam_ctxs : (s.modTeam k f).ctxs = s.ctxs := rfl
@[simp] theorem State.modTeam_launches : (s.modTeam k f).launches = s.launches := rfl
@[simp] theorem State.modTeam_outst : (s.modTeam k f).outst = s.outst := rfl
@[simp] theorem State.modTeam_clusters : (s.modTeam k f).clusters = s.clusters := rfl
@[simp] theorem State.modTeam_cores : (s.modTeam k f).cores = s.cores := rfl
@[simp] theorem State.modTeam_groups : (s.modTeam k f).groups = s.groups := rfl
@[simp] theorem State.modTeam_threads : (s.modTeam k f).threads = s.threads := rfl
@[simp] theorem State.modTeam_lines : (s.modTeam k f).lines = s.lines := rfl
@[simp] theorem State.modTeam_tlb2 : (s.modTeam k f).tlb2 = s.tlb2 := rfl
@[simp] theorem State.modTeam_wcache : (s.modTeam k f).wcache = s.wcache := rfl
@[simp] theorem State.modTeam_inbox : (s.modTeam k f).inbox = s.inbox := rfl
@[simp] theorem State.modTeam_mem : (s.modTeam k f).mem = s.mem := rfl
@[simp] theorem State.modTeam_claims : (s.modTeam k f).claims = s.claims := rfl
@[simp] theorem State.modTeam_bias : (s.modTeam k f).bias = s.bias := rfl
@[simp] theorem State.modTeam_dir : (s.modTeam k f).dir = s.dir := rfl
@[simp] theorem State.modTeam_replicas : (s.modTeam k f).replicas = s.replicas := rfl
@[simp] theorem State.modTeam_stale : (s.modTeam k f).stale = s.stale := rfl
@[simp] theorem State.modTeam_ucopies : (s.modTeam k f).ucopies = s.ucopies := rfl
@[simp] theorem State.modTeam_frames : (s.modTeam k f).frames = s.frames := rfl
@[simp] theorem State.modTeam_poison : (s.modTeam k f).poison = s.poison := rfl
@[simp] theorem State.modTeam_sectorKey : (s.modTeam k f).sectorKey = s.sectorKey := rfl
@[simp] theorem State.modTeam_notDurable : (s.modTeam k f).notDurable = s.notDurable := rfl
@[simp] theorem State.modTeam_heldReqs : (s.modTeam k f).heldReqs = s.heldReqs := rfl
@[simp] theorem State.modTeam_ecc : (s.modTeam k f).ecc = s.ecc := rfl
@[simp] theorem State.modTeam_ops : (s.modTeam k f).ops = s.ops := rfl
@[simp] theorem State.modTeam_accs : (s.modTeam k f).accs = s.accs := rfl
@[simp] theorem State.modTeam_copies : (s.modTeam k f).copies = s.copies := rfl
@[simp] theorem State.modTeam_quar : (s.modTeam k f).quar = s.quar := rfl
@[simp] theorem State.modTeam_sets : (s.modTeam k f).sets = s.sets := rfl
@[simp] theorem State.modTeam_batches : (s.modTeam k f).batches = s.batches := rfl
@[simp] theorem State.modTeam_requests : (s.modTeam k f).requests = s.requests := rfl
@[simp] theorem State.modTeam_rejected : (s.modTeam k f).rejected = s.rejected := rfl
@[simp] theorem State.modTeam_monitors : (s.modTeam k f).monitors = s.monitors := rfl
@[simp] theorem State.modTeam_wft : (s.modTeam k f).wft = s.wft := rfl
@[simp] theorem State.modTeam_decls : (s.modTeam k f).decls = s.decls := rfl
@[simp] theorem State.modTeam_accepted : (s.modTeam k f).accepted = s.accepted := rfl
@[simp] theorem State.modTeam_lastCycle : (s.modTeam k f).lastCycle = s.lastCycle := rfl
@[simp] theorem State.modTeam_lastWaits : (s.modTeam k f).lastWaits = s.lastWaits := rfl
@[simp] theorem State.modTeam_nextWalk : (s.modTeam k f).nextWalk = s.nextWalk := rfl
@[simp] theorem State.modTeam_acc : (s.modTeam k f).acc = s.acc := rfl
@[simp] theorem State.modTeam_accPoison : (s.modTeam k f).accPoison = s.accPoison := rfl
@[simp] theorem State.modTeam_mreqs : (s.modTeam k f).mreqs = s.mreqs := rfl
@[simp] theorem State.modTeam_marl : (s.modTeam k f).marl = s.marl := rfl
end

/-! ## setCore -/

section
variable (s : State) (c : Nat) (v : Core)
@[simp] theorem State.setCore_clk : (s.setCore c v).clk = s.clk := rfl
@[simp] theorem State.setCore_wall : (s.setCore c v).wall = s.wall := rfl
@[simp] theorem State.setCore_powered : (s.setCore c v).powered = s.powered := rfl
@[simp] theorem State.setCore_inputs : (s.setCore c v).inputs = s.inputs := rfl
@[simp] theorem State.setCore_subj : (s.setCore c v).subj = s.subj := rfl
@[simp] theorem State.setCore_waiting : (s.setCore c v).waiting = s.waiting := rfl
@[simp] theorem State.setCore_issue : (s.setCore c v).issue = s.issue := rfl
@[simp] theorem State.setCore_held : (s.setCore c v).held = s.held := rfl
@[simp] theorem State.setCore_freeCount : (s.setCore c v).freeCount = s.freeCount := rfl
@[simp] theorem State.setCore_nextId : (s.setCore c v).nextId = s.nextId := rfl
@[simp] theorem State.setCore_hostData : (s.setCore c v).hostData = s.hostData := rfl
@[simp] theorem State.setCore_msix : (s.setCore c v).msix = s.msix := rfl
@[simp] theorem State.setCore_msiWait : (s.setCore c v).msiWait = s.msiWait := rfl
@[simp] theorem State.setCore_boot : (s.setCore c v).boot = s.boot := rfl
@[simp] theorem State.setCore_funcs : (s.setCore c v).funcs = s.funcs := rfl
@[simp] theorem State.setCore_dev : (s.setCore c v).dev = s.dev := rfl
@[simp] theorem State.setCore_ctxs : (s.setCore c v).ctxs = s.ctxs := rfl
@[simp] theorem State.setCore_launches : (s.setCore c v).launches = s.launches := rfl
@[simp] theorem State.setCore_outst : (s.setCore c v).outst = s.outst := rfl
@[simp] theorem State.setCore_clusters : (s.setCore c v).clusters = s.clusters := rfl
@[simp] theorem State.setCore_teams : (s.setCore c v).teams = s.teams := rfl
@[simp] theorem State.setCore_groups : (s.setCore c v).groups = s.groups := rfl
@[simp] theorem State.setCore_threads : (s.setCore c v).threads = s.threads := rfl
@[simp] theorem State.setCore_lines : (s.setCore c v).lines = s.lines := rfl
@[simp] theorem State.setCore_tlb2 : (s.setCore c v).tlb2 = s.tlb2 := rfl
@[simp] theorem State.setCore_wcache : (s.setCore c v).wcache = s.wcache := rfl
@[simp] theorem State.setCore_inbox : (s.setCore c v).inbox = s.inbox := rfl
@[simp] theorem State.setCore_mem : (s.setCore c v).mem = s.mem := rfl
@[simp] theorem State.setCore_claims : (s.setCore c v).claims = s.claims := rfl
@[simp] theorem State.setCore_bias : (s.setCore c v).bias = s.bias := rfl
@[simp] theorem State.setCore_dir : (s.setCore c v).dir = s.dir := rfl
@[simp] theorem State.setCore_replicas : (s.setCore c v).replicas = s.replicas := rfl
@[simp] theorem State.setCore_stale : (s.setCore c v).stale = s.stale := rfl
@[simp] theorem State.setCore_ucopies : (s.setCore c v).ucopies = s.ucopies := rfl
@[simp] theorem State.setCore_frames : (s.setCore c v).frames = s.frames := rfl
@[simp] theorem State.setCore_poison : (s.setCore c v).poison = s.poison := rfl
@[simp] theorem State.setCore_sectorKey : (s.setCore c v).sectorKey = s.sectorKey := rfl
@[simp] theorem State.setCore_notDurable : (s.setCore c v).notDurable = s.notDurable := rfl
@[simp] theorem State.setCore_heldReqs : (s.setCore c v).heldReqs = s.heldReqs := rfl
@[simp] theorem State.setCore_ecc : (s.setCore c v).ecc = s.ecc := rfl
@[simp] theorem State.setCore_ops : (s.setCore c v).ops = s.ops := rfl
@[simp] theorem State.setCore_accs : (s.setCore c v).accs = s.accs := rfl
@[simp] theorem State.setCore_copies : (s.setCore c v).copies = s.copies := rfl
@[simp] theorem State.setCore_quar : (s.setCore c v).quar = s.quar := rfl
@[simp] theorem State.setCore_sets : (s.setCore c v).sets = s.sets := rfl
@[simp] theorem State.setCore_batches : (s.setCore c v).batches = s.batches := rfl
@[simp] theorem State.setCore_requests : (s.setCore c v).requests = s.requests := rfl
@[simp] theorem State.setCore_rejected : (s.setCore c v).rejected = s.rejected := rfl
@[simp] theorem State.setCore_monitors : (s.setCore c v).monitors = s.monitors := rfl
@[simp] theorem State.setCore_wft : (s.setCore c v).wft = s.wft := rfl
@[simp] theorem State.setCore_decls : (s.setCore c v).decls = s.decls := rfl
@[simp] theorem State.setCore_accepted : (s.setCore c v).accepted = s.accepted := rfl
@[simp] theorem State.setCore_lastCycle : (s.setCore c v).lastCycle = s.lastCycle := rfl
@[simp] theorem State.setCore_lastWaits : (s.setCore c v).lastWaits = s.lastWaits := rfl
@[simp] theorem State.setCore_nextWalk : (s.setCore c v).nextWalk = s.nextWalk := rfl
@[simp] theorem State.setCore_acc : (s.setCore c v).acc = s.acc := rfl
@[simp] theorem State.setCore_accPoison : (s.setCore c v).accPoison = s.accPoison := rfl
@[simp] theorem State.setCore_mreqs : (s.setCore c v).mreqs = s.mreqs := rfl
@[simp] theorem State.setCore_marl : (s.setCore c v).marl = s.marl := rfl
end

/-! ## modCore -/

section
variable (s : State) (c : Nat) (f : Core → Core)
@[simp] theorem State.modCore_clk : (s.modCore c f).clk = s.clk := rfl
@[simp] theorem State.modCore_wall : (s.modCore c f).wall = s.wall := rfl
@[simp] theorem State.modCore_powered : (s.modCore c f).powered = s.powered := rfl
@[simp] theorem State.modCore_inputs : (s.modCore c f).inputs = s.inputs := rfl
@[simp] theorem State.modCore_subj : (s.modCore c f).subj = s.subj := rfl
@[simp] theorem State.modCore_waiting : (s.modCore c f).waiting = s.waiting := rfl
@[simp] theorem State.modCore_issue : (s.modCore c f).issue = s.issue := rfl
@[simp] theorem State.modCore_held : (s.modCore c f).held = s.held := rfl
@[simp] theorem State.modCore_freeCount : (s.modCore c f).freeCount = s.freeCount := rfl
@[simp] theorem State.modCore_nextId : (s.modCore c f).nextId = s.nextId := rfl
@[simp] theorem State.modCore_hostData : (s.modCore c f).hostData = s.hostData := rfl
@[simp] theorem State.modCore_msix : (s.modCore c f).msix = s.msix := rfl
@[simp] theorem State.modCore_msiWait : (s.modCore c f).msiWait = s.msiWait := rfl
@[simp] theorem State.modCore_boot : (s.modCore c f).boot = s.boot := rfl
@[simp] theorem State.modCore_funcs : (s.modCore c f).funcs = s.funcs := rfl
@[simp] theorem State.modCore_dev : (s.modCore c f).dev = s.dev := rfl
@[simp] theorem State.modCore_ctxs : (s.modCore c f).ctxs = s.ctxs := rfl
@[simp] theorem State.modCore_launches : (s.modCore c f).launches = s.launches := rfl
@[simp] theorem State.modCore_outst : (s.modCore c f).outst = s.outst := rfl
@[simp] theorem State.modCore_clusters : (s.modCore c f).clusters = s.clusters := rfl
@[simp] theorem State.modCore_teams : (s.modCore c f).teams = s.teams := rfl
@[simp] theorem State.modCore_groups : (s.modCore c f).groups = s.groups := rfl
@[simp] theorem State.modCore_threads : (s.modCore c f).threads = s.threads := rfl
@[simp] theorem State.modCore_lines : (s.modCore c f).lines = s.lines := rfl
@[simp] theorem State.modCore_tlb2 : (s.modCore c f).tlb2 = s.tlb2 := rfl
@[simp] theorem State.modCore_wcache : (s.modCore c f).wcache = s.wcache := rfl
@[simp] theorem State.modCore_inbox : (s.modCore c f).inbox = s.inbox := rfl
@[simp] theorem State.modCore_mem : (s.modCore c f).mem = s.mem := rfl
@[simp] theorem State.modCore_claims : (s.modCore c f).claims = s.claims := rfl
@[simp] theorem State.modCore_bias : (s.modCore c f).bias = s.bias := rfl
@[simp] theorem State.modCore_dir : (s.modCore c f).dir = s.dir := rfl
@[simp] theorem State.modCore_replicas : (s.modCore c f).replicas = s.replicas := rfl
@[simp] theorem State.modCore_stale : (s.modCore c f).stale = s.stale := rfl
@[simp] theorem State.modCore_ucopies : (s.modCore c f).ucopies = s.ucopies := rfl
@[simp] theorem State.modCore_frames : (s.modCore c f).frames = s.frames := rfl
@[simp] theorem State.modCore_poison : (s.modCore c f).poison = s.poison := rfl
@[simp] theorem State.modCore_sectorKey : (s.modCore c f).sectorKey = s.sectorKey := rfl
@[simp] theorem State.modCore_notDurable : (s.modCore c f).notDurable = s.notDurable := rfl
@[simp] theorem State.modCore_heldReqs : (s.modCore c f).heldReqs = s.heldReqs := rfl
@[simp] theorem State.modCore_ecc : (s.modCore c f).ecc = s.ecc := rfl
@[simp] theorem State.modCore_ops : (s.modCore c f).ops = s.ops := rfl
@[simp] theorem State.modCore_accs : (s.modCore c f).accs = s.accs := rfl
@[simp] theorem State.modCore_copies : (s.modCore c f).copies = s.copies := rfl
@[simp] theorem State.modCore_quar : (s.modCore c f).quar = s.quar := rfl
@[simp] theorem State.modCore_sets : (s.modCore c f).sets = s.sets := rfl
@[simp] theorem State.modCore_batches : (s.modCore c f).batches = s.batches := rfl
@[simp] theorem State.modCore_requests : (s.modCore c f).requests = s.requests := rfl
@[simp] theorem State.modCore_rejected : (s.modCore c f).rejected = s.rejected := rfl
@[simp] theorem State.modCore_monitors : (s.modCore c f).monitors = s.monitors := rfl
@[simp] theorem State.modCore_wft : (s.modCore c f).wft = s.wft := rfl
@[simp] theorem State.modCore_decls : (s.modCore c f).decls = s.decls := rfl
@[simp] theorem State.modCore_accepted : (s.modCore c f).accepted = s.accepted := rfl
@[simp] theorem State.modCore_lastCycle : (s.modCore c f).lastCycle = s.lastCycle := rfl
@[simp] theorem State.modCore_lastWaits : (s.modCore c f).lastWaits = s.lastWaits := rfl
@[simp] theorem State.modCore_nextWalk : (s.modCore c f).nextWalk = s.nextWalk := rfl
@[simp] theorem State.modCore_acc : (s.modCore c f).acc = s.acc := rfl
@[simp] theorem State.modCore_accPoison : (s.modCore c f).accPoison = s.accPoison := rfl
@[simp] theorem State.modCore_mreqs : (s.modCore c f).mreqs = s.mreqs := rfl
@[simp] theorem State.modCore_marl : (s.modCore c f).marl = s.marl := rfl
end

/-! ## setCtx -/

section
variable (s : State) (c : Nat) (v : Ctx)
@[simp] theorem State.setCtx_clk : (s.setCtx c v).clk = s.clk := rfl
@[simp] theorem State.setCtx_wall : (s.setCtx c v).wall = s.wall := rfl
@[simp] theorem State.setCtx_powered : (s.setCtx c v).powered = s.powered := rfl
@[simp] theorem State.setCtx_inputs : (s.setCtx c v).inputs = s.inputs := rfl
@[simp] theorem State.setCtx_subj : (s.setCtx c v).subj = s.subj := rfl
@[simp] theorem State.setCtx_waiting : (s.setCtx c v).waiting = s.waiting := rfl
@[simp] theorem State.setCtx_issue : (s.setCtx c v).issue = s.issue := rfl
@[simp] theorem State.setCtx_held : (s.setCtx c v).held = s.held := rfl
@[simp] theorem State.setCtx_freeCount : (s.setCtx c v).freeCount = s.freeCount := rfl
@[simp] theorem State.setCtx_nextId : (s.setCtx c v).nextId = s.nextId := rfl
@[simp] theorem State.setCtx_hostData : (s.setCtx c v).hostData = s.hostData := rfl
@[simp] theorem State.setCtx_msix : (s.setCtx c v).msix = s.msix := rfl
@[simp] theorem State.setCtx_msiWait : (s.setCtx c v).msiWait = s.msiWait := rfl
@[simp] theorem State.setCtx_boot : (s.setCtx c v).boot = s.boot := rfl
@[simp] theorem State.setCtx_funcs : (s.setCtx c v).funcs = s.funcs := rfl
@[simp] theorem State.setCtx_dev : (s.setCtx c v).dev = s.dev := rfl
@[simp] theorem State.setCtx_launches : (s.setCtx c v).launches = s.launches := rfl
@[simp] theorem State.setCtx_outst : (s.setCtx c v).outst = s.outst := rfl
@[simp] theorem State.setCtx_clusters : (s.setCtx c v).clusters = s.clusters := rfl
@[simp] theorem State.setCtx_cores : (s.setCtx c v).cores = s.cores := rfl
@[simp] theorem State.setCtx_teams : (s.setCtx c v).teams = s.teams := rfl
@[simp] theorem State.setCtx_groups : (s.setCtx c v).groups = s.groups := rfl
@[simp] theorem State.setCtx_threads : (s.setCtx c v).threads = s.threads := rfl
@[simp] theorem State.setCtx_lines : (s.setCtx c v).lines = s.lines := rfl
@[simp] theorem State.setCtx_tlb2 : (s.setCtx c v).tlb2 = s.tlb2 := rfl
@[simp] theorem State.setCtx_wcache : (s.setCtx c v).wcache = s.wcache := rfl
@[simp] theorem State.setCtx_inbox : (s.setCtx c v).inbox = s.inbox := rfl
@[simp] theorem State.setCtx_mem : (s.setCtx c v).mem = s.mem := rfl
@[simp] theorem State.setCtx_claims : (s.setCtx c v).claims = s.claims := rfl
@[simp] theorem State.setCtx_bias : (s.setCtx c v).bias = s.bias := rfl
@[simp] theorem State.setCtx_dir : (s.setCtx c v).dir = s.dir := rfl
@[simp] theorem State.setCtx_replicas : (s.setCtx c v).replicas = s.replicas := rfl
@[simp] theorem State.setCtx_stale : (s.setCtx c v).stale = s.stale := rfl
@[simp] theorem State.setCtx_ucopies : (s.setCtx c v).ucopies = s.ucopies := rfl
@[simp] theorem State.setCtx_frames : (s.setCtx c v).frames = s.frames := rfl
@[simp] theorem State.setCtx_poison : (s.setCtx c v).poison = s.poison := rfl
@[simp] theorem State.setCtx_sectorKey : (s.setCtx c v).sectorKey = s.sectorKey := rfl
@[simp] theorem State.setCtx_notDurable : (s.setCtx c v).notDurable = s.notDurable := rfl
@[simp] theorem State.setCtx_heldReqs : (s.setCtx c v).heldReqs = s.heldReqs := rfl
@[simp] theorem State.setCtx_ecc : (s.setCtx c v).ecc = s.ecc := rfl
@[simp] theorem State.setCtx_ops : (s.setCtx c v).ops = s.ops := rfl
@[simp] theorem State.setCtx_accs : (s.setCtx c v).accs = s.accs := rfl
@[simp] theorem State.setCtx_copies : (s.setCtx c v).copies = s.copies := rfl
@[simp] theorem State.setCtx_quar : (s.setCtx c v).quar = s.quar := rfl
@[simp] theorem State.setCtx_sets : (s.setCtx c v).sets = s.sets := rfl
@[simp] theorem State.setCtx_batches : (s.setCtx c v).batches = s.batches := rfl
@[simp] theorem State.setCtx_requests : (s.setCtx c v).requests = s.requests := rfl
@[simp] theorem State.setCtx_rejected : (s.setCtx c v).rejected = s.rejected := rfl
@[simp] theorem State.setCtx_monitors : (s.setCtx c v).monitors = s.monitors := rfl
@[simp] theorem State.setCtx_wft : (s.setCtx c v).wft = s.wft := rfl
@[simp] theorem State.setCtx_decls : (s.setCtx c v).decls = s.decls := rfl
@[simp] theorem State.setCtx_accepted : (s.setCtx c v).accepted = s.accepted := rfl
@[simp] theorem State.setCtx_lastCycle : (s.setCtx c v).lastCycle = s.lastCycle := rfl
@[simp] theorem State.setCtx_lastWaits : (s.setCtx c v).lastWaits = s.lastWaits := rfl
@[simp] theorem State.setCtx_nextWalk : (s.setCtx c v).nextWalk = s.nextWalk := rfl
@[simp] theorem State.setCtx_acc : (s.setCtx c v).acc = s.acc := rfl
@[simp] theorem State.setCtx_accPoison : (s.setCtx c v).accPoison = s.accPoison := rfl
@[simp] theorem State.setCtx_mreqs : (s.setCtx c v).mreqs = s.mreqs := rfl
@[simp] theorem State.setCtx_marl : (s.setCtx c v).marl = s.marl := rfl
end

/-! ## modCtx -/

section
variable (s : State) (c : Nat) (f : Ctx → Ctx)
@[simp] theorem State.modCtx_clk : (s.modCtx c f).clk = s.clk := rfl
@[simp] theorem State.modCtx_wall : (s.modCtx c f).wall = s.wall := rfl
@[simp] theorem State.modCtx_powered : (s.modCtx c f).powered = s.powered := rfl
@[simp] theorem State.modCtx_inputs : (s.modCtx c f).inputs = s.inputs := rfl
@[simp] theorem State.modCtx_subj : (s.modCtx c f).subj = s.subj := rfl
@[simp] theorem State.modCtx_waiting : (s.modCtx c f).waiting = s.waiting := rfl
@[simp] theorem State.modCtx_issue : (s.modCtx c f).issue = s.issue := rfl
@[simp] theorem State.modCtx_held : (s.modCtx c f).held = s.held := rfl
@[simp] theorem State.modCtx_freeCount : (s.modCtx c f).freeCount = s.freeCount := rfl
@[simp] theorem State.modCtx_nextId : (s.modCtx c f).nextId = s.nextId := rfl
@[simp] theorem State.modCtx_hostData : (s.modCtx c f).hostData = s.hostData := rfl
@[simp] theorem State.modCtx_msix : (s.modCtx c f).msix = s.msix := rfl
@[simp] theorem State.modCtx_msiWait : (s.modCtx c f).msiWait = s.msiWait := rfl
@[simp] theorem State.modCtx_boot : (s.modCtx c f).boot = s.boot := rfl
@[simp] theorem State.modCtx_funcs : (s.modCtx c f).funcs = s.funcs := rfl
@[simp] theorem State.modCtx_dev : (s.modCtx c f).dev = s.dev := rfl
@[simp] theorem State.modCtx_launches : (s.modCtx c f).launches = s.launches := rfl
@[simp] theorem State.modCtx_outst : (s.modCtx c f).outst = s.outst := rfl
@[simp] theorem State.modCtx_clusters : (s.modCtx c f).clusters = s.clusters := rfl
@[simp] theorem State.modCtx_cores : (s.modCtx c f).cores = s.cores := rfl
@[simp] theorem State.modCtx_teams : (s.modCtx c f).teams = s.teams := rfl
@[simp] theorem State.modCtx_groups : (s.modCtx c f).groups = s.groups := rfl
@[simp] theorem State.modCtx_threads : (s.modCtx c f).threads = s.threads := rfl
@[simp] theorem State.modCtx_lines : (s.modCtx c f).lines = s.lines := rfl
@[simp] theorem State.modCtx_tlb2 : (s.modCtx c f).tlb2 = s.tlb2 := rfl
@[simp] theorem State.modCtx_wcache : (s.modCtx c f).wcache = s.wcache := rfl
@[simp] theorem State.modCtx_inbox : (s.modCtx c f).inbox = s.inbox := rfl
@[simp] theorem State.modCtx_mem : (s.modCtx c f).mem = s.mem := rfl
@[simp] theorem State.modCtx_claims : (s.modCtx c f).claims = s.claims := rfl
@[simp] theorem State.modCtx_bias : (s.modCtx c f).bias = s.bias := rfl
@[simp] theorem State.modCtx_dir : (s.modCtx c f).dir = s.dir := rfl
@[simp] theorem State.modCtx_replicas : (s.modCtx c f).replicas = s.replicas := rfl
@[simp] theorem State.modCtx_stale : (s.modCtx c f).stale = s.stale := rfl
@[simp] theorem State.modCtx_ucopies : (s.modCtx c f).ucopies = s.ucopies := rfl
@[simp] theorem State.modCtx_frames : (s.modCtx c f).frames = s.frames := rfl
@[simp] theorem State.modCtx_poison : (s.modCtx c f).poison = s.poison := rfl
@[simp] theorem State.modCtx_sectorKey : (s.modCtx c f).sectorKey = s.sectorKey := rfl
@[simp] theorem State.modCtx_notDurable : (s.modCtx c f).notDurable = s.notDurable := rfl
@[simp] theorem State.modCtx_heldReqs : (s.modCtx c f).heldReqs = s.heldReqs := rfl
@[simp] theorem State.modCtx_ecc : (s.modCtx c f).ecc = s.ecc := rfl
@[simp] theorem State.modCtx_ops : (s.modCtx c f).ops = s.ops := rfl
@[simp] theorem State.modCtx_accs : (s.modCtx c f).accs = s.accs := rfl
@[simp] theorem State.modCtx_copies : (s.modCtx c f).copies = s.copies := rfl
@[simp] theorem State.modCtx_quar : (s.modCtx c f).quar = s.quar := rfl
@[simp] theorem State.modCtx_sets : (s.modCtx c f).sets = s.sets := rfl
@[simp] theorem State.modCtx_batches : (s.modCtx c f).batches = s.batches := rfl
@[simp] theorem State.modCtx_requests : (s.modCtx c f).requests = s.requests := rfl
@[simp] theorem State.modCtx_rejected : (s.modCtx c f).rejected = s.rejected := rfl
@[simp] theorem State.modCtx_monitors : (s.modCtx c f).monitors = s.monitors := rfl
@[simp] theorem State.modCtx_wft : (s.modCtx c f).wft = s.wft := rfl
@[simp] theorem State.modCtx_decls : (s.modCtx c f).decls = s.decls := rfl
@[simp] theorem State.modCtx_accepted : (s.modCtx c f).accepted = s.accepted := rfl
@[simp] theorem State.modCtx_lastCycle : (s.modCtx c f).lastCycle = s.lastCycle := rfl
@[simp] theorem State.modCtx_lastWaits : (s.modCtx c f).lastWaits = s.lastWaits := rfl
@[simp] theorem State.modCtx_nextWalk : (s.modCtx c f).nextWalk = s.nextWalk := rfl
@[simp] theorem State.modCtx_acc : (s.modCtx c f).acc = s.acc := rfl
@[simp] theorem State.modCtx_accPoison : (s.modCtx c f).accPoison = s.accPoison := rfl
@[simp] theorem State.modCtx_mreqs : (s.modCtx c f).mreqs = s.mreqs := rfl
@[simp] theorem State.modCtx_marl : (s.modCtx c f).marl = s.marl := rfl
end

/-! ## setFunc -/

section
variable (s : State) (k : Nat) (v : Func)
@[simp] theorem State.setFunc_clk : (s.setFunc k v).clk = s.clk := rfl
@[simp] theorem State.setFunc_wall : (s.setFunc k v).wall = s.wall := rfl
@[simp] theorem State.setFunc_powered : (s.setFunc k v).powered = s.powered := rfl
@[simp] theorem State.setFunc_inputs : (s.setFunc k v).inputs = s.inputs := rfl
@[simp] theorem State.setFunc_subj : (s.setFunc k v).subj = s.subj := rfl
@[simp] theorem State.setFunc_waiting : (s.setFunc k v).waiting = s.waiting := rfl
@[simp] theorem State.setFunc_issue : (s.setFunc k v).issue = s.issue := rfl
@[simp] theorem State.setFunc_held : (s.setFunc k v).held = s.held := rfl
@[simp] theorem State.setFunc_freeCount : (s.setFunc k v).freeCount = s.freeCount := rfl
@[simp] theorem State.setFunc_nextId : (s.setFunc k v).nextId = s.nextId := rfl
@[simp] theorem State.setFunc_hostData : (s.setFunc k v).hostData = s.hostData := rfl
@[simp] theorem State.setFunc_msix : (s.setFunc k v).msix = s.msix := rfl
@[simp] theorem State.setFunc_msiWait : (s.setFunc k v).msiWait = s.msiWait := rfl
@[simp] theorem State.setFunc_boot : (s.setFunc k v).boot = s.boot := rfl
@[simp] theorem State.setFunc_dev : (s.setFunc k v).dev = s.dev := rfl
@[simp] theorem State.setFunc_ctxs : (s.setFunc k v).ctxs = s.ctxs := rfl
@[simp] theorem State.setFunc_launches : (s.setFunc k v).launches = s.launches := rfl
@[simp] theorem State.setFunc_outst : (s.setFunc k v).outst = s.outst := rfl
@[simp] theorem State.setFunc_clusters : (s.setFunc k v).clusters = s.clusters := rfl
@[simp] theorem State.setFunc_cores : (s.setFunc k v).cores = s.cores := rfl
@[simp] theorem State.setFunc_teams : (s.setFunc k v).teams = s.teams := rfl
@[simp] theorem State.setFunc_groups : (s.setFunc k v).groups = s.groups := rfl
@[simp] theorem State.setFunc_threads : (s.setFunc k v).threads = s.threads := rfl
@[simp] theorem State.setFunc_lines : (s.setFunc k v).lines = s.lines := rfl
@[simp] theorem State.setFunc_tlb2 : (s.setFunc k v).tlb2 = s.tlb2 := rfl
@[simp] theorem State.setFunc_wcache : (s.setFunc k v).wcache = s.wcache := rfl
@[simp] theorem State.setFunc_inbox : (s.setFunc k v).inbox = s.inbox := rfl
@[simp] theorem State.setFunc_mem : (s.setFunc k v).mem = s.mem := rfl
@[simp] theorem State.setFunc_claims : (s.setFunc k v).claims = s.claims := rfl
@[simp] theorem State.setFunc_bias : (s.setFunc k v).bias = s.bias := rfl
@[simp] theorem State.setFunc_dir : (s.setFunc k v).dir = s.dir := rfl
@[simp] theorem State.setFunc_replicas : (s.setFunc k v).replicas = s.replicas := rfl
@[simp] theorem State.setFunc_stale : (s.setFunc k v).stale = s.stale := rfl
@[simp] theorem State.setFunc_ucopies : (s.setFunc k v).ucopies = s.ucopies := rfl
@[simp] theorem State.setFunc_frames : (s.setFunc k v).frames = s.frames := rfl
@[simp] theorem State.setFunc_poison : (s.setFunc k v).poison = s.poison := rfl
@[simp] theorem State.setFunc_sectorKey : (s.setFunc k v).sectorKey = s.sectorKey := rfl
@[simp] theorem State.setFunc_notDurable : (s.setFunc k v).notDurable = s.notDurable := rfl
@[simp] theorem State.setFunc_heldReqs : (s.setFunc k v).heldReqs = s.heldReqs := rfl
@[simp] theorem State.setFunc_ecc : (s.setFunc k v).ecc = s.ecc := rfl
@[simp] theorem State.setFunc_ops : (s.setFunc k v).ops = s.ops := rfl
@[simp] theorem State.setFunc_accs : (s.setFunc k v).accs = s.accs := rfl
@[simp] theorem State.setFunc_copies : (s.setFunc k v).copies = s.copies := rfl
@[simp] theorem State.setFunc_quar : (s.setFunc k v).quar = s.quar := rfl
@[simp] theorem State.setFunc_sets : (s.setFunc k v).sets = s.sets := rfl
@[simp] theorem State.setFunc_batches : (s.setFunc k v).batches = s.batches := rfl
@[simp] theorem State.setFunc_requests : (s.setFunc k v).requests = s.requests := rfl
@[simp] theorem State.setFunc_rejected : (s.setFunc k v).rejected = s.rejected := rfl
@[simp] theorem State.setFunc_monitors : (s.setFunc k v).monitors = s.monitors := rfl
@[simp] theorem State.setFunc_wft : (s.setFunc k v).wft = s.wft := rfl
@[simp] theorem State.setFunc_decls : (s.setFunc k v).decls = s.decls := rfl
@[simp] theorem State.setFunc_accepted : (s.setFunc k v).accepted = s.accepted := rfl
@[simp] theorem State.setFunc_lastCycle : (s.setFunc k v).lastCycle = s.lastCycle := rfl
@[simp] theorem State.setFunc_lastWaits : (s.setFunc k v).lastWaits = s.lastWaits := rfl
@[simp] theorem State.setFunc_nextWalk : (s.setFunc k v).nextWalk = s.nextWalk := rfl
@[simp] theorem State.setFunc_acc : (s.setFunc k v).acc = s.acc := rfl
@[simp] theorem State.setFunc_accPoison : (s.setFunc k v).accPoison = s.accPoison := rfl
@[simp] theorem State.setFunc_mreqs : (s.setFunc k v).mreqs = s.mreqs := rfl
@[simp] theorem State.setFunc_marl : (s.setFunc k v).marl = s.marl := rfl
end

/-! ## modFunc -/

section
variable (s : State) (k : Nat) (f : Func → Func)
@[simp] theorem State.modFunc_clk : (s.modFunc k f).clk = s.clk := rfl
@[simp] theorem State.modFunc_wall : (s.modFunc k f).wall = s.wall := rfl
@[simp] theorem State.modFunc_powered : (s.modFunc k f).powered = s.powered := rfl
@[simp] theorem State.modFunc_inputs : (s.modFunc k f).inputs = s.inputs := rfl
@[simp] theorem State.modFunc_subj : (s.modFunc k f).subj = s.subj := rfl
@[simp] theorem State.modFunc_waiting : (s.modFunc k f).waiting = s.waiting := rfl
@[simp] theorem State.modFunc_issue : (s.modFunc k f).issue = s.issue := rfl
@[simp] theorem State.modFunc_held : (s.modFunc k f).held = s.held := rfl
@[simp] theorem State.modFunc_freeCount : (s.modFunc k f).freeCount = s.freeCount := rfl
@[simp] theorem State.modFunc_nextId : (s.modFunc k f).nextId = s.nextId := rfl
@[simp] theorem State.modFunc_hostData : (s.modFunc k f).hostData = s.hostData := rfl
@[simp] theorem State.modFunc_msix : (s.modFunc k f).msix = s.msix := rfl
@[simp] theorem State.modFunc_msiWait : (s.modFunc k f).msiWait = s.msiWait := rfl
@[simp] theorem State.modFunc_boot : (s.modFunc k f).boot = s.boot := rfl
@[simp] theorem State.modFunc_dev : (s.modFunc k f).dev = s.dev := rfl
@[simp] theorem State.modFunc_ctxs : (s.modFunc k f).ctxs = s.ctxs := rfl
@[simp] theorem State.modFunc_launches : (s.modFunc k f).launches = s.launches := rfl
@[simp] theorem State.modFunc_outst : (s.modFunc k f).outst = s.outst := rfl
@[simp] theorem State.modFunc_clusters : (s.modFunc k f).clusters = s.clusters := rfl
@[simp] theorem State.modFunc_cores : (s.modFunc k f).cores = s.cores := rfl
@[simp] theorem State.modFunc_teams : (s.modFunc k f).teams = s.teams := rfl
@[simp] theorem State.modFunc_groups : (s.modFunc k f).groups = s.groups := rfl
@[simp] theorem State.modFunc_threads : (s.modFunc k f).threads = s.threads := rfl
@[simp] theorem State.modFunc_lines : (s.modFunc k f).lines = s.lines := rfl
@[simp] theorem State.modFunc_tlb2 : (s.modFunc k f).tlb2 = s.tlb2 := rfl
@[simp] theorem State.modFunc_wcache : (s.modFunc k f).wcache = s.wcache := rfl
@[simp] theorem State.modFunc_inbox : (s.modFunc k f).inbox = s.inbox := rfl
@[simp] theorem State.modFunc_mem : (s.modFunc k f).mem = s.mem := rfl
@[simp] theorem State.modFunc_claims : (s.modFunc k f).claims = s.claims := rfl
@[simp] theorem State.modFunc_bias : (s.modFunc k f).bias = s.bias := rfl
@[simp] theorem State.modFunc_dir : (s.modFunc k f).dir = s.dir := rfl
@[simp] theorem State.modFunc_replicas : (s.modFunc k f).replicas = s.replicas := rfl
@[simp] theorem State.modFunc_stale : (s.modFunc k f).stale = s.stale := rfl
@[simp] theorem State.modFunc_ucopies : (s.modFunc k f).ucopies = s.ucopies := rfl
@[simp] theorem State.modFunc_frames : (s.modFunc k f).frames = s.frames := rfl
@[simp] theorem State.modFunc_poison : (s.modFunc k f).poison = s.poison := rfl
@[simp] theorem State.modFunc_sectorKey : (s.modFunc k f).sectorKey = s.sectorKey := rfl
@[simp] theorem State.modFunc_notDurable : (s.modFunc k f).notDurable = s.notDurable := rfl
@[simp] theorem State.modFunc_heldReqs : (s.modFunc k f).heldReqs = s.heldReqs := rfl
@[simp] theorem State.modFunc_ecc : (s.modFunc k f).ecc = s.ecc := rfl
@[simp] theorem State.modFunc_ops : (s.modFunc k f).ops = s.ops := rfl
@[simp] theorem State.modFunc_accs : (s.modFunc k f).accs = s.accs := rfl
@[simp] theorem State.modFunc_copies : (s.modFunc k f).copies = s.copies := rfl
@[simp] theorem State.modFunc_quar : (s.modFunc k f).quar = s.quar := rfl
@[simp] theorem State.modFunc_sets : (s.modFunc k f).sets = s.sets := rfl
@[simp] theorem State.modFunc_batches : (s.modFunc k f).batches = s.batches := rfl
@[simp] theorem State.modFunc_requests : (s.modFunc k f).requests = s.requests := rfl
@[simp] theorem State.modFunc_rejected : (s.modFunc k f).rejected = s.rejected := rfl
@[simp] theorem State.modFunc_monitors : (s.modFunc k f).monitors = s.monitors := rfl
@[simp] theorem State.modFunc_wft : (s.modFunc k f).wft = s.wft := rfl
@[simp] theorem State.modFunc_decls : (s.modFunc k f).decls = s.decls := rfl
@[simp] theorem State.modFunc_accepted : (s.modFunc k f).accepted = s.accepted := rfl
@[simp] theorem State.modFunc_lastCycle : (s.modFunc k f).lastCycle = s.lastCycle := rfl
@[simp] theorem State.modFunc_lastWaits : (s.modFunc k f).lastWaits = s.lastWaits := rfl
@[simp] theorem State.modFunc_nextWalk : (s.modFunc k f).nextWalk = s.nextWalk := rfl
@[simp] theorem State.modFunc_acc : (s.modFunc k f).acc = s.acc := rfl
@[simp] theorem State.modFunc_accPoison : (s.modFunc k f).accPoison = s.accPoison := rfl
@[simp] theorem State.modFunc_mreqs : (s.modFunc k f).mreqs = s.mreqs := rfl
@[simp] theorem State.modFunc_marl : (s.modFunc k f).marl = s.marl := rfl
end

/-! ## modDev -/

section
variable (s : State) (f : Dev → Dev)
@[simp] theorem State.modDev_clk : (s.modDev f).clk = s.clk := rfl
@[simp] theorem State.modDev_wall : (s.modDev f).wall = s.wall := rfl
@[simp] theorem State.modDev_powered : (s.modDev f).powered = s.powered := rfl
@[simp] theorem State.modDev_inputs : (s.modDev f).inputs = s.inputs := rfl
@[simp] theorem State.modDev_subj : (s.modDev f).subj = s.subj := rfl
@[simp] theorem State.modDev_waiting : (s.modDev f).waiting = s.waiting := rfl
@[simp] theorem State.modDev_issue : (s.modDev f).issue = s.issue := rfl
@[simp] theorem State.modDev_held : (s.modDev f).held = s.held := rfl
@[simp] theorem State.modDev_freeCount : (s.modDev f).freeCount = s.freeCount := rfl
@[simp] theorem State.modDev_nextId : (s.modDev f).nextId = s.nextId := rfl
@[simp] theorem State.modDev_hostData : (s.modDev f).hostData = s.hostData := rfl
@[simp] theorem State.modDev_msix : (s.modDev f).msix = s.msix := rfl
@[simp] theorem State.modDev_msiWait : (s.modDev f).msiWait = s.msiWait := rfl
@[simp] theorem State.modDev_boot : (s.modDev f).boot = s.boot := rfl
@[simp] theorem State.modDev_funcs : (s.modDev f).funcs = s.funcs := rfl
@[simp] theorem State.modDev_ctxs : (s.modDev f).ctxs = s.ctxs := rfl
@[simp] theorem State.modDev_launches : (s.modDev f).launches = s.launches := rfl
@[simp] theorem State.modDev_outst : (s.modDev f).outst = s.outst := rfl
@[simp] theorem State.modDev_clusters : (s.modDev f).clusters = s.clusters := rfl
@[simp] theorem State.modDev_cores : (s.modDev f).cores = s.cores := rfl
@[simp] theorem State.modDev_teams : (s.modDev f).teams = s.teams := rfl
@[simp] theorem State.modDev_groups : (s.modDev f).groups = s.groups := rfl
@[simp] theorem State.modDev_threads : (s.modDev f).threads = s.threads := rfl
@[simp] theorem State.modDev_lines : (s.modDev f).lines = s.lines := rfl
@[simp] theorem State.modDev_tlb2 : (s.modDev f).tlb2 = s.tlb2 := rfl
@[simp] theorem State.modDev_wcache : (s.modDev f).wcache = s.wcache := rfl
@[simp] theorem State.modDev_inbox : (s.modDev f).inbox = s.inbox := rfl
@[simp] theorem State.modDev_mem : (s.modDev f).mem = s.mem := rfl
@[simp] theorem State.modDev_claims : (s.modDev f).claims = s.claims := rfl
@[simp] theorem State.modDev_bias : (s.modDev f).bias = s.bias := rfl
@[simp] theorem State.modDev_dir : (s.modDev f).dir = s.dir := rfl
@[simp] theorem State.modDev_replicas : (s.modDev f).replicas = s.replicas := rfl
@[simp] theorem State.modDev_stale : (s.modDev f).stale = s.stale := rfl
@[simp] theorem State.modDev_ucopies : (s.modDev f).ucopies = s.ucopies := rfl
@[simp] theorem State.modDev_frames : (s.modDev f).frames = s.frames := rfl
@[simp] theorem State.modDev_poison : (s.modDev f).poison = s.poison := rfl
@[simp] theorem State.modDev_sectorKey : (s.modDev f).sectorKey = s.sectorKey := rfl
@[simp] theorem State.modDev_notDurable : (s.modDev f).notDurable = s.notDurable := rfl
@[simp] theorem State.modDev_heldReqs : (s.modDev f).heldReqs = s.heldReqs := rfl
@[simp] theorem State.modDev_ecc : (s.modDev f).ecc = s.ecc := rfl
@[simp] theorem State.modDev_ops : (s.modDev f).ops = s.ops := rfl
@[simp] theorem State.modDev_accs : (s.modDev f).accs = s.accs := rfl
@[simp] theorem State.modDev_copies : (s.modDev f).copies = s.copies := rfl
@[simp] theorem State.modDev_quar : (s.modDev f).quar = s.quar := rfl
@[simp] theorem State.modDev_sets : (s.modDev f).sets = s.sets := rfl
@[simp] theorem State.modDev_batches : (s.modDev f).batches = s.batches := rfl
@[simp] theorem State.modDev_requests : (s.modDev f).requests = s.requests := rfl
@[simp] theorem State.modDev_rejected : (s.modDev f).rejected = s.rejected := rfl
@[simp] theorem State.modDev_monitors : (s.modDev f).monitors = s.monitors := rfl
@[simp] theorem State.modDev_wft : (s.modDev f).wft = s.wft := rfl
@[simp] theorem State.modDev_decls : (s.modDev f).decls = s.decls := rfl
@[simp] theorem State.modDev_accepted : (s.modDev f).accepted = s.accepted := rfl
@[simp] theorem State.modDev_lastCycle : (s.modDev f).lastCycle = s.lastCycle := rfl
@[simp] theorem State.modDev_lastWaits : (s.modDev f).lastWaits = s.lastWaits := rfl
@[simp] theorem State.modDev_nextWalk : (s.modDev f).nextWalk = s.nextWalk := rfl
@[simp] theorem State.modDev_acc : (s.modDev f).acc = s.acc := rfl
@[simp] theorem State.modDev_accPoison : (s.modDev f).accPoison = s.accPoison := rfl
@[simp] theorem State.modDev_mreqs : (s.modDev f).mreqs = s.mreqs := rfl
@[simp] theorem State.modDev_marl : (s.modDev f).marl = s.marl := rfl
end

/-! ## modBoot -/

section
variable (s : State) (f : Boot → Boot)
@[simp] theorem State.modBoot_clk : (s.modBoot f).clk = s.clk := rfl
@[simp] theorem State.modBoot_wall : (s.modBoot f).wall = s.wall := rfl
@[simp] theorem State.modBoot_powered : (s.modBoot f).powered = s.powered := rfl
@[simp] theorem State.modBoot_inputs : (s.modBoot f).inputs = s.inputs := rfl
@[simp] theorem State.modBoot_subj : (s.modBoot f).subj = s.subj := rfl
@[simp] theorem State.modBoot_waiting : (s.modBoot f).waiting = s.waiting := rfl
@[simp] theorem State.modBoot_issue : (s.modBoot f).issue = s.issue := rfl
@[simp] theorem State.modBoot_held : (s.modBoot f).held = s.held := rfl
@[simp] theorem State.modBoot_freeCount : (s.modBoot f).freeCount = s.freeCount := rfl
@[simp] theorem State.modBoot_nextId : (s.modBoot f).nextId = s.nextId := rfl
@[simp] theorem State.modBoot_hostData : (s.modBoot f).hostData = s.hostData := rfl
@[simp] theorem State.modBoot_msix : (s.modBoot f).msix = s.msix := rfl
@[simp] theorem State.modBoot_msiWait : (s.modBoot f).msiWait = s.msiWait := rfl
@[simp] theorem State.modBoot_funcs : (s.modBoot f).funcs = s.funcs := rfl
@[simp] theorem State.modBoot_dev : (s.modBoot f).dev = s.dev := rfl
@[simp] theorem State.modBoot_ctxs : (s.modBoot f).ctxs = s.ctxs := rfl
@[simp] theorem State.modBoot_launches : (s.modBoot f).launches = s.launches := rfl
@[simp] theorem State.modBoot_outst : (s.modBoot f).outst = s.outst := rfl
@[simp] theorem State.modBoot_clusters : (s.modBoot f).clusters = s.clusters := rfl
@[simp] theorem State.modBoot_cores : (s.modBoot f).cores = s.cores := rfl
@[simp] theorem State.modBoot_teams : (s.modBoot f).teams = s.teams := rfl
@[simp] theorem State.modBoot_groups : (s.modBoot f).groups = s.groups := rfl
@[simp] theorem State.modBoot_threads : (s.modBoot f).threads = s.threads := rfl
@[simp] theorem State.modBoot_lines : (s.modBoot f).lines = s.lines := rfl
@[simp] theorem State.modBoot_tlb2 : (s.modBoot f).tlb2 = s.tlb2 := rfl
@[simp] theorem State.modBoot_wcache : (s.modBoot f).wcache = s.wcache := rfl
@[simp] theorem State.modBoot_inbox : (s.modBoot f).inbox = s.inbox := rfl
@[simp] theorem State.modBoot_mem : (s.modBoot f).mem = s.mem := rfl
@[simp] theorem State.modBoot_claims : (s.modBoot f).claims = s.claims := rfl
@[simp] theorem State.modBoot_bias : (s.modBoot f).bias = s.bias := rfl
@[simp] theorem State.modBoot_dir : (s.modBoot f).dir = s.dir := rfl
@[simp] theorem State.modBoot_replicas : (s.modBoot f).replicas = s.replicas := rfl
@[simp] theorem State.modBoot_stale : (s.modBoot f).stale = s.stale := rfl
@[simp] theorem State.modBoot_ucopies : (s.modBoot f).ucopies = s.ucopies := rfl
@[simp] theorem State.modBoot_frames : (s.modBoot f).frames = s.frames := rfl
@[simp] theorem State.modBoot_poison : (s.modBoot f).poison = s.poison := rfl
@[simp] theorem State.modBoot_sectorKey : (s.modBoot f).sectorKey = s.sectorKey := rfl
@[simp] theorem State.modBoot_notDurable : (s.modBoot f).notDurable = s.notDurable := rfl
@[simp] theorem State.modBoot_heldReqs : (s.modBoot f).heldReqs = s.heldReqs := rfl
@[simp] theorem State.modBoot_ecc : (s.modBoot f).ecc = s.ecc := rfl
@[simp] theorem State.modBoot_ops : (s.modBoot f).ops = s.ops := rfl
@[simp] theorem State.modBoot_accs : (s.modBoot f).accs = s.accs := rfl
@[simp] theorem State.modBoot_copies : (s.modBoot f).copies = s.copies := rfl
@[simp] theorem State.modBoot_quar : (s.modBoot f).quar = s.quar := rfl
@[simp] theorem State.modBoot_sets : (s.modBoot f).sets = s.sets := rfl
@[simp] theorem State.modBoot_batches : (s.modBoot f).batches = s.batches := rfl
@[simp] theorem State.modBoot_requests : (s.modBoot f).requests = s.requests := rfl
@[simp] theorem State.modBoot_rejected : (s.modBoot f).rejected = s.rejected := rfl
@[simp] theorem State.modBoot_monitors : (s.modBoot f).monitors = s.monitors := rfl
@[simp] theorem State.modBoot_wft : (s.modBoot f).wft = s.wft := rfl
@[simp] theorem State.modBoot_decls : (s.modBoot f).decls = s.decls := rfl
@[simp] theorem State.modBoot_accepted : (s.modBoot f).accepted = s.accepted := rfl
@[simp] theorem State.modBoot_lastCycle : (s.modBoot f).lastCycle = s.lastCycle := rfl
@[simp] theorem State.modBoot_lastWaits : (s.modBoot f).lastWaits = s.lastWaits := rfl
@[simp] theorem State.modBoot_nextWalk : (s.modBoot f).nextWalk = s.nextWalk := rfl
@[simp] theorem State.modBoot_acc : (s.modBoot f).acc = s.acc := rfl
@[simp] theorem State.modBoot_accPoison : (s.modBoot f).accPoison = s.accPoison := rfl
@[simp] theorem State.modBoot_mreqs : (s.modBoot f).mreqs = s.mreqs := rfl
@[simp] theorem State.modBoot_marl : (s.modBoot f).marl = s.marl := rfl
end

/-! ## setByte -/

section
variable (s : State) (a : Nat) (b : Byte)
@[simp] theorem State.setByte_clk : (s.setByte a b).clk = s.clk := rfl
@[simp] theorem State.setByte_wall : (s.setByte a b).wall = s.wall := rfl
@[simp] theorem State.setByte_powered : (s.setByte a b).powered = s.powered := rfl
@[simp] theorem State.setByte_inputs : (s.setByte a b).inputs = s.inputs := rfl
@[simp] theorem State.setByte_subj : (s.setByte a b).subj = s.subj := rfl
@[simp] theorem State.setByte_waiting : (s.setByte a b).waiting = s.waiting := rfl
@[simp] theorem State.setByte_issue : (s.setByte a b).issue = s.issue := rfl
@[simp] theorem State.setByte_held : (s.setByte a b).held = s.held := rfl
@[simp] theorem State.setByte_freeCount : (s.setByte a b).freeCount = s.freeCount := rfl
@[simp] theorem State.setByte_nextId : (s.setByte a b).nextId = s.nextId := rfl
@[simp] theorem State.setByte_hostData : (s.setByte a b).hostData = s.hostData := rfl
@[simp] theorem State.setByte_msix : (s.setByte a b).msix = s.msix := rfl
@[simp] theorem State.setByte_msiWait : (s.setByte a b).msiWait = s.msiWait := rfl
@[simp] theorem State.setByte_boot : (s.setByte a b).boot = s.boot := rfl
@[simp] theorem State.setByte_funcs : (s.setByte a b).funcs = s.funcs := rfl
@[simp] theorem State.setByte_dev : (s.setByte a b).dev = s.dev := rfl
@[simp] theorem State.setByte_ctxs : (s.setByte a b).ctxs = s.ctxs := rfl
@[simp] theorem State.setByte_launches : (s.setByte a b).launches = s.launches := rfl
@[simp] theorem State.setByte_outst : (s.setByte a b).outst = s.outst := rfl
@[simp] theorem State.setByte_clusters : (s.setByte a b).clusters = s.clusters := rfl
@[simp] theorem State.setByte_cores : (s.setByte a b).cores = s.cores := rfl
@[simp] theorem State.setByte_teams : (s.setByte a b).teams = s.teams := rfl
@[simp] theorem State.setByte_groups : (s.setByte a b).groups = s.groups := rfl
@[simp] theorem State.setByte_threads : (s.setByte a b).threads = s.threads := rfl
@[simp] theorem State.setByte_lines : (s.setByte a b).lines = s.lines := rfl
@[simp] theorem State.setByte_tlb2 : (s.setByte a b).tlb2 = s.tlb2 := rfl
@[simp] theorem State.setByte_wcache : (s.setByte a b).wcache = s.wcache := rfl
@[simp] theorem State.setByte_inbox : (s.setByte a b).inbox = s.inbox := rfl
@[simp] theorem State.setByte_claims : (s.setByte a b).claims = s.claims := rfl
@[simp] theorem State.setByte_bias : (s.setByte a b).bias = s.bias := rfl
@[simp] theorem State.setByte_dir : (s.setByte a b).dir = s.dir := rfl
@[simp] theorem State.setByte_replicas : (s.setByte a b).replicas = s.replicas := rfl
@[simp] theorem State.setByte_stale : (s.setByte a b).stale = s.stale := rfl
@[simp] theorem State.setByte_ucopies : (s.setByte a b).ucopies = s.ucopies := rfl
@[simp] theorem State.setByte_frames : (s.setByte a b).frames = s.frames := rfl
@[simp] theorem State.setByte_poison : (s.setByte a b).poison = s.poison := rfl
@[simp] theorem State.setByte_sectorKey : (s.setByte a b).sectorKey = s.sectorKey := rfl
@[simp] theorem State.setByte_notDurable : (s.setByte a b).notDurable = s.notDurable := rfl
@[simp] theorem State.setByte_heldReqs : (s.setByte a b).heldReqs = s.heldReqs := rfl
@[simp] theorem State.setByte_ecc : (s.setByte a b).ecc = s.ecc := rfl
@[simp] theorem State.setByte_ops : (s.setByte a b).ops = s.ops := rfl
@[simp] theorem State.setByte_accs : (s.setByte a b).accs = s.accs := rfl
@[simp] theorem State.setByte_copies : (s.setByte a b).copies = s.copies := rfl
@[simp] theorem State.setByte_quar : (s.setByte a b).quar = s.quar := rfl
@[simp] theorem State.setByte_sets : (s.setByte a b).sets = s.sets := rfl
@[simp] theorem State.setByte_batches : (s.setByte a b).batches = s.batches := rfl
@[simp] theorem State.setByte_requests : (s.setByte a b).requests = s.requests := rfl
@[simp] theorem State.setByte_rejected : (s.setByte a b).rejected = s.rejected := rfl
@[simp] theorem State.setByte_monitors : (s.setByte a b).monitors = s.monitors := rfl
@[simp] theorem State.setByte_wft : (s.setByte a b).wft = s.wft := rfl
@[simp] theorem State.setByte_decls : (s.setByte a b).decls = s.decls := rfl
@[simp] theorem State.setByte_accepted : (s.setByte a b).accepted = s.accepted := rfl
@[simp] theorem State.setByte_lastCycle : (s.setByte a b).lastCycle = s.lastCycle := rfl
@[simp] theorem State.setByte_lastWaits : (s.setByte a b).lastWaits = s.lastWaits := rfl
@[simp] theorem State.setByte_nextWalk : (s.setByte a b).nextWalk = s.nextWalk := rfl
@[simp] theorem State.setByte_acc : (s.setByte a b).acc = s.acc := rfl
@[simp] theorem State.setByte_accPoison : (s.setByte a b).accPoison = s.accPoison := rfl
@[simp] theorem State.setByte_mreqs : (s.setByte a b).mreqs = s.mreqs := rfl
@[simp] theorem State.setByte_marl : (s.setByte a b).marl = s.marl := rfl
end

/-! ## What a reader of the changed table finds -/

theorem State.thread_setThread (s : State) (t u : Nat) (v : Thread) :
    (s.setThread t v).thread u = if u = t then v else s.thread u := Tab.at_put _ _ _ _ _
@[simp] theorem State.thread_setThread_same (s : State) (t : Nat) (v : Thread) : (s.setThread t v).thread t = v :=
  Tab.at_put_same _ _ _ _
theorem State.thread_modThread (s : State) (t u : Nat) (f : Thread → Thread) :
    (s.modThread t f).thread u = if u = t then f (s.thread t) else s.thread u := Tab.at_put _ _ _ _ _
@[simp] theorem State.thread_modThread_same (s : State) (t : Nat) (f : Thread → Thread) :
    (s.modThread t f).thread t = f (s.thread t) := Tab.at_put_same _ _ _ _

theorem State.group_setGroup (s : State) (g u : Nat) (v : Group) :
    (s.setGroup g v).group u = if u = g then v else s.group u := Tab.at_put _ _ _ _ _
@[simp] theorem State.group_setGroup_same (s : State) (g : Nat) (v : Group) : (s.setGroup g v).group g = v :=
  Tab.at_put_same _ _ _ _
theorem State.group_modGroup (s : State) (g u : Nat) (f : Group → Group) :
    (s.modGroup g f).group u = if u = g then f (s.group g) else s.group u := Tab.at_put _ _ _ _ _
@[simp] theorem State.group_modGroup_same (s : State) (g : Nat) (f : Group → Group) :
    (s.modGroup g f).group g = f (s.group g) := Tab.at_put_same _ _ _ _

theorem State.team_setTeam (s : State) (k u : Nat) (v : Team) :
    (s.setTeam k v).team u = if u = k then v else s.team u := Tab.at_put _ _ _ _ _
@[simp] theorem State.team_setTeam_same (s : State) (k : Nat) (v : Team) : (s.setTeam k v).team k = v :=
  Tab.at_put_same _ _ _ _
theorem State.team_modTeam (s : State) (k u : Nat) (f : Team → Team) :
    (s.modTeam k f).team u = if u = k then f (s.team k) else s.team u := Tab.at_put _ _ _ _ _
@[simp] theorem State.team_modTeam_same (s : State) (k : Nat) (f : Team → Team) :
    (s.modTeam k f).team k = f (s.team k) := Tab.at_put_same _ _ _ _

theorem State.core_setCore (s : State) (c u : Nat) (v : Core) :
    (s.setCore c v).core u = if u = c then v else s.core u := Tab.at_put _ _ _ _ _
@[simp] theorem State.core_setCore_same (s : State) (c : Nat) (v : Core) : (s.setCore c v).core c = v :=
  Tab.at_put_same _ _ _ _
theorem State.core_modCore (s : State) (c u : Nat) (f : Core → Core) :
    (s.modCore c f).core u = if u = c then f (s.core c) else s.core u := Tab.at_put _ _ _ _ _
@[simp] theorem State.core_modCore_same (s : State) (c : Nat) (f : Core → Core) :
    (s.modCore c f).core c = f (s.core c) := Tab.at_put_same _ _ _ _

theorem State.ctx_setCtx (s : State) (c u : Nat) (v : Ctx) :
    (s.setCtx c v).ctx u = if u = c then v else s.ctx u := Tab.at_put _ _ _ _ _
@[simp] theorem State.ctx_setCtx_same (s : State) (c : Nat) (v : Ctx) : (s.setCtx c v).ctx c = v :=
  Tab.at_put_same _ _ _ _
theorem State.ctx_modCtx (s : State) (c u : Nat) (f : Ctx → Ctx) :
    (s.modCtx c f).ctx u = if u = c then f (s.ctx c) else s.ctx u := Tab.at_put _ _ _ _ _
@[simp] theorem State.ctx_modCtx_same (s : State) (c : Nat) (f : Ctx → Ctx) :
    (s.modCtx c f).ctx c = f (s.ctx c) := Tab.at_put_same _ _ _ _

theorem State.func_setFunc (s : State) (k u : Nat) (v : Func) :
    (s.setFunc k v).func u = if u = k then v else s.func u := Tab.at_put _ _ _ _ _
@[simp] theorem State.func_setFunc_same (s : State) (k : Nat) (v : Func) : (s.setFunc k v).func k = v :=
  Tab.at_put_same _ _ _ _
theorem State.func_modFunc (s : State) (k u : Nat) (f : Func → Func) :
    (s.modFunc k f).func u = if u = k then f (s.func k) else s.func u := Tab.at_put _ _ _ _ _
@[simp] theorem State.func_modFunc_same (s : State) (k : Nat) (f : Func → Func) :
    (s.modFunc k f).func k = f (s.func k) := Tab.at_put_same _ _ _ _

@[simp] theorem State.modDev_dev (s : State) (f : Dev → Dev) : (s.modDev f).dev = f s.dev := rfl
@[simp] theorem State.modBoot_boot (s : State) (f : Boot → Boot) : (s.modBoot f).boot = f s.boot := rfl

/-! ## Updates in place of records that may be absent -/

/-- A held queue entry changes by `f`; a free one stays free; nothing else changes (R88). -/
theorem State.modLaunch_eq (s : State) (q : Nat) (f : Launch → Launch) :
    s.modLaunch q f = { s with launches := (s.modLaunch q f).launches } ∧
      (s.modLaunch q f).launches.find q = (s.launches.find q).map f ∧
      ∀ j, j ≠ q → (s.modLaunch q f).launches.find j = s.launches.find j := by
  unfold State.modLaunch
  split
  · rename_i l h
    exact ⟨rfl, by simp [h], fun j hj => Tab.find_put_other _ _ _ _ hj⟩
  · rename_i h
    exact ⟨rfl, by simp [h], fun _ _ => rfl⟩

/-- A cluster changes by `f`, if there is one; nothing else changes (R65). -/
theorem State.modCluster_eq (s : State) (k : Nat) (f : Cluster → Cluster) :
    s.modCluster k f = { s with clusters := (s.modCluster k f).clusters } ∧
      (s.modCluster k f).clusters.find k = (s.clusters.find k).map f ∧
      ∀ j, j ≠ k → (s.modCluster k f).clusters.find j = s.clusters.find j := by
  unfold State.modCluster
  split
  · rename_i l h
    exact ⟨rfl, by simp [h], fun j hj => Tab.find_put_other _ _ _ _ hj⟩
  · rename_i h
    exact ⟨rfl, by simp [h], fun _ _ => rfl⟩

end Sys2Proof.Machine
end

