-- ==== Sys2Proof/Laws/Store.lean ====
section
/-! SUPPORT. The memory operations above single bytes: each keeps memory in its canonical form, and each is said once in terms
of the bytes that it changes. -/
namespace Sys2Proof.Machine

/-- Writing bytes changes memory alone. -/
theorem setBytes_eq : ∀ (l : List Byte) (s : State) (a : Nat), s.setBytes a l = { s with mem := (s.setBytes a l).mem } := by
  intro l
  induction l with
  | nil => intro s a; rfl
  | cons b r ih => intro s a; exact (ih (s.setByte a b) (a + 1)).trans rfl

/-- What writing bytes leaves in memory depends on memory alone. -/
theorem setBytes_mem : ∀ (l : List Byte) (s t : State) (a : Nat), t.mem = s.mem → (t.setBytes a l).mem = (s.setBytes a l).mem := by
  intro l
  induction l with
  | nil => intro s t a h; exact h
  | cons b r ih => intro s t a h; exact ih _ _ (a + 1) (by simp only [State.setByte, h])

/-- A store's bytes stand where it puts them; keys, poison, durability and frames are the rest of its effect (R225, R226,
R237). -/
theorem storeBytes_mem (s : State) (loc key : Nat) (persist cached : Bool) (bs : List Byte) :
    (s.storeBytes loc key persist cached bs).mem = (s.setBytes loc bs).mem := by
  unfold State.storeBytes
  apply setBytes_mem
  simp only [State.dirtyFrame, State.cleanSector, State.poisonSector, State.keepOld, State.dropReplicas]
  split <;> split <;> split <;> (try split) <;> (try split) <;> (try split) <;> (try split) <;> rfl

theorem storeBytes_wf (s : State) (loc key : Nat) (persist cached : Bool) (bs : List Byte) (w : Memory.wf s.mem = true) :
    Memory.wf (s.storeBytes loc key persist cached bs).mem = true := by
  rw [storeBytes_mem]
  exact setBytes_wf bs s loc w

theorem writeN_wf (s : State) (a n x : Nat) (w : Memory.wf s.mem = true) : Memory.wf (s.writeN a n x).mem = true :=
  setBytes_wf _ s a w

/-- Entries left out of a canonical list leave a canonical list. -/
theorem memOk_filter (p : Host.Cell → Bool) : ∀ (m : List Host.Cell) (lo : Nat), memOk lo m = true → memOk lo (m.filter p) = true := by
  intro m
  induction m with
  | nil => intro lo h; exact h
  | cons c r ih =>
    obtain ⟨k, b⟩ := c
    intro lo h
    simp only [memOk, Bool.and_eq_true, decide_eq_true_eq, bne_iff_ne, ne_eq] at h
    by_cases hp : p (k, b) = true
    · simp only [List.filter_cons, hp, if_true, memOk, Bool.and_eq_true, decide_eq_true_eq, bne_iff_ne, ne_eq]
      exact ⟨h.1, ih (k + 1) h.2⟩
    · simp only [List.filter_cons, hp]
      exact memOk_mono (by omega) _ (ih (k + 1) h.2)

/-- Clearing a range keeps the canonical form. -/
theorem clearRange_wf (s : State) (lo n : Nat) (w : Memory.wf s.mem = true) : Memory.wf (s.clearRange lo n).mem = true :=
  memOk_filter _ s.mem 0 w

theorem zeroPage_wf (s : State) (base : Nat) (w : Memory.wf s.mem = true) : Memory.wf (s.zeroPage base).mem = true :=
  memOk_filter _ s.mem 0 w

/-- A reset of the module keeps the canonical form (R16). -/
theorem outerBytes_wf (s : State) (w : Memory.wf s.mem = true) : Memory.wf s.outerBytes = true := memOk_filter _ s.mem 0 w

/-- The claim of a home changes memory only where it claims a free page (R209). -/
theorem claim_wf (s : State) (c vpn loc : Nat) (w : Memory.wf s.mem = true) : Memory.wf (s.claim c vpn loc).1.mem = true := by
  unfold State.claim
  dsimp only
  split
  · exact w
  · split
    · exact w
    · exact zeroPage_wf s _ w

/-- The release of claims clears the pages they held (R209, R212). -/
theorem release_wf (s : State) (c vpn n : Nat) (w : Memory.wf s.mem = true) : Memory.wf (s.release c vpn n).mem = true := by
  have h : ∀ (l : List Claim) (t : State), Memory.wf t.mem = true →
      Memory.wf (l.foldl (fun s k => s.zeroPage k.loc) t).mem = true := by
    intro l
    induction l with
    | nil => intro t h; exact h
    | cons k r ih => intro t h; exact ih _ (zeroPage_wf t k.loc h)
  exact h _ s w

end Sys2Proof.Machine
end

