-- ==== Sys2Proof/Tests/Slice0.lean ====
section
/-! SUPPORT. The model's own tests: an ill-formed term for each check of well-formedness, words of the spec and what they
stand for, small steps, and for each statement with hypotheses a state that meets them. -/
namespace Sys2Proof.Tests
open Sys2Proof Sys2Proof.Machine
set_option Elab.async false

/-! ## Well-formedness: an ill-formed term for each check -/

/-- R43: NW with a register, no NW with a latch, no NW with 126, and codes 124, 125, 127 as a destination. -/
theorem test_dst_low_refused : ∀ i ∈ [Instr.iadd 0 1 2 true, .imul 121 1 2 false, .and 126 1 2 false, .fadd 124 1 2 true,
    .dadd 127 1 2 true, .mov 125 1 false, .frcp 119 1 true, .f2i 126 1 false, .hadd2 125 1 2 true], i.wellFormed = false := by decide
theorem test_dst_high_refused : ∀ i ∈ [Instr.bind 0 1 2 true, .acq 126 1 false, .bar 124 1 true, .tbarWait 125 1 2 true,
    .mma 126 1 false, .beam 127 1 true, .call 3 4 true, .vote 126 1 false 0 false, .xop 0 5 0 0 true 0], i.wellFormed = false := by
  decide
/-- R43: IADDI has no NW, so 124, 125 and 127 are no destination; its source is no immediate. -/
theorem test_iaddi_refused : ∀ i ∈ [Instr.iaddi 124 0 0, .iaddi 127 0 0, .iaddi 0 125 0], i.wellFormed = false := by decide
/-- R44, R61: p7 is no destination, and the condition codes end at 5, for floats at 13. -/
theorem test_predicate_refused : ∀ i ∈ [Instr.isetp 7 1 2 0, .isetp 0 1 2 6, .fsetp 7 1 2 0, .fsetp 0 1 2 14, .dsetp 0 1 2 15,
    .plop 7 0 0 0], i.wellFormed = false := by decide
/-- R62: special registers end at 10. -/
theorem test_special_register_refused : (Instr.movs 0 11 false).wellFormed = false := by decide
/-- R45: fields that take registers alone. -/
theorem test_registers_alone_refused : ∀ i ∈ [Instr.ld 124 0 126 0, .lds 126 0 126 0, .atom 125 1 2 0, .atomcas 126 1 2, .bxu 124 0 0,
    .trace 0 127, .tex 125 0 0, .qrc 0 126, .csrr 124 0, .cpy 126 0], i.wellFormed = false := by decide
/-- R45: the per-lane offset is no immediate and no ones. -/
theorem test_offset_refused : ∀ i ∈ [Instr.ld 0 0 125 0, .st 0 0 127 0, .pref 0 125 0, .persist 0 127 0, .atom 0 124 2 0, .red 125 2 0],
    i.wellFormed = false := by decide
/-- R293: an atomic's data are no immediate, and RED has no exchange (operation 6), none beyond 8. -/
theorem test_atomic_refused : ∀ i ∈ [Instr.atom 0 1 125 0, .atom 0 1 2 9, .red 1 2 6, .reds 1 2 9], i.wellFormed = false := by decide
/-- R242: LDK does not load its own base. -/
theorem test_ldk_refused : (Instr.ldk 3 3 0).wellFormed = false := by decide
/-- R267: a transaction barrier's address is not ones, an expected count no constant. -/
theorem test_tbar_refused : ∀ i ∈ [Instr.tbarInit 127 0, .tbarExp 0 126, .tbarExp 0 127, .tbarAck 127], i.wellFormed = false := by decide
/-- R176, R428, R433: pairs, TRAP's block of eight. -/
theorem test_pairs_refused : ∀ i ∈ [Instr.ret 125, .brx 126, .call 0 126 false, .launch 0 127 false, .trap 0 113 0 false,
    .rccfgLoad 0 125 false], i.wellFormed = false := by decide
/-- R55: a branch that is never taken. -/
theorem test_branch_refused : ∀ i ∈ [Instr.bra 7 true false 0, .braD 7 true false 0], i.wellFormed = false := by decide
/-- R51, R54: MOD's reserved codes, and a SRC with no field. -/
theorem test_hints_refused : ∀ i ∈ [Instr.mod 0 false 5 false false 0 0 0 0, .mod 7 true 0 false false 0 0 0 0,
    .mod 0 false 0 false false 7 0 0 0, .mod 0 false 0 false false 0 2 0 0, .mod 0 false 0 false false 0 0 24 0, .src false 0 false 0],
    i.wellFormed = false := by decide
/-- R46, R172: k registers, and a destination that is a source. -/
theorem test_uniform_refused : ∀ i ∈ [Instr.kmov 64 0, .kadd 0 100 1, .kadd 5 5 1, .kaddi 64 0 0, .kand 2 1 2, .kfromv 119 0],
    i.wellFormed = false := by decide
/-- R393: a micro-op's reserved types, widths, conditions, and a branch or loop that goes nowhere. -/
theorem test_micro_refused : ∀ i ∈ [Instr.ufadd 0 0 0 2 0 false, .ufmul 0 0 0 0 5 false, .ufmin 0 0 0 2, .ucvt 0 0 8 0 false 0,
    .ucmp 0 0 0 4 6, .urdv 0 0 0 3, .uwrv 0 0 1, .ubr 0 3 1, .ubr 0 1 0, .ubr 1 0 1, .uloop 0 0 1, .uloop 0 1 0],
    i.wellFormed = false := by decide
/-- R45, R317: BIND's third operand, REL's data, SENDAM's payload, CSRW's value. -/
theorem test_operands_refused : ∀ i ∈ [Instr.bind 0 1 126 false, .unbind 0 1 127 false, .rel 1 125, .sendam 0 2 127 false, .csrw 0 125,
    .waitc 0 1 125 false, .tld 0 127 0 false, .tst 0 127, .tcfg 0 127 false], i.wellFormed = false := by decide

/-! ## Decoding: words written out in the chapters' examples, or from the encoding tables -/

/-- The hints that a run of hint words leaves, and the instruction its last word stands for. -/
def readRun (h : Hints) : List Word → Option Instr
  | [] => none
  | w :: r =>
    match decode h w with
    | .ok (.mod _ _ _ _ _ _ _ _ _) => readRun { h with mod := some (w.extractLsb' 0 24) } r
    | .ok (.src _ _ _ _) => readRun { h with src := some (w.extractLsb' 0 24) } r
    | .ok (.sched _ _) => readRun { h with sched := some (w.extractLsb' 0 24) } r
    | .ok (.ximm x) => readRun (if h.x1.isSome then { h with x2 := some x } else { h with x1 := some x }) r
    | .ok i => some i
    | .error _ => none

/-- Chapter 03: IADD to y0 with NW, IADDI, and a hint of 24 immediate bits. -/
theorem test_decode_integer : readRun {} [0x03C01011#32] = some (.iadd 120 1 0 true) ∧
    readRun {} [0x04080456#32] = some (.iaddi 1 0 0x456) ∧ readRun {} [0xFC000123#32, 0x04080456#32] = some (.iaddi 1 0 0x456) := by
  decide
/-- Chapter 09: ISETP.LT.N32 p1, v3, v4, and an AND with a k operand. -/
theorem test_decode_predicate : readRun {} [0xFDE000E0#32, 0x14803082#32] = some (.isetp 1 3 4 2) ∧
    readRun {} [0x08284FC0#32] = some (.and 5 4 126 false) := by decide
/-- Chapters 03, 10: FFMA with a third source. -/
theorem test_decode_float : readRun {} [0xFE820000#32, 0x40182043#32] = some (.ffma 3 2 2 false) := by decide
/-- Chapter 09: MOV, MOVS, SHFL, MATCH. -/
theorem test_decode_moves : readRun {} [0x102FE002#32] = some (.mov 5 126 false) ∧ readRun {} [0x10000003#32] = some (.movs 0 0 false) ∧
    readRun {} [0xFDE00003#32, 0xFEFD0000#32, 0xDC17F022#32] = some (.shfl 2 127 1 false) ∧
    readRun {} [0xDC4FF0E1#32] = some (.matchVal 9 127 7 false) := by decide
/-- Chapters 03, 07, 09: branches, calls, exits. -/
theorem test_decode_control : readRun {} [0xD17FFFF0#32] = some (.bra 2 true true 0x1FFFF0) ∧
    readRun {} [0xFDE00001#32, 0xD0800010#32] = some (.braD 1 false false 0x10) ∧
    readRun {} [0xFDE00001#32, 0xFC000300#32, 0xD457D001#32] = some (.call 10 125 false) ∧
    readRun {} [0xD400A002#32] = some (.ret 10) ∧ readRun {} [0xD4000003#32] = some .exit ∧ readRun {} [0xD4000005#32] = some .nop := by
  decide
/-- Chapter 12: loads and stores. -/
theorem test_decode_memory : readRun {} [0x80204150#32] = some (.ld 4 2 5 16) ∧ readRun {} [0x804060BA#32] = some (.ld 8 3 2 58) ∧
    readRun {} [0x84080180#32] = some (.st 1 0 6 0) := by decide
/-- Chapter 15: atomics. -/
theorem test_decode_atomics : readRun {} [0xA4607140#32] = some (.atoms 12 7 10 0) ∧ readRun {} [0xA3F0E1F0#32] = some (.red 14 15 0) ∧
    readRun {} [0xA03050E0#32] = some (.atom 6 5 7 0) := by decide
/-- Chapters 13 to 16: barriers, fences, copies, acquire and release. -/
theorem test_decode_barriers : readRun {} [0xAC680006#32] = some (.cbarArv 13 false) ∧ readRun {} [0xAC1FE005#32] = some (.bar 3 126 false) ∧
    readRun {} [0xB3F040D0#32] = some (.cpy 4 6) ∧ readRun {} [0xB7F12FB1#32] = some (.tbarExp 18 125) ∧
    readRun {} [0xB48921A3#32] = some (.tbarWait 17 18 13 false) ∧ readRun {} [0xB7F0F012#32] = some (.tbarAck 15) ∧
    readRun {} [0xAFF7E054#32] = some (.rel 126 2) ∧ readRun {} [0xAC67E003#32] = some (.acq 12 126 false) := by decide
/-- Chapters 17, 18: matrix, rays, texture, radiance. -/
theorem test_decode_engines : readRun {} [0xB8F02004#32] = some (.mma 30 2 false) ∧ readRun {} [0xB8F03005#32] = some (.tact 30 3 false) ∧
    readRun {} [0xB947D542#32] = some (.tld 40 125 42 false) ∧ readRun {} [0xC5418000#32] = some (.trace 40 24) ∧
    readRun {} [0xC4307001#32] = some (.beam 6 7 false) ∧ readRun {} [0xC8E1AFC0#32] = some (.tex 28 26 126) ∧
    readRun {} [0xCE83C000#32] = some (.qrc 80 60) := by decide
/-- Chapters 19, 20: XOP, TRAP, LAUNCH. -/
theorem test_decode_system : readRun {} [0xE0A040C5#32] = some (.xop 0 20 4 6 false 5) ∧
    readRun {} [0xFC000007#32, 0xD8188FA0#32] = some (.trap 3 8 125 false) ∧ readRun {} [0xD8104003#32] = some (.launch 2 4 false) := by
  decide
/-- Chapter 09, R46: a uniform word written from the W3 table: KADD k2, k0, k1 is major 0x3E, dst 2, srcA 0, srcB 1, minor 1. -/
theorem test_decode_uniform : readRun {} [0xF8100021#32] = some (.kadd 2 0 1) := by decide
/-- Chapter 19: micro-ops. -/
theorem test_decode_micro : decodeMicro 0x80210000#32 = some (.urdv 0 1 0 2) ∧ decodeMicro 0xA40C0000#32 = some (.uprobe 0 3 0) ∧
    decodeMicro 0xA10C0000#32 = some (.uld 2 0 3 0) ∧ decodeMicro 0x41A20000#32 = some (.ufadd 3 2 1 0 0 false) ∧
    decodeMicro 0xA98C0000#32 = some (.ust 3 0 3 0) ∧ decodeMicro 0xC8000000#32 = some .uend ∧
    decodeMicro 0xC0380002#32 = some (.ubr 3 2 2) ∧ decodeMicro 0xCC000001#32 = some (.utrap 1) := by decide
/-- R57: the words of all zeros and all ones are ILLEGAL. -/
theorem test_decode_illegal : readRun {} [0#32] = none ∧ readRun {} [0xFFFFFFFF#32] = none := by decide

/-! ## States that meet the premises of the statements -/

/-- The hints that an instruction's form asks for: its MOD, with .F16 for FPACK; a SRC with v4 where it reads a third source and
with KSEL 0 where it reads a k register; for BRA.D a XIMM. -/
def hintsOf (i : Instr) : Hints :=
  let f := formOf (formHints i) i
  let p : BitVec 24 := (if f.third.isSome then 0x840000 else 0) ||| (if f.base then 0x8000 else 0)
  { formHints i with
    src := if p = 0 then none else some p
    mod := match i with
      | .fpack _ _ _ _ => some 0xE00240
      | _ => formMod i
    x1 := match i with
      | .braD _ _ _ _ => some 16
      | _ => none }

/-- The bundle of thread 0 at the word of `i`. -/
def oneOf (i : Instr) : Bundle :=
  { core := 0, threads := [0], runPc := 0, pc := 0, hints := hintsOf i, l0 := 0, l1 := 0, l2 := 0, l3 := 0, inXop := false }

/-- A machine whose thread 0, alone in its team, comes to the word of `i`. -/
def atWord (i : Instr) : State := { State.reset.withFetchWord 32 (encode i).toNat with issue := [oneOf i] }

/-- The same of a supervisor's thread. -/
def atSup (i : Instr) : State := (atWord i).setTeam 0 { Team.reset with kind := .supervisor, bind := probeBind }

/-- What `State.Executes` asks for, as a check that the kernel can run. -/
abbrev Checked (s : State) (b : Bundle) (rest : List Bundle) (i : Instr) : Prop :=
  b.threads ≠ [] ∧ (b.threads.map laneOf).Nodup ∧ (∀ t ∈ b.threads, coreOf t = b.core) ∧ b.core < coreCount ∧
  (∀ t ∈ b.threads, s.ctxOf t = s.bundleCtx b) ∧ i.wellFormed = true ∧ s.issue = b :: rest ∧ s.ecc = [] ∧
  (∀ t ∈ b.threads, s.decodeFail b i t = none) ∧
  (∀ t ∈ b.threads, ((s.thread t).pred (hGpred b.hints) != hGsense b.hints) = true) ∧
  (∀ t ∈ b.threads, (s.thread t).inSet = none) ∧
  (∀ t ∈ b.threads, ∀ n ∈ regsRead b.hints (formOf b.hints i), s.regPoisoned t n = false) ∧ xopIndex i = none

theorem executes_of {s : State} {b : Bundle} {rest : List Bundle} {i : Instr} (h : Checked s b rest i) : s.Executes b rest i := by
  obtain ⟨a1, a2, a3, a4, a5, a6, a7, a8, a9, a10, a11, a12, a13⟩ := h
  exact { inhabited := a1, lanes := a2, core := a3, place := a4, ctx := a5, formed := a6, head := a7, sound := a8, passes := a9,
          guard := a10, fresh := a11, clean := a12, word := fun n => by rw [a13]; exact nofun }

/-- Room for the destination lines, as a check. -/
abbrev Roomy (s : State) (b : Bundle) (f : Form) : Prop :=
  (s.lines.filter (fun l => l.core == b.core)).length + b.threads.length * (regsWritten f).length ≤ lineCapacity

theorem ready_of {f : Instr → State} {l : List Instr}
    (h : ∀ i ∈ l, Checked (f i) (oneOf i) [] i ∧ Roomy (f i) (oneOf i) (formOf (oneOf i).hints i)) :
    ∀ i ∈ l, (f i).Executes (oneOf i) [] i ∧ (f i).Room (oneOf i) (formOf (oneOf i).hints i) :=
  fun i m => ⟨executes_of (h i m).1, .inr (h i m).2⟩

/-- `Checked` alone, for words whose statement asks for no room. -/
theorem execs_of {f : Instr → State} {l : List Instr} (h : ∀ i ∈ l, Checked (f i) (oneOf i) [] i) :
    ∀ i ∈ l, (f i).Executes (oneOf i) [] i := fun i m => executes_of (h i m)

theorem witness_IntegerArithmetic : ∀ i ∈ [Instr.iadd 0 1 2 false, .isub 119 0 119 false, .imul 126 1 2 true, .imulh 120 1 2 true,
    .imad 0 1 2 false, .iabs 0 1 false, .imin 0 1 127 false, .imax 0 1 126 false, .isad 0 1 2 false, .lea 0 2 4 false, .iaddi 0 119 0xFFF],
    (atWord i).Executes (oneOf i) [] i ∧ (atWord i).Room (oneOf i) (formOf (oneOf i).hints i) := ready_of (by decide +kernel)
theorem witness_LogicShiftsAndCounts : ∀ i ∈ [Instr.and 0 1 2 false, .or 0 1 2 false, .xor 0 1 2 false, .andn 0 1 2 false,
    .shl 0 1 2 false, .shr 0 1 127 false, .sar 0 1 2 false, .rot 0 1 2 false, .popc 0 1 false, .clz 0 126 false, .ctz 0 126 false, .brev 0 1 false],
    (atWord i).Executes (oneOf i) [] i ∧ (atWord i).Room (oneOf i) (formOf (oneOf i).hints i) := ready_of (by decide +kernel)
theorem witness_BitFields : ∀ i ∈ [Instr.fshf 0 1 2 false, .bfx 0 1 2 false, .bfi 0 1 2 false, .bperm 0 1 2 false],
    (atWord i).Executes (oneOf i) [] i ∧ (atWord i).Room (oneOf i) (formOf (oneOf i).hints i) := ready_of (by decide +kernel)
theorem witness_Moves : ∀ i ∈ [Instr.sel 0 1 2 false, .mov 0 1 false, .movs 0 0 false, .movs 119 10 false],
    (atWord i).Executes (oneOf i) [] i ∧ (atWord i).Room (oneOf i) (formOf (oneOf i).hints i) := ready_of (by decide +kernel)
theorem witness_Predicates : ∀ i ∈ [Instr.isetp 0 0 1 0, .isetp 6 0 1 5, .plop 0 15 1 7, .fsetp 0 1 2 13, .dsetp 6 2 4 0],
    (atWord i).Executes (oneOf i) [] i := execs_of (by decide +kernel)
theorem witness_FloatArithmetic : ∀ i ∈ [Instr.fadd 0 1 2 false, .fsub 0 1 2 false, .fmul 0 1 2 false, .ffma 0 1 2 false,
    .fmin 0 1 2 false, .fmax 0 1 2 false, .fsqrt 0 1 false, .fclass 0 1 false, .fscale 0 1 2 false, .frnd 0 1 false],
    (atWord i).Executes (oneOf i) [] i ∧ (atWord i).Room (oneOf i) (formOf (oneOf i).hints i) := ready_of (by decide +kernel)
theorem witness_PackedAndDoubleArithmetic : ∀ i ∈ [Instr.hadd2 0 1 2 false, .hmul2 0 1 2 false, .hfma2 0 1 2 false, .hmax2 0 1 2 false,
    .fdp2 0 1 2 false, .dp4a 0 1 2 false, .dadd 0 2 4 false, .dmul 118 2 4 false, .dfma 0 2 6 false, .dmin 0 2 4 false, .dmax 0 2 4 false,
    .drcp 0 2 false, .drsq 0 2 false],
    (atWord i).Executes (oneOf i) [] i ∧ (atWord i).Room (oneOf i) (formOf (oneOf i).hints i) := ready_of (by decide +kernel)
theorem witness_Approximations : ∀ i ∈ [Instr.frcp 0 1 false, .frsq 119 1 false, .fex2 0 1 false, .flg2 0 126 false, .fsin 0 1 false,
    .fcos 0 127 false, .ftanh 126 1 true],
    (atWord i).Executes (oneOf i) [] i ∧ (atWord i).Room (oneOf i) (formOf (oneOf i).hints i) := ready_of (by decide +kernel)
theorem witness_Conversions : ∀ i ∈ [Instr.f2i 0 1 false, .i2f 119 1 false, .f2f 0 126 false, .d2f 0 2 false, .f2d 118 1 false,
    .fpack 0 1 2 false],
    (atWord i).Executes (oneOf i) [] i ∧ (atWord i).Room (oneOf i) (formOf (oneOf i).hints i) := ready_of (by decide +kernel)
theorem witness_UniformInstructions : ∀ i ∈ [Instr.kmov 0 1, .kadd 0 1 2, .kaddi 63 1 127, .kshl 0 1 2, .kand 0 1 126, .kfromv 5 0],
    (atWord i).Executes (oneOf i) [] i := execs_of (by decide +kernel)
theorem witness_BuildHelpers : ∀ i ∈ [Instr.bxu 0 6 12, .bsah 0 6 1, .npack 0 6 12],
    (atWord i).Executes (oneOf i) [] i ∧ (atWord i).Room (oneOf i) (formOf (oneOf i).hints i) := ready_of (by decide +kernel)

/-- Every word that is issued to be checked, in a thread that is no helper. -/
theorem witness_issue_user : ∀ i ∈ [Instr.ld 0 0 1 0, .lds 0 0 1 0, .ldk 1 0 0, .pref 0 1 0, .cflush 0 1 0, .cinv 0 1 0, .persist 0 1 63,
    .st 0 0 1 0, .sts 0 0 1 0, .atom 0 1 2 0, .red 1 2 8, .atoms 0 1 2 8, .reds 1 2 0, .atomcas 0 1 2, .atomscas 0 1 2, .bind 0 1 2 false,
    .unbind 0 1 126 false, .acq 0 1 false, .rel 1 2, .waitc 0 1 2 false, .wdecl 0 1 2 false, .tbarInit 1 2, .tbarExp 1 2, .tbarAck 1,
    .tbarWait 0 1 2 false, .tcfg 0 1 false, .mma 0 1 false, .tact 0 1 false, .tzero 0 1 false, .tld 0 1 2 false, .tst 1 2, .twait 0 1 false,
    .rccfgLoad 0 2 false, .rccfgSave 0 2 false, .launch 0 2 false, .sendam 0 2 4 false, .trace 0 8, .beam 0 1 false, .cov 0 1 false],
    (atWord i).Executes (oneOf i) [] i ∧ (atWord i).NoHelper (oneOf i) ∧ (oneOf i).threads = [0] := by
  have h : ∀ i ∈ [Instr.ld 0 0 1 0, .lds 0 0 1 0, .ldk 1 0 0, .pref 0 1 0, .cflush 0 1 0, .cinv 0 1 0, .persist 0 1 63,
      .st 0 0 1 0, .sts 0 0 1 0, .atom 0 1 2 0, .red 1 2 8, .atoms 0 1 2 8, .reds 1 2 0, .atomcas 0 1 2, .atomscas 0 1 2, .bind 0 1 2 false,
      .unbind 0 1 126 false, .acq 0 1 false, .rel 1 2, .waitc 0 1 2 false, .wdecl 0 1 2 false, .tbarInit 1 2, .tbarExp 1 2, .tbarAck 1,
      .tbarWait 0 1 2 false, .tcfg 0 1 false, .mma 0 1 false, .tact 0 1 false, .tzero 0 1 false, .tld 0 1 2 false, .tst 1 2, .twait 0 1 false,
      .rccfgLoad 0 2 false, .rccfgSave 0 2 false, .launch 0 2 false, .sendam 0 2 4 false, .trace 0 8, .beam 0 1 false, .cov 0 1 false],
      Checked (atWord i) (oneOf i) [] i ∧ ∀ t ∈ (oneOf i).threads, ((atWord i).thread t).helper = false := by decide +kernel
  exact fun i m => ⟨executes_of (h i m).1, (h i m).2, rfl⟩
theorem witness_MemoryAtIssue : ∀ i ∈ [Instr.ld 0 0 1 0, .st 0 0 1 0, .atom 0 1 2 0],
    (atWord i).Executes (oneOf i) [] i ∧ (atWord i).NoHelper (oneOf i) :=
  fun i m => have h := witness_issue_user i (by revert i; decide); ⟨h.1, h.2.1⟩
theorem witness_SynchronisationAtIssue : ∀ i ∈ [Instr.bind 0 1 2 false, .tbarInit 1 2],
    (atWord i).Executes (oneOf i) [] i ∧ (atWord i).NoHelper (oneOf i) :=
  fun i m => have h := witness_issue_user i (by revert i; decide); ⟨h.1, h.2.1⟩
/-- A supervisor's thread, where the instruction is its alone. -/
theorem witness_EnginesAtIssue : (∀ i ∈ [Instr.tcfg 0 1 false, .launch 0 2 false],
    (atWord i).Executes (oneOf i) [] i ∧ (atWord i).NoHelper (oneOf i)) ∧
    ∀ i ∈ [Instr.csload 0 2 false, .rplrun 0 2 false], (atSup i).Executes (oneOf i) [] i ∧ (atSup i).NoHelper (oneOf i) := by
  have k : ∀ i ∈ [Instr.csload 0 2 false, .rplrun 0 2 false], Checked (atSup i) (oneOf i) [] i ∧
      ∀ t ∈ (oneOf i).threads, ((atSup i).thread t).helper = false := by decide +kernel
  exact ⟨fun i m => have h := witness_issue_user i (by revert i; decide); ⟨h.1, h.2.1⟩, fun i m => ⟨executes_of (k i m).1, (k i m).2⟩⟩
theorem witness_WalksAndTexturesAtIssue : (∀ i ∈ [Instr.trace 0 8, .beam 0 1 false, .cov 0 1 false],
    (atWord i).Executes (oneOf i) [] i ∧ (atWord i).NoHelper (oneOf i) ∧ (oneOf i).threads = [0]) ∧
    ∀ i ∈ [Instr.tex 0 4 126, .texg 0 4 126, .texq 0 4 126],
      (atWord i).Executes (oneOf i) [] i ∧ ∀ u ∈ (oneOf i).threads, (atWord i).teamOf u = 0 := by
  have k : ∀ i ∈ [Instr.tex 0 4 126, .texg 0 4 126, .texq 0 4 126], Checked (atWord i) (oneOf i) [] i ∧
      ∀ u ∈ (oneOf i).threads, (atWord i).teamOf u = 0 := by decide +kernel
  exact ⟨fun i m => witness_issue_user i (by revert i; decide), fun i m => ⟨executes_of (k i m).1, (k i m).2⟩⟩

/-- Thread 0 as a helper. -/
def atHelper (i : Instr) : State := (atWord i).modThread 0 (fun x => { x with helper := true })
theorem witness_SuppressedInHelpers : ∀ i ∈ [Instr.st 0 0 1 0, .sts 0 0 1 0, .persist 0 1 63, .atom 0 1 2 0, .red 1 2 8, .atoms 0 1 2 8,
    .reds 1 2 0, .atomcas 0 1 2, .atomscas 0 1 2, .tcfg 0 1 false, .tzero 0 1 false, .tld 0 1 2 false, .tst 1 2, .mma 0 1 false,
    .tact 0 1 false, .launch 0 2 false, .sendam 0 2 4 false, .trace 0 8, .beam 0 1 false, .cov 0 1 false],
    (atHelper i).Executes (oneOf i) [] i ∧ (atHelper i).Room (oneOf i) (formOf (oneOf i).hints i) ∧
      ∀ u ∈ (oneOf i).threads, ((atHelper i).thread u).helper = true := by
  have h : ∀ i ∈ [Instr.st 0 0 1 0, .sts 0 0 1 0, .persist 0 1 63, .atom 0 1 2 0, .red 1 2 8, .atoms 0 1 2 8,
      .reds 1 2 0, .atomcas 0 1 2, .atomscas 0 1 2, .tcfg 0 1 false, .tzero 0 1 false, .tld 0 1 2 false, .tst 1 2, .mma 0 1 false,
      .tact 0 1 false, .launch 0 2 false, .sendam 0 2 4 false, .trace 0 8, .beam 0 1 false, .cov 0 1 false],
      Checked (atHelper i) (oneOf i) [] i ∧ Roomy (atHelper i) (oneOf i) (formOf (oneOf i).hints i) ∧
        ∀ u ∈ (oneOf i).threads, ((atHelper i).thread u).helper = true := by decide +kernel
  exact fun i m => ⟨executes_of (h i m).1, .inr (h i m).2.1, (h i m).2.2⟩

/-! ### Control -/

/-- A run of five hint words is the longest: its last stands 16 bytes on. -/
theorem witness_HintWords : (({ State.reset with issue := [{ oneOf .nop with pc := 16 }] } : State).issue = { oneOf .nop with pc := 16 } :: []) ∧
    (({ oneOf .nop with pc := 16 } : Bundle).pc - ({ oneOf .nop with pc := 16 } : Bundle).runPc).toNat < 20 := by decide

/-- An entry of a reconvergence stack whose join point is the kernel's entry plus 64, where BRA.D's XIMM points. -/
def entryAt (n : Nat) : RsEntry := { join := 16, pending := n, since := none }
/-- Thread 0 at depth `d` of a team whose stack has the given entries. -/
def stacked (i : Instr) (d : Nat) (l : List RsEntry) : State :=
  ((atWord i).modThread 0 (fun x => { x with depth := d })).modTeam 0 (fun m => { m with rstack := l })

/-- BRA of every thread, and one whose offset is the lowest. -/
theorem witness_Branch : ∀ i ∈ [Instr.bra 7 false true 4, .bra 0 true false 0x100000], (atWord i).Executes (oneOf i) [] i :=
  execs_of (by decide +kernel)
/-- BRA.D on an empty stack, on one with one place left, and on one whose entry above the thread has its join point; and with a
join point out of reach. -/
theorem witness_BranchDiverging : (let i := Instr.braD 0 true false 4; (atWord i).Executes (oneOf i) [] i) ∧
    (∀ d ∈ [0, 31], let i := Instr.braD 0 true false 4;
      let s := stacked i d (List.replicate d (entryAt 1));
      s.Executes (oneOf i) [] i ∧ (s.team (s.teamOf 0)).rstack.length = (s.thread 0).depth ∧ (s.thread 0).depth < 32 ∧
        ((((oneOf i).pc.toNat : Int) + 4 * ((oneOf i).hints.x1.getD 0).toInt - (s.team (s.teamOf 0)).bind.entryPc.toNat) / 4 = 16)) ∧
    (let i := Instr.braD 0 true false 4;
      let s := stacked i 0 [entryAt 1];
      s.Executes (oneOf i) [] i ∧ (s.team (s.teamOf 0)).rstack.length = (s.thread 0).depth + 1 ∧
        (s.team (s.teamOf 0)).rstack[(s.thread 0).depth]? = some (entryAt 1)) ∧
    (let i := Instr.braD 0 true false 4;
      let s := (atWord i).modTeam 0 (fun m => { m with bind := { m.bind with entryPc := 0x100000000000 } });
      s.Executes (oneOf i) [] i ∧
        ((((oneOf i).pc.toNat : Int) + 4 * ((oneOf i).hints.x1.getD 0).toInt - (s.team (s.teamOf 0)).bind.entryPc.toNat) / 4 < -(2 ^ 31))) := by
  refine ⟨executes_of (by decide +kernel), ?_, ?_, ?_⟩
  · intro d m
    have h : ∀ d ∈ [0, 31], let i := Instr.braD 0 true false 4;
        let s := stacked i d (List.replicate d (entryAt 1));
        Checked s (oneOf i) [] i ∧ (s.team (s.teamOf 0)).rstack.length = (s.thread 0).depth ∧ (s.thread 0).depth < 32 ∧
        ((((oneOf i).pc.toNat : Int) + 4 * ((oneOf i).hints.x1.getD 0).toInt - (s.team (s.teamOf 0)).bind.entryPc.toNat) / 4 = 16) := by
      decide +kernel
    exact ⟨executes_of (h d m).1, (h d m).2⟩
  · exact ⟨executes_of (by decide +kernel), by decide +kernel, by decide +kernel⟩
  · exact ⟨executes_of (by decide +kernel), by decide +kernel⟩

/-- A JOIN where no entry is, and one at the join point of an entry with two members pending. -/
theorem witness_Join : (let s := atWord .join;
      s.Executes (oneOf .join) [] .join ∧ ∀ u ∈ (oneOf .join).threads, ¬s.atJoin u (oneOf .join).pc) ∧
    (let s := stacked .join 1 [{ join := 0, pending := 2, since := none }];
      s.Executes (oneOf .join) [] .join ∧ s.atJoin 0 (oneOf .join).pc ∧ 0 < (s.thread 0).depth ∧
        (s.team (s.teamOf 0)).rstack.getLast? = some { join := 0, pending := 2, since := none }) := by
  refine ⟨⟨executes_of (by decide +kernel), ?_⟩, executes_of (by decide +kernel), ⟨{ join := 0, pending := 2, since := none }, by decide +kernel, by decide +kernel, by decide +kernel⟩,
    by decide +kernel, by decide +kernel⟩
  intro u m ⟨e, h, _⟩
  obtain rfl : u = 0 := by simpa [oneOf] using m
  have : ((atWord .join).team ((atWord .join).teamOf 0)).rstack.getLast? = none := by decide +kernel
  rw [this] at h
  cases h

/-- Every register reads zero, so the targets are address 0. -/
theorem witness_IndirectBranches : (∀ i ∈ [Instr.ret 2, .brx 2], (atWord i).Executes (oneOf i) [] i ∧
      ∀ u ∈ (oneOf i).threads, ((atWord i).operands (oneOf i).hints u (formOf (oneOf i).hints i)).getD 0 0 % 4 = 0 ∧
        ((atWord i).operands (oneOf i).hints u (formOf (oneOf i).hints i)).getD 0 0 < 2 ^ 57) ∧
    (let i := Instr.call 0 2 false;
      (atWord i).Executes (oneOf i) [] i ∧ (atWord i).Room (oneOf i) (formOf (oneOf i).hints i) ∧
        ((atWord i).operands (oneOf i).hints 0 (formOf (oneOf i).hints i)).getD 0 0 = 0 ∧ xmodBit (oneOf i).hints 0 = false) := by
  have h : ∀ i ∈ [Instr.ret 2, .brx 2], Checked (atWord i) (oneOf i) [] i ∧
      ∀ u ∈ (oneOf i).threads, ((atWord i).operands (oneOf i).hints u (formOf (oneOf i).hints i)).getD 0 0 % 4 = 0 ∧
        ((atWord i).operands (oneOf i).hints u (formOf (oneOf i).hints i)).getD 0 0 < 2 ^ 57 := by decide +kernel
  exact ⟨fun i m => ⟨executes_of (h i m).1, (h i m).2⟩, executes_of (by decide +kernel), .inr (by decide +kernel), by decide +kernel,
    by decide +kernel⟩

/-- Thread 0 beside thread 1 of its group, which has not exited. -/
def withMate (i : Instr) : State := (atWord i).setThread 1 { Thread.reset with tstate := .run }
theorem withMate_alone (i : Instr) (h : i = .exit ∨ i = .exitH) : (withMate i).LeavesAlone (oneOf i) := by
  have hb : ∀ i ∈ [Instr.exit, .exitH], gidOf 1 = gidOf 0 ∧ (withMate i).alive 1 = true ∧ ((withMate i).thread 1).helper = false ∧
      1 ∈ (withMate i).threadsOf ((withMate i).teamOf 0) ∧ (withMate i).clusters = [] ∧ (withMate i).alive 0 = true ∧
      ((withMate i).group (gidOf 0)).rdv = none ∧ ((withMate i).group (gidOf 0)).copyRdv = none ∧
      ((withMate i).group (gidOf 0)).quads = [] ∧ ((withMate i).team ((withMate i).teamOf 0)).rstack = [] ∧
      ((withMate i).team ((withMate i).teamOf 0)).bars = [] ∧ (withMate i).copies = [] ∧ (withMate i).monitors = [] ∧
      (withMate i).wft = [] ∧ (withMate i).accs = [] ∧ (oneOf i).threads = [0] := by decide +kernel
  obtain ⟨h1, h2, h3, h4, h5, h6, h7, h8, h9, h10, h11, h12, h13, h14, h15, h16⟩ := hb i (by rcases h with rfl | rfl <;> simp)
  have one : ∀ u ∈ (oneOf i).threads, u = 0 := by rw [h16]; simp
  refine { stays := ?_, live := ?_, meets := ?_, team := ?_, copies := h12, waits := ⟨h13, h14⟩, flight := ?_ }
  · intro u m
    rw [one u m]
    exact ⟨1, h1, by rw [h16]; decide, h2, h3, h4, fun c hc => by rw [h5] at hc; cases hc⟩
  · intro u m; rw [one u m]; exact h6
  · intro u m; rw [one u m]; exact ⟨h7, h8, h9⟩
  · intro u m; rw [one u m]; exact ⟨h10, h11⟩
  · intro u _ a ha; rw [h15] at ha; cases ha
theorem witness_Exit : ∀ i ∈ [Instr.exit, .exitH], (withMate i).Executes (oneOf i) [] i ∧ (withMate i).NoHelper (oneOf i) ∧
    (withMate i).LeavesAlone (oneOf i) ∧ ∀ u ∈ (oneOf i).threads, (withMate i).isSup u = false := by
  have h : ∀ i ∈ [Instr.exit, .exitH], Checked (withMate i) (oneOf i) [] i ∧ (∀ t ∈ (oneOf i).threads, ((withMate i).thread t).helper = false) ∧
      ∀ u ∈ (oneOf i).threads, (withMate i).isSup u = false := by decide +kernel
  exact fun i m => ⟨executes_of (h i m).1, (h i m).2.1, withMate_alone i (by simpa using m), (h i m).2.2⟩
theorem witness_Yield : (atWord (.yield 0)).Executes (oneOf (.yield 0)) [] (.yield 0) ∧
    ∀ u ∈ (oneOf (.yield 0)).threads, (atWord (.yield 0)).isSup u = false := ⟨executes_of (by decide +kernel), by decide +kernel⟩
theorem witness_NopChangesNothing : (atWord .nop).Executes (oneOf .nop) [] .nop := executes_of (by decide +kernel)

/-! ### Fences, barriers, meetings, copies -/

/-- An access of thread 0 in flight: `i` at location `pa`. -/
def access (kind : AccKind) (i : Instr) (pa n : Nat) : Access :=
  { id := 7, op := 6, runPc := 0, pc := 0, kind := kind, tid := 0, core := 0, ctx := 0, instr := i, hints := formHints i, va := BitVec.ofNat 64 pa,
    pa := pa, size := n, x := 5, y := 0, strong := false, scope := 0, acq := false, rel := false, full := false, binds := [], after := [], launch := none,
    remote := false, leaf := 0 }
/-- FENCE with a store in flight, and with none. -/
theorem witness_Fence : (atWord .fence).Executes (oneOf .fence) [] .fence ∧
    (∀ u ∈ (oneOf .fence).threads, ¬(atWord .fence).inFlight u (hXmod (oneOf .fence).hints)) ∧
    (let s := { atWord .fence with accs := [access .store (.st 0 0 1 0) 0 4] };
      s.Executes (oneOf .fence) [] .fence ∧ ∀ u ∈ (oneOf .fence).threads, s.inFlight u (hXmod (oneOf .fence).hints)) := by
  refine ⟨executes_of (by decide +kernel), fun u _ ⟨a, h, _⟩ => ?_, executes_of (by decide +kernel), fun u m => ?_⟩
  · rw [show (atWord .fence).accs = [] by decide +kernel] at h; cases h
  · obtain rfl : u = 0 := by simpa [oneOf] using m
    exact ⟨_, List.mem_singleton.mpr rfl, rfl, fun h => absurd h (by decide +kernel)⟩

/-- Thread 0 at an instruction whose first operand is the value of a XIMM. -/
def withImm (i : Instr) (x : BitVec 24) : Bundle := { oneOf i with hints := { hintsOf i with x1 := some x } }
/-- That state: alone, or beside thread 1. -/
def atImm (i : Instr) (x : BitVec 24) : State := { atWord i with issue := [withImm i x] }
def atImm2 (i : Instr) (x : BitVec 24) : State := (atImm i x).setThread 1 { Thread.reset with tstate := .run }

theorem no_flight {s : State} (h : s.accs = []) (u k : Nat) : ¬s.inFlight u k := fun ⟨_, m, _⟩ => by rw [h] at m; cases m

theorem threads_one {s : State} {x : Thread} (h : s.threads = [(0, x)]) (w : Nat) : s.thread w = if w = 0 then x else Thread.reset := by
  unfold State.thread
  rw [h]
  by_cases e : w = 0 <;> simp [Tab.at', Tab.find, e]

/-- BAR above its range, at its top with arrivals missing, and with its last arrival: counts 1,025, 1,024 and 1. -/
theorem witness_TeamBarrier : let i := Instr.bar 0 125 false;
    ((atImm i 1025).Executes (withImm i 1025) [] i ∧ (atImm i 1025).Room (withImm i 1025) (formOf (withImm i 1025).hints i) ∧
      (∀ u, ¬(atImm i 1025).inFlight u 0) ∧ ∀ u ∈ (withImm i 1025).threads, 1024 < (atImm i 1025).opnd (withImm i 1025) i u 0) ∧
    ((atImm i 1024).Executes (withImm i 1024) [] i ∧ (∀ u, ¬(atImm i 1024).inFlight u 0) ∧
      (atImm i 1024).opnd (withImm i 1024) i 0 0 = 1024 ∧ (atImm i 1024).alive 0 = true ∧
      (((atImm i 1024).team ((atImm i 1024).teamOf 0)).bar 0).phaseOpen = false ∧
      (((atImm i 1024).team ((atImm i 1024).teamOf 0)).bar 0).arr + 1 < 1024) ∧
    ((atImm i 1).Executes (withImm i 1) [] i ∧ (∀ u, ¬(atImm i 1).inFlight u 0) ∧ (atImm i 1).opnd (withImm i 1) i 0 0 = 1 ∧
      0 ∈ (atImm i 1).threadsOf ((atImm i 1).teamOf 0) ∧ (∀ w, ((atImm i 1).thread w).waitFor ≠ .bar 0) ∧
      (atImm i 1).Room (withImm i 1) (formOf (withImm i 1).hints i) ∧ 1 ≤ (((atImm i 1).team ((atImm i 1).teamOf 0)).bar 0).arr + 1) := by
  refine ⟨⟨executes_of (by decide +kernel), .inr (by decide +kernel), fun u => no_flight (by decide +kernel) u 0, by decide +kernel⟩,
    ⟨executes_of (by decide +kernel), fun u => no_flight (by decide +kernel) u 0, by decide +kernel, by decide +kernel, by decide +kernel,
      by decide +kernel⟩,
    executes_of (by decide +kernel), fun u => no_flight (by decide +kernel) u 0, by decide +kernel, by decide +kernel, fun w => ?_,
    .inr (by decide +kernel), by decide +kernel⟩
  rw [threads_one (x := (atImm (.bar 0 125 false) 1).thread 0) (by decide +kernel) w]
  split <;> decide +kernel

/-- CBAR.ARV; CBAR.WAIT at a phase not arrived at (the thread's arrivals and the operand are equal), at a complete one, and at
one that goes on. -/
theorem witness_ClusterBarrier : (let i := Instr.cbarArv 0 false;
      (atWord i).Executes (oneOf i) [] i ∧ (atWord i).Room (oneOf i) (formOf (oneOf i).hints i) ∧ (∀ u, ¬(atWord i).inFlight u 0) ∧
        (atWord i).clusters = []) ∧
    (let i := Instr.cbarWait 0 125 false;
      ((atImm i 0).Executes (withImm i 0) [] i ∧ (atImm i 0).Room (withImm i 0) (formOf (withImm i 0).hints i) ∧
        Sys2Proof.Machine.ahead (((atImm i 0).thread 0).mt - BitVec.ofNat 32 ((atImm i 0).opnd (withImm i 0) i 0 0)) = false) ∧
      (let s := (atImm i 0).modThread 0 (fun x => { x with mt := 1 });
        s.Executes (withImm i 0) [] i ∧ Sys2Proof.Machine.ahead ((s.thread 0).mt - BitVec.ofNat 32 (s.opnd (withImm i 0) i 0 0)) = true ∧
          Sys2Proof.Machine.ahead (s.phasesOf (s.team (s.teamOf 0)).cluster - BitVec.ofNat 32 (s.opnd (withImm i 0) i 0 0)) = false)) := by
  exact ⟨⟨executes_of (by decide +kernel), .inr (by decide +kernel), fun u => no_flight (by decide +kernel) u 0, by decide +kernel⟩,
    ⟨executes_of (by decide +kernel), .inr (by decide +kernel), by decide +kernel⟩, executes_of (by decide +kernel), by decide +kernel,
    by decide +kernel⟩

/-- A cluster whose barrier has completed one phase. -/
def aCluster (st : CState) : Cluster :=
  { launch := 0, x := 0, y := 0, z := 0, die := 0, origin := 0, state := st, boundSeq := 1, phases := 1,
    members := [{ core := 0, entry := 0, imageBase := 0, scratchBase := 0, exited := false, savedTeam := none, savedThreads := [],
                  savedCopyCount := [], saveBase := 0 }], writeback := false, rebound := false }
/-- CBAR.WAIT at the phase that is complete, and CBAR.ARV where thread 1 has still to arrive at the next. -/
theorem witness_ClusterPhase : (let i := Instr.cbarWait 0 125 false;
      let s : State := { (atImm i 0).modThread 0 (fun x => { x with mt := 1 }) with clusters := [(0, aCluster .runnable)] };
      s.Executes (withImm i 0) [] i ∧ s.Room (withImm i 0) (formOf (withImm i 0).hints i) ∧
        Sys2Proof.Machine.ahead (s.phasesOf (s.team (s.teamOf 0)).cluster - BitVec.ofNat 32 (s.opnd (withImm i 0) i 0 0)) = true) ∧
    (let i := Instr.cbarArv 0 false;
      let s : State := { withMate i with clusters := [(0, aCluster .runnable)] };
      s.Executes (oneOf i) [] i ∧ s.clusters.find (s.team (s.teamOf 0)).cluster = some (aCluster .runnable) ∧
        1 ∈ s.threadsOf (teamKey 0 0) ∧ s.alive 1 = true ∧ 1 ∉ (oneOf i).threads ∧
        Sys2Proof.Machine.ahead ((s.thread 1).mt - (aCluster .runnable).phases) = false) :=
  ⟨⟨executes_of (by decide +kernel), .inr (by decide +kernel), by decide +kernel⟩, executes_of (by decide +kernel), by decide +kernel,
    by decide +kernel, by decide +kernel, by decide +kernel, by decide +kernel⟩

/-- A meeting of thread 0 alone, mask 1. -/
theorem witness_GroupWide : ∀ i ∈ [Instr.vote 0 125 false 0 false, .matchVal 0 125 2 false, .shfl 0 125 2 false, .elect 0 125 false,
    .gred 0 125 2 false], (atImm i 1).Executes (withImm i 1) [] i ∧ (atImm i 1).Room (withImm i 1) (formOf (withImm i 1).hints i) ∧
      (atImm i 1).Gathered (withImm i 1) i 0 1 := by
  have h : ∀ i ∈ [Instr.vote 0 125 false 0 false, .matchVal 0 125 2 false, .shfl 0 125 2 false, .elect 0 125 false, .gred 0 125 2 false],
      Checked (atImm i 1) (withImm i 1) [] i ∧ Roomy (atImm i 1) (withImm i 1) (formOf (withImm i 1).hints i) ∧
      (∀ u ∈ (withImm i 1).threads, gidOf u = 0) ∧ (∀ u ∈ (withImm i 1).threads, BitVec.ofNat 32 ((atImm i 1).opnd (withImm i 1) i u 0) = 1) ∧
      (∀ l, l < 32 → ((1 : Word).getLsbD l = true ↔ threadKey 0 l ∈ (withImm i 1).threads)) ∧
      (∀ u ∈ (withImm i 1).threads, (atImm i 1).alive u = true) ∧ (((atImm i 1).group 0).rdv = none ∧ ((atImm i 1).group 0).copyRdv = none ∧
      ((atImm i 1).group 0).quads = []) ∧ ∀ l, l < 32 → ((atImm i 1).thread (threadKey 0 l)).waitFor ≠ .rendezvous := by decide +kernel
  intro i m
  obtain ⟨a, b, c, d, e, f, g, k⟩ := h i m
  exact ⟨executes_of a, .inr b, { group := c, mask := d, members := e, live := f, quiet := g, free := k }⟩

/-- A team of two groups, one thread in each: the first group's arrives. -/
def twoGroups (i : Instr) : State :=
  (((atWord i).setTeam 0 { Team.reset with bind := { probeBind with slots := 3, groups := 2 } }).setGroup 1
    { Group.reset with live := true, index := 1 }).setThread 32 { Thread.reset with tstate := .run }
theorem witness_CopySlices : ∀ i ∈ [Instr.cpy 0 2, .cpyg 0 2, .cpys 0 2, .cpym 0 2], (twoGroups i).Executes (oneOf i) [] i ∧
    (∀ w, w ∈ (oneOf i).threads ↔ w ∈ threadsOfGroup 0 ∧ (twoGroups i).alive w = true) ∧
    ((twoGroups i).group 0).rdv = none ∧ ((twoGroups i).group 0).copyRdv = none ∧ ((twoGroups i).group 0).quads = [] ∧
    0 ∈ (twoGroups i).groupsOf ((twoGroups i).group 0).team ∧ 1 ∈ (twoGroups i).groupsOf ((twoGroups i).group 0).team ∧
    ((twoGroups i).group 1).index ≠ ((twoGroups i).group 0).index ∧ (∃ w ∈ threadsOfGroup 1, (twoGroups i).alive w = true) ∧
    (twoGroups i).copies = [] := by
  have h : ∀ i ∈ [Instr.cpy 0 2, .cpyg 0 2, .cpys 0 2, .cpym 0 2], Checked (twoGroups i) (oneOf i) [] i ∧
      (∀ w ∈ threadsOfGroup 0, (twoGroups i).alive w = true → w ∈ (oneOf i).threads) ∧
      (∀ w ∈ (oneOf i).threads, w ∈ threadsOfGroup 0 ∧ (twoGroups i).alive w = true) ∧
      ((twoGroups i).group 0).rdv = none ∧ ((twoGroups i).group 0).copyRdv = none ∧ ((twoGroups i).group 0).quads = [] ∧
      0 ∈ (twoGroups i).groupsOf ((twoGroups i).group 0).team ∧ 1 ∈ (twoGroups i).groupsOf ((twoGroups i).group 0).team ∧
      ((twoGroups i).group 1).index ≠ ((twoGroups i).group 0).index ∧ (∃ w ∈ threadsOfGroup 1, (twoGroups i).alive w = true) ∧
      (twoGroups i).copies = [] := by decide +kernel
  intro i m
  obtain ⟨a, b, c, d⟩ := h i m
  exact ⟨executes_of a, fun w => ⟨c w, fun q => b w q.1 q.2⟩, d⟩

/-! ### Radiance cache, supervisor, sequences -/

/-- The bundle of thread 0 with a MOD of its own, and the state at it. -/
def withMod (i : Instr) (m : BitVec 24) : Bundle := { oneOf i with hints := { hintsOf i with mod := some m } }
def atMod (i : Instr) (m : BitVec 24) : State := { atWord i with issue := [withMod i m] }

/-- A small network. -/
def smallNet : Rnb :=
  { levels := 1, tlog2 := 10, hidden := 1, ringLog2 := 10, batchLog2 := 4, param := 0, lr := 0, beta1 := 0, beta2 := 0, eps := 0, res := [2] }
/-- A state whose context 0 owns the radiance cache. -/
def owning (s : State) : State := { s with marl := { s.marl with owner := some 0, cfg := some smallNet } }

/-- QRC of a context that owns nothing, of the owner, and with .QT of the owner, whose zero inputs and target are finite. -/
theorem witness_Radiance_query : let i := Instr.qrc 0 10;
    ((atWord i).Executes (oneOf i) [] i ∧ (atWord i).Room (oneOf i) (formOf (oneOf i).hints i) ∧
      ∀ u ∈ (oneOf i).threads, (atWord i).marl.owner ≠ some ((atWord i).ctxOf u)) ∧
    ((owning (atWord i)).Executes (oneOf i) [] i ∧ (owning (atWord i)).Room (oneOf i) (formOf (oneOf i).hints i) ∧
      (∀ u ∈ (oneOf i).threads, (owning (atWord i)).marl.owner = some ((owning (atWord i)).ctxOf u)) ∧
      (owning (atWord i)).poison = [] ∧ xmodBit (oneOf i).hints 0 = false) ∧
    (let b := { oneOf i with hints := { hintsOf i with mod := some 0xE00001, src := some 0x940000 } };
      let s := owning { atWord i with issue := [b] };
      s.Executes b [] i ∧ s.Room b (formOf b.hints i) ∧ b.threads = [0] ∧ xmodBit b.hints 0 = true ∧ (s.thread 0).helper = false ∧
        (rcInputs ((List.range 10).map (comp (s.opnd b i 0 0)))).isSome = true ∧
        (∀ x ∈ (List.range 3).map (comp (s.opnd b i 0 1)), ((fmtOf 15).read x).isFin = true) ∧
        (s.marl.die (dieOf b.core)).ring.length < 2 ^ smallNet.ringLog2) :=
  ⟨⟨executes_of (by decide +kernel), .inr (by decide +kernel), by decide +kernel⟩,
    ⟨executes_of (by decide +kernel), .inr (by decide +kernel), by decide +kernel⟩, executes_of (by decide +kernel),
    .inr (by decide +kernel), by decide +kernel⟩

/-- RCGEN of a stranger, RCGEN.STAT of the owner, RCGEN of the owner; RCCFG.RELEASE. -/
theorem witness_Radiance_generation : (let i := Instr.rcgen 0 false;
      ((atWord i).Executes (oneOf i) [] i ∧ (atWord i).Room (oneOf i) (formOf (oneOf i).hints i) ∧
        ∀ u ∈ (oneOf i).threads, (atWord i).marl.owner ≠ some ((atWord i).ctxOf u)) ∧
      (let s := owning (atMod i 0xE00001); let b := withMod i 0xE00001;
        s.Executes b [] i ∧ s.Room b (formOf b.hints i) ∧ xmodBit b.hints 0 = true ∧ ∀ u ∈ b.threads, s.marl.owner = some (s.ctxOf u)) ∧
      (let s := owning (atWord i); let b := oneOf i;
        s.Executes b [] i ∧ s.Room b (formOf b.hints i) ∧ xmodBit b.hints 0 = false ∧ b.threads = [0] ∧ s.marl.owner = some (s.ctxOf 0))) ∧
    (let i := Instr.rccfgRelease 0 2 false;
      (owning (atWord i)).Executes (oneOf i) [] i ∧ (owning (atWord i)).Room (oneOf i) (formOf (oneOf i).hints i) ∧
        (oneOf i).threads = [0] ∧ (owning (atWord i)).marlReady = true) :=
  ⟨⟨⟨executes_of (by decide +kernel), .inr (by decide +kernel), by decide +kernel⟩,
    ⟨executes_of (by decide +kernel), .inr (by decide +kernel), by decide +kernel⟩,
    executes_of (by decide +kernel), .inr (by decide +kernel), by decide +kernel⟩,
    executes_of (by decide +kernel), .inr (by decide +kernel), by decide +kernel⟩

theorem witness_SoftwareTraps : ∀ i ∈ [Instr.trap 0 8 1 false, .trap 126 126 1 true, .bpt 1], (atWord i).Executes (oneOf i) [] i ∧
    (atWord i).Inv ∧ (oneOf i).threads = [0] ∧ (atWord i).monitors = [] ∧ (atWord i).wft = [] ∧
    (atWord i).freeSlots ((atWord i).ctxOf 0) (oneOf i).core = 1 :: (List.range 32).drop 2 := by
  have h : ∀ i ∈ [Instr.trap 0 8 1 false, .trap 126 126 1 true, .bpt 1], Checked (atWord i) (oneOf i) [] i ∧
      Memory.wf (atWord i).mem = true ∧ (oneOf i).threads = [0] ∧ (atWord i).monitors = [] ∧ (atWord i).wft = [] ∧
      (atWord i).freeSlots ((atWord i).ctxOf 0) (oneOf i).core = 1 :: (List.range 32).drop 2 := by decide +kernel
  exact fun i m => ⟨executes_of (h i m).1, (h i m).2⟩

/-- A supervisor's thread 0 at a word whose first operand is a XIMM value. -/
def supImm (i : Instr) (x : BitVec 24) : State := { atSup i with issue := [withImm i x] }
/-- A request of a user thread in a slot. -/
def request (slot lane : Nat) : Request :=
  { core := 0, ctx := 0, slot := slot, event := false, cause := Cause.user.code, gid := 5, lanes := 1#32 <<< lane, hasSet := none, pc := 64,
    info0 := 0, info1 := 0, args := [], dst := 3, next := 72 }
/-- SVRET of an empty slot, and of slots 1 and 31 that hold a request. -/
theorem witness_SupervisorReturn : (let i := Instr.svret 0 125 2 false; let s := supImm i 1; let b := withImm i 1;
      s.Executes b [] i ∧ b.threads = [0] ∧ (¬s.inFlight 0 0) ∧ s.Room b (formOf b.hints i) ∧
        ∀ r, ¬s.Slot (s.ctxOf 0) b.core (s.opnd b i 0 0) r) ∧
    (let i := Instr.svret 126 125 2 true; let s := { supImm i 1 with requests := [request 1 0] }; let b := withImm i 1;
      s.Executes b [] i ∧ b.threads = [0] ∧ (¬s.inFlight 0 0) ∧ s.Slot (s.ctxOf 0) b.core (s.opnd b i 0 0) (request 1 0) ∧
        threadKey (request 1 0).gid 0 ≠ 0 ∧ (s.thread (threadKey (request 1 0).gid 0)).inSet = none ∧ hXmod b.hints = 0) ∧
    (let i := Instr.svret 126 125 2 true; let s := { supImm i 31 with requests := [request 31 31] }; let b := withImm i 31;
      s.Executes b [] i ∧ (¬s.inFlight 0 0) ∧ s.Slot (s.ctxOf 0) b.core (s.opnd b i 0 0) (request 31 31)) := by
  refine ⟨⟨executes_of (by decide +kernel), by decide +kernel, no_flight (by decide +kernel) 0 0, .inr (by decide +kernel), fun r h => ?_⟩,
    ⟨executes_of (by decide +kernel), by decide +kernel, no_flight (by decide +kernel) 0 0, ⟨by decide +kernel, by decide +kernel⟩,
      by decide +kernel⟩,
    executes_of (by decide +kernel), no_flight (by decide +kernel) 0 0, by decide +kernel, by decide +kernel⟩
  have e : (supImm (.svret 0 125 2 false) 1).requests = [] := by decide +kernel
  have h := h.2
  rw [e] at h
  cases h

/-- CSRR of 0x000 by a user's thread and of 0x105 by a supervisor's; CSRW of 0x103 and 0x105; RPLGET of a slot with no request,
and of one whose request has a set. -/
theorem witness_ControlRegisters : (let i := Instr.csrr 0 126; let s := atWord i; let b := oneOf i;
      s.Executes b [] i ∧ s.Room b (formOf b.hints i) ∧ ∀ u ∈ b.threads, s.csr b u (s.opnd b i u 0) = some 0) ∧
    (let i := Instr.csrr 0 125; let s := supImm i 0x105; let b := withImm i 0x105;
      s.Executes b [] i ∧ s.Room b (formOf b.hints i) ∧ ∀ u ∈ b.threads, s.csr b u (s.opnd b i u 0) = some 0) ∧
    (let i := Instr.csrw 125 2; let s := supImm i 0x103; let b := withImm i 0x103;
      s.Executes b [] i ∧ b.threads = [0] ∧ s.isSup 0 = true ∧ s.opnd b i 0 0 = 0x103) ∧
    (let i := Instr.csrw 125 2; let s := supImm i 0x105; let b := withImm i 0x105;
      s.Executes b [] i ∧ b.threads = [0] ∧ s.isSup 0 = true ∧ s.opnd b i 0 0 = 0x105 ∧ (s.func (s.ownerOf (s.ctxOf 0))).events = [] ∧ s.msiWait = []) :=
  ⟨⟨executes_of (by decide +kernel), .inr (by decide +kernel), by decide +kernel⟩,
    ⟨executes_of (by decide +kernel), .inr (by decide +kernel), by decide +kernel⟩,
    ⟨executes_of (by decide +kernel), by decide +kernel⟩, executes_of (by decide +kernel), by decide +kernel⟩

/-- The record set of a request. -/
def aSet (u : UnitKind) (st : SetState) : RSet :=
  { id := 9, ctx := 0, addr := 0x4000, nrec := 1, unit := u, state := st, reason := .notPresent, batch := 1, pc := 64, next := 72, word := 0,
    mask := 1, held := 0, gid := 5, core := 0, owner := 0, instr := .ld 0 0 1 0, hints := {}, lanes := [], data := [], pages := [], copy := none,
    walk := none }
theorem witness_ReplayAddress : (let i := Instr.rplget 0 125; let s := supImm i 1; let b := withImm i 1;
      s.Executes b [] i ∧ s.Room b (formOf b.hints i) ∧ ∀ u ∈ b.threads, ∀ r, ¬s.Slot (s.ctxOf u) b.core (s.opnd b i u 0) r) ∧
    (let i := Instr.rplget 0 125;
      let s := { supImm i 1 with requests := [{ request 1 0 with hasSet := some 9 }], sets := [aSet .xop .held] }; let b := withImm i 1;
      s.Executes b [] i ∧ s.Room b (formOf b.hints i) ∧ s.Slot (s.ctxOf 0) b.core (s.opnd b i 0 0) { request 1 0 with hasSet := some 9 } ∧
        s.setOf 9 = some (aSet .xop .held)) := by
  refine ⟨⟨executes_of (by decide +kernel), .inr (by decide +kernel), fun u m r h => ?_⟩, executes_of (by decide +kernel),
    .inr (by decide +kernel), ⟨by decide +kernel, by decide +kernel⟩, by decide +kernel⟩
  have e : (supImm (.rplget 0 125) 1).requests = [] := by decide +kernel
  have h := h.2
  rw [e] at h
  cases h

/-- An image of one word bound to index 5. -/
def bound (s : State) : State :=
  (s.modCtx 0 (fun c => { c with
    kImage := [0xC8000000#32]
    kBinds := [(5, { start := 0, len := 1, d := FieldUse.reset, a := FieldUse.reset, b := FieldUse.reset, c := FieldUse.reset })] })).modCore 0
    (fun c => { c with ctxs := [0, 0xFF, 0xFF, 0xFF] })
/-- The same with its bank filled. -/
def banked (s : State) : State := (bound s).modCore 0 (fun c => { c with banks := [(0, 0)] })
theorem bundled_of {s : State} {b : Bundle} (h : b.threads ≠ [] ∧ (b.threads.map laneOf).Nodup ∧ (∀ t ∈ b.threads, coreOf t = b.core) ∧
    b.core < coreCount ∧ ∀ t ∈ b.threads, s.ctxOf t = s.bundleCtx b) : s.Bundled b :=
  { inhabited := h.1, lanes := h.2.1, core := h.2.2.1, place := h.2.2.2.1, ctx := h.2.2.2.2 }
/-- XOP before and after its bank is filled; CSLOAD.CLEAR with and without a thread in a sequence. -/
theorem witness_SequenceEntry : (let i := Instr.xop 0 0 0 0 false 5; let b := oneOf i;
      ((bound (atWord i)).issue = b :: [] ∧ (bound (atWord i)).Bundled b ∧
        (bound (atWord i)).bankReady b.core ((bound (atWord i)).bundleCtx b) = false) ∧
      (let s := banked (atWord i);
        s.issue = b :: [] ∧ s.Bundled b ∧ s.bankReady b.core (s.bundleCtx b) = true ∧ s.ecc = [] ∧
          (∀ u ∈ b.threads, s.decodeFail b i u = none) ∧
          (∀ u ∈ b.threads, ((s.thread u).pred (hGpred b.hints) != hGsense b.hints) = true) ∧
          ∀ u ∈ b.threads, (s.thread u).inSet = none ∧ (s.thread u).xop = none)) ∧
    (let i := Instr.csloadClear 0 false; let s := atSup i; let b := oneOf i;
      s.Executes b [] i ∧ s.Room b (formOf b.hints i) ∧ b.threads = [0] ∧ s.xopBusy (s.ctxOf 0) = false) ∧
    (let i := Instr.csloadClear 0 false; let s := (atSup i).setThread 1 { Thread.reset with tstate := .run, xop := some probeCont };
      let b := oneOf i;
      s.Executes b [] i ∧ s.Room b (formOf b.hints i) ∧ b.threads = [0] ∧ s.xopBusy (s.ctxOf 0) = true) :=
  ⟨⟨⟨by decide +kernel, bundled_of (by decide +kernel), by decide +kernel⟩, by decide +kernel, bundled_of (by decide +kernel),
      by decide +kernel⟩,
    ⟨executes_of (by decide +kernel), .inr (by decide +kernel), by decide +kernel⟩,
    executes_of (by decide +kernel), .inr (by decide +kernel), by decide +kernel⟩

/-! ### Micro-operations -/

/-- A thread in a sequence, its temporaries given. -/
def seqThread (h : Tab DWord) : Thread := { Thread.reset with tstate := .run, xop := some { probeCont with h := h } }
/-- The bundle of thread 0 in the sequence of an XOP word. -/
def seqBundle (w : Word) : Bundle := { oneOf .nop with inXop := true, word := w }
/-- Thread 0 at micro-op 0 of a sequence of the XOP word `w`. -/
def inSeq (w : Word) (h : Tab DWord) : State := { atWord .nop with issue := [seqBundle w], threads := [(0, seqThread h)] }

theorem sequenced_of {s : State} {b : Bundle} {rest : List Bundle} (h : s.issue = b :: rest ∧ b.threads.Nodup ∧ s.microThreads b ≠ []) :
    s.Sequenced b rest := { head := h.1, distinct := h.2.1, some := h.2.2 }

/-- XOP words whose fields are v20, v4 and v6; whose destination is v118; and whose destination is 126. -/
def xopWord : Word := 0xE0A040C5#32
def xopTop : Word := encode (.xop 0 118 4 6 false 5)
def xopNone : Word := encode (.xop 0 126 4 6 true 5)

theorem witness_IntegerMicroOps : (inSeq xopWord []).Sequenced (seqBundle xopWord) [] ∧
    ∀ i ∈ [Instr.uadd 0 1 2, .usub 7 7 7, .uand 0 1 2, .uor 0 1 2, .uxor 0 1 2, .ushl 0 1 2, .ushr 0 1 2, .usar 0 1 2, .umul 0 1 2,
      .uaddi 0 1 0x1FFFF, .umovi 0 0x10000, .uhi 0 1 5], i.wellFormed = true := ⟨sequenced_of (by decide +kernel), by decide⟩
theorem witness_FloatMicroOps : (inSeq xopWord []).Sequenced (seqBundle xopWord) [] ∧
    ∀ i ∈ [Instr.ufadd 0 1 2 1 4 true, .ufsub 0 1 2 0 0 false, .ufmul 0 1 2 1 0 false, .ufma 0 1 2 1 0 false, .ufmin 0 1 2 0,
      .ufmax 0 1 2 1, .ucvt 0 1 7 4 true 0, .ucvt 0 1 0 0 false 7, .ucmp 0 1 2 3 13, .ucmp 0 1 2 4 5], i.wellFormed = true :=
  ⟨sequenced_of (by decide +kernel), by decide⟩
/-- URDV of the four fields; UWRV to no register, and to the last pair. -/
theorem witness_OperandMicroOps : (inSeq xopWord []).Sequenced (seqBundle xopWord) [] ∧ (inSeq xopWord []).ecc = [] ∧
    (∀ u ∈ (seqBundle xopWord).threads, ∀ r, r < 120 → (inSeq xopWord []).regPoisoned u r = false) ∧
    ((inSeq xopNone []).Sequenced (seqBundle xopNone) [] ∧ (inSeq xopNone []).Bundled (seqBundle xopNone) ∧
      120 ≤ (xopNone.extractLsb' 19 7).toNat) ∧
    ((inSeq xopTop []).Sequenced (seqBundle xopTop) [] ∧ (inSeq xopTop []).Bundled (seqBundle xopTop) ∧
      (xopTop.extractLsb' 19 7).toNat + (0 : BitVec 4).toNat + 2 ≤ 120 ∧
      (inSeq xopTop []).Room { seqBundle xopTop with threads := (inSeq xopTop []).microThreads (seqBundle xopTop) }
        { dst := some { code := xopTop.extractLsb' 19 7, width := 64, regs := 2 } }) :=
  ⟨sequenced_of (by decide +kernel), by decide +kernel, by decide +kernel, ⟨sequenced_of (by decide +kernel), bundled_of (by decide +kernel),
    by decide +kernel⟩, sequenced_of (by decide +kernel), bundled_of (by decide +kernel), by decide +kernel, .inr (by decide +kernel)⟩

/-- A state whose context 0 has a page of replay slots. -/
def replayRoom (s : State) : State := s.modCtx 0 (fun c => { c with rplInForce := 1, imageSize := 92 })
/-- ULOOP at its bound; UEND; UTRAP with a free mailbox slot and room for its set. -/
theorem witness_ControlMicroOps : ((inSeq xopWord [(0, 15)]).Sequenced (seqBundle xopWord) [] ∧
      ∀ u ∈ (inSeq xopWord [(0, 15)]).microThreads (seqBundle xopWord), ∀ k, ((inSeq xopWord [(0, 15)]).thread u).xop = some k →
        (k.reg 0).toNat ≤ (15 : BitVec 4).toNat) ∧
    (∀ u ∈ (inSeq xopWord []).microThreads (seqBundle xopWord), ((inSeq xopWord []).thread u).inSet = none) ∧
    (let s := replayRoom (inSeq xopWord []); let b := seqBundle xopWord;
      s.Sequenced b [] ∧ b.threads = [0] ∧ (s.thread 0).xop = some probeCont ∧ (s.thread 0).inSet = none ∧ s.monitors = [] ∧ s.wft = [] ∧
        s.freeSlots (s.ctxOf 0) (coreOf 0) = 1 :: (List.range 32).drop 2 ∧ (s.freeRun (s.ctxOf 0) (s.xopPark b 0 []).slots).isSome = true) := by
  refine ⟨⟨sequenced_of (by decide +kernel), fun u m k h => ?_⟩, by decide +kernel, sequenced_of (by decide +kernel), by decide +kernel⟩
  have e : (inSeq xopWord [(0, 15)]).microThreads (seqBundle xopWord) = [0] := by decide +kernel
  rw [e] at m
  obtain rfl : u = 0 := by simpa using m
  have e2 : ((inSeq xopWord [(0, 15)]).thread 0).xop = some { probeCont with h := [(0, 15)] } := by decide +kernel
  rw [e2] at h
  cases h
  decide +kernel

/-- Core 0 translates the first 16 pages of context 0 to the pool, from 64 KiB on, readable, writable and executable. -/
def mapped (s : State) : State :=
  s.modCore 0 (fun k => { k with tlb := [{ ctx := 0, vpn := 0, span := 16, leaf := 0x1004F }] })
/-- A probe of the address. -/
def aProbe : Probe := { va := 0x1000, size := 3, pa := 0x11000, leaf := 0x1004F }
/-- ULD and UPROBE of an aligned mapped address, UST through a probe, and all of helpers. -/
theorem witness_MemoryMicroOps : (let s := mapped (inSeq xopWord [(0, 0x1000)]); let b := seqBundle xopWord; let k := { probeCont with h := [(0, 0x1000)] };
      s.Sequenced b [] ∧ b.threads = [0] ∧ (s.thread 0).xop = some k ∧ (s.thread 0).helper = false ∧ (k.ea 0 0).toNat % 2 ^ 3 = 0 ∧
      (∀ mode ∈ [Mode.read, .write], (({ s with issue := [] } : State).check b.core (s.ctxOf 0) false mode (k.ea 0 0).toNat) =
        ({ s with issue := [] }, .ok { leaf := 0x1004F, loc := 0x11000 })) ∧
      s.accs = [] ∧ s.copies = [] ∧ s.ucopies = [] ∧ s.ecc = [] ∧ s.poison = [] ∧ s.sectorKey = [] ∧ s.stale = [] ∧
      s.answers 0x11000 = true) ∧
    (let k := { probeCont with h := [(0, 0x1000)], probes := [aProbe] };
      let s := { inSeq xopWord [] with threads := [(0, { seqThread [] with xop := some k })] };
      s.Sequenced (seqBundle xopWord) [] ∧ (s.thread 0).xop = some k ∧ (s.thread 0).helper = false ∧
        k.probes.find? (fun q => q.va == k.ea 0 0 && q.size == (3 : BitVec 2).toNat) = some aProbe) ∧
    (let s := { inSeq xopWord [] with threads := [(0, { seqThread [] with helper := true })] };
      s.Sequenced (seqBundle xopWord) [] ∧ ∀ u ∈ (seqBundle xopWord).threads, (s.thread u).helper = true) := by
  refine ⟨⟨sequenced_of (by decide +kernel), by decide +kernel, by decide +kernel, by decide +kernel, by decide +kernel, ?_, by decide +kernel⟩,
    ⟨sequenced_of (by decide +kernel), by decide +kernel⟩, sequenced_of (by decide +kernel), by decide +kernel⟩
  intro mode m
  have m : mode = .read ∨ mode = .write := by simpa using m
  rcases m with rfl | rfl <;> rfl

/-! ### Traps, the step, the guard -/

/-- Thread 0 at a word, in a kernel of 119 registers. -/
def fewer (i : Instr) : State := (atWord i).modTeam 0 (fun m => { m with bind := { m.bind with regs := 119 } })
/-- A user's SVRET (PRIV), IADD of a latch that the bundle may not read and a load whose data would go to one (LATCH), and an IADD
of a source past REGS (ILLEGAL). -/
theorem witness_TrapsOfChecks : ∀ p ∈ [(Instr.svret 0 1 2 false, Cause.priv), (.iadd 120 121 2 true, .latch), (.ld 120 0 1 0, .latch), (.iadd 0 1 119 false, .illegal)],
    let i := p.1; let s := fewer i; let b := oneOf i;
    s.Inv ∧ s.Bundled b ∧ s.issue = b :: [] ∧ b.threads = [0] ∧ s.monitors = [] ∧ s.wft = [] ∧ (s.thread 0).inSet = none ∧
      s.freeSlots (s.ctxOf 0) b.core = 1 :: (List.range 32).drop 2 ∧ s.decodeFail b i 0 = some p.2 := by
  have h : ∀ p ∈ [(Instr.svret 0 1 2 false, Cause.priv), (.iadd 120 121 2 true, .latch), (.ld 120 0 1 0, .latch), (.iadd 0 1 119 false, .illegal)],
      let i := p.1; let s := fewer i; let b := oneOf i;
      Memory.wf s.mem = true ∧ (b.threads ≠ [] ∧ (b.threads.map laneOf).Nodup ∧ (∀ t ∈ b.threads, coreOf t = b.core) ∧
        b.core < coreCount ∧ ∀ t ∈ b.threads, s.ctxOf t = s.bundleCtx b) ∧
      s.issue = b :: [] ∧ b.threads = [0] ∧ s.monitors = [] ∧ s.wft = [] ∧ (s.thread 0).inSet = none ∧
      s.freeSlots (s.ctxOf 0) b.core = 1 :: (List.range 32).drop 2 ∧ s.decodeFail b i 0 = some p.2 := by decide +kernel
  exact fun p m => ⟨(h p m).1, bundled_of (h p m).2.1, (h p m).2.2⟩

/-- An operation of thread 0 under check, with an address. -/
def opAt (i : Instr) (a : DWord) : Op :=
  { id := 6, instr := i, hints := formHints i, word := encode i, core := 0, ctx := 0, runPc := 0, pc := 0, stage := 0, lanes := [laneAt 0 a] }
/-- Thread 0 waits for that operation, which the subject names. -/
def checking (i : Instr) (a : DWord) : State :=
  { atWord i with issue := [], ops := [opAt i a], subj := { id := 6 }, threads := [(0, { Thread.reset with tstate := .run, waitFor := .check 6 })] }
/-- A load of a word whose address is odd by two. -/
theorem witness_Misaligned : let s := checking (.ld 0 0 1 0) 0x1002; let o := opAt (.ld 0 0 1 0) 0x1002; let l := laneAt 0 0x1002;
    s.Inv ∧ s.ops.find? (fun x => x.id == s.subj.id) = some o ∧ o.instr = .ld 0 0 1 0 ∧ o.lanes = [l] ∧ s.alive l.tid = true ∧
      (s.thread l.tid).waitFor = .check o.id ∧ (s.thread l.tid).inSet = none ∧ s.ucopies = [] ∧ s.monitors = [] ∧ s.wft = [] ∧ s.freeSlots (s.ctxOf l.tid) (coreOf l.tid) = 1 :: (List.range 32).drop 2 ∧
      l.addr.toNat % elemSize o.instr o.hints ≠ 0 := by unfold State.Inv; decide +kernel

theorem witness_DecodeOfEncode : (Instr.iadd 0 1 2 false).wellFormed = true ∧ (Instr.iadd 0 1 2 false).isWord = true ∧
    Instr.uend.wellFormed = true ∧ Instr.uend.isMicro = true := by decide

/-- A word, a micro-op and an event that the step comes to. -/
theorem witness_StepRunsTheDecodedInstruction : (let s := State.reset.withFetchWord 32 0xD4000005; let b := { oneOf .nop with hints := Hints.none };
      s.powered = true ∧ s.dev.flip = none ∧ s.dev.tripped = false ∧ s.inputs = [] ∧ s.issue = b :: [] ∧ b.threads ≠ [] ∧
        (∀ u ∈ b.threads, s.alive u = true ∧ (s.thread u).late = none) ∧ b.inXop = false ∧ s.wordAt b = some 0xD4000005#32 ∧
        (decode b.hints 0xD4000005#32).toOption = some .nop) ∧
    (let s := { banked (inSeq xopWord []) with threads := [(0, { seqThread [] with xop := some { probeCont with idx := 5 } })] };
      let b := seqBundle xopWord;
      s.powered = true ∧ s.dev.flip = none ∧ s.dev.tripped = false ∧ s.inputs = [] ∧ s.issue = b :: [] ∧ b.inXop = true ∧
        s.microThreads b = 0 :: [] ∧ (s.thread 0).xop = some { probeCont with idx := 5 } ∧ s.microWord (s.ctxOf 0) 5 0 = some 0xC8000000#32 ∧
        decodeMicro 0xC8000000#32 = some .uend) ∧
    (let s := { State.reset with inputs := [(.popArm, { v := 1 })] };
      s.powered = true ∧ s.dev.flip = none ∧ s.dev.tripped = false ∧ Instr.popArm.isWord = false ∧ Instr.popArm.isMicro = false) := by
  decide +kernel

/-- A load whose guard p0 is false. -/
theorem witness_GuardedOffHasNoEffect : let i := Instr.ld 0 0 1 0; let b := withMod i 0x0000E0; let s := { atWord i with issue := [b] };
    i.isWord = true ∧ majorOf i ≠ 0x3F ∧ s.issue = b :: [] ∧ s.Bundled b ∧ (∀ u ∈ b.threads, s.decodeFail b i u = none) ∧
      (∀ u ∈ b.threads, ((s.thread u).pred (hGpred b.hints) != hGsense b.hints) = false) ∧ (∀ u ∈ b.threads, (s.thread u).inSet = none) ∧
      (∀ u ∈ b.threads, (s.group (gidOf u)).rdv = none ∧ (s.group (gidOf u)).copyRdv = none ∧ (s.group (gidOf u)).quads = []) ∧
      xopIndex i = none :=
  ⟨by decide +kernel, by decide +kernel, by decide +kernel, bundled_of (by decide +kernel), by decide +kernel⟩

/-- A step of the machine right after reset answers a next state. -/
theorem witness_StepKeepsMemoryCanonical : State.reset.Inv ∧ ∃ t, step State.reset = .next t := by
  have h : (match step State.reset with | .next _ => true | _ => false) = true := by decide +kernel
  refine ⟨by unfold State.Inv; decide, ?_⟩
  revert h
  cases step State.reset with
  | next t => exact fun _ => ⟨t, rfl⟩
  | fault _ => exact nofun
  | refused _ => exact nofun

/-! ### Events: registers, boot, mailbox, outside -/

/-- A running module: firmware up, every block ready, the physical function in session with every feature. -/
def up : State := { (State.reset.withFetchWord 32 0xD4000005) with issue := [], threads := [], groups := [], teams := [], cores := [] }
/-- The same with a subject. -/
def on (x : Subject) : State := { up with subj := x }

/-- Features of the first and of the last function; the queue, armed and not, with a record; contexts 0 and 63; devices' registers. -/
theorem witness_ControlRegisterEvents :
    (∀ f ∈ [0, 32], f ≤ 32 ∧ (on { f := f }).inLoader = false) ∧
    ((on { v := 1 }).subj.v = 1 ∧ (on { v := 1 }).inLoader = false) ∧
    ((on {}).func 0).armed = false ∧
    (let s := (on {}).modFunc 0 (fun x => { x with armed := true, lost := true, events := [7] });
      (s.func 0).armed = true ∧ (s.func 0).events = 7 :: []) ∧
    (∀ c ∈ [0, 63], (on { c := c }).sees 0 c = true ∧ (on { c := c }).boot.ready.getLsbD 10 = true ∧ ((on { c := c }).ctx c).pinned = false ∧
      ((on { c := c }).ctx c).lpage = 0) ∧
    (on {}).sees 0 64 = false ∧
    (let s := (on { v := 32 }).modFunc 0 (fun x => { x with session := false });
      s.inLoader = false ∧ ∀ p ∈ s.funcs, p.2.session = false) ∧
    (let s := (on {}).modDev (fun d => { d with applying := true });
      s.dev.applying = true ∧ s.boot.ready.getLsbD 2 = true ∧ s.boot.ready.getLsbD 3 = true ∧ s.dev.tripped = false) := by decide +kernel
/-- The written registers: a context's first and last, the invalidation address, the two device words. -/
theorem witness_RegisterWrites : (∀ c ∈ [0, 63], let s := on { c := c, a := 0x1000 + 64 * c + 0x10, b := 4, v := 0x20000 };
      c < 64 ∧ s.sees 0 c = true ∧ s.subj.w = false ∧ s.inLoader = false ∧ s.subj.a = 0x1000 + 64 * c + 0x10 ∧ s.subj.b = 4) ∧
    (let s := on { c := 63, a := 0x1000 + 64 * 63 + 0x38, b := 8, v := 0x4000 };
      s.sees 0 63 = true ∧ (s.ctx 63).pinned = false ∧ s.subj.a = 0x1000 + 64 * 63 + 0x38 ∧ s.subj.b = 8) ∧
    ((on { a := 0x200, b := 8 }).subj.a = 0x200 ∧ (on { a := 0x220, b := 4 }).subj.a = 0x220 ∧ (on { a := 0x254, b := 4 }).subj.b = 4 ∧
      (on { a := 0x254, b := 4 }).inLoader = false) ∧
    ((on { a := 0, b := 4, w := true }).subj.w = true ∧ (on { a := 0, b := 4, w := true }).subj.c = 0) := by decide +kernel

/-- The firmware check at power-on; blocks 1 and 12, columns 0 and 27; a failure; links; the steps of heat at their edges. -/
theorem witness_BootAndPowerEvents : State.reset.boot.state = 1 ∧
    (∀ b ∈ [1, 12], (on { b := b }).boot.state = 2 ∧ 1 ≤ b ∧ b ≤ 12 ∧ b < 32 ∧ (on { b := b }).boot.ready.getLsbD b = true) ∧
    (∀ b ∈ [0, 27], (on { b := b }).boot.state = 2 ∧ b < 32 ∧ b % 16 < 12) ∧
    (let s : State := { (on { a := 0x40 }).modBoot (fun x => { x with ready := 0xC3F }) with heldReqs := [(2, 0)], wall := 100000 * oneUs };
      s.heldReqs.find (s.subj.a / 32) = some 0 ∧ s.linkUp s.subj.a = false ∧ 0 + 100000 * oneUs ≤ s.wall) ∧
    (isPool (2 ^ 46 - 32) = true ∧ isHostMem (2 ^ 51) = true) ∧
    (∀ x ∈ [(105, 99, 115), (200, 0, 125)], (on {}).dev.tripped = false ∧ 105 ≤ max x.1 0 ∧ max x.2.1 0 < 100 ∧ 115 ≤ max x.2.2 0) ∧
    125 ≤ max 125 0 ∧ (up.Inv ∧ up.notDurable = [] ∧ up.frames = []) ∧
    (let s := (on { f := 5 }); s.subj.f ≠ 0 ∧ ∀ c, c < 64 → s.ownerOf c ≠ s.subj.f) ∧ (on {}).subj.f = 0 := by
  refine ⟨by decide +kernel, by decide +kernel, by decide +kernel, by decide +kernel, by decide +kernel, by decide +kernel, by decide,
    ⟨by unfold State.Inv; decide +kernel, by decide +kernel, by decide +kernel⟩, by decide +kernel, by decide +kernel⟩

/-- A message of a function that the security core serves next. -/
def mailed (st : BitVec 4) (f : Nat) (kind : BitVec 4) (l : List Byte) : State :=
  ((on { f := f }).modBoot (fun b => { b with state := st })).modFunc f (fun x => { x with
    mbBusy := true, mbKind := kind, mbLen := BitVec.ofNat 11 l.length,
    mbData := (List.range l.length).map (fun i => (i, l.getD i 0)) })
theorem served_of {s : State} {f k : Nat} (h : s.subj.f = f ∧ (s.func f).mbBusy = true ∧ (s.func f).mbKind.toNat = k ∧
    (∀ g, g < f → (s.func g).mbBusy = false) ∧ f ≤ 32 ∧ s.boot.ready.getLsbD 1 = true) : s.Served f k :=
  { subject := h.1, busy := h.2.1, kind := h.2.2.1, next := h.2.2.2.1, exists_ := h.2.2.2.2.1, ready := h.2.2.2.2.2 }
/-- SPDM of functions 0 and 32; an image chunk and a commit in the recovery loader; a key set and a key cleared. -/
theorem witness_MailboxEvents : (∀ f ∈ [0, 32], (mailed 2 f 1 [1, 2]).Served f 1 ∧ (mailed 2 f 1 [1, 2]).boot.state ≠ 1) ∧
    ((mailed 3 0 2 [1]).Served 0 2 ∧ (mailed 3 0 2 [1]).inLoader = true) ∧ ((mailed 4 0 3 []).Served 0 3 ∧ (mailed 4 0 3 []).boot.state = 4) ∧
    (let l : List Byte := 255 :: 0 :: 0 :: 0 :: List.replicate 64 7;
      (mailed 2 0 4 l).Served 0 4 ∧ (mailed 2 0 4 l).boot.state = 2 ∧ ((mailed 2 0 4 l).func 0).sent = l) ∧
    ((mailed 2 0 5 [255]).Served 0 5 ∧ (mailed 2 0 5 [255]).boot.state = 2 ∧ ((mailed 2 0 5 [255]).func 0).sent = [255]) := by
  refine ⟨fun f m => ?_, ⟨served_of (by decide +kernel), by decide +kernel⟩, ⟨served_of (by decide +kernel), by decide +kernel⟩,
    ⟨served_of (by decide +kernel), by decide +kernel⟩, served_of (by decide +kernel), by decide +kernel⟩
  have m : f = 0 ∨ f = 32 := by simpa using m
  rcases m with rfl | rfl <;> exact ⟨served_of (by decide +kernel), by decide +kernel⟩

/-- An invalidation of the last page of the address space; those that have ended; flips both ways and their end; a snoop and the
host's accesses at the ends of their ranges. -/
theorem witness_OutsideAccessEvents :
    (let s := (on {}).modFunc 0 (fun x => { x with invVa := 0x1FFFFFFFFFFF000, invPages := 1 });
      s.sees 0 0 = true ∧ (s.func 0).inv = none ∧ (s.func 0).invPages ≠ 0 ∧
        (s.func 0).invVa.toNat + 4096 * (s.func 0).invPages.toNat ≤ 2 ^ 57) ∧
    (∀ op ∈ [0, 1, 2], let j : InvJob := { ctx := 0, op := op, vpn := 0, n := 1, waits := [], seqs := [] };
      let s := (on {}).modFunc 0 (fun x => { x with inv := some j });
      (s.func 0).inv = some j ∧ (∀ a ∈ s.accs, a.id ∉ j.waits) ∧ ∀ u ∈ j.seqs, s.running u = false) ∧
    (∀ l ∈ [[], [2 ^ 34 + 1]], let s : State := { (on {}).modDev (fun d => { d with devmemGib := 1, biasPa := 0x400000001000 }) with bias := l };
      s.inLoader = false ∧ s.dev.flip = none ∧ isDevmem s.dev.biasPa.toNat = true ∧ s.dev.biasPa.toNat < 2 ^ 46 + s.carveout ∧
        (s.func 0).session = true ∧ (s.func 0).accept.getLsbD 11 = true ∧ s.deviceBias s.dev.biasPa.toNat = !l.isEmpty) ∧
    (let s := (on {}).modDev (fun d => { d with flip := some (2 ^ 34, true) });
      s.dev.flip = some (2 ^ 34, true) ∧ s.flipReady (2 ^ 34) = true) ∧
    (Memory.wf up.mem = true ∧ up.monitors = [] ∧ up.ucopies = [] ∧ isPool (2 ^ 46 - 4) = true ∧ isPool (2 ^ 46 - 4 + 4 - 1) = true ∧
      isHostMem (2 ^ 51) = true ∧ isHostMem (2 ^ 51 + 4 - 1) = true) ∧
    (let s := (on { a := 2 ^ 46 + 2 ^ 30 - 8, b := 8, w := true, data := [1, 2, 3, 4] }).modDev (fun d => { d with devmemGib := 1 });
      isDevmem s.subj.a = true ∧ s.linkUp s.subj.a = true ∧ 0 < s.subj.data.length ∧ s.subj.a + 8 ≤ 2 ^ 46 + s.carveout ∧
        s.linkUp (s.subj.a + s.subj.data.length - 1) = true ∧ s.linkUp (s.subj.a + 7) = true) := by decide +kernel

/-- A page table: root at 64 KiB whose chain of entries maps the first 4 GiB of virtual addresses to the pool by one leaf of
level 3. -/
def tables (s : State) : State :=
  (((s.modCtx 0 (fun c => { c with ptroot := 0x10000 })).writeN 0x10000 8 0x11001).writeN 0x11000 8 0x12001).writeN 0x12000 8 0x4F
/-- Context 0 pins an arena of its smallest size under those tables. -/
def pinningOne : State := (tables (on {})).modCtx 0 (fun c => { c with pinning := true, imageSize := 91 })

/-- The walker's cache is empty, and an entry that is well formed leads on. -/
theorem walk_step (s : State) (va level base next : Nat) (c : s.wcache = []) (i : vaIndex va (level + 1) = 0)
    (h : s.linkUp base = true ∧ s.isPoisoned (sectorOf base) = false ∧ (!pteP (s.readN base 8)) = false ∧
      pteLeaf (s.readN base 8) = false ∧ nonLeafBad (level + 1) (s.readN base 8) = false ∧ ptePa (s.readN base 8) = next) :
    s.walkFrom 0 0 va (level + 1) base = s.walkFrom 0 0 va level next := by
  rw [State.walkFrom]
  simp only [State.cachedNext, c, i, List.find?_nil, Option.map_none, Nat.mul_zero, Nat.add_zero, h.1, Bool.not_true, h.2.1, h.2.2.1, h.2.2.2.1, h.2.2.2.2.1,
    h.2.2.2.2.2, Bool.false_eq_true, if_false]
theorem walk_low (s : State) (c : s.wcache = []) (r : (s.ctx 0).ptroot.toNat = 0x10000)
    (h5 : s.linkUp 0x10000 = true ∧ s.isPoisoned (sectorOf 0x10000) = false ∧ (!pteP (s.readN 0x10000 8)) = false ∧
      pteLeaf (s.readN 0x10000 8) = false ∧ nonLeafBad 5 (s.readN 0x10000 8) = false ∧ ptePa (s.readN 0x10000 8) = 0x11000)
    (h4 : s.linkUp 0x11000 = true ∧ s.isPoisoned (sectorOf 0x11000) = false ∧ (!pteP (s.readN 0x11000 8)) = false ∧
      pteLeaf (s.readN 0x11000 8) = false ∧ nonLeafBad 4 (s.readN 0x11000 8) = false ∧ ptePa (s.readN 0x11000 8) = 0x12000)
    (h3 : s.linkUp 0x12000 = true ∧ s.isPoisoned (sectorOf 0x12000) = false ∧ s.readN 0x12000 8 = 0x4F ∧ s.leafBad 0 3 0x4F = false)
    (b : s.rootBad 0 = false) (va : Nat) (h : va < 2 ^ 32) : ∃ vpn n, s.walk 0 0 va = .leaf 0x4F vpn n := by
  have i5 : vaIndex va 5 = 0 := by simp only [vaIndex, bits]; omega
  have i4 : vaIndex va 4 = 0 := by simp only [vaIndex, bits]; omega
  have i3 : vaIndex va 3 = 0 := by simp only [vaIndex, bits]; omega
  have w3 : s.walkFrom 0 0 va 3 0x12000 = .leaf 0x4F (va / 4096 / levelPages 3 * levelPages 3) (levelPages 3) := by
    rw [State.walkFrom]
    simp only [State.cachedNext, c, i3, List.find?_nil, Option.map_none, Nat.mul_zero, Nat.add_zero, h3.1, Bool.not_true, h3.2.1, h3.2.2.1, h3.2.2.2,
      Bool.false_eq_true, if_false, show (!pteP 0x4F) = false by decide +kernel, show pteLeaf 0x4F = true by decide +kernel, if_true,
      State.leafAt, Nat.reduceAdd, Nat.reduceEqDiff, decide_false, Bool.false_and]
  unfold State.walk
  rw [b, r, if_neg Bool.false_ne_true, walk_step s va 4 0x10000 0x11000 c i5 h5, walk_step s va 3 0x11000 0x12000 c i4 h4, w3]
  exact ⟨_, _, rfl⟩
theorem pinWalk_low (s : State) (w : ∀ va, va < 2 ^ 32 → ∃ vpn n, s.walk 0 0 va = .leaf 0x4F vpn n) :
    ∀ n va, va + 4096 * n ≤ 2 ^ 32 → ∃ t, s.pinWalk 0 n va = .pages t ∧ t.length = n := by
  intro n
  induction n with
  | zero => intro va _; exact ⟨[], rfl, rfl⟩
  | succ n ih =>
    intro va h
    obtain ⟨t, ht, hl⟩ := ih (va + 4096) (by omega)
    obtain ⟨vpn, m, hw⟩ := w va (by omega)
    refine ⟨(va / 4096, BitVec.ofNat 64 (0x4F + (va / 4096 - vpn) * 4096)) :: t, ?_, congrArg (· + 1) hl⟩
    rw [State.pinWalk, if_neg (by omega), hw, ht]
    rfl
theorem length_dedupBy (l : List Nat) : (dedupBy id l).length ≤ l.length := by
  induction l with
  | nil => simp [dedupBy]
  | cons x r ih => exact Nat.succ_le_succ (Nat.le_trans (List.length_filter_le _ _) ih)
theorem pinningOne_pages : ∃ t, pinningOne.pinWalk 0 (16 * (pinningOne.ctx 0).imageSize.toNat) (pinningOne.ctx 0).image.toNat = .pages t ∧
    pinningOne.lockedWith (arenaBlocks t) ≤ pinningOne.frameCapacity := by
  have n : (pinningOne.ctx 0).imageSize.toNat = 91 := by decide +kernel
  have z : (pinningOne.ctx 0).image.toNat = 0 := by decide +kernel
  obtain ⟨t, ht, hl⟩ := pinWalk_low pinningOne (walk_low pinningOne (by decide +kernel) (by decide +kernel) (by decide +kernel)
    (by decide +kernel) (by decide +kernel) (by decide +kernel)) 1456 0 (by decide)
  refine ⟨t, by rw [n, z]; exact ht, ?_⟩
  have f : pinningOne.frames = [] := by decide +kernel
  have c : pinningOne.frameCapacity = 143 * 16384 := by decide +kernel
  have : (arenaBlocks t).length ≤ t.length :=
    Nat.le_trans (length_dedupBy _) (by rw [List.length_map]; exact List.length_filter_le _ _)
  unfold State.lockedWith
  rw [f, c]
  simp only [List.filter_nil, List.length_nil]
  omega

/-- Pinning, its ends, and the operations of CTX_RUNCTL. -/
theorem witness_ContextEvents :
    (let s := on { v := 0xFFFF };
      s.sees 0 0 = true ∧ (s.ctx 0).pinned = false ∧ (s.ctx 0).pinning = false ∧ s.subj.v.extractLsb' 0 16 ≠ 0) ∧
    (let s := (on {}).modCtx 0 (fun c => { c with pinning := true, imageSize := 90 });
      (s.ctx 0).pinning = true ∧ s.pinWaits 0 = false ∧ (s.ctx 0).imageSize.toNat < 91) ∧
    (let s := (on {}).modCtx 0 (fun c => { c with pinning := true, imageSize := 91, image := 0x200000000000000 });
      (s.ctx 0).pinning = true ∧ s.pinWaits 0 = false ∧ 91 ≤ (s.ctx 0).imageSize.toNat ∧
        s.pinWalk 0 (16 * (s.ctx 0).imageSize.toNat) (s.ctx 0).image.toNat = .bad) ∧
    ((pinningOne.ctx 0).pinning = true ∧ pinningOne.pinWaits 0 = false ∧ 91 ≤ (pinningOne.ctx 0).imageSize.toNat ∧
      (pinningOne.ctx 0).lpage = 0) ∧
    (∀ h ∈ [false, true], let s := (on {}).modCtx 0 (fun c => { c with halted := h });
      s.sees 0 0 = true ∧ (s.ctx 0).runBusy = false ∧ (s.ctx 0).halted = h ∧ (s.ctx 0).tearNext = false ∧ s.haltedCopies 0 = []) ∧
    (let s := (on {}).modCtx 0 (fun c => { c with runOp := some .halt, runBusy := true });
      (s.ctx 0).runOp = some .halt ∧ s.ctxQuiet 0 = true ∧ (s.ctx 0).tearNext = false) ∧
    (let s := (on {}).modCtx 0 (fun c => { c with runOp := some .teardown, runBusy := true });
      (s.ctx 0).runOp = some .teardown ∧ ∀ a ∈ s.accs, a.ctx ≠ 0) := by
  refine ⟨by decide +kernel, by decide +kernel, ⟨by decide +kernel, by decide +kernel, by decide +kernel, ?_⟩, by decide +kernel,
    by decide +kernel, by decide +kernel, by decide +kernel⟩
  have n : (((on {}).modCtx 0 (fun c => { c with pinning := true, imageSize := 91, image := 0x200000000000000 })).ctx 0).imageSize.toNat = 91 := by
    decide +kernel
  have z : (((on {}).modCtx 0 (fun c => { c with pinning := true, imageSize := 91, image := 0x200000000000000 })).ctx 0).image.toNat = 2 ^ 57 := by
    decide +kernel
  rw [n, z, show 16 * 91 = 1455 + 1 from rfl, State.pinWalk, if_pos (by decide)]

/-! ### Events: accesses and copies -/

theorem unwatched_of {s : State} (h : Memory.wf s.mem = true ∧ s.monitors = [] ∧ s.ucopies = [] ∧
    (s.threads.all (fun p => match p.2.waitFor with | .tbarWait _ _ => false | _ => true)) = true) : s.Unwatched :=
  { canonical := h.1, monitors := h.2.1, copies := h.2.2.1,
    barriers := fun p m a ph e => by
      have k := List.all_eq_true.mp h.2.2.2 p m
      rw [e] at k
      exact absurd k Bool.false_ne_true }

/-- A line of register `n` of group 0 on core 0. -/
def lineFor (s : State) (n : Nat) : RegLine :=
  { core := 0, ctx := 0, tag := s.lineAddr 0 n, n := n, vals := [], dirty := false, evictable := false, poison := 0, filling := false, used := 0 }
/-- A state with the lines of some registers of group 0. -/
def withLines (s : State) (l : List Nat) : State := { s with lines := l.map (lineFor s) }
theorem lines_of {s : State} {u n k : Nat} (h : gidOf u < 2 ^ 40 ∧ s.aliveAt u = true ∧ n + k ≤ 120 ∧
    ∀ i, i < k → (s.lineOf (gidOf u) (n + i)).isSome = true) : s.HasLines u n k := h

/-- A load, a store and an atomic whose only lane passes. -/
theorem witness_AccessesPass : ∀ i ∈ [Instr.ld 0 0 1 0, .st 0 0 1 0, .atom 0 1 2 0],
    (mapped (checking i 0x1000)).OnePasses (opAt i 0x1000) (laneAt 0 0x1000) { leaf := 0x1004F, loc := 0x11000 } := by
  have h : ∀ i ∈ [Instr.ld 0 0 1 0, .st 0 0 1 0, .atom 0 1 2 0], let s := mapped (checking i 0x1000); let o := opAt i 0x1000;
      s.ops.find? (fun x => x.id == s.subj.id) = some o ∧ (s.alive 0 = true ∧ (s.thread 0).waitFor = .check o.id ∧ (s.thread 0).inSet = none ∧
        gidOf 0 < 2 ^ 40) ∧ s.ucopies = [] := by decide +kernel
  intro i m
  refine { named := (h i m).1, lanes := rfl, waits := (h i m).2.1, copies := (h i m).2.2, passes := ?_ }
  have m : i = .ld 0 0 1 0 ∨ i = .st 0 0 1 0 ∨ i = .atom 0 1 2 0 := by simpa using m
  rcases m with rfl | rfl | rfl <;> exact ⟨_, rfl⟩

/-- An access of thread 0 that may be performed now, the lines of v0 and v1 present. -/
def due (k : AccKind) (i : Instr) (n : Nat) : State :=
  { withLines (atWord i) [0, 1] with issue := [], accs := [access k i 0x11000 n], subj := { id := 7 } }
theorem due_of {k : AccKind} {i : Instr} {n : Nat} (h : let s := due k i n;
    (Memory.wf s.mem = true ∧ s.monitors = [] ∧ s.ucopies = [] ∧
      (s.threads.all (fun p => match p.2.waitFor with | .tbarWait _ _ => false | _ => true)) = true) ∧
    s.accOf s.subj.id = some (access k i 0x11000 n) ∧ s.mayPerform (access k i 0x11000 n) = true ∧
    (s.ecc = [] ∧ s.poison = [] ∧ s.sectorKey = []) ∧ s.stale = []) : (due k i n).Due (access k i 0x11000 n) :=
  { unwatched_of h.1 with named := h.2.1, may := h.2.2.1, near := rfl, sound := h.2.2.2.1, current := .inr h.2.2.2.2 }
/-- A store, loads of four bytes, an atomic and a compare-and-swap of four bytes. -/
theorem witness_AccessesPerformed :
    ((due .store (.st 0 0 1 0) 4).Due (access .store (.st 0 0 1 0) 0x11000 4) ∧
      (due .store (.st 0 0 1 0) 4).sectorStores (access .store (.st 0 0 1 0) 0x11000 4) = [access .store (.st 0 0 1 0) 0x11000 4]) ∧
    (∀ i ∈ [Instr.ld 0 0 1 0, .lds 0 0 1 0], (due .load i 4).Due (access .load i 0x11000 4) ∧
      8 * 4 = tyWidth (hTy (access .load i 0x11000 4).hints 7) ∧ (due .load i 4).HasLines 0 0 1) ∧
    ((due .load (.ldk 1 0 0) 8).Due (access .load (.ldk 1 0 0) 0x11000 8) ∧
      hTy (access .load (.ldk 1 0 0) 0x11000 8).hints 12 ≠ 3 ∧ (due .load (.ldk 1 0 0) 8).alive 0 = true) ∧
    (∀ i ∈ [Instr.atom 0 1 2 0, .atoms 0 1 2 8, .atomcas 0 1 2, .atomscas 0 1 2], (due .atomic i 4).Due (access .atomic i 0x11000 4) ∧
      (due .atomic i 4).sameElement (access .atomic i 0x11000 4) = [access .atomic i 0x11000 4] ∧
      8 * 4 = tyWidth (hTy (access .atomic i 0x11000 4).hints 7) ∧ (due .atomic i 4).HasLines 0 0 1) := by
  have hl : ∀ i ∈ [Instr.ld 0 0 1 0, .lds 0 0 1 0], let s := due .load i 4;
      ((Memory.wf s.mem = true ∧ s.monitors = [] ∧ s.ucopies = [] ∧
        (s.threads.all (fun p => match p.2.waitFor with | .tbarWait _ _ => false | _ => true)) = true) ∧
      s.accOf s.subj.id = some (access .load i 0x11000 4) ∧ s.mayPerform (access .load i 0x11000 4) = true ∧
      (s.ecc = [] ∧ s.poison = [] ∧ s.sectorKey = []) ∧ s.stale = []) ∧ 8 * 4 = tyWidth (hTy (access .load i 0x11000 4).hints 7) ∧
      (gidOf 0 < 2 ^ 40 ∧ s.aliveAt 0 = true ∧ 0 + 1 ≤ 120 ∧ ∀ i, i < 1 → (s.lineOf (gidOf 0) (0 + i)).isSome = true) := by decide +kernel
  have ha : ∀ i ∈ [Instr.atom 0 1 2 0, .atoms 0 1 2 8, .atomcas 0 1 2, .atomscas 0 1 2], let s := due .atomic i 4;
      ((Memory.wf s.mem = true ∧ s.monitors = [] ∧ s.ucopies = [] ∧
        (s.threads.all (fun p => match p.2.waitFor with | .tbarWait _ _ => false | _ => true)) = true) ∧
      s.accOf s.subj.id = some (access .atomic i 0x11000 4) ∧ s.mayPerform (access .atomic i 0x11000 4) = true ∧
      (s.ecc = [] ∧ s.poison = [] ∧ s.sectorKey = []) ∧ s.stale = []) ∧
      s.sameElement (access .atomic i 0x11000 4) = [access .atomic i 0x11000 4] ∧ 8 * 4 = tyWidth (hTy (access .atomic i 0x11000 4).hints 7) ∧
      (gidOf 0 < 2 ^ 40 ∧ s.aliveAt 0 = true ∧ 0 + 1 ≤ 120 ∧ ∀ i, i < 1 → (s.lineOf (gidOf 0) (0 + i)).isSome = true) := by decide +kernel
  exact ⟨⟨due_of (by decide +kernel), by decide +kernel⟩, fun i m => ⟨due_of (hl i m).1, (hl i m).2⟩,
    ⟨due_of (by decide +kernel), by decide +kernel, by decide +kernel⟩, fun i m => ⟨due_of (ha i m).1, (ha i m).2⟩⟩
/-- An ACQ that its thread waits for; a barrier's start, and an acknowledgement of one with an arrival pending. -/
theorem witness_AcquireAndBarriers :
    (let s := (due .load (.acq 0 1 false) 8).modThread 0 (fun x => { x with waitFor := .result 7 });
      s.accOf s.subj.id = some (access .load (.acq 0 1 false) 0x11000 8) ∧ s.mayPerform (access .load (.acq 0 1 false) 0x11000 8) = true ∧
        s.alive 0 = true ∧ (s.thread 0).waitFor = .result 7 ∧ ∀ i, i < 2 → (s.lineOf 0 i).isSome = true) ∧
    (due .atomic (.tbarInit 1 2) 16).Due (access .atomic (.tbarInit 1 2) 0x11000 16) ∧
    (due .atomic (.tbarInit 1 2) 16).sameElement (access .atomic (.tbarInit 1 2) 0x11000 16) = [access .atomic (.tbarInit 1 2) 0x11000 16] ∧
    (let s := (due .atomic (.tbarAck 1) 16).setTbar 0x11000 { pending := 0, init := 1, pend := 1, phase := false, err := false };
      s.accOf s.subj.id = some (access .atomic (.tbarAck 1) 0x11000 16) ∧ s.mayPerform (access .atomic (.tbarAck 1) 0x11000 16) = true ∧
        Memory.wf s.mem = true ∧ s.sameElement (access .atomic (.tbarAck 1) 0x11000 16) = [access .atomic (.tbarAck 1) 0x11000 16] ∧
        0 < (s.tbar 0x11000).pend) :=
  ⟨by decide +kernel, due_of (by decide +kernel), by decide +kernel, by decide +kernel⟩

/-- A monitor of thread 0 on a word of zero. -/
def aMonitor (cmp : DWord) (w : MonWho) (p : MonPlace) : Monitor :=
  { id := 3, who := w, ctx := 0, at_ := 0, pa := 0x11000, size := 4, cc := 0, cmp := cmp, acq := false, scope := 0, dst := 0, place := p, hit := false }
/-- Lines of CFLUSH and PERSIST whose accesses may be made; a monitor polled at its time, its condition false and true. -/
theorem witness_MaintenanceAndMonitors :
    (∀ p ∈ [(AccKind.maintain, Instr.cflush 0 1 0), (.maintain, .cinv 0 1 0), (.persist, .persist 0 1 0)],
      let s := { due p.1 p.2 1 with subj := { id := 6 } };
      s.ucopies = [] ∧ s.lineAccs s.subj.id p.1 = some [access p.1 p.2 0x11000 1] ∧ (access p.1 p.2 0x11000 1).remote = false) ∧
    (let m := aMonitor 1 (.thread 0) (.poll 0); let s := { on { id := 3 } with monitors := [m] };
      s.ucopies = [] ∧ s.monitors.find? (fun m => m.id == s.subj.id) = some m ∧ 0 ≤ s.wall ∧ s.monitorHolds m = false) ∧
    (let m := aMonitor 0 (.thread 0) (.poll 0); let s := { on { id := 3 } with monitors := [m] };
      s.monitors.find? (fun m => m.id == s.subj.id) = some m ∧ s.monitorHolds m = true ∧ (s.ctx m.ctx).halted = false) := by decide +kernel

/-- A copy of core 0 whose one slice moves 64 bytes between two global addresses. -/
def aCopy (st : CpState) : Copy :=
  { id := 4, core := 0, place := 0, team := 0, bind := probeBind, cluster := 0, ctx := 0, launch := some 0, n := 0, state := st, was := st,
    slices := [{ group := 0, minor := 0, a := 0x1000, b := 0x2000, c := 64, k := [0, 0, 0] }], after := [], status := 0, count := 0, slice := 0,
    row := 0, prog := 0, window := 0, index := none, indexBad := false, buf := [], held := [], acked := false, entries := [], poison := false }
/-- The copy that the subject names, over mapped pages, with the launch that it belongs to. -/
def copying (c : Copy) : State := { mapped (on { id := 4 }) with copies := [c] }
theorem copyIs_of {c : Copy} (h : (copying c).copyOf (copying c).subj.id = some c ∧ c.id = (copying c).subj.id) : (copying c).CopyIs c := h
theorem unwatched_copying (c : Copy) : (copying c).Unwatched :=
  unwatched_of (s := copying c) (by
    have h : Memory.wf (mapped (on { id := 4 })).mem = true ∧ (mapped (on { id := 4 })).monitors = [] ∧ (mapped (on { id := 4 })).ucopies = [] ∧
        ((mapped (on { id := 4 })).threads.all (fun p => match p.2.waitFor with | .tbarWait _ _ => false | _ => true)) = true := by decide +kernel
    exact h)
theorem noBarrier_of {s : State} {c : Copy} (h : s.copyBars c = [] ∧ s.copyAck c = none) : s.NoBarrier c := h
/-- A copy that starts, and one of two unlike slices that fails with status 2. -/
theorem witness_CopyStart :
    (let c := aCopy .waiting; (copying c).CopyIs c ∧ (copying c).Unwatched ∧ c.state = .waiting ∧ (∀ a ∈ (copying c).accs, a.id ∉ c.after) ∧
      (copying c).startStatus c = 0 ∧ (copying c).copyEntries c = [] ∧ (∀ k, (copying c).sbUsed k = 0) ∧ (copying c).NoBarrier c) ∧
    (let c : Copy := { aCopy .waiting with slices := (aCopy .waiting).slices ++ [{ group := 1, minor := 1, a := 0, b := 0, c := 0, k := [] }] };
      (copying c).CopyIs c ∧ (copying c).startStatus c = 2 ∧ c.launch = some 0 ∧ (copying c).NoBarrier c) := by
  refine ⟨⟨copyIs_of (by decide +kernel), unwatched_copying _, by decide +kernel, by decide +kernel, by decide +kernel, by decide +kernel,
    fun k => ?_, noBarrier_of (by decide +kernel)⟩, copyIs_of (by decide +kernel), by decide +kernel, by decide +kernel, noBarrier_of (by decide +kernel)⟩
  unfold State.sbUsed
  rw [show (copying (aCopy .waiting)).copies = [aCopy .waiting] from rfl]
  rfl

theorem one_part {c : Copy} {j : Nat} {r : State × Except Halted Fetch} {p : Part}
    (h : (match r.2 with
      | .ok f => !f.inOrder && f.dests.length == 1 && f.copy.id == 4 &&
          (let d := ({ f.copy with poison := f.copy.poison || f.bad } : Copy).landed p.slice j
           (r.1.copyBars d).isEmpty && (r.1.copyAck d).isNone && !c.sharesSector p d)
      | _ => false) = true) :
    ∃ f m q, r = (r.1, .ok f) ∧ f.inOrder = false ∧ f.dests = [(m, q)] ∧ f.copy.id = 4 ∧
      (let d := ({ f.copy with poison := f.copy.poison || f.bad } : Copy).landed p.slice j
       r.1.NoBarrier d ∧ c.sharesSector p d = false) := by
  obtain ⟨s, e⟩ := r
  rcases e with e | f
  · cases h
  · simp only [Bool.and_eq_true, beq_iff_eq, List.isEmpty_iff, Option.isNone_iff_eq_none, Bool.not_eq_true'] at h
    obtain ⟨⟨m, q⟩, e⟩ := List.length_eq_one_iff.mp h.1.1.2
    exact ⟨f, m, q, rfl, h.1.1.1, e, h.1.2, h.2.1, h.2.2⟩
/-- The part of the copy's first sector. -/
def firstPart : Part := ((aCopy .moving).part 0).getD { slice := (aCopy .moving).block, off := 0, dst := 0, n := 0 }
/-- Its first sector can be read and written. -/
theorem witness_CopySectorLanded : let c := aCopy .moving; let s := copying c;
    s.CopyIs c ∧ c.buf = [] ∧ s.subj.w = false ∧ s.subj.a < 16 ∧ c.part s.subj.a = some firstPart ∧
    ∃ s' f m q, s.copyFetch c firstPart = (s', .ok f) ∧ f.inOrder = false ∧ f.dests = [(m, q)] ∧ s'.Unwatched ∧
      (s'.copyOf c.id).isSome = true ∧ f.copy.id = c.id ∧
      (let d := ({ f.copy with poison := f.copy.poison || f.bad } : Copy).landed firstPart.slice s.subj.a
       s'.NoBarrier d ∧ c.sharesSector firstPart d = false) := by
  obtain ⟨f, m, q, h, ho, hd, hx, hb⟩ := one_part (c := aCopy .moving) (j := 0)
    (r := (copying (aCopy .moving)).copyFetch (aCopy .moving) firstPart) (p := firstPart) (by decide +kernel)
  exact ⟨copyIs_of (by decide +kernel), rfl, by decide +kernel, by decide +kernel, by decide +kernel, _, f, m, q, h, ho, hd,
    unwatched_of (by decide +kernel), by decide +kernel, hx, hb⟩

/-- A copy that parks on a page without translation. -/
theorem witness_CopyPark : let c := aCopy .moving; let s : State := { on { id := 4 } with copies := [c] };
    s.copyOf s.subj.id = some c ∧ (s.copyStop c).2 = some (.park 0x1000 .format false) ∧ ((s.copyStop c).1).copyOf c.id = some c := by
  decide +kernel

/-- Copies of no bytes, which have landed: without a stamp, and with one at a mapped address; and one that retires. -/
def landedCopy (st : CpState) (stamp : DWord) : Copy :=
  { aCopy st with slices := [{ group := 0, minor := 0, a := 0x1000, b := 0x2000, c := 0, k := [0, stamp, 0] }], slice := 32 }
theorem witness_CopyStampAndRetire :
    (let c := landedCopy .moving 0; (copying c).CopyIs c ∧ c.state = .moving ∧ c.done = true ∧ c.block.stamp = 0) ∧
    (let c := landedCopy .moving 0x3000; (copying c).CopyIs c ∧ c.done = true ∧ c.block.stamp ≠ 0 ∧ c.block.stamp % 8 = 0 ∧
      ∃ s' p, (copying c).copyCheck c true c.block.stamp = (s', .ok p) ∧ s'.Unwatched ∧ s'.copies = (copying c).copies) ∧
    (let c := aCopy .stamping; (copying c).CopyIs c ∧ c.state = .stamping ∧ (copying c).groups = [] ∧ (copying c).clusters = []) := by
  refine ⟨⟨copyIs_of (by decide +kernel), by decide +kernel⟩, ⟨copyIs_of (by decide +kernel), by decide +kernel, by decide +kernel, by decide +kernel,
    copying (landedCopy .moving 0x3000), { leaf := 0x1004F, loc := 0x13000 }, rfl, unwatched_copying _, rfl⟩, copyIs_of (by decide +kernel),
    by decide +kernel⟩

/-! ### Events: times, launches, placement -/

/-- Thread 0 at a word whose line is in the buffer, no bundle formed. -/
def idleAt : State := { atWord .nop with issue := [] }
/-- Threads 0 and 1 there. -/
def idleTwo : State := idleAt.setThread 1 { Thread.reset with tstate := .run, age := 5 }
/-- The state that formation comes to on core 0. -/
def formed (s : State) : State := (s.nextClk.retryInstances.trimHeld.leaveFetchSets 0).svSwitch 0
theorem witness_BundleFormation : ((on {}).modDev (fun d => { d with tripped := true })).dev.tripped = true ∧ (atWord .nop).issue ≠ [] ∧
    (idleAt.dev.tripped = false ∧ idleAt.issue = [] ∧ idleAt.nextClk.retryInstances.trimHeld.busyCores = [0] ∧
      (formed idleAt).held = [] ∧ (formed idleAt).issue = [] ∧ (formed idleAt).readiness 0 = [(0, .yes)]) ∧
    (idleTwo.nextClk.retryInstances.trimHeld.busyCores = [0] ∧ idleTwo.issue = [] ∧
      (formed idleTwo).held = [] ∧ (formed idleTwo).readiness 0 = [(0, .yes), (1, .yes)] ∧ (formed idleTwo).older 0 1 = true ∧
      (formed idleTwo).isSup 1 = false) := by decide +kernel
/-- A line of instructions on its way whose page is mapped; one of a register; a join that has waited 16,384 clk; the ends of a stall and a
delay; a context whose bank is not filled. -/
theorem witness_TimesAndFills :
    (let s : State := (mapped (on { id := 0, c := 0, a := 64 })).modCore 0 (fun k => { k with ibuf := [{ ctx := 0, va := 64, words := none, used := 0 }] });
      (s.core 0).ibuf.any (fun l => l.ctx == s.subj.c && l.va == s.subj.a && l.words.isNone) = true ∧ s.answers 0x11000 = true ∧
        s.ucopies = [] ∧ s.ecc = [] ∧ s.poison = [] ∧ s.sectorKey = []) ∧
    (let s := (mapped (on { id := 0, c := 0, a := 64 })).modCore 0 (fun k => { k with ibuf := [{ ctx := 0, va := 64, words := none, used := 0 }] });
      s.check 0 0 false .fetch (64 * 64) = (s, .ok { leaf := 0x1004F, loc := 0x11000 })) ∧
    (let s : State := { atWord .nop with subj := { a := (atWord .nop).lineAddr 0 3 }, lines := [{ lineFor (atWord .nop) 3 with filling := true }] };
      s.line 0 s.subj.c s.subj.a = some { lineFor (atWord .nop) 3 with filling := true }) ∧
    (let s : State := { stacked .nop 1 [{ join := 0, pending := 1, since := some 0 }] with clk := 16384 };
      (s.team 0).bind.state = .runnable ∧ (s.team 0).stopping = false ∧ (s.team 0).rstack = [{ join := 0, pending := 1, since := some 0 }] ∧ 0 + 16384 ≤ s.clk) ∧
    (let s : State := { (atWord .nop).modThread 0 (fun x => { x with stallTill := 1, waitFor := .yieldDelay 1 }) with clk := 1 };
      (s.thread 0).stallTill ≠ 0 ∧ (s.thread 0).stallTill ≤ s.clk ∧ (s.thread 0).waitFor = .yieldDelay 1) ∧
    (let s := bound (on { a := 0 }); (s.core 0).ctxs[s.subj.a]? = some 0 ∧ (0 : Nat) ≠ 0xFF ∧ s.bankReady 0 0 = false) :=
  ⟨by decide +kernel, rfl, by decide +kernel, by decide +kernel, by decide +kernel, by decide +kernel⟩

/-- A launch of one cluster of one team, for context 0. -/
def aLaunch (st : QState) : Launch :=
  { state := st, ctx := 0, groups := 1, cls := 0, code := 0, gx := 1, gy := 1, gz := 1, w := 1, h := 1, order := 0, swizzle := 0, startAddr := 0,
    startValue := 0, doneAddr := 0, doneTag := 9, dieSel := 0, prio := 3, kargs := [], entryPc := 0, regs := 8, scratch := 0, next := 0,
    doneClusters := 0, served := [], seq := 0, effPrio := 3, ageFrom := 0, poison := false, faulted := false, copyErr := false, deadlock := false,
    conds := 0, stampBatch := none, stampFault := false }
/-- A launch that has finished. -/
def finished (done : DWord) : Launch := { aLaunch .placed with next := 1, doneClusters := 1, doneAddr := done }
theorem witness_LaunchEvents :
    (let m := aMonitor 0 (.launch 0) .entry; let s : State := { on {} with launches := [(0, aLaunch .waiting)], monitors := [m] };
      s.launches.find 0 = some (aLaunch .waiting) ∧ s.ucopies = [] ∧ s.monitors.find? (fun m => m.who == .launch 0) = some m ∧ s.monitorHolds m = true) ∧
    (∀ st ∈ [QState.eligible, .placing], let s : State := { on {} with wall := 10000 * oneUs, launches := [(0, aLaunch st)] };
      s.launches.find 0 = some (aLaunch st) ∧ (aLaunch st).effPrio < 7 ∧ (aLaunch st).ageFrom + 10000 * oneUs ≤ s.wall) ∧
    (let l := { aLaunch .eligible with effPrio := 7 }; let s : State := { on {} with wall := 10000 * oneUs, launches := [(0, l)] };
      s.launches.find 0 = some l ∧ l.ageFrom + 10000 * oneUs ≤ s.wall) ∧
    (let s : State := { on {} with launches := [(0, finished 0)] };
      s.launches.find 0 = some (finished 0) ∧ s.complete 0 (finished 0) = true ∧ (finished 0).stampBatch = none) ∧
    (let s : State := { mapped (on {}) with launches := [(0, finished 0x3000)] };
      s.launches.find 0 = some (finished 0x3000) ∧ s.complete 0 (finished 0x3000) = true) ∧
    (let s : State := { mapped (on {}) with launches := [(0, finished 0x3000)] };
      ∃ s' p, (s.settleLaunch 0 (finished 0x3000)).check (0 / 1024 * 144) 0 false .write 0x3000 = (s', .ok p) ∧
        s'.answers p.loc = true ∧ s'.Unwatched) :=
  ⟨by decide +kernel, by decide +kernel, by decide +kernel, by decide +kernel, by decide +kernel, _, { leaf := 0x1004F, loc := 0x13000 }, rfl,
    by decide +kernel, unwatched_of (by decide +kernel)⟩

/-- A die whose column 0 is ready, context 0 with a pinned arena of 16 MiB and an instance on each of the column's cores. -/
def column : State :=
  let s := ((on {}).modBoot (fun b => { b with colReady := 1 })).modCtx 0 (fun c => { c with pinned := true, imageSize := 256 })
  { s with teams := (List.range 12).map (fun r => (teamKey (12 * r) 128, { Team.reset with kind := .supervisor, bind := { Bind.reset with state := .runnable } })) }
theorem witness_PlacementRound : let s : State := { column with launches := [(0, aLaunch .eligible)] };
    s.boot.ready.getLsbD 2 = true ∧ s.clusters = [] ∧ (s.ctx 0).weight ≠ 0 ∧ (s.nextItem 0 (aLaunch .eligible) false).isSome = true ∧
      (∀ i ∈ (s.nextItem 0 (aLaunch .eligible) false).toList, s.spots i 0 [] ≠ [] ∧ ∀ o ∈ s.spots i 0 [], s.hasInstance (0 * 144 + o) 0 = true) ∧
      (∀ p ∈ s.teams, 64 ≤ entryOfTeam p.1) ∧ (∀ p ∈ s.ctxs, p.2.credit = []) := by decide +kernel

/-- A cluster of one team on core 0. -/
def resident (st : CState) (b : SlotState) (scratch : Nat) (s : State) : State :=
  { s with clusters := [(0, aCluster st)],
           teams := s.teams.put 0 { Team.reset with cluster := 0, bind := { probeBind with state := b, scratchSize := scratch } } }
/-- An idle cluster holds the scratch that a launch of twelve teams needs on core 0. -/
theorem witness_ClusterIdle : let l : Launch := { aLaunch .eligible with h := 12, scratch := 200000, seq := 1 };
    let s : State := { resident .runnable .runnable 200000 column with launches := [(0, finished 0), (1, l)] };
    s.clusters.find 0 = some (aCluster .runnable) ∧ s.mayPreempt (aCluster .runnable) = true ∧ s.idle (aCluster .runnable) = true ∧
      (1, l) ∈ s.wanting ∧ 0 ∈ s.victimsFor 1 l := by decide +kernel
/-- A bound cluster of one team that may be dispatched. -/
theorem witness_DispatchRunnable : let s := resident .bound .bound 0 (on {}); let c := aCluster .bound;
    s.clusters.find 0 = some c ∧ c.rebound = false ∧ c.writeback = false ∧ (∃ m, c.members = [m] ∧ m.exited = false ∧ teamKey m.core m.entry = 0 ∧ m.entry < 192) ∧
      s.ctxFree (s.ctxOfCluster 0) = true ∧ s.refused 0 = false ∧ (s.groupsOf 0).any (fun g => (s.group g).live) = false ∧ (s.team 0).kind = .user :=
  ⟨by decide +kernel, by decide +kernel, by decide +kernel, ⟨_, rfl, by decide +kernel⟩, by decide +kernel⟩

/-! ### Events: pre-emption -/

theorem no_groups {s : State} (h : s.groups = []) (g : Nat) :
    (s.group g).rdv = none ∧ (s.group g).copyRdv = none ∧ (s.group g).quads = [] := by
  unfold State.group; rw [h]; exact ⟨rfl, rfl, rfl⟩
/-- A cluster that is being pre-empted: its team has not been ordered to stop, or it has stopped. -/
def leavingTeam (b : SlotState) (stop : Bool) : State :=
  (resident .stopping b 1024 (on {})).modTeam 0 (fun m => { m with stopping := stop })
/-- What a cluster keeps of a stopped team of one group. -/
def kept : Team := { Team.reset with cluster := 0, bind := { probeBind with state := .preempted } }
/-- A cluster that has been bound again. -/
def rebound (wb : Bool) : Cluster :=
  { aCluster .bound with writeback := wb, rebound := true,
                         members := (aCluster .bound).members.map (fun m => { m with savedTeam := some kept }) }
theorem witness_PreemptionEvents :
    (let s := leavingTeam .runnable false; let c := aCluster .stopping;
      s.clusters.find (s.team 0).cluster = some c ∧ c.state = .stopping ∧ (s.team 0).kind = .user ∧ (s.team 0).bind.state = .runnable ∧
        (s.issue = [] ∧ s.held = [] ∧ s.ops = [] ∧ s.copies = [] ∧ ∀ a ∈ s.accs, a.kind ≠ .persist) ∧
        ∀ g, (s.group g).rdv = none ∧ (s.group g).copyRdv = none ∧ (s.group g).quads = []) ∧
    (let s := leavingTeam .preempted true; let c := aCluster .stopping;
      (∃ m, s.clusters.find 0 = some c ∧ c.members[s.subj.b]? = some m ∧ m.exited = false ∧ m.savedTeam = none ∧
        (s.team (teamKey m.core m.entry)).cluster = 0 ∧ (s.team (teamKey m.core m.entry)).bind.team = s.subj.b ∧
        s.teamStopped (teamKey m.core m.entry) = true) ∧ s.Unwatched) ∧
    (let s : State := { resident .bound .bound 1024 (on {}) with clusters := [(0, rebound true)] };
      s.clusters.find 0 = some (rebound true) ∧ (rebound true).state = .bound ∧ (rebound true).writeback = true) ∧
    (let s : State := { resident .bound .bound 1024 (on {}) with clusters := [(0, rebound false)] };
      (∃ m, s.clusters.find 0 = some (rebound false) ∧ (rebound false).members = [m] ∧ m.savedTeam = some kept ∧ m.entry < 192 ∧
        (s.team (teamKey m.core m.entry)).kind = .user ∧ ∀ p ∈ m.savedThreads, p.2.waitFor = .nothing) ∧
      ((rebound false).state = .bound ∧ (rebound false).rebound = true ∧ (rebound false).writeback = false) ∧
      (s.copies = [] ∧ s.quar = [] ∧ s.requests = [] ∧ s.unitsRoom (s.ctxOfCluster 0) (rebound false) = true ∧
        s.ctxFree (s.ctxOfCluster 0) = true) ∧ s.Unwatched) := by
  refine ⟨⟨by decide +kernel, rfl, by decide +kernel, by decide +kernel, by decide +kernel, no_groups (by decide +kernel)⟩,
    ⟨⟨_, by decide +kernel, rfl, rfl, rfl, by decide +kernel, by decide +kernel, by decide +kernel⟩, unwatched_of (by decide +kernel)⟩,
    by decide +kernel,
    ⟨_, by decide +kernel, rfl, rfl, by decide, by decide +kernel, by decide⟩, by decide +kernel, by decide +kernel,
    unwatched_of (by decide +kernel)⟩

/-! ### Events: active messages -/

/-- A message of context 0 to a device and core. -/
def aMsg (dev core : Nat) : Msg :=
  { dev := deviceId.toNat, ctx := 0, group := 7, core := 4, launch := none, dstDev := dev, dstCore := core, dstCtx := 0, handler := 0, len := 0,
    payload := List.replicate 16 5, since := none, batch := none, page := 0, reason := 0, failed := false }
theorem elsewhere : (4096 : Nat) ≠ deviceId.toNat := fun h => absurd deviceId.isLt (by rw [← h]; decide)
/-- Core 4 holds a message. -/
def sending (m : Msg) (s : State) : State := s.modCore 4 (fun c => { c with outbound := [m] })
/-- Context 0 takes messages: its handler 0 is the kernel of a code object at 0x1000, with 8 registers, under mapped pages. -/
def handled : State :=
  let s := (mapped (on {})).modCtx 0 (fun c => { c with amGroup := 7, htab := 0, pinned := true, image := 0x10000000000, imageSize := 256 })
  let s := s.modBoot (fun b => { b with colReady := 1 })
  let s := s.writeN 0x10000 16 (0x1000 + 2 ^ 80)
  let s := s.writeN 0x11000 64 (0x5A39C0DE + 2 ^ 32 + 2 ^ 320 + 2 ^ 352 + 0x40 * 2 ^ 384 + 0x60 * 2 ^ 416)
  let s := s.writeN 0x11040 16 (1 + 2 * 2 ^ 8 + 0x100 * 2 ^ 32 + 64 * 2 ^ 64)
  s.writeN 0x11060 32 (8 * 2 ^ 32)
theorem ok_of {σ ε α : Type} {r : σ × Except ε α} {p : α → Bool}
    (h : (match r.2 with | .ok x => p x | .error _ => false) = true) : ∃ x, r = (r.1, .ok x) ∧ p x = true := by
  obtain ⟨s, e | x⟩ := r
  · cases h
  · exact ⟨x, rfl, h⟩
theorem some_of {σ α : Type} {r : σ × Option α} (h : r.2.isSome = true) : ∃ x, r = (r.1, some x) := by
  obtain ⟨s, _ | x⟩ := r
  · cases h
  · exact ⟨x, rfl⟩
theorem none_of {σ α : Type} {r : σ × Option α} (h : r.2.isNone = true) : r = (r.1, none) := by
  obtain ⟨s, _ | x⟩ := r
  · rfl
  · cases h
/-- A message for another device, taken and refused for want of a link. -/
theorem witness_AmDeparture : (let s := sending (aMsg 4096 0) (on { id := 4 });
      s.subj.w = false ∧ (s.core 4).outbound = [aMsg 4096 0] ∧ s.ctxFree 0 = true ∧ (aMsg 4096 0).dstDev ≠ deviceId.toNat ∧
        s.boot.ready.extractLsb' 6 4 ≠ 0 ∧ s.subj.a = 0) ∧
    (let s := (sending (aMsg 4096 0) (on { id := 4 })).modBoot (fun b => { b with ready := 0x1C3F });
      s.subj.w = false ∧ (s.core 4).outbound = [aMsg 4096 0] ∧ s.ctxFree 0 = true ∧ (aMsg 4096 0).dev = deviceId.toNat ∧
        s.boot.ready.extractLsb' 6 4 = 0) :=
  ⟨⟨by decide +kernel, rfl, by decide +kernel, elsewhere, by decide +kernel, by decide +kernel⟩, by decide +kernel, rfl, by decide +kernel, rfl,
    by decide +kernel⟩
/-- A message for core 0 of this device that joins the inbox of its die. -/
theorem witness_AmDelivery : let m := aMsg deviceId.toNat 0; let s := { sending m handled with subj := { id := 4 } };
    (s.core 4).outbound = [m] ∧ m.dstDev = deviceId.toNat ∧ (s.inboxOf 0).length < 256 ∧ s.amRefusal m 0 = ((s.amRefusal m 0).1, none) :=
  ⟨rfl, rfl, by decide +kernel, none_of (by decide +kernel)⟩
/-- Its handler, which may start on core 0. -/
theorem witness_HandlerStart : let m := aMsg 0 0; let s : State := { handled with inbox := [(0, m)] };
    (s.inbox[0]? = some (0, m) ∧ m.failed = false ∧ m.batch = none ∧ amAfter ((s.inbox.take 0).map (·.2)) m = false ∧ m.payload.length = 16) ∧
    s.handlerCore 0 m = some 0 ∧
    ∃ s1 s2 s3 code kern k1 off, s.handlerEntry 0 m.dstCtx m.handler = (s1, .ok (code, kern)) ∧
      s1.handlerKernel 0 m.dstCtx code kern = (s2, .ok k1) ∧ s2.arenaTake m.dstCtx (pageUp (imageSize 1 k1.regs)) = (s3, some off) ∧
      s3.slotsFree 0 ≠ [] ∧ (s3.lines.filter (fun l => l.core == 0)).length + 18 ≤ lineCapacity := by
  intro m s
  obtain ⟨p, h1, hp⟩ := ok_of (r := s.handlerEntry 0 0 0) (p := fun p => decide (p = (0x1000, 0))) (by decide +kernel)
  have hp := of_decide_eq_true hp
  obtain ⟨k1, h2, hk⟩ := ok_of (r := ((s.handlerEntry 0 0 0).1).handlerKernel 0 0 0x1000 0) (p := fun k => decide (k.regs = 8)) (by decide +kernel)
  have hk := of_decide_eq_true hk
  obtain ⟨off, h3⟩ := some_of (r := ((((s.handlerEntry 0 0 0).1).handlerKernel 0 0 0x1000 0).1).arenaTake 0 (pageUp (imageSize 1 8)))
    (by decide +kernel)
  refine ⟨⟨rfl, rfl, rfl, rfl, rfl⟩, by decide +kernel, _, _, _, 0x1000, 0, k1, off, hp ▸ h1, h2, hk.symm ▸ h3, ?_, ?_⟩
  · rw [hk]; decide +kernel
  · rw [hk]; decide +kernel
/-- A message that has waited 20 µs for a slot of core 0, whose one team leaves. -/
theorem witness_AmWait : let m : Msg := { aMsg 0 0 with since := some 0 };
    let full : State := (resident .runnable .runnable 0 handled).modTeam 0 (fun t => { t with bind := { t.bind with slots := BitVec.allOnes 128 } });
    let s : State := { full with inbox := [(0, m)], wall := 20 * oneUs, launches := [(0, finished 0)] };
    s.inbox[0]? = some (0, m) ∧ m.since = some 0 ∧ 0 + 20 * oneUs ≤ s.wall ∧ s.amLack 0 m = some 0 ∧ (∀ p ∈ s.clusters, p.2.state ≠ .stopping) ∧
      s.amVictim 0 = some 0 :=
  ⟨rfl, rfl, by decide +kernel, by decide +kernel, by decide +kernel, by decide +kernel⟩

/-! ### Events: waits and batches -/

/-- A team whose one thread waits at the team barrier 1, as at the last walk. -/
def stuck : State :=
  let s := resident .runnable .runnable 0 (on {})
  let w : WEntry := { id := 1, die := 0, kind := .bar, obj := 1, gid := 0, tids := [0], armedAt := 0, seq := 1 }
  let s : State := { s with groups := [(0, { Group.reset with live := true })], wft := [w], launches := [(0, finished 0)],
                            threads := [(0, { Thread.reset with tstate := .wait, waitFor := .bar 1, waitDst := 3 })] }
  { s with lastCycle := s.cycle, lastWaits := s.waitPairs }
/-- An open batch of context 0 whose queue lies at the start of the host's range. -/
def aBatch (posted : Bool) : Batch :=
  { id := 2, ctx := 0, die := 0, seq := 1, posted := posted, loc := 2 ^ 51, openedAt := 0,
    entries := [{ page := 0x5000, reason := .notPresent, pred := false, write := false, fetch := false }], cands := [] }
/-- The machine with that batch. -/
def batched (b : Batch) : State :=
  { (on { id := 2 }).modCtx 0 (fun c => { c with fqEnable := true, fqSize := 6, fqBase := 0x8000000000000 }) with batches := [b], wall := oneUs }
theorem witness_Waits : ((on {}).nextWalk ≤ (on {}).wall ∧ (on {}).youngest (on {}).cycleTwice = none) ∧
    (stuck.nextWalk ≤ stuck.wall ∧ (∃ e, stuck.youngest stuck.cycleTwice = some e ∧ e.kind = .bar ∧ e.tids = [0]) ∧ stuck.Unwatched ∧
      (∃ c l, stuck.clusters.find (stuck.placeOf 0).1 = some c ∧ stuck.launches.find c.launch = some l) ∧
      (withLines stuck [3]).HasLines 0 3 1) := by
  refine ⟨by decide +kernel, by decide +kernel, ?_, unwatched_of (by decide +kernel), ?_, lines_of (by decide +kernel)⟩
  · exact ⟨{ id := 1, die := 0, kind := .bar, obj := 1, gid := 0, tids := [0], armedAt := 0, seq := 1 }, by decide +kernel⟩
  · exact ⟨aCluster .runnable, finished 0, by decide +kernel⟩
/-- A batch that is due; one whose DONE word ends it, with a set that waits on it; and an entry. -/
theorem witness_FaultBatches : (let s := batched (aBatch false); let b := aBatch false;
      (s.batches.find? (fun b => b.id == s.subj.id) = some b ∧ s.batchDue b = true ∧ (s.ctx b.ctx).fqOn = true ∧ s.batchTurn b = true ∧
        s.subj.w = false ∧ s.linkUp (s.ctx b.ctx).fqBase.toNat = true) ∧ s.Unwatched) ∧
    (let b := aBatch true; let x := aSet .lane .parked;
      let s := ({ batched b with sets := [x] } : State).writeN (2 ^ 51) 8 (2 ^ 32 + 1);
      (s.batches.find? (fun b => b.id == s.subj.id) = some b ∧ b.posted = true ∧ doneMask b.seq (s.readN b.loc 8) = some 0 ∧ s.sets = [x] ∧
        x.ctx = b.ctx ∧ x.batch = b.seq.toNat ∧ b.seq ≠ 0 ∧ x.unit ≠ .copy ∧ x.held = 0 ∧ x.gid < 2 ^ 40 ∧
        ∀ p ∈ s.threads, p.2.waitFor ≠ .hold) ∧ s.Unwatched) ∧
    (∃ (e : BEntry) (p : BitVec 45), e.page = 4096 * p.toNat) :=
  ⟨⟨by decide +kernel, unwatched_of (by decide +kernel)⟩, ⟨by decide +kernel, unwatched_of (by decide +kernel)⟩,
    { page := 0x5000, reason := .notPresent, pred := false, write := false, fetch := false }, 5, rfl⟩

/-! ### Events: engines -/

/-- A TZERO of tile 1 under a configuration of two tiles of 64 by 64, in two units of team 0. -/
def aRequest (i : Instr) : MReq :=
  { id := 5, core := 0, ctx := 0, team := some 0, tid := 0, launch := none, ticket := 1, instr := i, block := 1, tcb := 0x24040100001,
    units := [0, 1], base := 0, regs := 8, lines := [], seed := 0, src := 0, dead := 0 }
/-- Team 0 with a running thread 0 that waits as given. -/
def ticketed (w : WaitFor) : State :=
  let s := resident .runnable .runnable 1024 (on {})
  { s with groups := [(0, { Group.reset with live := true })], threads := [(0, { Thread.reset with tstate := .wait, waitFor := w })] }
theorem witness_MatrixRequest : let s : State := { ticketed (.ticket 1) with mreqs := [aRequest (.tzero 0 1 false)] };
    let q := aRequest (.tzero 0 1 false);
    s.mreqs.find? (fun q => q.core == s.subj.id) = some q ∧ s.reqWaits q = false ∧ q.team = some 0 ∧ 0 ∈ s.threadsOf 0 ∧ s.alive 0 = true ∧
      (s.thread 0).waitFor = .ticket 1 ∧ ((s.team 0).dn + 1 - 1).toNat < 2 ^ 31 ∧
      q.block ≠ BitVec.allOnes 512 ∧ 1 = q.block.toNat ∧ 0 < tcM q.tcb * tcN q.tcb := by decide +kernel
/-- A TCFG that waits for units, all of which are free. -/
theorem witness_TcfgUnits : let i := Instr.tcfg 0 1 false;
    let b : BitVec 512 := 0x011010111101;
    let s : State := ({ withLines (ticketed .tcfg) [0] with ops := [opAt i 0], subj := { id := 6 } } : State).modTeam 0
      (fun m => { m with nextTcb := some b });
    let o := opAt i 0; let l := laneAt 0 0;
    s.ops.find? (fun o => o.id == s.subj.id) = some o ∧ o.lanes = [l] ∧ (s.thread l.tid).waitFor = .tcfg ∧ (s.thread l.tid).inSet = none ∧
      (s.team (s.teamOf l.tid)).nextTcb = some b ∧ s.unitsFree o l b = true ∧ tcbRelease b = false ∧
      (gidOf l.tid < 2 ^ 40 ∧ s.aliveAt l.tid = true ∧ (∀ j, j < 1 → (s.lineOf (gidOf l.tid) j).isSome = true)) := by decide +kernel
/-- A walk that has nothing left to visit. -/
def endedWalk : Walk :=
  { block := some [], vbChecked := true, scene := some [], inst := none, leafNext := 0, stack := [], rays := [] }
/-- Thread 0 waits for an operation of a unit, its destination's lines present. -/
def unitAt (o : Op) : State :=
  { withLines (ticketed (.check 6)) [0, 1, 2, 3, 4, 5, 6, 7] with ops := [o], subj := { id := 6 } }
theorem oneLane_of {s : State} {o : Op} {l : Lane} (h : s.ops.find? (fun x => x.id == s.subj.id) = some o ∧ o.lanes = [l] ∧
    ((s.thread l.tid).waitFor = .check o.id ∧ (s.thread l.tid).inSet = none) ∧ s.readsReady l.tid = true ∧ s.ucopies = []) : s.OneLane o l :=
  { named := h.1, lanes := h.2.1, waits := h.2.2.1, reads := h.2.2.2.1, copies := h.2.2.2.2 }
theorem witness_WalkEnd : let o : Op := { opAt (.trace 0 8) 0 with walk := some endedWalk }; let s := unitAt o; let l := laneAt 0 0;
    s.OneLane o l ∧ o.walk = some endedWalk ∧ ∃ s' w', s.walkRun o l 4096 endedWalk = (s', .done w') ∧ s'.thread l.tid = s.thread l.tid ∧
      s'.HasLines l.tid 0 8 :=
  ⟨oneLane_of (by decide +kernel), rfl, _, _, rfl, rfl, lines_of (by decide +kernel)⟩
theorem witness_TextureEnd : let o : Op := { opAt (.tex 0 8 12) 0 with stage := 1 }; let s := unitAt o; let l := laneAt 0 0;
    s.OneLane o l ∧ o.stage = 1 ∧ ∃ s' v, s.texOne o l = (s', .value v []) ∧ s'.thread l.tid = s.thread l.tid ∧ s'.HasLines l.tid 0 4 :=
  ⟨oneLane_of (by decide +kernel), rfl, _, _, rfl, rfl, lines_of (by decide +kernel)⟩

/-- A store with a full batch in die 0's ring; a commit before and after its exchange, its last die still to switch. -/
def cached (c : Option Commit) (d : MarlDie) : State :=
  let s := owning (ticketed (.result 0))
  { s with marl := { s.marl with commit := c, die0 := d, die1 := { MarlDie.reset with toSwitch := false } } }
theorem witness_RadianceEvents :
    (let s := cached none { MarlDie.reset with ring := List.replicate (2 ^ smallNet.batchLog2) [] };
      s.marl.cfg = some smallNet ∧ 2 ^ smallNet.batchLog2 ≤ (s.marl.die 0).ring.length ∧ s.rccfgBusy = false ∧ s.marl.commit = none) ∧
    (let c : Commit := { exchanged := false, waiters := [0], later := [], folded := 0 };
      (cached (some c) MarlDie.reset).marl.commit = some c ∧ (cached (some c) MarlDie.reset).marl.cfg = some smallNet) ∧
    (let c : Commit := { exchanged := true, waiters := [0], later := [], folded := 3 };
      let s := cached (some c) { MarlDie.reset with toSwitch := true };
      let s2 : State := { s with marl := { s.marl with die1 := s.marl.die0 } };
      (s2.marl.commit = some c ∧ (s2.marl.die 0).toSwitch = true ∧ (s2.marl.die 1).toSwitch = true) ∧
      s.marl.commit = some c ∧ s.marl.die0.toSwitch = true ∧ s.marl.die1.toSwitch = false ∧ c.waiters = [0] ∧ c.later = [] ∧
        (s.thread 0).waitFor = .result 0 ∧ (withLines s [0, 1]).HasLines 0 0 2) :=
  ⟨by decide +kernel, by decide +kernel, by decide +kernel, by decide +kernel, by decide +kernel, by decide +kernel, rfl, rfl, by decide +kernel,
    lines_of (by decide +kernel)⟩

end Sys2Proof.Tests
end

section
/-! PROOFS. What no unit, copy, trap or teardown changes: the boot registers, CTX_LPAGE and CTX_SVCODE of every context. One
equation for each operation that the teardown of a context (21 R446) and the creation of its supervisor (06 R119) are made of. -/
namespace Sys2Proof.Machine

/-- What only the host's writes and the module's resets set: the boot registers, CTX_LPAGE and CTX_SVCODE of every context. -/
def State.setup (s : State) : Boot × (Nat → DWord × DWord) := (s.boot, fun c => ((s.ctx c).lpage, (s.ctx c).svcode))

theorem State.setup_boot {s t : State} (h : t.setup = s.setup) : t.boot = s.boot := congrArg Prod.fst h
theorem State.setup_lpage {s t : State} (h : t.setup = s.setup) (c : Nat) : (t.ctx c).lpage = (s.ctx c).lpage :=
  congrArg (fun x => (x.2 c).1) h
theorem State.setup_svcode {s t : State} (h : t.setup = s.setup) (c : Nat) : (t.ctx c).svcode = (s.ctx c).svcode :=
  congrArg (fun x => (x.2 c).2) h

/-! ### Composition -/

@[simp] theorem State.setup_ite {p : Prop} [Decidable p] (s t : State) : (if p then s else t).setup = if p then s.setup else t.setup :=
  apply_ite _ _ _ _
@[simp] theorem State.setup_fst_ite {α : Type} {p : Prop} [Decidable p] (x y : State × α) :
    (if p then x else y).1.setup = if p then x.1.setup else y.1.setup := apply_ite (fun x : State × α => x.1.setup) _ _ _
/-- What an operation with an answer keeps, at the state that a match names. -/
theorem State.setup_of {α : Type} {s t : State} {x : State × α} {r : α} (e : x = (t, r)) (h : x.1.setup = s.setup) :
    t.setup = s.setup := by
  rw [e] at h; exact h
theorem State.setup_foldl {α : Type} (l : List α) (f : State → α → State) (h : ∀ s x, (f s x).setup = s.setup) (s : State) :
    (l.foldl f s).setup = s.setup := by
  induction l generalizing s with
  | nil => rfl
  | cons x r ih => exact (ih (f s x)).trans (h s x)

/-! ### Records and tables

The equations of plain record updates are closed by `(rfl)`, so that `simp` rewrites with them: as definitional equations they would leave
the kernel to compare whole states. -/

section
variable (s : State)
@[simp] theorem State.setup_setThread (t : Nat) (v : Thread) : (s.setThread t v).setup = s.setup := (rfl)
@[simp] theorem State.setup_modThread (t : Nat) (f : Thread → Thread) : (s.modThread t f).setup = s.setup := (rfl)
@[simp] theorem State.setup_setGroup (g : Nat) (v : Group) : (s.setGroup g v).setup = s.setup := (rfl)
@[simp] theorem State.setup_modGroup (g : Nat) (f : Group → Group) : (s.modGroup g f).setup = s.setup := (rfl)
@[simp] theorem State.setup_setTeam (k : Nat) (v : Team) : (s.setTeam k v).setup = s.setup := (rfl)
@[simp] theorem State.setup_modCore (c : Nat) (f : Core → Core) : (s.modCore c f).setup = s.setup := (rfl)
@[simp] theorem State.setup_modFunc (k : Nat) (f : Func → Func) : (s.modFunc k f).setup = s.setup := (rfl)
@[simp] theorem State.setup_modDev (f : Dev → Dev) : (s.modDev f).setup = s.setup := (rfl)
@[simp] theorem State.setup_free : s.free.2.setup = s.setup := (rfl)
/-- A change of other registers of a context. -/
theorem State.setup_modCtx (c : Nat) (f : Ctx → Ctx) (h : ∀ x, (f x).lpage = x.lpage ∧ (f x).svcode = x.svcode) :
    (s.modCtx c f).setup = s.setup := by
  refine Prod.ext rfl (funext fun k => ?_)
  simp only [State.setup, State.ctx_modCtx]
  split
  · next e => subst e; exact Prod.ext (h _).1 (h _).2
  · rfl
@[simp] theorem State.setup_modLaunch (q : Nat) (f : Launch → Launch) : (s.modLaunch q f).setup = s.setup := by
  rw [(s.modLaunch_eq q f).1]; rfl
@[simp] theorem State.setup_modCluster (k : Nat) (f : Cluster → Cluster) : (s.modCluster k f).setup = s.setup := by
  rw [(s.modCluster_eq k f).1]; rfl
@[simp] theorem State.setup_modOut (q : Option Nat) (core : Nat) (f : Outst → Outst) : (s.modOut q core f).setup = s.setup := by
  cases q <;> rfl
@[simp] theorem State.setup_setByte (a : Nat) (b : Byte) : (s.setByte a b).setup = s.setup := (rfl)
@[simp] theorem State.setup_setBytes (a : Nat) (bs : List Byte) : (s.setBytes a bs).setup = s.setup := by
  rw [setBytes_eq]; rfl
@[simp] theorem State.setup_writeN (a n x : Nat) : (s.writeN a n x).setup = s.setup := s.setup_setBytes a _

/-! ### Bytes, poison, array faults -/

@[simp] theorem State.setup_poisonSector (sec : Nat) : (s.poisonSector sec).setup = s.setup := by
  unfold State.poisonSector; split <;> rfl
@[simp] theorem State.setup_cleanSector (sec : Nat) : (s.cleanSector sec).setup = s.setup := (rfl)
@[simp] theorem State.setup_dropReplicas (pa : Nat) : (s.dropReplicas pa).setup = s.setup := (rfl)
@[simp] theorem State.setup_keepOld (sec : Nat) : (s.keepOld sec).setup = s.setup := (rfl)
@[simp] theorem State.setup_dirtyFrame (loc : Nat) : (s.dirtyFrame loc).setup = s.setup := (rfl)
@[simp] theorem State.setup_logLasting (u sec : Nat) (p : Bool) : (s.logLasting u sec p).setup = s.setup := (rfl)
@[simp] theorem State.setup_with_sectorKey (t : Tab Nat) : State.setup { s with sectorKey := t } = s.setup := (rfl)
@[simp] theorem State.setup_storeBytes (loc key : Nat) (p c : Bool) (bs : List Byte) :
    (s.storeBytes loc key p c bs).setup = s.setup := by
  simp [State.storeBytes]
@[simp] theorem State.setup_storeLeaf (loc leaf : Nat) (bs : List Byte) : (s.storeLeaf loc leaf bs).setup = s.setup :=
  s.setup_storeBytes loc _ _ _ bs
@[simp] theorem State.setup_meetEcc (sec : Nat) : (s.meetEcc sec).setup = s.setup := by
  unfold State.meetEcc
  split
  · rfl
  · dsimp only
    split
    · rfl
    · rfl
    · rw [State.setup_ite, State.setup_poisonSector, State.setup_logLasting, State.setup_logLasting, ite_self]
      rfl
@[simp] theorem State.setup_consume (loc key : Nat) : (s.consume loc key).1.setup = s.setup := by
  simp [State.consume]

/-! ### Directory and frames -/

@[simp] theorem State.setup_dirDrop (b n : Nat) : (s.dirDrop b n).setup = s.setup := (rfl)
@[simp] theorem State.setup_dirRecall (b n : Nat) : (s.dirRecall b n).setup = s.setup := (rfl)
@[simp] theorem State.setup_freeEngine (core : Nat) : (s.freeEngine core).setup = s.setup := (rfl)
@[simp] theorem State.setup_publish (core ctx scope : Nat) (b : Option (Nat × List Region)) :
    (s.publish core ctx scope b).setup = s.setup := (rfl)
@[simp] theorem State.setup_acquire (core ctx scope : Nat) (b : Option (Nat × List Region)) :
    (s.acquire core ctx scope b).setup = s.setup := (rfl)
@[simp] theorem State.setup_touchFrame (pa : Nat) : (s.touchFrame pa).setup = s.setup := by
  unfold State.touchFrame
  dsimp only
  split
  · rfl
  · split
    · rfl
    · split
      · rfl
      · split <;> rfl
@[simp] theorem State.setup_trimL1 (die k : Nat) : (s.trimL1 die k).setup = s.setup := by
  unfold State.trimL1
  dsimp only
  split
  · rfl
  · split <;> rfl
@[simp] theorem State.setup_trimL2 (die : Nat) : (s.trimL2 die).setup = s.setup := by
  unfold State.trimL2
  dsimp only
  split
  · rfl
  · split <;> rfl
@[simp] theorem State.setup_with_dir (d : List DirEntry) : State.setup { s with dir := d } = s.setup := (rfl)
@[simp] theorem State.setup_dirRead (die : Nat) (k : Option Nat) (pa g : Nat) : (s.dirRead die k pa g).setup = s.setup := by
  simp only [State.dirRead, State.setup_trimL2, State.setup_trimL1, State.setup_ite, State.setup_touchFrame, State.setup_with_dir, ite_self]
@[simp] theorem State.setup_dirWrite (die k pa g : Nat) : (s.dirWrite die k pa g).setup = s.setup := by
  simp only [State.dirWrite, State.setup_trimL2, State.setup_trimL1, State.setup_ite, State.setup_touchFrame, State.setup_with_dir,
    State.setup_dropReplicas, ite_self]
@[simp] theorem State.setup_l2Read (die pa : Nat) : (s.l2Read die pa).setup = s.setup := by
  simp [State.l2Read]
@[simp] theorem State.setup_noteRead (core leaf loc : Nat) : (s.noteRead core leaf loc).setup = s.setup := by
  simp [State.noteRead]
@[simp] theorem State.setup_keepStale (core : Nat) (e : Bool) (ctx va : Nat) (st : Bool) (loc : Nat) :
    (s.keepStale core e ctx va st loc).setup = s.setup := by
  unfold State.keepStale
  refine (State.setup_foldl _ _ (fun t k => ?_) _).trans rfl
  dsimp only
  split
  · rfl
  · split <;> rfl
@[simp] theorem State.setup_noteWrite (core ctx va : Nat) (st : Bool) (leaf loc : Nat) :
    (s.noteWrite core ctx va st leaf loc).setup = s.setup := by
  simp [State.noteWrite]
@[simp] theorem State.setup_readWeak (core loc n : Nat) : (s.readWeak core loc n).1.setup = s.setup := by
  unfold State.readWeak State.staleFor
  dsimp only
  cases s.stale.find? (fun x => x.sec == sectorOf loc && x.core == s.l1Core core loc) with
  | none => rfl
  | some x =>
    dsimp only
    cases (s.free.1).getLsbD 0 <;> rfl
@[simp] theorem State.setup_holdFor (loc : Nat) : (s.holdFor loc).setup = s.setup := by
  unfold State.holdFor; split <;> rfl

/-! ### Homes, walks and checks -/

@[simp] theorem State.setup_zeroPage (b : Nat) : (s.zeroPage b).setup = s.setup := (rfl)
@[simp] theorem State.setup_claim (c vpn loc : Nat) : (s.claim c vpn loc).1.setup = s.setup := by
  unfold State.claim
  dsimp only
  split
  · rfl
  · split <;> rfl
@[simp] theorem State.setup_release (c vpn n : Nat) : (s.release c vpn n).setup = s.setup :=
  State.setup_foldl _ (fun (s : State) (k : Claim) => s.zeroPage k.loc) (fun t k => t.setup_zeroPage k.loc) s
@[simp] theorem State.setup_walkReads (die c va : Nat) : (s.walkReads die c va).setup = s.setup := by
  unfold State.walkReads
  rw [State.setup_ite, State.setup_foldl, ite_self]
  intro t p
  have h : (((t.consume p.2 0).1).l2Read die p.2).setup = t.setup := by simp
  dsimp only
  split <;> exact h
@[simp] theorem State.setup_lookup (core c va : Nat) : (s.lookup core c va).1.setup = s.setup := by
  unfold State.lookup
  dsimp only
  split
  · rfl
  · split
    · simp
    · have w := s.setup_walkReads (dieOf core) c va
      split
      · simp
      · split
        · exact w
        · exact w
        · exact (State.setup_holdFor _ _).trans w
        · exact w
@[simp] theorem State.setup_check (core c : Nat) (sup : Bool) (m : Mode) (va : Nat) :
    (s.check core c sup m va).1.setup = s.setup := by
  unfold State.check
  split
  · rfl
  · have h := s.setup_lookup core c va
    revert h
    rcases s.lookup core c va with ⟨t, (_ | _ | _) | ⟨e, page⟩⟩ <;> intro h
    · exact h
    · exact h
    · exact h
    · rw [← h]
      by_cases he : pteHome e ≤ 1 <;> simp [he]

/-! ### Register lines -/

@[simp] theorem State.setup_modLine (core ctx tag : Nat) (f : RegLine → RegLine) : (s.modLine core ctx tag f).setup = s.setup := (rfl)
@[simp] theorem State.setup_dropLine (core ctx tag : Nat) : (s.dropLine core ctx tag).setup = s.setup := (rfl)
@[simp] theorem State.setup_with_lines (l : List RegLine) : State.setup { s with lines := l } = s.setup := (rfl)
@[simp] theorem State.setup_writeImageWord (ctx tag lane : Nat) (v : Word) : (s.writeImageWord ctx tag lane v).setup = s.setup :=
  s.setup_storeLeaf _ _ _
@[simp] theorem State.setup_clearKzero (l : RegLine) : (s.clearKzero l).setup = s.setup := by
  unfold State.clearKzero; split <;> rfl
@[simp] theorem State.setup_meetLineEcc (l : RegLine) (lane : Nat) : (s.meetLineEcc l lane).setup = s.setup := by
  unfold State.meetLineEcc
  dsimp only
  split
  · rfl
  · split
    · rfl
    · rfl
    · split <;> rfl
@[simp] theorem State.setup_writeBack (l : RegLine) : (s.writeBack l).setup = s.setup := by
  simp [State.writeBack, State.setup_foldl]
@[simp] theorem State.setup_makeRoom (core : Nat) : (s.makeRoom core).setup = s.setup := by
  unfold State.makeRoom
  dsimp only
  split
  · rfl
  · split <;> simp
@[simp] theorem State.setup_placeLine (t n : Nat) : (s.placeLine t n).setup = s.setup := by
  simp [State.placeLine]
@[simp] theorem State.setup_writeReg (t n : Nat) (v : Word) : (s.writeReg t n v).setup = s.setup := by
  simp [State.writeReg]

/-! ### Waits, monitors and barriers -/

@[simp] theorem State.setup_wftDrop (t : Nat) : (s.wftDrop t).setup = s.setup := (rfl)
@[simp] theorem State.setup_endWait (t : Nat) (v : Word) : (s.endWait t v).setup = s.setup := by
  simp [State.endWait]
@[simp] theorem State.setup_imageWrite (c va n x : Nat) : (s.imageWrite c va n x).setup = s.setup := s.setup_storeLeaf _ _ _
@[simp] theorem State.setup_saveLatch (c b lane : Nat) (t : Thread) : (s.saveLatch c b lane t).setup = s.setup :=
  State.setup_foldl _ _ (fun s _ => s.setup_imageWrite _ _ _ _) s
@[simp] theorem State.setup_saveThread (c b lane : Nat) (t : Thread) : (s.saveThread c b lane t).setup = s.setup := by
  simp [State.saveThread, State.setup_foldl]
@[simp] theorem State.setup_modThreadOf (gid lane : Nat) (f : Thread → Thread) : (s.modThreadOf gid lane f).setup = s.setup := by
  unfold State.modThreadOf
  split
  · rfl
  · split <;> simp
@[simp] theorem State.setup_writeRegOf (gid lane n : Nat) (v : Word) : (s.writeRegOf gid lane n v).setup = s.setup := by
  unfold State.writeRegOf
  split
  · simp
  · split <;> simp
@[simp] theorem State.setup_endWaitAway (cl team g lane : Nat) (dst : BitVec 7) (v : Word) :
    (s.endWaitAway cl team g lane dst v).setup = s.setup := by
  simp [State.endWaitAway]
@[simp] theorem State.setup_freeSpill (m : Monitor) : (s.freeSpill m).setup = s.setup := by
  unfold State.freeSpill; split <;> simp
@[simp] theorem State.setup_with_monitors (l : List Monitor) : State.setup { s with monitors := l } = s.setup := (rfl)
@[simp] theorem State.setup_fireMonitor (m : Monitor) : (s.fireMonitor m).setup = s.setup := by
  unfold State.fireMonitor
  cases m.who <;> simp
@[simp] theorem State.setup_fireOrNote (m : Monitor) : (s.fireOrNote m).setup = s.setup := by
  simp [State.fireOrNote]
@[simp] theorem State.setup_fireMonitors (loc n : Nat) : (s.fireMonitors loc n).setup = s.setup := by
  simp [State.fireMonitors, State.setup_foldl]
@[simp] theorem State.setup_tbarWake (loc n : Nat) : (s.tbarWake loc n).setup = s.setup := by
  simp [State.tbarWake, State.setup_foldl]
@[simp] theorem State.setup_notice (loc n : Nat) : (s.notice loc n).setup = s.setup := by
  simp [State.notice]
@[simp] theorem State.setup_setTbar (loc : Nat) (b : Tbar) : (s.setTbar loc b).setup = s.setup := by
  simp [State.setTbar]
@[simp] theorem State.setup_tbarErr (loc : Nat) : (s.tbarErr loc).setup = s.setup := s.setup_setTbar loc _
@[simp] theorem State.setup_tbarRaise (loc x : Nat) : (s.tbarRaise loc x).setup = s.setup := s.setup_setTbar loc _
@[simp] theorem State.setup_combineCopy (u : UCopy) : (s.combineCopy u).setup = s.setup := by
  simp [State.combineCopy]
@[simp] theorem State.setup_settleU : s.settleU.setup = s.setup := by
  unfold State.settleU State.combineWhere
  split
  · rfl
  · exact (State.setup_foldl _ _ (fun t u => t.setup_combineCopy u) _).trans rfl

/-! ### Events and requests -/

@[simp] theorem State.setup_settleMsi : s.settleMsi.setup = s.setup := (rfl)
@[simp] theorem State.setup_signalQueue (f : Nat) : (s.signalQueue f).setup = s.setup := (rfl)
@[simp] theorem State.setup_raiseEvent (f kind c d : Nat) : (s.raiseEvent f kind c d).setup = s.setup := by
  simp [State.raiseEvent]
@[simp] theorem State.setup_deviceWrite (loc leaf : Nat) (bs : List Byte) : (s.deviceWrite loc leaf bs).setup = s.setup := by
  simp [State.deviceWrite]
@[simp] theorem State.setup_arenaWrite (c va n x : Nat) : (s.arenaWrite c va n x).setup = s.setup := s.setup_deviceWrite _ _ _
@[simp] theorem State.setup_writeRequest (r : Request) : (s.writeRequest r).setup = s.setup := by
  simp [State.writeRequest, State.setup_foldl]
@[simp] theorem State.setup_post (r : Request) : (s.post r).setup = s.setup := by
  unfold State.post
  split
  · exact (State.setup_writeRequest _ _).trans rfl
  · split
    · exact s.setup_modCtx _ _ (fun _ => ⟨rfl, rfl⟩)
    · rfl
@[simp] theorem State.setup_svEvent (c core code gid : Nat) (lanes : BitVec 32) (i j : Nat) :
    (s.svEvent c core code gid lanes i j).setup = s.setup := s.setup_post _
@[simp] theorem State.setup_loess (die c page : Nat) (r : Reason) (w f : Bool) : (s.loess die c page r w f).1.setup = s.setup := by
  unfold State.loess
  dsimp only
  split
  · rfl
  · split <;> rfl

/-! ### Copies -/

@[simp] theorem State.setup_with_copies (l : List Copy) : State.setup { s with copies := l } = s.setup := (rfl)
@[simp] theorem State.setup_setCopy (c : Copy) : (s.setCopy c).setup = s.setup := (rfl)
@[simp] theorem State.setup_failCopy (c : Copy) (st : Nat) : (s.failCopy c st).setup = s.setup := by
  unfold State.failCopy
  dsimp only
  rw [State.setup_setCopy, State.setup_ite, State.setup_svEvent, ite_self]
  have flag : ∀ t : State, (match c.launch with
      | some q => t.modLaunch q (fun l => { l with copyErr := true })
      | none => t).setup = t.setup := fun t => by cases c.launch <;> simp
  refine (flag _).trans ?_
  split <;> simp [State.setup_foldl]
@[simp] theorem State.setup_stampFails (c : Copy) (st : Nat) : (s.stampFails c st).setup = s.setup := by
  unfold State.stampFails
  cases c.launch <;> simp
@[simp] theorem State.setup_copyCheck (c : Copy) (w : Bool) (va : Nat) : (s.copyCheck c w va).1.setup = s.setup := by
  have h := s.setup_check c.core c.ctx false (if w then .write else .read) va
  unfold State.copyCheck
  generalize s.check c.core c.ctx false (if w then .write else .read) va = x at h ⊢
  obtain ⟨t, (_ | _ | _) | p⟩ := x
  · exact h
  · exact h
  · exact h
  · dsimp only
    rw [State.setup_fst_ite, State.setup_holdFor, ite_self]
    exact h
@[simp] theorem State.setup_stampCopy (c : Copy) : (s.stampCopy c).setup = s.setup := by
  unfold State.stampCopy
  dsimp only
  split
  · rfl
  · have h := s.settleU.setup_copyCheck c true c.block.stamp
    rw [State.setup_settleU] at h
    split
    · next t p e =>
      have h := State.setup_of e h
      simpa using h
    · next t n e =>
      have h := State.setup_of e h
      simpa using h
    · next t e =>
      have h := State.setup_of e h
      simpa using h
    · rfl
@[simp] theorem State.setup_ackRaise (c : Copy) : (s.ackRaise c).setup = s.setup := by
  unfold State.ackRaise
  split
  · split <;> simp
  · rfl
@[simp] theorem State.setup_copyGather (k : Nat) : (s.copyGather k).setup = s.setup := by
  unfold State.copyGather
  exact (State.setup_foldl _ _ (fun t c => by simp) _).trans rfl
@[simp] theorem State.setup_with_copies_nextId (l : List Copy) (n : Nat) :
    State.setup { s with copies := l, nextId := n } = s.setup := (rfl)
@[simp] theorem State.setup_copyRdvCheck (g : Nat) : (s.copyRdvCheck g).setup = s.setup := by
  unfold State.copyRdvCheck
  split
  · rfl
  · dsimp only
    split
    · rfl
    · split
      · rfl
      · split
        · rfl
        · split
          · rw [State.setup_copyGather, State.setup_foldl] <;> simp
          · split
            · rfl
            · rw [State.setup_copyGather, State.setup_foldl] <;> simp
@[simp] theorem State.setup_placesFreed (core : Nat) : (s.placesFreed core).setup = s.setup :=
  State.setup_foldl _ _ (fun t g => t.setup_copyRdvCheck g) s
@[simp] theorem State.setup_engineIdle (core : Nat) : (s.engineIdle core).setup = s.setup := by
  simp [State.engineIdle]

/-! ### Launches -/

@[simp] theorem State.setup_freeLaunch (q : Nat) : (s.freeLaunch q).setup = s.setup := (rfl)
@[simp] theorem State.setup_mergeConds (q : Nat) (l : Launch) : (s.mergeConds q l).setup = s.setup := by
  unfold State.mergeConds
  rw [State.setup_modLaunch]
  exact s.setup_modCtx _ _ (fun _ => ⟨rfl, rfl⟩)
@[simp] theorem State.setup_writeStamp (die c addr word : Nat) : (s.writeStamp die c addr word).1.setup = s.setup := by
  have h := s.setup_check (die * coresPerDie) c false .write addr
  unfold State.writeStamp
  dsimp only
  generalize s.check (die * coresPerDie) c false .write addr = x at h ⊢
  obtain ⟨t, (_ | _ | _) | p⟩ := x
  · exact h
  · exact h
  · exact h
  · dsimp only
    rw [← h, State.setup_fst_ite]
    simp
@[simp] theorem State.setup_tearLaunch (q : Nat) : (s.tearLaunch q).setup = s.setup := by
  unfold State.tearLaunch
  split
  · rfl
  · simp

/-! ### Teardown -/

@[simp] theorem State.setup_unlockArena (t : Tab DWord) : (s.unlockArena t).setup = s.setup := (rfl)
@[simp] theorem State.setup_endLaunches (c : Nat) : (s.endLaunches c).setup = s.setup :=
  State.setup_foldl _ (fun (s : State) (p : Nat × Launch) => s.tearLaunch p.1) (fun t p => t.setup_tearLaunch p.1) s
@[simp] theorem State.setup_endCopies (c : Nat) : (s.endCopies c).setup = s.setup := by
  unfold State.endCopies
  rw [State.setup_with_copies, State.setup_foldl]
  intro t x
  dsimp only
  split <;> simp
@[simp] theorem State.setup_dropAccesses (c : Nat) : (s.dropAccesses c).setup = s.setup := by
  unfold State.dropAccesses
  rw [State.setup_settleMsi]
  refine State.setup_foldl _ _ (fun t a => ?_) s
  dsimp only
  split <;> rfl
@[simp] theorem State.setup_dropWork (c : Nat) : (s.dropWork c).setup = s.setup := (rfl)
@[simp] theorem State.setup_dropWaits (c : Nat) : (s.dropWaits c).setup = s.setup := (rfl)
@[simp] theorem State.setup_dropTeams (c : Nat) : (s.dropTeams c).setup = s.setup := (rfl)
@[simp] theorem State.setup_with_marl (m : Marl) : State.setup { s with marl := m } = s.setup := (rfl)
@[simp] theorem State.setup_startTeardown (c : Nat) : (s.startTeardown c).setup = s.setup := by
  refine (State.setup_modCtx _ c Ctx.tornDown (fun _ => ⟨rfl, rfl⟩)).trans ?_
  simp [State.setup_foldl]

/-! ### The supervisor's creation (R119, R121) -/

@[simp] theorem State.setup_readWords (core c : Nat) (sup bvh : Bool) (own : List Nat) (n a : Nat) :
    (s.readWords core c sup bvh own n a).1.setup = s.setup := by
  induction n generalizing s a with
  | zero => rfl
  | succ n ih =>
    have h := s.setup_check core c sup .read (a % 2 ^ 64)
    unfold State.readWords
    dsimp only
    split
    · next t e => exact State.setup_of e h
    · next t f _ e => exact State.setup_of e h
    · next t p e =>
      have h := State.setup_of e h
      rw [← h, State.setup_fst_ite, State.setup_fst_ite, State.setup_holdFor]
      have r : ∀ u : State, u.setup = t.setup → ((u.noteRead core p.leaf p.loc).readWeak core p.loc 8).1.setup = t.setup :=
        fun u hu => by rw [State.setup_readWeak, State.setup_noteRead, hu]
      have k := t.settleU.setup_consume p.loc (pteKey p.leaf)
      rw [State.setup_settleU] at k
      split
      · rfl
      · split
        · rfl
        · split
          · next u e => exact State.setup_of e k
          · next u e =>
            have k := State.setup_of e k
            have w := (ih ((u.noteRead core p.leaf p.loc).readWeak core p.loc 8).1 (a % 2 ^ 64 + 8)).trans (r u k)
            split
            · next v l e => exact State.setup_of e w
            · exact w
@[simp] theorem State.setup_readSpan (core c : Nat) (sup : Bool) (a n : Nat) : (s.readSpan core c sup a n).1.setup = s.setup := by
  have h := s.setup_readWords core c sup false [] ((a % 8 + n + 7) / 8) (a / 8 * 8)
  unfold State.readSpan
  split <;> next e => exact State.setup_of e h
@[simp] theorem State.setup_readObj (core c : Nat) (sup : Bool) (a : Nat) : (s.readObj core c sup a).1.setup = s.setup := by
  have h := s.setup_readSpan core c sup a 64
  unfold State.readObj
  split
  · next e => exact State.setup_of e h
  · next t x e =>
    have h := State.setup_of e h
    have k := (t.setup_readSpan core c sup (a + bfield x 0x30 4) (16 * bfield x 0x2C 2)).trans h
    split
    · exact h
    · split <;> next e => exact State.setup_of e k
@[simp] theorem State.setup_readKernel (core c : Nat) (sup : Bool) (a : Nat) (o : CodeObj) (i : Nat) :
    (s.readKernel core c sup a o i).1.setup = s.setup := by
  have h := s.setup_readSpan core c sup (a + o.ktab + 32 * i) 32
  unfold State.readKernel
  split <;> next e => exact State.setup_of e h
@[simp] theorem State.setup_kernelsOk (core c : Nat) (sup : Bool) (a : Nat) (o : CodeObj) (n : Nat) :
    (s.kernelsOk core c sup a o n).1.setup = s.setup := by
  induction n with
  | zero => rfl
  | succ n ih =>
    unfold State.kernelsOk
    split
    · next t e =>
      have ih := State.setup_of e ih
      have h := (t.setup_readKernel core c sup a o n).trans ih
      split <;> next e => exact State.setup_of e h
    · exact ih
@[simp] theorem State.setup_readXops (core c : Nat) (sup : Bool) (a : Nat) (o : CodeObj) :
    (s.readXops core c sup a o).1.setup = s.setup := by
  have h := s.setup_readSpan core c sup (a + o.xtab) (16 * o.xops)
  unfold State.readXops
  split
  · next e => exact State.setup_of e h
  · next e =>
    have h := State.setup_of e h
    split <;> exact h
@[simp] theorem State.setup_svCheck (core c : Nat) : (s.svCheck core c).1.setup = s.setup := by
  have o := s.setup_readObj core c true (s.ctx c).svcode.toNat
  unfold State.svCheck
  dsimp only
  split
  · rfl
  split
  · rfl
  split
  · next e => exact State.setup_of e o
  · next e => exact State.setup_of e o
  next t1 obj e =>
  have o := State.setup_of e o
  have k := (t1.setup_kernelsOk core c true (s.ctx c).svcode.toNat obj obj.kernels).trans o
  split
  · next e => exact State.setup_of e k
  · next e => exact State.setup_of e k
  next t2 e =>
  have k := State.setup_of e k
  have x : (if obj.xops = 0 then (t2, .ok (some [])) else t2.readXops core c true (s.ctx c).svcode.toNat obj).1.setup = s.setup := by
    rw [State.setup_fst_ite, State.setup_readXops, ite_self]
    exact k
  split
  · next e => exact State.setup_of e x
  · next e => exact State.setup_of e x
  next t3 _ e =>
  have x := State.setup_of e x
  have r := (t3.setup_readKernel core c true (s.ctx c).svcode.toNat obj 0).trans x
  split
  · next e => exact State.setup_of e r
  · next e => exact State.setup_of e r
  next t4 _ e =>
  have r := State.setup_of e r
  simp only [State.setup_fst_ite, ite_self]
  exact r
@[simp] theorem State.setup_startGroup (k slot i : Nat) (pc : VA) : (s.startGroup k slot i pc).setup = s.setup := by
  simp [State.startGroup, State.setup_foldl]
@[simp] theorem State.setup_with_clusters (t : Tab Cluster) : State.setup { s with clusters := t } = s.setup := (rfl)
@[simp] theorem State.setup_startInstance (core c entry : Nat) : (s.startInstance core c entry).setup = s.setup := by
  unfold State.startInstance
  dsimp only
  rw [State.setup_startGroup, State.setup_with_clusters, State.setup_setTeam]
  exact s.setup_modCtx _ _ (fun _ => ⟨rfl, rfl⟩)
@[simp] theorem State.setup_svCodeBad (core c n : Nat) : (s.svCodeBad core c n).setup = s.setup := by
  refine (State.setup_modCtx _ c _ ?_).trans (s.setup_raiseEvent _ _ _ _)
  exact fun _ => ⟨rfl, rfl⟩
/-- R119, R121: making a supervisor for a context, or failing to, changes neither of its registers. -/
@[simp] theorem State.setup_createInstance (core c : Nat) : (s.createInstance core c).setup = s.setup := by
  have pending : ∀ (t : State) (n : Nat), (t.modCtx c (fun x => { x with svPending := x.svPending.put core n })).setup = t.setup :=
    fun t n => t.setup_modCtx _ _ (fun _ => ⟨rfl, rfl⟩)
  have h := s.setup_svCheck core c
  unfold State.createInstance
  split
  · rfl
  split
  · exact pending s 1
  split
  · next t entry e => exact (t.setup_startInstance core c entry).trans (State.setup_of e h)
  · next t n e => exact (t.setup_svCodeBad core c n).trans (State.setup_of e h)
  · next t page r e => exact ((pending _ page).trans (t.setup_loess _ _ _ _ _ _)).trans (State.setup_of e h)
  · next t e => exact (pending t 1).trans (State.setup_of e h)
@[simp] theorem State.setup_homeInstance (c : Nat) : (s.homeInstance c).setup = s.setup := by
  simp [State.homeInstance]
end

end Sys2Proof.Machine
end

section
/-! PROOFS. Reset values, and the mailbox of the security core (01 R17; 26 R487, R488, R490). -/
namespace Sys2Proof.Machine

/-! ### Functions, contexts, cores -/

/-- A change of one function is what `PutsFunc` says. -/
theorem State.modFunc_puts (s : State) (f : Nat) (g : Func → Func) : s.PutsFunc f (g (s.func f)) (s.modFunc f g) :=
  ⟨rfl, s.func_modFunc_same f g, fun k h => by rw [State.func_modFunc, if_neg h]⟩
/-- A change of one context is what `PutsCtx` says. -/
theorem State.modCtx_puts (s : State) (c : Nat) (g : Ctx → Ctx) : s.PutsCtx c (g (s.ctx c)) (s.modCtx c g) :=
  ⟨rfl, s.ctx_modCtx_same c g, fun k h => by rw [State.ctx_modCtx, if_neg h]⟩

/-- One change made to each of the first `n` cores changes cores alone. -/
theorem State.foldl_modCore_eq (g : Core → Core) (n : Nat) (s : State) :
    (List.range n).foldl (fun s c => s.modCore c g) s =
      { s with cores := ((List.range n).foldl (fun s c => s.modCore c g) s).cores } := by
  induction n with
  | zero => rfl
  | succ n ih =>
    simp only [List.range_succ, List.foldl_append, List.foldl_cons, List.foldl_nil]
    rw [ih]; rfl
theorem State.core_foldl_modCore (g : Core → Core) (n : Nat) (s : State) (k : Nat) :
    ((List.range n).foldl (fun s c => s.modCore c g) s).core k = if k < n then g (s.core k) else s.core k := by
  induction n with
  | zero => rfl
  | succ n ih =>
    simp only [List.range_succ, List.foldl_append, List.foldl_cons, List.foldl_nil, State.core_modCore]
    rcases Nat.lt_trichotomy k n with l | l | l
    · rw [if_neg (by omega), ih, if_pos l, if_pos (by omega)]
    · subst l
      rw [if_pos rfl, ih, if_neg (by omega), if_pos (by omega)]
    · rw [if_neg (by omega), ih, if_neg (by omega), if_neg (by omega)]

/-! ### The mailbox (R487, R488) -/

/-- R487: the lowest function that has sent a message is served next. -/
theorem State.Served.mbNext {s : State} {f k : Nat} (h : s.Served f k) : s.mbNext = some f := by
  refine List.find?_range_eq_some.2 ⟨h.busy, List.mem_range.2 (Nat.lt_succ_of_le h.exists_), fun g hg => ?_⟩
  simp [h.next g hg]
/-- R487, R488: a message of a kind in scope is served; `g` is its work. -/
theorem State.Served.mbServe {s : State} {f k : Nat} (h : s.Served f k) {scope : Bool} (hs : scope = true) (g : State → State) :
    s.mbServe k scope g = g s := by
  simp [State.mbServe, h.subject, h.busy, h.kind, h.mbNext, h.ready, hs]

/-- R487: a message that has ended answers with its status, and no other function's registers change. -/
theorem State.mbEnd_answers (s : State) (f : Nat) (st : BitVec 3) (r : List Byte) : State.Answers f st (s.mbEnd f st r) := by
  unfold State.Answers State.mbEnd
  rw [State.func_modFunc_same]
  exact ⟨rfl, rfl⟩
theorem State.func_mbEnd_other (s : State) (f k : Nat) (st : BitVec 3) (r : List Byte) (h : k ≠ f) :
    (s.mbEnd f st r).func k = s.func k := by
  unfold State.mbEnd
  rw [State.func_modFunc, if_neg h]
/-- The message that MB_DATA holds is the one that was sent. -/
theorem message_eq_sent (x : Func) : x.message = x.sent := rfl

/-- R488, R490: after an index has got a key or lost it, the key store holds that. -/
theorem State.rekey_keys (s : State) (k : Nat) (v : Option (BitVec 512)) : (s.rekey k v).boot.keys.find k = v := by
  unfold State.rekey
  split
  · next h => simpa using h
  · cases v with
    | none => exact Tab.find_del_same _ _
    | some x => exact Tab.find_put_same _ _ _
theorem Tab.find_del_other {α : Type} (t : Tab α) (k j : Nat) (h : j ≠ k) : Tab.find (Tab.del t k) j = Tab.find t j := by
  induction t with
  | nil => rfl
  | cons p r ih =>
    obtain ⟨k', v⟩ := p
    by_cases e : k' = k
    · subst e
      simpa [Tab.del, Tab.find, h] using ih
    · have d : Tab.del ((k', v) :: r) k = (k', v) :: Tab.del r k := by simp [Tab.del, e]
      rw [d, Tab.find, Tab.find, ih]
/-- R490: the other indices keep their keys. -/
theorem State.rekey_keys_other (s : State) (k j : Nat) (v : Option (BitVec 512)) (h : j ≠ k) :
    (s.rekey k v).boot.keys.find j = s.boot.keys.find j := by
  unfold State.rekey
  split
  · rfl
  · cases v with
    | none => exact Tab.find_del_other _ _ _ h
    | some x => exact Tab.find_put_other _ _ _ _ h
/-- R490: a change of keys writes no byte. -/
theorem State.rekey_mem (s : State) (k : Nat) (v : Option (BitVec 512)) : (s.rekey k v).mem = s.mem := by
  unfold State.rekey; split <;> rfl

/-- R488: an SPDM message is answered in every boot state but the first; the answer takes a fresh number (log 5). -/
theorem mbSpdm_of_served {s : State} {f : Nat} (h : s.Served f 1) (n : s.boot.state ≠ 1) : Becomes .mbSpdm s (fun t =>
    t = { s with funcs := t.funcs, freeCount := s.freeCount + 1 } ∧ t.Answers f 1 ∧ ∀ k, k ≠ f → t.func k = s.func k) := by
  refine ⟨(s.free).2.mbEnd f 1 (s.spdmAnswer f), ?_, rfl, State.mbEnd_answers _ _ _ _, fun k hk => State.func_mbEnd_other _ _ _ _ _ hk⟩
  change Host.Outcome.next (s.mbServe 1 _ _) = _
  rw [h.mbServe (by simpa using n), h.subject]

/-- R17: a chunk joins the image being received, or begins one. -/
theorem mbImageChunk_of_served {s : State} (h : s.Served 0 2) (l : s.inLoader = true) : Becomes .mbImageChunk s (fun t =>
    t = { s with funcs := t.funcs, boot := t.boot } ∧ t.Answers 0 1 ∧
      t.boot = { s.boot with state := 4, rxImage := (if s.boot.state = 4 then s.boot.rxImage else []) ++ (s.func 0).sent }) := by
  refine ⟨_, congrArg Host.Outcome.next (h.mbServe (by simp [h.subject, l]) _), rfl, State.mbEnd_answers _ _ _ _, ?_⟩
  simp only [State.mbEnd, State.modFunc, State.setFunc, State.modBoot_boot, message_eq_sent]
  split <;> rfl

/-- R17: a commit by the verdict on the image and the outcome of the flash write (log 5, log 79). -/
theorem mbImageCommit_of_served {s : State} (h : s.Served 0 3) (b : s.boot.state = 4) : Becomes .mbImageCommit s (fun t =>
    let img := s.boot.rxImage
    t = { s with funcs := t.funcs, boot := t.boot, freeCount := t.freeCount } ∧
      (imageVerdict img ≠ 0 → t.Answers 0 5 ∧
        t.boot = { s.boot with state := 5, failCause := if imageVerdict img = 3 then 3 else 2 }) ∧
      (imageVerdict img = 0 → s.flashFails.1 = false → t.Answers 0 1 ∧
        t.boot = { s.boot with state := 6, failCause := 0, flash := some img }) ∧
      (imageVerdict img = 0 → s.flashFails.1 = true → t.Answers 0 1 ∧
        t.boot = { s.boot with state := 5, failCause := 4, flash := none })) := by
  refine ⟨_, congrArg Host.Outcome.next (h.mbServe (by simp [h.subject, b]) _), ?_⟩
  dsimp only
  by_cases v : imageVerdict s.boot.rxImage = 0
  · rw [if_neg (by simpa using v)]
    cases s.flashFails.1
    · exact ⟨rfl, fun h => absurd v h, fun _ _ => ⟨State.mbEnd_answers _ _ _ _, rfl⟩, fun _ h => Bool.noConfusion h⟩
    · exact ⟨rfl, fun h => absurd v h, fun _ h => Bool.noConfusion h, fun _ _ => ⟨State.mbEnd_answers _ _ _ _, rfl⟩⟩
  · rw [if_pos (by simpa using v)]
    exact ⟨rfl, fun _ => ⟨State.mbEnd_answers _ _ _ _, rfl⟩, fun h => absurd h v, fun h => absurd h v⟩

/-- R488, R490: what a message that changes the key of index `k` comes to. -/
theorem rekey_answers (s : State) (k : Nat) (v : Option (BitVec 512)) :
    let t := (s.rekey k v).mbEnd 0 1 []
    t.Answers 0 1 ∧ t.boot.keys.find k = v ∧ (∀ j, j ≠ k → t.boot.keys.find j = s.boot.keys.find j) ∧ t.mem = s.mem :=
  ⟨State.mbEnd_answers _ _ _ _, s.rekey_keys k v, fun j h => s.rekey_keys_other k j v h, s.rekey_mem k v⟩

/-- R488, R490: index, three zero bytes and 64 bytes of key (log 63). -/
theorem mbKeySet_of_served {s : State} {k : Byte} {key : List Byte} (h : s.Served 0 4) (b : s.boot.state = 2)
    (m : (s.func 0).sent = k :: 0 :: 0 :: 0 :: key) (l : key.length = 64) (n : k ≠ 0) :
    Becomes .mbKeySet s (fun t => t.Answers 0 1 ∧ t.boot.keys.find k.toNat = some (BitVec.ofNat 512 (ofBytes key)) ∧
      (∀ j, j ≠ k.toNat → t.boot.keys.find j = s.boot.keys.find j) ∧ t.mem = s.mem) := by
  refine ⟨_, ?_, rekey_answers s k.toNat (some (BitVec.ofNat 512 (ofBytes key)))⟩
  change Host.Outcome.next (s.mbServe 4 _ _) = _
  have z : k.toNat ≠ 0 := fun e => n (BitVec.eq_of_toNat_eq e)
  rw [h.mbServe (by simp [h.subject, b])]
  simp [message_eq_sent, m, l, ofBytes, z]

/-- R488, R490: the index alone (log 63). -/
theorem mbKeyClear_of_served {s : State} {k : Byte} (h : s.Served 0 5) (b : s.boot.state = 2) (m : (s.func 0).sent = [k]) (n : k ≠ 0) :
    Becomes .mbKeyClear s (fun t => t.Answers 0 1 ∧ t.boot.keys.find k.toNat = none ∧
      (∀ j, j ≠ k.toNat → t.boot.keys.find j = s.boot.keys.find j) ∧ t.mem = s.mem) := by
  refine ⟨_, ?_, rekey_answers s k.toNat none⟩
  change Host.Outcome.next (s.mbServe 5 _ _) = _
  have z : k.toNat ≠ 0 := fun e => n (BitVec.eq_of_toNat_eq e)
  rw [h.mbServe (by simp [h.subject, b])]
  simp [message_eq_sent, m, ofBytes, z]

end Sys2Proof.Machine

open Sys2Proof Sys2Proof.Machine

/-- Settles O42: tables without entries read as the reset records of functions and contexts. -/
theorem resetValues : Obligations.ResetValues := by
  unfold Obligations.ResetValues
  exact ⟨rfl, rfl, rfl, rfl, rfl, fun f => ⟨rfl, rfl, rfl, rfl, rfl, rfl, rfl, rfl, rfl, rfl⟩,
    fun c => ⟨rfl, rfl, rfl, rfl, rfl, rfl, rfl, rfl, rfl, rfl, rfl, rfl, rfl, rfl, rfl, rfl⟩,
    rfl, rfl, rfl, rfl, rfl, rfl, rfl, rfl, rfl, rfl, rfl, rfl, rfl⟩

/-- Settles O47: the message named by `Served` is served (`State.Served.mbServe`), kind by kind. -/
theorem mailboxEvents : Obligations.MailboxEvents := by
  unfold Obligations.MailboxEvents
  intro s f
  refine ⟨fun h n => ?_, fun h l => ?_, fun h b => ?_, fun k key h b m l n => ?_, fun k h b m n => ?_⟩
  · exact mbSpdm_of_served h n
  · exact mbImageChunk_of_served h l
  · exact mbImageCommit_of_served h b
  · exact mbKeySet_of_served h b m l n
  · exact mbKeyClear_of_served h b m n
end

section
/-! PROOFS. The firmware check, readiness, links, heat, resets and the loss of power (01 R16–R20, R24; 11 R226; 21 R449–R451;
26 R486). -/
namespace Sys2Proof.Machine

/-- An event whose guard holds has its effect. -/
theorem becomes_of_guard {i : Instr} {s t u : State} {P : State → Prop} {g : Prop} [Decidable g]
    (e : exec i s = .next (if g then t else u)) (hg : g) (hp : P t) : Becomes i s P :=
  ⟨t, by rw [e, if_pos hg], hp⟩

/-! ### Bytes that a loss of power leaves (R226) -/

/-- Entries kept by their address alone: the others read as nothing listed. -/
theorem memGet_filter (q : Nat → Bool) (m : List Host.Cell) (lo a : Nat) (h : memOk lo m = true) :
    memGet (m.filter (fun c => q c.1)) a = if q a = true then memGet m a else 0 := by
  induction m generalizing lo with
  | nil => simp [memGet]
  | cons c r ih =>
    obtain ⟨k, b⟩ := c
    simp only [memOk, Bool.and_eq_true] at h
    have ih := ih (k + 1) h.2
    by_cases hk : q k = true
    · rw [List.filter_cons_of_pos (p := fun c : Host.Cell => q c.1) hk, memGet, memGet, ih]
      rcases Nat.lt_trichotomy a k with l | rfl | l
      · simp [l, l.ne]
      · simp [hk]
      · simp [l.ne', l.not_gt]
    · rw [List.filter_cons_of_neg (p := fun c : Host.Cell => q c.1) hk, memGet, ih]
      rcases Nat.lt_trichotomy a k with l | rfl | l
      · simp [l, l.ne, memGet_low r (k + 1) a h.2 (by omega)]
      · simp [hk]
      · simp [l.ne', l.not_gt]

/-- R226: memory that lies outside the module keeps its bytes, and the rest reads as after a reset (log 1, log 8). -/
theorem State.byte_afterReset {s : State} (w : s.Inv) (p : Nat) :
    s.afterReset.byte p = if isPool p ∨ isHostMem p then s.byte p else 0 := by
  refine (memGet_filter (fun a => isPool a || isHostMem a) s.mem 0 p w).trans ?_
  simp only [Bool.or_eq_true, State.byte]

@[simp] theorem State.setup_loseSector (s : State) (sec : Nat) (old : List (BitVec 256)) : (s.loseSector sec old).setup = s.setup := by
  unfold State.loseSector
  dsimp only
  split <;> simp
@[simp] theorem State.setup_loseWord (s : State) (loc : Nat) : (s.loseWord loc).setup = s.setup := by
  simp [State.loseWord]
@[simp] theorem State.setup_loseData (s : State) : s.loseData.setup = s.setup := by
  have words : ∀ (t : State) (f : Frame), (f.dirty.foldl (fun s u =>
      (List.range 64).foldl (fun s i => s.loseWord (f.block * 65536 + u * 512 + 8 * i)) s) t).setup = t.setup :=
    fun t f => State.setup_foldl _ _ (fun t _ => State.setup_foldl _ _ (fun t _ => t.setup_loseWord _) t) t
  have sectors := State.setup_foldl s.notDurable (fun s p => s.loseSector p.1 p.2) (fun t p => t.setup_loseSector p.1 p.2) s
  exact (State.setup_foldl _ _ words _).trans sectors
/-- Nothing is lost but what was not durable and what frames alone held. -/
theorem State.loseData_eq {s : State} (d : s.notDurable = []) (f : s.frames = []) : s.loseData = s := by
  simp [State.loseData, d, f]

/-! ### Faults of links (R449, R450) -/

@[simp] theorem State.poisonSector_mem (s : State) (sec : Nat) : (s.poisonSector sec).mem = s.mem := by
  unfold State.poisonSector; split <;> rfl
theorem State.isPoisoned_poisonSector (s : State) (sec : Nat) : (s.poisonSector sec).isPoisoned sec = true := by
  unfold State.poisonSector State.isPoisoned
  split
  · assumption
  · simp [(perm_insertBy _ _ _).mem_iff]
/-- R449, R450: a poisoned response poisons its sector and is logged as a lasting fault of the link. -/
theorem State.linkPoison_logs (s : State) (a : Nat) : s.LogsLink a (s.linkPoison a) := by
  refine ⟨State.isPoisoned_poisonSector _ _, State.poisonSector_mem _ _, ?_, ?_⟩
  all_goals
    unfold State.linkPoison State.poisonSector
    split <;> simp [State.logLasting, sat32, sectorOf]

/-! ### Resets (R24, R446) -/

/-- R105: new budgets change the cores and APPLYING alone. -/
theorem State.applyBudget_eq (s : State) :
    s.applyBudget = { s with dev := { s.dev with applying := false }, cores := s.applyBudget.cores } := State.foldl_modCore_eq _ _ _
theorem State.applyBudget_dev (s : State) : s.applyBudget.dev = { s.dev with applying := false } := by rw [State.applyBudget_eq]
theorem State.applyBudget_boot (s : State) : s.applyBudget.boot = s.boot := by rw [State.applyBudget_eq]
theorem State.func_applyBudget (s : State) (f : Nat) : s.applyBudget.func f = s.func f := by rw [State.applyBudget_eq]; rfl

/-- R18, R446: a context's reset leaves the boot registers alone. -/
theorem State.boot_resetCtx (s : State) (c : Nat) : (s.resetCtx c).boot = s.boot := by
  unfold State.resetCtx
  rw [State.modCtx_boot]
  split
  · rfl
  · exact State.setup_boot (s.setup_startTeardown c)
theorem State.boot_foldl_resetCtx (l : List Nat) (s : State) : (l.foldl (fun s c => s.resetCtx c) s).boot = s.boot :=
  List.foldlRecOn l _ (motive := fun t : State => t.boot = s.boot) rfl (fun t h c _ => (t.boot_resetCtx c).trans h)

/-- R24: the sessions of a list of functions end, and none begins. -/
theorem session_foldl_end (l : List Nat) (s : State) (f : Nat) (h : f ∈ l ∨ (s.func f).session = false) :
    ((l.foldl (fun s f => if (s.func f).session then s.modFunc f (fun x => { x with session := false, featStatus := 0 }) else s) s).func
      f).session = false := by
  induction l generalizing s with
  | nil => simpa using h
  | cons k r ih =>
    refine ih _ ?_
    by_cases e : f = k
    · subst e
      right
      cases hs : (s.func f).session <;> simp [hs]
    · refine (h.imp_left fun m => (List.mem_cons.1 m).resolve_left e).imp_right fun n => ?_
      dsimp only
      split
      · rw [State.func_modFunc, if_neg e]; exact n
      · exact n
/-- R24: no virtual function has a session after a reset of the physical one. -/
theorem State.session_endVirtual (s : State) (f : Nat) (l : 1 ≤ f) (u : f ≤ 32) : (s.endVirtual.func f).session = false := by
  have m : f ∈ (List.range 33).tail := by
    have e : (List.range 33).tail = List.range' 1 32 := by decide
    rw [e, List.mem_range'_1]; omega
  exact session_foldl_end _ _ f (.inl m)

/-- R24, R446: a function without contexts loses its own registers alone. -/
theorem functionLevelReset_virtual {s : State} (f : s.subj.f ≠ 0) (h : ∀ c, c < 64 → s.ownerOf c ≠ s.subj.f) :
    Becomes .functionLevelReset s (s.PutsFunc s.subj.f Func.reset) := by
  have none : s.ctxsOf s.subj.f = [] := List.filter_eq_nil_iff.2 fun c m => by simpa using h c (List.mem_range.1 m)
  have e : exec .functionLevelReset s = .next (s.setFunc s.subj.f Func.reset) := by
    change Host.Outcome.next _ = _
    simp only [none, List.foldl_nil, f, if_false]
  exact ⟨_, e, rfl, s.func_setFunc_same _ _, fun k hk => by rw [State.func_setFunc, if_neg hk]⟩

theorem State.func_resetRegisters (s : State) (d : Dev) (b : Boot) (f : Nat) :
    ({ s with dev := d, boot := b } : State).func f = s.func f := rfl
/-- R18, R24: what a reset of the physical function leaves (log 80). -/
theorem functionLevelReset_physical {s : State} (f : s.subj.f = 0) :
    Becomes .functionLevelReset s (fun t => t.dev.limitW = 1400 ∧ t.boot = { s.boot with ready := 1, colReady := 0 } ∧
      ∀ f, 1 ≤ f → f ≤ 32 → (t.func f).session = false) := by
  refine becomes_of_guard (i := .functionLevelReset) rfl f ?_
  refine ⟨?_, ?_, fun g l u => ?_⟩
  · rw [State.applyBudget_dev]; rfl
  · rw [State.applyBudget_boot]
    simp only [State.setFunc, State.boot_foldl_resetCtx]
  · rw [State.func_applyBudget, State.func_resetRegisters]
    exact State.session_endVirtual _ g l u

/-- The boot registers of the recovery loader (R17, R18). -/
def Boot.loader (b : Boot) (cause : BitVec 4) : Boot := { b with state := 3, failCause := cause, ready := b.ready &&& 3, colReady := 0 }

/-- R16, R17: the firmware check, whatever the flash and the security core answer. -/
theorem firmwareCheckDone_of_checking {s : State} (b : s.boot.state = 1) : Becomes .firmwareCheckDone s (fun t =>
    t = { s with freeCount := t.freeCount, boot := match s.boot.flash with
      | none => s.boot.loader 1
      | some img => if s.flashFails.1 then s.boot.loader 4 else if imageVerdict img = 0 then { s.boot with state := 2, failCause := 0 }
        else if imageVerdict img = 3 then s.boot.loader 3 else s.boot.loader 2 }) := by
  refine ⟨_, congrArg Host.Outcome.next (if_neg (by simp [b])), ?_⟩
  cases s.boot.flash with
  | none => rfl
  | some img =>
    dsimp only
    cases s.flashFails.1
    · by_cases v : imageVerdict img = 0
      · rw [if_neg (by decide), if_pos v, if_neg (by decide), if_pos v]; rfl
      · rw [if_neg (by decide), if_neg v, if_neg (by decide), if_neg v]
        by_cases w : imageVerdict img = 3
        · rw [refusalCause, if_pos w, if_pos w]; rfl
        · rw [refusalCause, if_neg w, if_neg w]; rfl
    · rfl

/-- R18, R19: a block reports itself ready, and with a port the requests held for it go out. -/
theorem blockReady_of_running {s : State} (b : s.boot.state = 2) (lo : 1 ≤ s.subj.b) (hi : s.subj.b ≤ 12) :
    Becomes .blockReady s (fun t =>
      t = { s with boot := { s.boot with ready := s.boot.ready ||| 1#32 <<< s.subj.b },
                   heldReqs := if 6 ≤ s.subj.b ∧ s.subj.b ≤ 9 then [] else s.heldReqs }) := by
  have port : (decide (6 ≤ s.subj.b) && decide (s.subj.b ≤ 9)) = true ↔ 6 ≤ s.subj.b ∧ s.subj.b ≤ 9 := by simp
  refine becomes_of_guard rfl (by simp [b, hi]; omega) ?_
  by_cases p : 6 ≤ s.subj.b ∧ s.subj.b ≤ 9
  · rw [if_pos p]; exact if_pos (port.2 p)
  · rw [if_neg p]; exact if_neg (mt port.1 p)

/-- R19: a request held for 100 ms ends with a poisoned response. -/
theorem cxlRequestTimeout_of_held {s : State} {since : Nat} (h : s.heldReqs.find (s.subj.a / 32) = some since)
    (d : s.linkUp s.subj.a = false) (w : since + 100000 * oneUs ≤ s.wall) : Becomes .cxlRequestTimeout s (s.LogsLink s.subj.a) := by
  refine ⟨_, congrArg Host.Outcome.next (?_ : _ =
    ({ s with heldReqs := s.heldReqs.del (s.subj.a / 32) } : State).linkPoison s.subj.a), State.linkPoison_logs _ _⟩
  have late : ¬(false || decide (s.wall < since + 100000 * oneUs)) = true := by simpa using w
  simp only [sectorOf, h, d, heldTime]
  exact if_neg late

/-- R226: what a loss of power leaves. -/
theorem State.powerOff_leaves (s : State) :
    let t := s.powerOff
    t.powered = false ∧ t.teams = [] ∧ t.lines = [] ∧ t.issue = [] ∧ t.boot.state = 1 ∧ t.boot.flash = s.boot.flash ∧
      (s.Inv → s.notDurable = [] → s.frames = [] → ∀ p, t.byte p = if isPool p ∨ isHostMem p then s.byte p else 0) := by
  refine ⟨rfl, rfl, rfl, rfl, rfl, ?_, fun w d f p => ?_⟩
  · have k := congrArg Boot.flash (State.setup_boot s.setup_loseData)
    exact k
  have e : s.powerOff.byte p = s.loseData.afterReset.byte p := rfl
  rw [e, State.loseData_eq d f, State.byte_afterReset w]

end Sys2Proof.Machine

open Sys2Proof Sys2Proof.Machine

/-- Settles O46: event by event; a teardown leaves the boot registers alone (`State.setup_startTeardown`), and so does the loss of
data (`State.setup_loseData`). -/
theorem bootAndPowerEvents : Obligations.BootAndPowerEvents := by
  unfold Obligations.BootAndPowerEvents
  intro s
  dsimp only
  refine ⟨fun b => ?_, fun b lo hi => ?_, fun b lo hi => ?_, fun lo r => ?_, fun since h d w => ?_, fun m => ?_,
    fun t => ⟨fun h => ?_, fun h => ?_, fun h => ?_⟩, fun h => ?_, ?_, ?_, functionLevelReset_virtual, functionLevelReset_physical⟩
  · exact firmwareCheckDone_of_checking b
  · exact blockReady_of_running b lo hi
  · exact becomes_of_guard rfl (by simp [b, lo, hi]) rfl
  · exact becomes_of_guard rfl (by simp [lo, r]) rfl
  · exact cxlRequestTimeout_of_held h d w
  · exact becomes_of_guard rfl (by simpa using m) (s.linkPoison_logs _)
  · exact becomes_of_guard rfl (by simp [h, t, State.heat]) rfl
  · exact becomes_of_guard rfl (by simp [h, t, State.heat]) rfl
  · exact becomes_of_guard rfl (by simp [h, t, State.heat]) rfl
  · exact becomes_of_guard rfl h ⟨rfl, rfl, rfl, rfl⟩
  · exact ⟨_, rfl, s.powerOff_leaves⟩
  · exact ⟨_, rfl, rfl, rfl, rfl, rfl, rfl, rfl, rfl, rfl, rfl, rfl, rfl, rfl, rfl, State.byte_afterReset⟩
end

section
/-! PROOFS. Control registers, feature commits and the event queue (01 R15, R22; 05 R78, R80, R81, R105; 11 R204, R215; 20 R409). -/
namespace Sys2Proof.Machine

/-! ### The bytes of a register (R6, R15) -/

/-- The little-endian bytes of a number stand for it modulo its width (R1). -/
theorem ofBytes_range (n x : Nat) : ofBytes ((List.range n).map (fun i => BitVec.ofNat 8 (x / 2 ^ (8 * i)))) = x % 2 ^ (8 * n) := by
  induction n generalizing x with
  | zero => simp [ofBytes, Nat.mod_one]
  | succ n ih =>
    have shift : ∀ i, x / 2 ^ (8 * (i + 1)) = x / 256 / 2 ^ (8 * i) := fun i => by
      rw [Nat.div_div_eq_div_mul, Nat.mul_succ, Nat.pow_add, Nat.mul_comm]
    have e : (List.range (n + 1)).map (fun i => BitVec.ofNat 8 (x / 2 ^ (8 * i))) =
        BitVec.ofNat 8 x :: (List.range n).map (fun i => BitVec.ofNat 8 (x / 256 / 2 ^ (8 * i))) := by
      simp [List.range_succ_eq_map, shift, Function.comp_def]
    rw [e, ofBytes, ih, BitVec.toNat_ofNat, Nat.mul_succ, Nat.add_comm (8 * n), Nat.pow_add, Nat.mod_mul]

/-- A write of a whole register, its bytes in no other: `v` cut to its width. -/
theorem mixBytes_whole (a n v old : Nat) : mixBytes a n v a n old = v % 2 ^ (8 * n) := by
  rw [← ofBytes_range]
  refine congrArg ofBytes (List.map_congr_left fun i m => ?_)
  have l := List.mem_range.1 m
  simp [l]

/-- Equal keys leave one element. -/
theorem dedupBy_const {α : Type} (key : α → Nat) (x : α) (l : List α) (h : ∀ y ∈ l, y = x) (n : l ≠ []) :
    dedupBy key l = [x] := by
  induction l with
  | nil => exact absurd rfl n
  | cons y r ih =>
    obtain rfl := h y (by simp)
    by_cases e : r = []
    · subst e; rfl
    · simp [dedupBy, ih (fun z m => h z (by simp [m])) e]

/-- A write of the bytes of one register is one write of it (R15). -/
theorem State.barWrite_one {s : State} {f a n v : Nat} (pos : 0 < n) (h : ∀ i, i < n → regAt (a + i) = (a, n)) :
    s.barWrite f a n v = s.writeReg0 f a (v % 2 ^ (8 * n)) (v % 2 ^ (8 * n)) := by
  unfold State.barWrite
  rw [dedupBy_const _ (a, n) _ ?_ ?_]
  · simp [mixBytes_whole]
  · simpa using h
  · simpa using pos.ne'

/-- R80: the registers of every context block lie as those of the first. -/
theorem regAt_block {c a : Nat} (hc : c < 64) (ha : a < 64) :
    regAt (0x1000 + 64 * c + a) = (64 * c + (regAt (0x1000 + a)).1, (regAt (0x1000 + a)).2) := by
  have wide : (0x1000 + 64 * c + a) / 8 * 8 = 64 * c + (0x1000 + a) / 8 * 8 := by omega
  have offset : (64 * c + (0x1000 + a) / 8 * 8) % 64 = (0x1000 + a) / 8 * 8 % 64 := by omega
  have narrow : (0x1000 + 64 * c + a) / 4 * 4 = 64 * c + (0x1000 + a) / 4 * 4 := by omega
  have above : ¬64 * c + (0x1000 + a) / 8 * 8 < 0x1000 ∧ ¬(0x1000 + a) / 8 * 8 < 0x1000 := by omega
  have below : 64 * c + (0x1000 + a) / 8 * 8 < 0x2000 ∧ (0x1000 + a) / 8 * 8 < 0x2000 := by omega
  simp only [regAt, wide, offset, narrow, if_neg above.1, if_neg above.2, if_pos below.1, if_pos below.2]
  split <;> rfl
theorem regAt_cfg {c : Nat} (hc : c < 64) (i : Nat) (l : i < 4) :
    regAt (0x1000 + 64 * c + 0x10 + i) = (0x1000 + 64 * c + 0x10, 4) := by
  have first : regAt (0x1000 + (0x10 + i)) = (0x1010, 4) := (by decide : ∀ i < 4, regAt (0x1000 + (0x10 + i)) = (0x1010, 4)) i l
  rw [Nat.add_assoc, regAt_block hc (by omega), first]
  exact Prod.ext (by dsimp only; omega) rfl
theorem regAt_ptroot {c : Nat} (hc : c < 64) (i : Nat) (l : i < 8) :
    regAt (0x1000 + 64 * c + 0x38 + i) = (0x1000 + 64 * c + 0x38, 8) := by
  have first : regAt (0x1000 + (0x38 + i)) = (0x1038, 8) := (by decide : ∀ i < 8, regAt (0x1000 + (0x38 + i)) = (0x1038, 8)) i l
  rw [Nat.add_assoc, regAt_block hc (by omega), first]
  exact Prod.ext (by dsimp only; omega) rfl

/-- REGISTER_WRITE of one whole register. -/
theorem registerWrite_one {s : State} {a n : Nat} (hf : s.subj.f ≤ 32) (hw : s.subj.w = false) (ha : s.subj.a = a) (hb : s.subj.b = n)
    (pos : 0 < n) (top : n ≤ 8) (h : ∀ i, i < n → regAt (a + i) = (a, n)) :
    exec .registerWrite s = .next (s.writeReg0 s.subj.f a (s.subj.v.toNat % 2 ^ (8 * n)) (s.subj.v.toNat % 2 ^ (8 * n))) := by
  change Host.Outcome.next _ = _
  simp only [hw, ha, hb, Nat.min_eq_right top, State.barWrite_one pos h]
  rw [if_neg (by omega)]
  simp

/-- A function that sees a context is not in the recovery loader (R17, R80). -/
theorem State.sees_loader {s : State} {f c : Nat} (v : s.sees f c = true) : s.inLoader = false := by
  simp only [State.sees, Bool.and_eq_true, Bool.not_eq_true'] at v
  exact v.2
/-- R80: a register of a context block that the function sees. -/
theorem State.writeReg0_block {s : State} {f c o w m : Nat} (hc : c < 64) (ho : o < 64) (v : s.sees f c = true) :
    s.writeReg0 f (0x1000 + 64 * c + o) w m = s.writeBlock f c o w m := by
  have l := State.sees_loader v
  have e : (0x1000 + 64 * c + o) % 0x1000 / 64 = c := by omega
  have r : (0x1000 + 64 * c + o) % 64 = o := by omega
  unfold State.writeReg0
  simp only [State.regOn, l, e, r, v]
  rw [if_neg (by simp), if_neg (by omega), if_neg (by omega), if_neg (by simp; omega), if_pos (by omega)]
/-- R15: a register that every function has. -/
theorem State.writeReg0_fn {s : State} {f a w m : Nat} (l : s.inLoader = false) (ha : a < 0x800) :
    s.writeReg0 f a w m = s.writeFn f a w m := by
  simp [State.writeReg0, State.regOn, l, ha]

/-! ### Fields of a written word (R7) -/

/-- A field in its place is the word under a mask. -/
theorem ofNat_bits_mul (v : DWord) (lo len : Nat) :
    BitVec.ofNat 64 (bits v.toNat lo len * 2 ^ lo) = v &&& BitVec.ofNat 64 ((2 ^ len - 1) * 2 ^ lo) := by
  apply BitVec.eq_of_getLsbD_eq
  intro i h
  simp only [BitVec.getLsbD_ofNat, BitVec.getLsbD_and, bits, Nat.testBit_mul_two_pow, Nat.testBit_mod_two_pow, Nat.testBit_div_two_pow,
    Nat.testBit_two_pow_sub_one, BitVec.testBit_toNat]
  by_cases l : lo ≤ i
  · simp [h, l, Bool.and_comm]
  · simp [h, l]

/-- R81: what a write of CTX_CFG leaves in a context. -/
theorem Ctx.writeCfg_eq (x : Ctx) (f : Nat) (v : DWord) :
    x.writeCfg f (v.toNat % 2 ^ 32) = { x with
      amGroup := v.extractLsb' 16 16, weight := if v.extractLsb' 8 8 = 0 then 1 else v.extractLsb' 8 8,
      owner := if f = 0 then v.extractLsb' 2 6 else x.owner, launchUser := v.getLsbD 1 } := by
  have group : BitVec.ofNat 16 (v.toNat % 2 ^ 32 / 2 ^ 16) = v.extractLsb' 16 16 := by
    apply BitVec.eq_of_toNat_eq; simp [Nat.shiftRight_eq_div_pow]; omega
  have weight : (v.extractLsb' 8 8).toNat = v.toNat % 2 ^ 32 / 2 ^ 8 % 2 ^ 8 := by
    simp [Nat.shiftRight_eq_div_pow]; omega
  have owner : BitVec.ofNat 6 (v.toNat % 2 ^ 32 / 4) = v.extractLsb' 2 6 := by
    apply BitVec.eq_of_toNat_eq; simp [Nat.shiftRight_eq_div_pow]; omega
  have user : bit (v.toNat % 2 ^ 32) 1 = v.getLsbD 1 := by
    rw [bit, Nat.testBit_mod_two_pow, BitVec.testBit_toNat]; rfl
  have zero : v.extractLsb' 8 8 = 0 ↔ v.toNat % 2 ^ 32 / 2 ^ 8 % 2 ^ 8 = 0 := by
    rw [← weight]; exact BitVec.toNat_eq.trans (by simp)
  unfold Ctx.writeCfg
  simp only [group, owner, user, ← weight, zero]
  congr 1
  split
  · rfl
  · simp only [BitVec.ofNat_toNat, BitVec.setWidth_eq]

/-! ### Features, events, registers of contexts -/

/-- R22, R23, R78: the statuses of a commit in their order (log 95). -/
theorem State.commitStatus_eq (s : State) (f : Nat) : s.commitStatus f =
    let x := s.func f
    if x.accept.getLsbD 0 = false then 2 else if x.accept &&& ~~~s.offer f ≠ 0 then 3
      else if x.accept.getLsbD 6 = true ∧ x.accept.getLsbD 5 = false then 4 else 1 := by
  simp [State.commitStatus]
/-- R22: a commit during a session is LOCKED, and otherwise its status says whether one begins. -/
theorem State.commit_puts (s : State) (f : Nat) : s.PutsFunc f (
    let x := s.func f
    if x.session then { x with featStatus := 5 } else { x with featStatus := s.commitStatus f, session := s.commitStatus f == 1 })
    (s.commit f) := by
  unfold State.commit
  cases e : (s.func f).session
  · simpa [e] using s.modFunc_puts f (fun x => { x with featStatus := s.commitStatus f, session := s.commitStatus f == 1 })
  · simpa [e] using s.modFunc_puts f (fun x => { x with featStatus := 5 })

/-- R119: without a leaf page or a pinned arena the device makes no supervisor. -/
theorem State.homeInstance_none {s : State} {c : Nat} (h : (s.ctx c).lpage = 0 ∨ (s.ctx c).pinned = false) : s.homeInstance c = s := by
  unfold State.homeInstance State.createInstance
  rcases h with h | h <;> simp [h]

/-- R105: BUDGET of every core after a change of the limit. -/
theorem State.core_applyBudget (s : State) (k : Nat) : s.applyBudget.core k =
    if k < 288 then { s.core k with budget := min 64 (max 1 (64 * s.dev.limitW.toNat / 1400)) } else s.core k :=
  State.core_foldl_modCore _ _ _ _

/-- R17: BOOT_STATE as a number. -/
theorem State.readReg0_bootState (s : State) : s.readReg0 0 0 = 16 * s.boot.failCause.toNat + s.boot.state.toNat := by
  simp [State.readReg0, State.regOn, State.readFn, State.readPf, Nat.mul_comm]
/-- R75, R76: what a read of BOOT_STATE gives. -/
theorem State.barRead_bootState (s : State) : s.barRead 0 0 0 4 = 16 * s.boot.failCause.toNat + s.boot.state.toNat := by
  have e : ∀ i, i < 4 → s.barByte 0 (0 + i) = BitVec.ofNat 8 ((16 * s.boot.failCause.toNat + s.boot.state.toNat) / 2 ^ (8 * i)) := by
    intro i l
    have r : regAt (0 + i) = (0, 4) := (by decide : ∀ i < 4, regAt (0 + i) = (0, 4)) i l
    unfold State.barByte
    rw [r]
    simp only [State.readReg0_bootState, Nat.zero_add, Nat.sub_zero]
  have m : (List.range 4).map (fun i => s.barByte 0 (0 + i)) =
      (List.range 4).map (fun i => BitVec.ofNat 8 ((16 * s.boot.failCause.toNat + s.boot.state.toNat) / 2 ^ (8 * i))) :=
    List.map_congr_left fun i h => e i (List.mem_range.1 h)
  have top : s.boot.failCause.toNat < 16 ∧ s.boot.state.toNat < 16 := ⟨s.boot.failCause.isLt, s.boot.state.isLt⟩
  unfold State.barRead
  simp only [if_true]
  rw [m, ofBytes_range]
  omega

/-- R81: a write of CTX_CFG. -/
theorem registerWrite_cfg {s : State} {c : Nat} (hf : s.subj.f ≤ 32) (hw : s.subj.w = false) (hc : c < 64) (v : s.sees s.subj.f c = true)
    (ha : s.subj.a = 0x1000 + 64 * c + 0x10) (hb : s.subj.b = 4) :
    Becomes .registerWrite s (s.PutsCtx c ((s.ctx c).writeCfg s.subj.f (s.subj.v.toNat % 2 ^ 32))) := by
  refine ⟨_, registerWrite_one hf hw ha hb (by decide) (by decide) (regAt_cfg hc), ?_⟩
  rw [State.writeReg0_block hc (by decide) v]
  exact s.modCtx_puts c (fun x => x.writeCfg s.subj.f (s.subj.v.toNat % 2 ^ 32))
theorem State.writeBlock_ptroot {s : State} {f c w m : Nat} (p : (s.ctx c).pinned = false) :
    s.writeBlock f c 0x38 w m = s.modCtx c (fun x => { x with ptroot := BitVec.ofNat 64 (bits m 10 42 * 1024) }) :=
  if_neg (by simp [p])
/-- R204: a write of CTX_PTROOT while the arena is not pinned. -/
theorem registerWrite_ptroot {s : State} {c : Nat} (hf : s.subj.f ≤ 32) (hw : s.subj.w = false) (hc : c < 64)
    (v : s.sees s.subj.f c = true) (p : (s.ctx c).pinned = false) (ha : s.subj.a = 0x1000 + 64 * c + 0x38) (hb : s.subj.b = 8) :
    Becomes .registerWrite s (s.PutsCtx c { s.ctx c with ptroot := s.subj.v &&& 0x000FFFFFFFFFFC00 }) := by
  refine ⟨_, registerWrite_one hf hw ha hb (by decide) (by decide) (regAt_ptroot hc), ?_⟩
  rw [State.writeReg0_block hc (by decide) v]
  have e : BitVec.ofNat 64 (bits (s.subj.v.toNat % 2 ^ (8 * 8)) 10 42 * 1024) = s.subj.v &&& 0x000FFFFFFFFFFC00 := by
    rw [Nat.mod_eq_of_lt s.subj.v.isLt]
    exact ofNat_bits_mul s.subj.v 10 42
  rw [State.writeBlock_ptroot p, e]
  exact s.modCtx_puts c (fun x => { x with ptroot := s.subj.v &&& 0x000FFFFFFFFFFC00 })
/-- R212: a write of INV_VA. -/
theorem registerWrite_invVa {s : State} (hf : s.subj.f ≤ 32) (hw : s.subj.w = false) (l : s.inLoader = false) (ha : s.subj.a = 0x200)
    (hb : s.subj.b = 8) : Becomes .registerWrite s (s.PutsFunc s.subj.f { s.func s.subj.f with invVa := s.subj.v &&& ~~~0xFFF }) := by
  refine ⟨_, registerWrite_one hf hw ha hb (by decide) (by decide) (by decide), ?_⟩
  rw [State.writeReg0_fn l (by decide)]
  have e : BitVec.ofNat 64 (s.subj.v.toNat % 2 ^ (8 * 8) / 4096 * 4096) = s.subj.v &&& ~~~0xFFF := by
    have w : s.subj.v.toNat % 2 ^ (8 * 8) / 4096 = bits s.subj.v.toNat 12 52 := by
      have := s.subj.v.isLt
      simp only [bits]
      omega
    rw [w]
    exact ofNat_bits_mul s.subj.v 12 52
  unfold State.writeFn
  rw [if_neg (by decide), if_neg (by decide), if_pos rfl, e]
  exact s.modFunc_puts _ (fun x => { x with invVa := s.subj.v &&& ~~~0xFFF })
/-- R212–R222, R300, R451: a register of the physical function alone. -/
theorem registerWrite_pf {s : State} {a : Nat} (h0 : s.subj.f = 0) (hw : s.subj.w = false) (l : s.inLoader = false) (ha : s.subj.a = a)
    (hb : s.subj.b = 4) (one : ∀ i, i < 4 → regAt (a + i) = (a, 4)) (lo : 0x210 ≤ a) (hi : a < 0x800) :
    exec .registerWrite s = .next (s.writePf a (s.subj.v.toNat % 2 ^ 32) (s.subj.v.toNat % 2 ^ 32)) := by
  rw [registerWrite_one (by omega) hw ha hb (by decide) (by decide) one, State.writeReg0_fn l hi]
  unfold State.writeFn
  rw [if_neg (by simp; omega), if_neg (by omega), if_neg (by omega), if_neg (by omega), if_neg (by omega), if_pos h0]

/-- R78: the head record of an armed queue. -/
theorem popData_armed {s : State} {r : DWord} {rest : List DWord} (a : (s.func s.subj.f).armed = true)
    (q : (s.func s.subj.f).events = r :: rest) :
    Becomes .popData s (State.PutsFunc { s with hostData := if (s.func s.subj.f).lost then r ||| (1#64 <<< 63) else r } s.subj.f
      { s.func s.subj.f with armed := false, events := rest, lost := false }) := by
  refine ⟨_, congrArg Host.Outcome.next ?_, State.modFunc_puts { s with hostData := _ } _
    (fun x => { x with armed := false, events := rest, lost := false })⟩
  simp only [a, q]
  rfl
/-- R215: DEVMEM_CTL while no function has a session. -/
theorem State.devmemWrite_eq {s : State} (v : Nat) (n : ∀ p ∈ s.funcs, p.2.session = false) :
    s.devmemWrite v = s.modDev (fun d => { d with devmemGib := BitVec.ofNat 6 (min 32 (v % 64)) }) := by
  have offered : (s.offer 0).getLsbD 11 = true := (rfl : (BitVec.ofNat 256 0x7FFF).getLsbD 11 = true)
  refine if_neg ?_
  simpa [offered] using n

/-! ### CTX_LPAGE and CTX_SVCODE (R80, R119, R121) -/

/-- R80: CTX_LPAGE keeps bits [56:12] of what is written, whatever the supervisor that the write may bring up does. -/
theorem ctxLpageWrite_of_sees {s : State} (v : s.sees s.subj.f s.subj.c = true) : Becomes .ctxLpageWrite s (fun t =>
    let x : Ctx := { s.ctx s.subj.c with lpage := s.subj.v &&& 0x01FFFFFFFFFFF000 }
    (t.ctx s.subj.c).lpage = x.lpage ∧ (x.lpage = 0 ∨ x.pinned = false → s.PutsCtx s.subj.c x t)) := by
  have e : BitVec.ofNat 64 (bits s.subj.v.toNat 12 45 * 4096) = s.subj.v &&& 0x01FFFFFFFFFFF000 := ofNat_bits_mul s.subj.v 12 45
  refine becomes_of_guard rfl v ?_
  unfold State.lpageWrite
  rw [e]
  refine ⟨(State.setup_lpage (State.setup_homeInstance _ _) _).trans ?_, fun h => ?_⟩
  · rw [State.ctx_modCtx_same]
  · rw [State.homeInstance_none (by rw [State.ctx_modCtx_same]; exact h)]
    exact s.modCtx_puts _ (fun x => { x with lpage := s.subj.v &&& 0x01FFFFFFFFFFF000 })
/-- R121: CTX_SVCODE holds what is written, whatever the supervisor that the write may bring up does. -/
theorem ctxSvcodeWrite_of_sees {s : State} (v : s.sees s.subj.f s.subj.c = true) : Becomes .ctxSvcodeWrite s (fun t =>
    (t.ctx s.subj.c).svcode = s.subj.v ∧ ((s.ctx s.subj.c).lpage = 0 ∨ (s.ctx s.subj.c).pinned = false →
      s.PutsCtx s.subj.c { s.ctx s.subj.c with svcode := s.subj.v, svBad := [] } t)) := by
  have e : BitVec.ofNat 64 s.subj.v.toNat = s.subj.v := by simp
  refine becomes_of_guard rfl v ?_
  unfold State.svcodeWrite
  rw [e]
  refine ⟨(State.setup_svcode (State.setup_homeInstance _ _) _).trans ?_, fun h => ?_⟩
  · rw [State.ctx_modCtx_same]
  · rw [State.homeInstance_none (by rw [State.ctx_modCtx_same]; exact h)]
    exact s.modCtx_puts _ (fun x => { x with svcode := s.subj.v, svBad := [] })

end Sys2Proof.Machine

open Sys2Proof Sys2Proof.Machine

/-- Settles O45: event by event; a register written whole takes the written word (`registerWrite_one`), and the supervisor that a
write may bring up leaves CTX_LPAGE and CTX_SVCODE alone (`State.setup_homeInstance`). -/
theorem controlRegisterEvents : Obligations.ControlRegisterEvents := by
  unfold Obligations.ControlRegisterEvents
  intro s
  dsimp only
  refine ⟨fun hf l => ?_, fun v l => ?_, fun a => ?_, fun r rest a q => ?_, fun v r => ?_, fun v => ?_, fun v => ?_, fun hf l n => ?_,
    fun hf l => ?_, fun a r2 r3 t => ?_, fun hf l hw => ⟨fun k hc v ha hb hk => ?_, fun hc v p ha hb => ?_, fun ha hb => ?_,
      fun h0 ha hb => ?_, fun h0 ha hb => ?_⟩, fun hf hw hc ha hb => ?_⟩
  · refine becomes_of_guard rfl (by simp [hf, l]) ?_
    have h := s.commit_puts s.subj.f
    rw [State.commitStatus_eq] at h
    exact h
  · exact becomes_of_guard rfl (by simp [v, l]) (s.modFunc_puts _ _)
  · refine ⟨_, congrArg Host.Outcome.next ?_, rfl⟩
    simp only [a]
  · exact popData_armed a q
  · exact becomes_of_guard rfl (by simp [v, r]) (s.modCtx_puts _ _)
  · exact ctxLpageWrite_of_sees v
  · exact ctxSvcodeWrite_of_sees v
  · refine becomes_of_guard rfl (by simp [hf, l]) ?_
    rw [State.devmemWrite_eq _ n]; rfl
  · exact becomes_of_guard rfl (by simp [hf, l]) rfl
  · exact becomes_of_guard rfl (by simp [a, r2, r3, t]) ⟨s.applyBudget_eq, s.core_applyBudget⟩
  · subst hk
    simpa only [Ctx.writeCfg_eq] using registerWrite_cfg hf hw hc v ha hb
  · exact registerWrite_ptroot hf hw hc v p ha hb
  · exact registerWrite_invVa hf hw l ha hb
  · refine ⟨_, registerWrite_pf h0 hw l ha hb (by decide) (by decide) (by decide), ?_⟩
    have e : bit (s.subj.v.toNat % 2 ^ 32) 0 = s.subj.v.getLsbD 0 := by
      rw [bit, Nat.testBit_mod_two_pow, BitVec.testBit_toNat]; rfl
    rw [← e]; rfl
  · refine ⟨_, registerWrite_pf h0 hw l ha hb (by decide) (by decide) (by decide), ?_⟩
    have e : BitVec.ofNat 32 (s.subj.v.toNat % 2 ^ 32) = s.subj.v.setWidth 32 := by
      apply BitVec.eq_of_toNat_eq; simp
    rw [← e]; rfl
  · refine ⟨_, congrArg Host.Outcome.next (?_ : _ = { s with hostData := BitVec.ofNat 64 (s.barRead 0 0 0 4) }), ?_⟩
    · simp [hf, hw, hc, ha, hb, State.measurePower]
    · rw [State.barRead_bootState]
end

section
/-! PROOFS. The events of a launch: its start stamp, its ageing, pre-emption for it, its completion (04 R73, R74; 05 R89, R91;
15 R311; 22 R453–R455). -/
namespace Sys2Proof.Machine

/-! ### Queue entries and clusters -/

/-- A change of a held queue entry is what `PutsLaunch` says. -/
theorem State.modLaunch_puts {s : State} {q : Nat} {l : Launch} (h : s.launches.find q = some l) (f : Launch → Launch) :
    s.PutsLaunch q (f l) (s.modLaunch q f) := by
  obtain ⟨-, same, others⟩ := s.modLaunch_eq q f
  exact ⟨by rw [same, h]; rfl, others⟩

/-- Pre-empting clusters one after another pre-empts exactly those (R91, R117). -/
theorem State.foldl_preempt_preempts (ks : List Nat) (s : State) : s.Preempts ks (ks.foldl (fun s k => s.preempt k) s) := by
  induction ks generalizing s with
  | nil => exact ⟨rfl, fun k => by simp⟩
  | cons j r ih =>
    obtain ⟨frame, found⟩ := ih (s.preempt j)
    obtain ⟨frame1, same, others⟩ := s.modCluster_eq j (fun c => { c with state := .stopping })
    refine ⟨?_, fun k => ?_⟩
    · rw [List.foldl_cons, frame, State.preempt, frame1]
    · rw [List.foldl_cons, found k, State.preempt]
      by_cases e : k = j
      · subst e
        rw [same]
        cases s.clusters.find k <;> simp
      · rw [others k e]
        simp [e]

/-! ### Start stamps (R73) -/

/-- Without update-only copies there is nothing to combine. -/
theorem State.settleU_of_none {s : State} (h : s.ucopies = []) : s.settleU = s := by
  simp [State.settleU, State.combineWhere, h]

/-- The monitor of a waiting launch that stands at its home fires: it is gone, and its launch is eligible (R73, R307). -/
theorem State.fireMonitor_launch {s : State} {m : Monitor} {q : Nat} (who : m.who = .launch q) (place : m.place = .entry) :
    s.fireMonitor m = ({ s with monitors := s.monitors.filter (fun x => x.id != m.id) } : State).modLaunch q (fun l =>
      if l.state == .waiting then { l with state := .eligible, ageFrom := s.wall } else l) := by
  unfold State.fireMonitor State.freeSpill
  rw [place, who]

/-- R73: the stamp of a waiting launch is reached. -/
theorem startStampObserved_of_reached {s : State} {l : Launch} {m : Monitor} (held : s.launches.find s.subj.id = some l)
    (waits : l.state = .waiting) (copies : s.ucopies = [])
    (armed : s.monitors.find? (fun m => m.who == .launch s.subj.id) = some m) (place : m.place = .entry)
    (reached : s.monitorHolds m = true) :
    Becomes .startStampObserved s (fun t => t = { s with launches := t.launches, monitors := t.monitors } ∧
      s.PutsLaunch s.subj.id { l with state := .eligible, ageFrom := s.wall } t ∧
        t.monitors = s.monitors.filter (fun x => x.id != m.id)) := by
  have who : m.who = .launch s.subj.id := by simpa using List.find?_some armed
  let s0 : State := { s with monitors := s.monitors.filter (fun x => x.id != m.id) }
  refine ⟨s.fireMonitor m, ?_, ?_⟩
  · show execStartStampObserved s = _
    simp [execStartStampObserved, held, waits, armed, State.settleU_of_none copies, reached]
  · rw [State.fireMonitor_launch who place]
    obtain ⟨frame, -⟩ := s0.modLaunch_eq s.subj.id (fun l =>
      if l.state == .waiting then { l with state := .eligible, ageFrom := s.wall } else l)
    have puts := s0.modLaunch_puts held (fun l =>
      if l.state == .waiting then { l with state := .eligible, ageFrom := s.wall } else l)
    rw [waits] at puts
    exact ⟨by rw [frame], puts, by rw [frame]⟩

/-! ### Priority and pre-emption (R89, R91, R311) -/

/-- R89: 10 ms without a placement. -/
theorem priorityAging_of_aged {s : State} {l : Launch} (held : s.launches.find s.subj.id = some l)
    (open_ : l.state = .eligible ∨ l.state = .placing) (low : l.effPrio < 7) (aged : l.ageFrom + 10000 * oneUs ≤ s.wall) :
    Becomes .priorityAging s (fun t => t = { s with launches := t.launches } ∧
      s.PutsLaunch s.subj.id { l with effPrio := l.effPrio + 1, ageFrom := l.ageFrom + 10000 * oneUs } t) := by
  refine ⟨_, congrArg Host.Outcome.next ?_, (s.modLaunch_eq s.subj.id _).1,
    s.modLaunch_puts held (fun l => { l with effPrio := l.effPrio + 1, ageFrom := l.ageFrom + tenMs })⟩
  simp [held, open_, low, tenMs, aged]

/-- R91: a launch at level 7 has waited a further 10 ms. -/
theorem level7Preemption_of_aged {s : State} {l : Launch} (held : s.launches.find s.subj.id = some l)
    (open_ : l.state = .eligible ∨ l.state = .placing) (top : l.effPrio = 7) (aged : l.ageFrom + 10000 * oneUs ≤ s.wall) :
    Becomes .level7Preemption s (s.Preempts (s.victimsFor s.subj.id l)) := by
  refine ⟨_, congrArg Host.Outcome.next ?_, State.foldl_preempt_preempts _ s⟩
  simp [held, open_, top, tenMs, aged]

/-- R311: an idle cluster that a launch cannot do without leaves. -/
theorem clusterIdle_of_wanted {s : State} {c : Cluster} {n : Nat} {l : Launch} (found : s.clusters.find s.subj.id = some c)
    (may : s.mayPreempt c = true) (idle : s.idle c = true) (wants : (n, l) ∈ s.wanting) (victim : s.subj.id ∈ s.victimsFor n l) :
    Becomes .clusterIdle s (s.Preempts [s.subj.id]) := by
  have wanted : s.wanting.any (fun p => (s.victimsFor p.1 p.2).contains s.subj.id) = true :=
    List.any_eq_true.2 ⟨(n, l), wants, by simpa using victim⟩
  refine ⟨_, congrArg Host.Outcome.next ?_, State.foldl_preempt_preempts [s.subj.id] s⟩
  simp only [found, may, idle, wanted, Bool.and_self, if_true, List.foldl_cons, List.foldl_nil]

/-! ### Completion (R453, R454) -/

/-- The conditions of a launch reach its context (R201). -/
theorem State.mergeConds_ctx (s : State) (q : Nat) (l : Launch) :
    (s.mergeConds q l).ctx l.ctx = { s.ctx l.ctx with fpstat := (s.ctx l.ctx).fpstat ||| l.conds } := by
  unfold State.mergeConds
  rw [(State.modLaunch_eq _ _ _).1]
  exact s.ctx_modCtx_same l.ctx (fun x => { x with fpstat := x.fpstat ||| l.conds })

/-- Settling a launch moves no byte (R454). -/
theorem State.settleLaunch_mem (s : State) (q : Nat) (l : Launch) : (s.settleLaunch q l).mem = s.mem := by
  unfold State.settleLaunch State.mergeConds
  rw [(State.modLaunch_eq _ _ _).1]
  rfl

/-- A queue entry that is freed is in its queue no more (R86). -/
theorem State.freeLaunch_find (s : State) (q : Nat) : (s.freeLaunch q).launches.find q = none := Tab.find_del_same _ _

/-- R453, R454: a complete launch whose stamp waits for no page is settled; what is left is its stamp. -/
theorem execLaunchComplete_of_complete {s : State} {l : Launch} (held : s.launches.find s.subj.id = some l)
    (complete : s.complete s.subj.id l = true) (batch : l.stampBatch = none) :
    (l.doneAddr = 0 → exec .launchComplete s = .next ((s.settleLaunch s.subj.id l).freeLaunch s.subj.id)) ∧
    ∀ t, l.doneAddr ≠ 0 → (s.settleLaunch s.subj.id l).writeStamp (s.subj.id / 1024) l.ctx l.doneAddr.toNat
      (l.doneTag.toNat * 2 ^ 32 + l.statusWord) = (t, .ok ()) → exec .launchComplete s = .next (t.freeLaunch s.subj.id) := by
  have waits : (!s.complete s.subj.id l || s.batches.any (fun b => some b.id == l.stampBatch)) = false := by simp [complete, batch]
  refine ⟨fun unstamped => congrArg Host.Outcome.next ?_, fun t stamped stored => congrArg Host.Outcome.next ?_⟩
  · simp only [held, waits, unstamped, if_true, Bool.false_eq_true, if_false]
  · simp only [held, waits, if_neg stamped, stored, Bool.false_eq_true, if_false]

/-! ### The completion stamp (R74, R454) -/

/-- Keeping old sectors for other slices changes no thread, no monitor and no byte (R273). -/
theorem State.keepStale_keeps (s : State) (core : Nat) (engine : Bool) (ctx va : Nat) (strong : Bool) (loc : Nat) :
    let t := s.keepStale core engine ctx va strong loc
    t.threads = s.threads ∧ t.monitors = s.monitors ∧ t.mem = s.mem := by
  unfold State.keepStale
  refine List.foldlRecOn _ _ (motive := fun t : State => t.threads = s.threads ∧ t.monitors = s.monitors ∧ t.mem = s.mem)
    ⟨rfl, rfl, rfl⟩ (fun t h k _ => ?_)
  split
  · exact h
  · dsimp only [State.free]
    split <;> exact h

/-- A store of bytes changes no thread and no monitor. -/
theorem State.storeBytes_watchers (s : State) (loc key : Nat) (persist cached : Bool) (bs : List Byte) :
    (s.storeBytes loc key persist cached bs).threads = s.threads ∧ (s.storeBytes loc key persist cached bs).monitors = s.monitors := by
  unfold State.storeBytes
  rw [setBytes_eq]
  dsimp only [State.dirtyFrame, State.cleanSector, State.poisonSector, State.keepOld, State.dropReplicas]
  constructor <;> split <;> split <;> split <;> (try split) <;> (try split) <;> (try split) <;> rfl

/-- Where nothing watches, a write is noticed by nothing (R269, R307). -/
theorem State.notice_of_unwatched {s : State} (monitors : s.monitors = [])
    (barriers : ∀ p ∈ s.threads, ∀ a ph, p.2.waitFor ≠ .tbarWait a ph) (loc n : Nat) : s.notice loc n = s := by
  have none_ : s.fireMonitors loc n = s := by simp [State.fireMonitors, monitors]
  have asleep : s.tbarWake loc n = s := by
    unfold State.tbarWake
    rw [List.filterMap_eq_nil_iff.2]
    · rfl
    · intro p hp
      split
      · next a ph e => exact absurd e (barriers p hp a ph)
      · rfl
  simp [State.notice, none_, asleep]

/-- The bytes after a write of some. -/
theorem State.setBytes_stores {s : State} (w : s.Inv) (loc : Nat) (bs : List Byte) : s.Stores loc bs (s.setBytes loc bs) := by
  intro p
  split
  · next h =>
    obtain ⟨i, rfl⟩ := Nat.exists_eq_add_of_le h.1
    have hi : i < bs.length := by omega
    rw [byte_setBytes_same bs s loc i hi w, Nat.add_sub_cancel_left, List.getD_eq_getElem _ _ hi]
  · next h => exact byte_setBytes_other bs s loc p w (by omega)

/-- A stamp whose check passes, at a location that answers and that nothing watches, is stored (R74, R454). -/
theorem State.writeStamp_stores {s s' : State} {die c addr : Nat} {p : Passed} (word : Nat)
    (passes : s.check (die * coresPerDie) c false .write addr = (s', .ok p)) (answers : s'.answers p.loc = true)
    (unwatched : s'.Unwatched) :
    ∃ t, s.writeStamp die c addr word = (t, .ok ()) ∧ s'.Stores p.loc (bytesOf 8 word) t := by
  obtain ⟨canonical, monitors, barriers, copies⟩ := unwatched
  let k := s'.keepStale (die * coresPerDie) true c addr true p.loc
  obtain ⟨keptThreads, keptMonitors, keptMem⟩ := s'.keepStale_keeps (die * coresPerDie) true c addr true p.loc
  let t := ((k.publish (die * coresPerDie) c 6 none).dirDrop p.loc 8).storeLeaf p.loc p.leaf (bytesOf 8 word)
  have threads : t.threads = s'.threads := (State.storeBytes_watchers _ _ _ _ _ _).1.trans keptThreads
  have quiet : t.monitors = [] := (State.storeBytes_watchers _ _ _ _ _ _).2.trans (keptMonitors.trans monitors)
  have mem : t.mem = (s'.setBytes p.loc (bytesOf 8 word)).mem :=
    (storeBytes_mem _ _ _ _ _ _).trans (setBytes_mem _ _ _ _ keptMem)
  refine ⟨t, ?_, fun a => ?_⟩
  · have unnoticed : t.notice p.loc 8 = t := State.notice_of_unwatched quiet (threads ▸ barriers) _ _
    simp only [State.writeStamp, passes, answers, Bool.not_true, Bool.false_eq_true, if_false, State.settleU_of_none copies]
    exact congrArg (·, Except.ok ()) unnoticed
  · rw [← State.setBytes_stores canonical p.loc (bytesOf 8 word) a, State.byte, mem, State.byte]

/-- R453, R454: a launch without a stamp completes. -/
theorem launchComplete_unstamped {s : State} {l : Launch} (held : s.launches.find s.subj.id = some l)
    (complete : s.complete s.subj.id l = true) (batch : l.stampBatch = none) (unstamped : l.doneAddr = 0) :
    Becomes .launchComplete s (fun t => t.launches.find s.subj.id = none ∧ t.mem = s.mem ∧
      t.ctx l.ctx = { s.ctx l.ctx with fpstat := (s.ctx l.ctx).fpstat ||| l.conds }) :=
  ⟨_, (execLaunchComplete_of_complete held complete batch).1 unstamped, State.freeLaunch_find _ _, s.settleLaunch_mem _ l,
    State.mergeConds_ctx _ _ l⟩

/-- R74, R454, R455: a launch with a stamp completes, and its stamp stands in memory. -/
theorem launchComplete_stamped {s s' : State} {l : Launch} {p : Passed} (held : s.launches.find s.subj.id = some l)
    (complete : s.complete s.subj.id l = true) (batch : l.stampBatch = none) (stamped : l.doneAddr ≠ 0)
    (passes : (s.settleLaunch s.subj.id l).check (s.subj.id / 1024 * coresPerDie) l.ctx false .write l.doneAddr.toNat = (s', .ok p))
    (answers : s'.answers p.loc = true) (unwatched : s'.Unwatched) :
    Becomes .launchComplete s (fun t => t.launches.find s.subj.id = none ∧
      s'.Stores p.loc (bytesOf 8 (l.doneTag.toNat * 2 ^ 32 + l.statusWord)) t) := by
  obtain ⟨t, stored, stores⟩ := State.writeStamp_stores (l.doneTag.toNat * 2 ^ 32 + l.statusWord) passes answers unwatched
  exact ⟨_, (execLaunchComplete_of_complete held complete batch).2 t stamped stored, State.freeLaunch_find _ _, stores⟩

end Sys2Proof.Machine

open Sys2Proof Sys2Proof.Machine

/-- Settles O54: event by event; a launch that is complete is settled and freed (`execLaunchComplete_of_complete`), with its stamp
stored where it has one (`State.writeStamp_stores`; whose it is, log 32). The victims are those of log 36. -/
theorem launchEvents : Obligations.LaunchEvents := by
  unfold Obligations.LaunchEvents
  intro s
  refine ⟨fun l m held waits copies armed place reached => startStampObserved_of_reached held waits copies armed place reached,
    fun l held open_ low aged => priorityAging_of_aged held open_ low aged,
    fun l held open_ top aged => level7Preemption_of_aged held open_ top aged,
    fun c n l found may idle wants victim => clusterIdle_of_wanted found may idle wants victim,
    fun l held complete batch => ⟨fun unstamped => launchComplete_unstamped held complete batch unstamped,
      fun s' p stamped passes answers unwatched => ?_⟩⟩
  have word : l.doneTag.toNat * 2 ^ 32 + b2n l.poison * 2 ^ 15 + b2n l.faulted * 2 ^ 14 + b2n l.copyErr * 2 ^ 13 +
      b2n l.deadlock * 2 ^ 12 = l.doneTag.toNat * 2 ^ 32 + l.statusWord := by
    simp only [Launch.statusWord, Nat.add_assoc]
  rw [word]
  exact launchComplete_stamped held complete batch stamped passes answers unwatched
end

section
/-! PROOFS. Dispatch of a bound cluster: its groups start at the kernel's entry (04 R69; 05 R95; 06 R110). -/
namespace Sys2Proof.Machine

theorem coreOfTeam_teamKey {core entry : Nat} (h : entry < 192) : coreOfTeam (teamKey core entry) = core := by
  unfold coreOfTeam teamKey; omega
theorem entryOfTeam_teamKey {core entry : Nat} (h : entry < 192) : entryOfTeam (teamKey core entry) = entry := by
  unfold entryOfTeam teamKey; omega
theorem mem_threadsOfGroup {g u : Nat} : u ∈ threadsOfGroup g ↔ gidOf u = g := by
  simp only [threadsOfGroup, List.mem_map, List.mem_range, threadKey, gidOf]
  exact ⟨fun ⟨j, _, e⟩ => by omega, fun e => ⟨u % 32, by omega, by omega⟩⟩
theorem gidOf_threadKey {g j : Nat} (h : j < 32) : gidOf (threadKey g j) = g := by
  unfold gidOf threadKey; omega
theorem mem_slotsOf {m : BitVec 128} {i : Nat} : i ∈ slotsOf m ↔ i < 128 ∧ m.getLsbD i = true := by
  simp [slotsOf]

/-! ### Groups that start (R69, R110) -/

/-- Group `g` of team `k` stands as R69 and R110 start it: every register known to be zero, its threads about to run at `pc`. -/
structure State.Started (s : State) (g k : Nat) (pc : VA) : Prop where
  live : (s.group g).live = true
  team : (s.group g).team = k
  zero : (s.group g).kzero = BitVec.allOnes 120
  threads : ∀ u, gidOf u = g → (s.thread u).pc = pc ∧ (s.thread u).tstate = .run ∧ (s.thread u).waitFor = .nothing

/-- What the start of groups leaves as it is. -/
def State.still (s : State) : Nat × Tab Team × Tab Cluster × List Host.Cell := (s.clk, s.teams, s.clusters, s.mem)
theorem State.still_teams {s t : State} (h : t.still = s.still) : t.teams = s.teams := congrArg (·.2.1) h
theorem State.still_clusters {s t : State} (h : t.still = s.still) : t.clusters = s.clusters := congrArg (·.2.2.1) h
theorem State.still_mem {s t : State} (h : t.still = s.still) : t.mem = s.mem := congrArg (·.2.2.2) h

/-- Threads that start one after another stand at `pc`; no other thread and no group has changed. -/
theorem State.foldl_start (pc : VA) (ts : List Nat) (s : State) :
    let t := ts.foldl (fun s u => s.setThread u (Thread.start pc s.clk)) s
    t.still = s.still ∧ t.groups = s.groups ∧ ∀ u, t.thread u = if u ∈ ts then Thread.start pc s.clk else s.thread u := by
  induction ts generalizing s with
  | nil => exact ⟨rfl, rfl, fun u => by simp⟩
  | cons w r ih =>
    obtain ⟨still, groups, found⟩ := ih (s.setThread w (Thread.start pc s.clk))
    refine ⟨still, groups, fun u => (found u).trans ?_⟩
    rw [State.thread_setThread]
    by_cases e : u = w <;> simp [e]

section
variable (s : State) (k slot i : Nat) (pc : VA)
theorem State.still_startGroup : (s.startGroup k slot i pc).still = s.still := (State.foldl_start pc _ _).1
theorem State.group_startGroup (g : Nat) : (s.startGroup k slot i pc).group g =
    if g = groupKey (coreOfTeam k) slot then
      { Group.reset with live := true, team := k, index := i, kzero := BitVec.allOnes 120 } else s.group g := by
  rw [← State.group_setGroup]
  exact congrArg (fun t : Tab Group => t.at' Group.reset g) (State.foldl_start pc _ _).2.1
theorem State.thread_startGroup (u : Nat) : (s.startGroup k slot i pc).thread u =
    if gidOf u = groupKey (coreOfTeam k) slot then Thread.start pc s.clk else s.thread u := by
  simp only [← mem_threadsOfGroup]
  exact (State.foldl_start pc _ _).2.2 u
/-- The group of the slot has started. -/
theorem State.startGroup_started : (s.startGroup k slot i pc).Started (groupKey (coreOfTeam k) slot) k pc := by
  refine ⟨?_, ?_, ?_, fun u hu => ?_⟩
  · rw [State.group_startGroup, if_pos rfl]
  · rw [State.group_startGroup, if_pos rfl]
  · rw [State.group_startGroup, if_pos rfl]
  · rw [State.thread_startGroup, if_pos hu]
    exact ⟨rfl, rfl, rfl⟩
end
/-- A group that has started stays so when another group of its team starts. -/
theorem State.Started.startGroup {s : State} {g k : Nat} {pc : VA} (h : s.Started g k pc) (slot i : Nat) :
    (s.startGroup k slot i pc).Started g k pc := by
  by_cases e : g = groupKey (coreOfTeam k) slot
  · subst e
    exact s.startGroup_started k slot i pc
  · have group : (s.startGroup k slot i pc).group g = s.group g := by rw [State.group_startGroup, if_neg e]
    refine ⟨by rw [group, h.live], by rw [group, h.team], by rw [group, h.zero], fun u hu => ?_⟩
    rw [State.thread_startGroup, hu, if_neg e]
    exact h.threads u hu

/-- The groups of a list of slots start: all of them have started, and only groups and threads have changed. -/
theorem State.foldl_startGroup (k : Nat) (pc : VA) (ps : List (Nat × Nat)) (s : State) :
    let t := ps.foldl (fun s p => s.startGroup k p.1 p.2 pc) s
    t.still = s.still ∧
      ∀ g, (s.Started g k pc ∨ ∃ p ∈ ps, g = groupKey (coreOfTeam k) p.1) → t.Started g k pc := by
  induction ps generalizing s with
  | nil => exact ⟨rfl, fun g h => h.elim id (fun ⟨_, h, _⟩ => absurd h List.not_mem_nil)⟩
  | cons p r ih =>
    obtain ⟨still, started⟩ := ih (s.startGroup k p.1 p.2 pc)
    rw [List.foldl_cons]
    refine ⟨still.trans (s.still_startGroup k p.1 p.2 pc), fun g h => started g ?_⟩
    rcases h with h | ⟨x, hx, rfl⟩
    · exact .inl (h.startGroup p.1 p.2)
    · rcases List.mem_cons.1 hx with rfl | hx
      · exact .inl (s.startGroup_started k x.1 x.2 pc)
      · exact .inr ⟨x, hx, rfl⟩

/-! ### A team turns RUNNABLE (R69, R95, R110) -/

/-- The bytes of a cleared range read as zero (R240). -/
theorem State.byte_clearRange {s : State} (w : s.Inv) (lo n a : Nat) :
    (s.clearRange lo n).byte a = if lo ≤ a ∧ a < lo + n then 0 else s.byte a := by
  refine (memGet_filter (fun a => decide (a < lo ∨ lo + n ≤ a)) s.mem 0 a w).trans ?_
  by_cases h : lo ≤ a ∧ a < lo + n
  · rw [if_pos h, if_neg (by simp; omega)]
  · rw [if_neg h, if_pos (by simp; omega)]
    rfl

/-- A core that comes to serve a cluster changes the directory, old sectors and cores alone (R217). -/
theorem State.serveCluster_eq (s : State) (core cl : Nat) : s.serveCluster core cl =
    { s with dir := (s.serveCluster core cl).dir, stale := (s.serveCluster core cl).stale, cores := (s.serveCluster core cl).cores } := by
  unfold State.serveCluster
  split <;> rfl

/-- R69, R110: a team that turns RUNNABLE for the first time. -/
theorem State.startTeam_starts (s : State) (k : Nat) :
    let b := (s.team k).bind
    let t := s.startTeam k
    t.clusters = s.clusters ∧ t.teams = s.teams ∧
      t.mem = (s.clearRange (sramLoc (coreOfTeam k) b.scratchBase) b.scratchSize).mem ∧
      ∀ i, i < 128 → b.slots.getLsbD i = true → t.Started (groupKey (coreOfTeam k) i) k (b.entryPc.extractLsb' 0 57) := by
  intro b t
  obtain ⟨still, started⟩ := State.foldl_startGroup k (b.entryPc.extractLsb' 0 57) (slotsOf b.slots).zipIdx
    (s.clearRange (sramLoc (coreOfTeam k) b.scratchBase) b.scratchSize)
  refine ⟨(State.still_clusters still).trans rfl, (State.still_teams still).trans rfl, State.still_mem still, fun i hi named => started _ (.inr ?_)⟩
  obtain ⟨j, hj, e⟩ := List.getElem_of_mem (mem_slotsOf.2 ⟨hi, named⟩)
  exact ⟨(i, j), List.mk_mem_zipIdx_iff_getElem?.2 (List.getElem?_eq_some_iff.2 ⟨hj, e⟩), rfl⟩

/-- R69, R95, R110: a record without live groups turns RUNNABLE; its groups have started and its scratch is zero. -/
theorem State.runTeam_starts {s : State} {k : Nat} (new : (s.groupsOf k).any (fun g => (s.group g).live) = false) :
    let b := (s.team k).bind
    let t := s.runTeam k
    t.clusters = s.clusters ∧ t.team k = { s.team k with bind := { b with state := .runnable } } ∧
      t.mem = (s.clearRange (sramLoc (coreOfTeam k) b.scratchBase) b.scratchSize).mem ∧
      ∀ i, i < 128 → b.slots.getLsbD i = true → t.Started (groupKey (coreOfTeam k) i) k (b.entryPc.extractLsb' 0 57) := by
  intro b t
  obtain ⟨clusters, teams, mem, started⟩ := s.startTeam_starts k
  have team : (s.startTeam k).team k = s.team k := congrArg (fun x : Tab Team => x.at' Team.reset k) teams
  let f : Team → Team := fun m => { m with bind := { m.bind with state := .runnable } }
  let r := (s.startTeam k).modTeam k f
  have run : t = r.serveCluster (coreOfTeam k) (s.team k).cluster := by
    simp only [t, r, f, State.runTeam, new, Bool.not_false, if_true, team]
  have runs : r.team k = f (s.team k) := by rw [State.team_modTeam_same, team]
  rw [run, r.serveCluster_eq]
  refine ⟨clusters, runs, mem, fun i hi named => ?_⟩
  · obtain ⟨live, ofTeam, zero, threads⟩ := started i hi named
    exact ⟨live, ofTeam, zero, threads⟩

/-! ### DISPATCH_RUNNABLE (R65, R69, R95) -/

/-- R69, R95, R110: the one record of a bound cluster is dispatched. -/
theorem dispatchRunnable_of_bound {s : State} {c : Cluster} {m : Member} (w : s.Inv)
    (found : s.clusters.find s.subj.id = some c) (bound : c.state = .bound) (new : c.rebound = false) (written : c.writeback = false)
    (one : c.members = [m]) (stays : m.exited = false) (free : s.ctxFree (s.ctxOfCluster s.subj.id) = true)
    (accepted : s.refused (teamKey m.core m.entry) = false)
    (idle : (s.groupsOf (teamKey m.core m.entry)).any (fun g => (s.group g).live) = false) :
    let k := teamKey m.core m.entry
    let b := (s.team k).bind
    Becomes .dispatchRunnable s (fun t => s.PutsCluster s.subj.id { c with state := .runnable, refused := [] } t ∧
      (∀ a, t.byte a = if sramLoc (coreOfTeam k) b.scratchBase ≤ a ∧ a < sramLoc (coreOfTeam k) b.scratchBase + b.scratchSize then 0
        else s.byte a) ∧
      t.team k = { s.team k with bind := { b with state := .runnable } } ∧
      ∀ i, i < 128 → b.slots.getLsbD i = true → t.Started (groupKey (coreOfTeam k) i) k (b.entryPc.extractLsb' 0 57)) := by
  intro k b
  obtain ⟨clusters, team, mem, started⟩ := State.runTeam_starts idle
  let f : Cluster → Cluster := fun c => { c with state := .runnable, refused := [] }
  obtain ⟨frame, same, others⟩ := (s.runTeam k).modCluster_eq s.subj.id f
  refine ⟨(s.runTeam k).modCluster s.subj.id f, congrArg Host.Outcome.next ?_, ⟨?_, fun j hj => ?_⟩, fun a => ?_, ?_, fun i hi named => ?_⟩
  · simp [found, bound, new, written, free, State.dispatch, liveKeys, one, stays, accepted, f, k]
  · rw [same, clusters, found]; rfl
  · rw [others j hj, clusters]
  · rw [← State.byte_clearRange w, frame, State.byte, State.byte, mem]
  · rw [frame]; exact team
  · obtain ⟨live, ofTeam, zero, threads⟩ := started i hi named
    rw [frame]
    exact ⟨live, ofTeam, zero, threads⟩

end Sys2Proof.Machine
end

section
/-! PROOFS. The placement round (05 R89–R94). -/
namespace Sys2Proof.Machine

/-! ### What credit does not touch (R90) -/

/-- A context's credit changes. -/
def State.modCredit (s : State) (c : Nat) (f : Tab Nat → Tab Nat) : State := s.modCtx c (fun x => { x with credit := f x.credit })

section
variable (s : State) (c : Nat) (f : Tab Nat → Tab Nat)
theorem State.ctx_modCredit (k : Nat) :
    (s.modCredit c f).ctx k = { s.ctx k with credit := if k = c then f (s.ctx k).credit else (s.ctx k).credit } := by
  unfold State.modCredit
  rw [State.ctx_modCtx]
  split
  · next e => rw [e]
  · rfl
/-- A credit that is put changes no other (R90). -/
theorem State.find_credit_modCredit {key key' : Nat} (h : key' ≠ key) (v : Tab Nat → Nat) (k : Nat) :
    ((s.modCredit c (fun x => x.put key (v x))).ctx k).credit.find key' = (s.ctx k).credit.find key' := by
  rw [State.ctx_modCredit]
  dsimp only
  split
  · exact Tab.find_put_other _ _ _ _ h
  · rfl
theorem State.ctxFree_modCredit (k : Nat) : (s.modCredit c f).ctxFree k = s.ctxFree k := by
  simp only [State.ctxFree, State.ctx_modCredit]
theorem State.teamRoom_modCredit (l : Launch) : (s.modCredit c f).teamRoom l = s.teamRoom l := by
  have feature : ∀ n, (s.modCredit c f).feature l.ctx n = s.feature l.ctx n := fun n => by
    simp only [State.feature, State.ownerOf, State.ctx_modCredit]
    rfl
  simp only [State.teamRoom, State.accRoom, feature]
/-- Room in an arena depends on the contexts' arenas alone. -/
theorem State.arenaHolds_of_ctx {s t : State} {k : Nat} {cr : Tab Nat} (h : t.ctx k = { s.ctx k with credit := cr }) (len n : Nat) :
    t.arenaHolds k len n = s.arenaHolds k len n := by
  induction n generalizing s t with
  | zero => rfl
  | succ n ih =>
    have spots : t.arenaSpots k len = s.arenaSpots k len := by simp only [State.arenaSpots, State.arenaFits, h]
    simp only [State.arenaHolds, spots]
    split
    · rfl
    · exact ih (by simp only [State.ctx_modCtx_same, h])
theorem State.itemReady_modCredit (i : Item) : (s.modCredit c f).itemReady i = s.itemReady i := by
  have holds : ∀ n, (s.modCredit c f).arenaHolds i.ctx i.image n = s.arenaHolds i.ctx i.image n :=
    fun n => State.arenaHolds_of_ctx (s.ctx_modCredit c f i.ctx) i.image n
  simp only [State.itemReady, State.ctxFree_modCredit, holds, State.ownerOf, State.ctx_modCredit]
  rfl
theorem State.unitsTaken_modCredit (core : Nat) (ex : List Nat) : (s.modCredit c f).unitsTaken core ex = s.unitsTaken core ex := by
  have units : (s.modCredit c f).unitsOfMember = s.unitsOfMember := by
    funext k m
    simp only [State.unitsOfMember, State.imageRead, State.arenaLoc, State.ctx_modCredit]
    rfl
  simp only [State.unitsTaken, units]
  rfl
theorem State.coreTakes_modCredit (i : Item) (core : Nat) (n : Need) (ex : List Nat) :
    (s.modCredit c f).coreTakes i core n ex = s.coreTakes i core n ex := by
  simp only [State.coreTakes, State.unitsTaken_modCredit, State.ctx_modCredit]
  rfl
/-- R90: where a cluster fits is no matter of credit. -/
theorem State.spots_modCredit (i : Item) (d : Nat) (ex : List Nat) : (s.modCredit c f).spots i d ex = s.spots i d ex := by
  simp only [State.spots, State.itemReady_modCredit, State.fitsAt, State.coreTakes_modCredit]
  rfl
end

/-! ### One launch that waits for a placement (R89, R90) -/

/-- What a launch asks for that has its next cluster to place (R91). -/
def Launch.item (l : Launch) (q room : Nat) : Item :=
  { q := q, again := none, ctx := l.ctx, w := l.w, h := l.h, groups := l.groups, weight := weightOf l.cls,
    needs := List.replicate (l.w * l.h) { team := true, scratch := l.scratch }, image := room }

/-- The one launch of the part, `n`, waits in the queue of die `d` for the placement of its last cluster, of one core (R88, R89). -/
structure State.Lone (s : State) (d n : Nat) (l : Launch) : Prop where
  launches : s.launches = [(n, l)]
  clusters : s.clusters = []
  eligible : l.state = .eligible
  queue : n / 1024 = d
  level : l.effPrio ≤ 7
  last : l.next + 1 = l.total
  shape : l.w = 1 ∧ l.h = 1

/-- Its cluster has room, on cores that have a supervisor of its context; and no core has a user team. -/
structure State.Fits (s : State) (d n : Nat) (l : Launch) : Prop where
  room : s.spots (l.item n (s.teamRoom l)) d [] ≠ []
  supervised : ∀ o ∈ s.spots (l.item n (s.teamRoom l)) d [], s.hasInstance (d * 144 + o) l.ctx = true
  entries : ∀ p ∈ s.teams, 64 ≤ entryOfTeam p.1

section
variable {s : State} {n d : Nat} {l : Launch} (a : s.Lone d n l)

theorem State.nextItem_of_noClusters (clusters : s.clusters = []) (q : Nat) (last : Bool) :
    s.nextItem q l last = if decide (l.next < l.total) && !last then some (l.item q (s.teamRoom l)) else none := by
  simp only [State.nextItem, clusters, List.filter_nil, sortBy, List.foldl_nil, ite_self]
  rfl

include a

theorem State.Lone.modCredit (c : Nat) (f : Tab Nat → Tab Nat) : (s.modCredit c f).Lone d n l :=
  ⟨a.launches, a.clusters, a.eligible, a.queue, a.level, a.last, a.shape⟩

theorem State.Lone.nextItem (last : Bool) : s.nextItem n l last = if last then none else some (l.item n (s.teamRoom l)) := by
  rw [State.nextItem_of_noClusters a.clusters]
  cases last <;> simp [← a.last]

theorem State.Lone.wanting : s.wanting = [(n, l)] := by
  simp [State.wanting, a.launches, a.eligible, sortBy, insertBy]

/-- At another level than its own the launch has nothing to place, nor does it have dormant clusters. -/
theorem State.Lone.itemsAt_other {lev : Nat} (h : lev ≠ l.effPrio) (c : Nat) : s.itemsAt d lev c = [] := by
  by_cases e : lev = 8
  · simp [State.itemsAt, a.wanting, a.nextItem, e]
  · simp [State.itemsAt, a.wanting, e, h.symm]
theorem State.Lone.wantsAt_other {lev : Nat} (h : lev ≠ l.effPrio) (c : Nat) : s.wantsAt d lev c = false := by
  by_cases e : lev = 8
  · simp [State.wantsAt, a.wanting, a.nextItem, e]
  · simp [State.wantsAt, a.wanting, e, h.symm]

/-- Level 8 stands for the dormant clusters alone. -/
theorem State.Lone.level_ne_dormant : (l.effPrio == 8) = false := by
  have := a.level
  simp; omega
theorem State.Lone.wantsAt_own : s.wantsAt d l.effPrio l.ctx = true := by
  simp [State.wantsAt, a.wanting, a.nextItem, a.level_ne_dormant, a.queue]
/-- At its own level the launch is the first of its context to fit, on every rectangle that it fits. -/
theorem State.Lone.firstFit_own (room : s.spots (l.item n (s.teamRoom l)) d [] ≠ []) :
    s.firstFit d l.effPrio l.ctx [] = some (l.item n (s.teamRoom l), s.spots (l.item n (s.teamRoom l)) d []) := by
  let i := l.item n (s.teamRoom l)
  have here : (s.diesFor n l i []).contains d = true := by
    simp only [State.diesFor, a.queue]
    split
    · simp
    · simp [i, room]
  have items : s.itemsAt d l.effPrio l.ctx = [(i, s.spots i d [])] := by
    simp [State.itemsAt, a.wanting, a.level_ne_dormant, a.nextItem, List.contains_iff_mem.1 here, i]
  have clear : (s.spots i d []).filter (fun o => rectClear [] d o i.w i.h) = s.spots i d [] := by simp [rectClear]
  obtain ⟨o, os, some_⟩ : ∃ o os, s.spots i d [] = o :: os := List.exists_cons_of_ne_nil room
  show _ = some (i, s.spots i d [])
  simp only [State.firstFit, items, List.filterMap_cons, clear]
  rw [some_]
  rfl

/-- No other launch can use a rectangle at another level (R89). -/
theorem State.Lone.claimedAbove {levs : List Nat} (h : l.effPrio ∉ levs) : s.claimedAbove d levs = [] := by
  refine List.flatMap_eq_nil_iff.2 fun lev hl => List.flatMap_eq_nil_iff.2 fun c _ => ?_
  rw [a.itemsAt_other (fun e => h (e ▸ hl))]
  rfl

/-- The context that takes a turn while none has credit. -/
theorem State.Lone.turnCtxs (ctx : l.ctx < 64) (credit : ∀ c, (s.ctx c).credit = []) : s.turnCtxs = [l.ctx] := by
  have own : s.turnCtxs = List.replicate ((List.range 64).count l.ctx) l.ctx := by
    rw [← List.filter_beq]
    simp [State.turnCtxs, a.launches, credit, BEq.comm (a := l.ctx)]
  have once : (List.range 64).count l.ctx = 1 := List.count_eq_one_of_mem List.nodup_range (List.mem_range.2 ctx)
  rw [own, once, List.replicate_one]
end

/-! ### The rounds of a level (R90) -/

/-- Where no context has a launch at a level, nor credit, the level changes nothing. -/
theorem State.levelRound_of_nothing {s : State} {d lev : Nat} (levs : List Nat) (wants : ∀ c, s.wantsAt d lev c = false)
    (credit : ∀ c, (s.ctx c).credit.find (creditKey d lev) = none) : s.levelRound d lev levs = s := by
  unfold State.levelRound
  exact List.foldl_fixed' (fun c => by simp [State.turn, wants, credit]) _

/-- Where nothing is wanted, no credit is spent. -/
theorem State.spend_of_unwanted {s : State} (wanting : s.wanting = []) (d lev c : Nat) (above : List (List Nat)) (m : Nat) :
    s.spend d lev c above m = s := by
  cases m with
  | zero => rfl
  | succ m => simp [State.spend, State.firstFit, State.itemsAt, wanting]

/-- The credit of the rounds that are counted together covers a cluster (R90; log 36). -/
theorem cost_le_rounds (cost w : Nat) (h : w ≠ 0) : cost ≤ max 1 ((cost + w - 1) / max 1 w) * w := by
  have pos : max 1 w = w := by omega
  have up : cost ≤ (cost + w - 1) / w * w := by
    have parts := Nat.div_add_mod (cost + w - 1) w
    have rest := Nat.mod_lt (cost + w - 1) (Nat.pos_of_ne_zero h)
    rw [Nat.mul_comm]
    omega
  rw [pos]
  exact up.trans (Nat.mul_le_mul_right w (le_max_right 1 _))

/-- A value picked from a list that has one. -/
theorem State.pick_mem (s : State) {os : List Nat} (h : os ≠ []) : (s.pick os).1 ∈ os := by
  have lt : (s.free.1).toNat % os.length < os.length := Nat.mod_lt _ (List.length_pos_iff.2 h)
  simp only [State.pick, List.getD_eq_getElem _ _ lt]
  exact List.getElem_mem lt

/-! ### The placement itself (R65, R93, R94) -/

theorem Tab.mem_of_find {α : Type} {t : Tab α} {k : Nat} {v : α} (h : t.find k = some v) : (k, v) ∈ t := by
  induction t with
  | nil => cases h
  | cons p r ih =>
    unfold Tab.find at h
    split at h
    · next e => cases h; subst e; exact List.mem_cons_self
    · exact List.mem_cons_of_mem _ (ih h)

/-- What the choice of a place leaves as it is. -/
def State.board (s : State) : Tab Launch × Tab Cluster × (Nat → Tab Nat) := (s.launches, s.clusters, fun c => (s.ctx c).credit)

@[simp] theorem State.board_pick (s : State) (os : List Nat) : (s.pick os).2.board = s.board := (rfl)
@[simp] theorem State.board_pickSome (s : State) (m : Nat) (os : List Nat) : (s.pickSome m os).2.board = s.board := (rfl)
@[simp] theorem State.board_enterCtx (s : State) (core c : Nat) : (s.enterCtx core c).board = s.board := by
  unfold State.enterCtx
  split
  · rfl
  · split <;> rfl
@[simp] theorem State.board_arenaTake (s : State) (c len : Nat) : (s.arenaTake c len).1.board = s.board := by
  unfold State.arenaTake
  split
  · rfl
  · refine Prod.ext rfl (Prod.ext rfl (funext fun k => ?_))
    refine (congrArg Ctx.credit (State.ctx_modCtx _ c k _)).trans ?_
    split
    · next e => rw [e]; rfl
    · rfl

/-- A BOUND record of team 0 of a cluster of launch `n`, with its image at `image` (R93). -/
def Bind.BoundTo (b : Bind) (n : Nat) (l : Launch) (image : DWord) : Prop :=
  b.state = .bound ∧ b.ctx = l.ctx ∧ b.launch = n ∧ b.team = 0 ∧ b.groups = l.groups ∧ b.regs = l.regs ∧
    b.entryPc = l.entryPc ∧ b.imageBase = image

/-- R93, R94: while a core has no user team, a new team takes one of its entries 0–63, with a BOUND record. -/
theorem State.bindFresh_binds {s : State} (free : ∀ p ∈ s.teams, 64 ≤ entryOfTeam p.1) (cl n : Nat) (l : Launch) (origin : Nat)
    (xyz : Nat × Nat × Nat) (core : Nat) :
    ∃ (t : State) (x : Team) (m : Member), t.board = s.board ∧ m.core = core ∧ m.entry < 64 ∧ x.bind.BoundTo n l m.imageBase ∧
      s.bindFresh cl n l origin xyz 0 core =
        (t.setTeam (teamKey m.core m.entry) x).modCluster cl (fun c => { c with members := c.members ++ [m] }) := by
  have entries : (List.range 64).filter (fun e => (s.teams.find (teamKey core e)).isNone) ≠ [] := by
    refine List.ne_nil_of_mem (a := 0) (List.mem_filter.2 ⟨List.mem_range.2 (by decide), ?_⟩)
    rw [Option.isNone_iff_eq_none, Option.eq_none_iff_forall_ne_some]
    intro x hx
    have := free _ (Tab.mem_of_find hx)
    rw [entryOfTeam_teamKey (by decide)] at this
    omega
  let e := s.pick ((List.range 64).filter (fun e => (s.teams.find (teamKey core e)).isNone))
  have entry : e.1 < 64 := List.mem_range.1 (List.mem_filter.1 (s.pick_mem entries)).1
  let p := e.2.pickSome l.groups (e.2.slotsLeft core [])
  let b := p.2.pick (p.2.scratchSpots core l.scratch [])
  let a := b.2.arenaTake l.ctx (b.2.teamRoom l)
  let m : Member :=
    { core := core, entry := e.1, imageBase := BitVec.ofNat 64 ((a.1.ctx l.ctx).image.toNat + a.2.getD 0), scratchBase := b.1,
      exited := false, savedTeam := none, savedThreads := [], savedCopyCount := [], saveBase := 0 }
  refine ⟨a.1.enterCtx core l.ctx, _, m, ?_, rfl, entry, ?_, rfl⟩
  · simp [a, b, p, e]
  · exact ⟨rfl, rfl, rfl, rfl, rfl, rfl, rfl, rfl⟩

/-- The launch `n` of `s` has its one cluster placed at origin `o` of die `d`, with the BOUND record of its one team (R65, R89,
R93). -/
structure State.Places (s : State) (n : Nat) (l : Launch) (d o : Nat) (t : State) : Prop where
  bound : ∃ k c m, t.clusters = [(k, c)] ∧ c.launch = n ∧ c.state = .bound ∧ c.die = d ∧ c.origin = o ∧ c.members = [m] ∧
    m.core = d * 144 + o ∧ m.entry < 64 ∧ (t.team (teamKey m.core m.entry)).bind.BoundTo n l m.imageBase
  launches : t.launches = [(n, l.placed true [d * 144 + o] false s.wall)]

/-- A launch is placed with its last cluster (R88). -/
theorem Launch.placed_last {l : Launch} (last : l.next + 1 = l.total) (cores : List Nat) (now : Nat) :
    (l.placed true cores false now).state = .placed := by
  simp [Launch.placed, last]

/-- A launch whose last cluster has been placed wants no other. -/
theorem State.Places.wanting {s t : State} {n d o : Nat} {l : Launch} (h : s.Places n l d o t) (last : l.next + 1 = l.total) :
    t.wanting = [] := by
  simp [State.wanting, h.launches, Launch.placed_last last, sortBy]

theorem State.modLaunch_one {s : State} {n : Nat} {l : Launch} (h : s.launches = [(n, l)]) (f : Launch → Launch) :
    s.modLaunch n f = { s with launches := [(n, f l)] } := by
  simp [State.modLaunch, h, Tab.find, Tab.put]
theorem State.modCluster_one {s : State} {k : Nat} {c : Cluster} (h : s.clusters = [(k, c)]) (f : Cluster → Cluster) :
    s.modCluster k f = { s with clusters := [(k, f c)] } := by
  simp [State.modCluster, h, Tab.find, Tab.put]

/-- The state in which the one launch is placed, and the record of its cluster has no member yet. -/
def State.opened (s : State) (n : Nat) (l : Launch) (d o : Nat) : State :=
  let xyz := clusterAt l.order l.swizzle l.gx l.gy l.next
  { s with
    launches := [(n, l.placed true [d * 144 + o] false s.wall)]
    nextId := s.nextId + 1
    clusters := [(s.nextId,
      { launch := n, x := xyz.1, y := xyz.2.1, z := xyz.2.2, die := d, origin := o, state := .bound, boundSeq := s.nextId, phases := 0,
        members := [], writeback := false, rebound := false })] }

section
variable {s : State} {n d o : Nat} {l : Launch} (a : s.Lone d n l) (inst : s.hasInstance (d * 144 + o) l.ctx = true)
include a inst

/-- The one core of the cluster has a supervisor of the context, so that the cluster is bound at once (R119). -/
theorem State.Lone.placeItem_opened (room : Nat) : s.placeItem (l.item n room) d o =
    (s.opened n l d o).bindFresh s.nextId n l o (clusterAt l.order l.swizzle l.gx l.gy l.next) 0 (d * 144 + o) := by
  have existing : s.createInstance (d * 144 + o) l.ctx = s := by simp [State.createInstance, inst]
  have cores : rectCores d o 1 1 = [d * 144 + o] := by simp [rectCores, coresPerDie]
  have held : s.launches.find n = some l := by simp [a.launches, Tab.find]
  have changed := State.modLaunch_one a.launches (fun l => l.placed true [d * 144 + o] false s.wall)
  simp [State.placeItem, Launch.item, held, a.shape, cores, existing, inst, a.clusters, changed, Tab.put, State.opened]

/-- R89, R93: the placement of the one cluster of a launch; credit is spent elsewhere. -/
theorem State.Lone.placeItem_places (room : Nat) (entries : ∀ p ∈ s.teams, 64 ≤ entryOfTeam p.1) :
    s.Places n l d o (s.placeItem (l.item n room) d o) ∧
      ∀ c, ((s.placeItem (l.item n room) d o).ctx c).credit = (s.ctx c).credit := by
  obtain ⟨t, x, m, kept, core, entry, binds, made⟩ := State.bindFresh_binds (s := s.opened n l d o) entries s.nextId n l o
    (clusterAt l.order l.swizzle l.gx l.gy l.next) (d * 144 + o)
  have board : (t.setTeam (teamKey m.core m.entry) x).board = (s.opened n l d o).board := kept
  rw [a.placeItem_opened inst, made, State.modCluster_one (congrArg (·.2.1) board)]
  refine ⟨⟨⟨_, _, m, rfl, rfl, rfl, rfl, rfl, rfl, core, entry, ?_⟩, congrArg (·.1) board⟩, fun c => congrFun (congrArg (·.2.2) board) c⟩
  exact (congrArg (fun y : Team => y.bind.BoundTo n l m.imageBase) (t.team_setTeam_same _ x)).mpr binds
end

/-! ### A cluster is placed at the launch's level (R89, R90) -/

section
variable {s : State} {n d : Nat} {l : Launch}

theorem State.Fits.modCredit (fits : s.Fits d n l) (c : Nat) (f : Tab Nat → Tab Nat) : (s.modCredit c f).Fits d n l := by
  refine ⟨?_, ?_, fits.entries⟩
  · rw [State.teamRoom_modCredit, State.spots_modCredit]
    exact fits.room
  · rw [State.teamRoom_modCredit, State.spots_modCredit]
    exact fits.supervised

/-- A context whose credit covers the one cluster places it and is charged for it; then nothing is left to place (R90). -/
theorem State.Lone.spend_places (a : s.Lone d n l) (fits : s.Fits d n l) (m : Nat)
    (covers : (l.item n (s.teamRoom l)).cost ≤ (s.ctx l.ctx).credit.at' 0 (creditKey d l.effPrio)) :
    ∃ o ∈ s.spots (l.item n (s.teamRoom l)) d [], ∃ t v, s.Places n l d o t ∧ (∀ c, (t.ctx c).credit = (s.ctx c).credit) ∧
      s.spend d l.effPrio l.ctx [] (m + 1) = t.modCredit l.ctx (fun x => x.put (creditKey d l.effPrio) v) := by
  let i := l.item n (s.teamRoom l)
  let p := s.pick (s.spots i d [])
  have mem : p.1 ∈ s.spots i d [] := s.pick_mem fits.room
  have b : p.2.Lone d n l := ⟨a.launches, a.clusters, a.eligible, a.queue, a.level, a.last, a.shape⟩
  obtain ⟨places, credit⟩ := b.placeItem_places (fits.supervised p.1 mem) (s.teamRoom l) fits.entries
  let t := p.2.placeItem i d p.1
  let v := (s.ctx l.ctx).credit.at' 0 (creditKey d l.effPrio) - i.cost
  refine ⟨p.1, mem, t, v, ⟨places.bound, places.launches⟩, credit, ?_⟩
  have before : p.2.boundCount n = 0 := by simp [State.boundCount, show p.2.clusters = [] from a.clusters]
  have after : t.boundCount n = 1 := by
    obtain ⟨k, c, m, clusters, launch, bound, -⟩ := places.bound
    simp [State.boundCount, t, i, clusters, launch, bound]
  have unwanted : (t.modCredit l.ctx (fun x => x.put (creditKey d l.effPrio) v)).wanting = [] := places.wanting a.last
  rw [← State.spend_of_unwanted unwanted d l.effPrio l.ctx [] m]
  simp only [State.spend, a.firstFit_own fits.room]
  have placed : ¬ t.boundCount n = p.2.boundCount n := by rw [before, after]; decide
  rw [if_neg (Nat.not_lt.2 covers)]
  exact if_neg placed

/-- The turn of its context covers the cost of its cluster, and places it (R90; log 36). -/
theorem State.Lone.turn_places (a : s.Lone d n l) (fits : s.Fits d n l) (weight : (s.ctx l.ctx).weight ≠ 0) (r : Nat)
    (rounds : s.roundsFor d l.effPrio l.ctx [] = some r) :
    ∃ o ∈ s.spots (l.item n (s.teamRoom l)) d [], s.Places n l d o (s.turn d l.effPrio l.ctx r []) ∧
      ∀ c key, key ≠ creditKey d l.effPrio →
        ((s.turn d l.effPrio l.ctx r []).ctx c).credit.find key = (s.ctx c).credit.find key := by
  let key := creditKey d l.effPrio
  let t := s.modCredit l.ctx (fun x => x.put key (x.at' 0 key + r * (s.ctx l.ctx).weight.toNat))
  have funds : (t.ctx l.ctx).credit.at' 0 key = (s.ctx l.ctx).credit.at' 0 key + r * (s.ctx l.ctx).weight.toNat := by
    rw [State.ctx_modCredit]
    simp
  have covers : (l.item n (t.teamRoom l)).cost ≤ (t.ctx l.ctx).credit.at' 0 key := by
    rw [funds, show t.teamRoom l = s.teamRoom l from s.teamRoom_modCredit l.ctx _ l]
    rw [State.roundsFor, a.firstFit_own fits.room, Option.map_some, Option.some_inj] at rounds
    have := cost_le_rounds ((l.item n (s.teamRoom l)).cost - (s.ctx l.ctx).credit.at' 0 key) (s.ctx l.ctx).weight.toNat
      (fun e => weight (BitVec.eq_of_toNat_eq e))
    rw [rounds] at this
    exact Nat.sub_le_iff_le_add'.1 this
  have turn : s.turn d l.effPrio l.ctx r [] = t.spend d l.effPrio l.ctx [] ((t.ctx l.ctx).credit.at' 0 key + 1) := by
    simp only [State.turn, a.wantsAt_own, Bool.not_true, Bool.false_eq_true, if_false]
    rfl
  obtain ⟨o, mem, u, v, places, credit, spent⟩ :=
    (a.modCredit l.ctx _).spend_places (fits.modCredit l.ctx _) ((t.ctx l.ctx).credit.at' 0 key) covers
  rw [State.teamRoom_modCredit, State.spots_modCredit] at mem
  refine ⟨o, mem, ?_⟩
  rw [turn, spent]
  refine ⟨⟨places.bound, places.launches⟩, fun c key' h => ?_⟩
  rw [State.find_credit_modCredit u l.ctx h (fun _ => v), credit, State.find_credit_modCredit s l.ctx h]

/-- The rounds of the launch's level place its cluster (R89, R90). -/
theorem State.Lone.levelRound_places (a : s.Lone d n l) (fits : s.Fits d n l) (weight : (s.ctx l.ctx).weight ≠ 0) (ctx : l.ctx < 64)
    (credit : ∀ c, (s.ctx c).credit = []) {levs : List Nat} (above : l.effPrio ∉ levs) :
    ∃ o ∈ s.spots (l.item n (s.teamRoom l)) d [], s.Places n l d o (s.levelRound d l.effPrio levs) ∧
      ∀ c key, key ≠ creditKey d l.effPrio → ((s.levelRound d l.effPrio levs).ctx c).credit.find key = none := by
  obtain ⟨r, rounds⟩ : ∃ r, s.roundsFor d l.effPrio l.ctx [] = some r := by
    rw [State.roundsFor, a.firstFit_own fits.room]
    exact ⟨_, rfl⟩
  have turn : s.levelRound d l.effPrio levs = s.turn d l.effPrio l.ctx r [] := by
    simp [State.levelRound, a.claimedAbove above, a.turnCtxs ctx credit, rounds, minBy]
  obtain ⟨o, mem, places, kept⟩ := a.turn_places fits weight r rounds
  rw [turn]
  refine ⟨o, mem, places, fun c key h => ?_⟩
  rw [kept c key h, credit c]
  rfl
end

/-! ### PLACEMENT_ROUND (R89, R90) -/

/-- A fold of which no step changes anything. -/
theorem foldl_eq_self {α β : Type} {f : α → β → α} {x : α} {l : List β} (h : ∀ y ∈ l, f x y = x) : l.foldl f x = x := by
  induction l with
  | nil => rfl
  | cons y r ih =>
    rw [List.foldl_cons, h y List.mem_cons_self]
    exact ih (fun z hz => h z (List.mem_cons_of_mem y hz))

theorem creditKey_inj {d a b : Nat} (h : creditKey d a = creditKey d b) : a = b := by
  unfold creditKey at h; omega

/-- The levels of a round, the dormant clusters' last (R89). -/
def roundLevels : List Nat := [7, 6, 5, 4, 3, 2, 1, 0, 8]
/-- The levels whose launches keep a level from their rectangles (R89). -/
def levelsAbove (lev : Nat) : List Nat := ([7, 6, 5, 4, 3, 2, 1, 0] : List Nat).filter (fun x => lev == 8 || decide (x > lev))
/-- What a round does at one level. -/
def State.roundAt (s : State) (d lev : Nat) : State := s.levelRound d lev (levelsAbove lev)

theorem execPlacementRound_of_ready {s : State} (die : s.subj.id ≤ 1) (ready : s.boot.ready.getLsbD (2 + s.subj.id) = true) :
    exec .placementRound s = .next (roundLevels.foldl (fun t lev => t.roundAt s.subj.id lev) s) := by
  have runs : ¬(s.subj.id > 1 || !s.boot.ready.getLsbD (2 + s.subj.id)) = true := by simp [ready]; omega
  exact congrArg Host.Outcome.next (if_neg runs)

/-- A level of a round comes once. -/
theorem roundLevels_split {lev : Nat} (h : lev ≤ 7) : ∃ pre post, roundLevels = pre ++ lev :: post ∧ lev ∉ pre ∧ lev ∉ post := by
  have mem : lev ∈ roundLevels := by simp [roundLevels]; omega
  obtain ⟨pre, post, split⟩ := List.mem_iff_append.1 mem
  have nodup : (pre ++ lev :: post).Nodup := split ▸ (by decide : roundLevels.Nodup)
  have once := (List.nodup_cons.1 (List.nodup_middle.1 nodup)).1
  rw [List.mem_append, not_or] at once
  exact ⟨pre, post, split, once.1, once.2⟩

theorem not_mem_levelsAbove {lev : Nat} (h : lev ≤ 7) : lev ∉ levelsAbove lev := by
  simp [levelsAbove]; omega

/-- R89, R90, R93: a round places the one cluster of the one launch at the launch's own level; the other levels do nothing. -/
theorem placementRound_of_lone {s : State} {n : Nat} {l : Launch} (a : s.Lone s.subj.id n l) (fits : s.Fits s.subj.id n l)
    (die : s.subj.id ≤ 1) (ready : s.boot.ready.getLsbD (2 + s.subj.id) = true) (weight : (s.ctx l.ctx).weight ≠ 0) (ctx : l.ctx < 64)
    (credit : ∀ c, (s.ctx c).credit = []) :
    Becomes .placementRound s (fun t => ∃ o ∈ s.spots (l.item n (s.teamRoom l)) s.subj.id [], s.Places n l s.subj.id o t) := by
  obtain ⟨o, mem, places, kept⟩ := a.levelRound_places fits weight ctx credit (not_mem_levelsAbove a.level)
  obtain ⟨pre, post, split, notPre, notPost⟩ := roundLevels_split a.level
  let t := s.roundAt s.subj.id l.effPrio
  have before : pre.foldl (fun t lev => t.roundAt s.subj.id lev) s = s := foldl_eq_self fun lev h =>
    State.levelRound_of_nothing _ (a.wantsAt_other (ne_of_mem_of_not_mem h notPre)) (fun c => by rw [credit c]; rfl)
  have after : post.foldl (fun t lev => t.roundAt s.subj.id lev) t = t := foldl_eq_self fun lev h =>
    State.levelRound_of_nothing _ (fun c => by simp [State.wantsAt, t, State.roundAt, places.wanting a.last])
      (fun c => kept c _ (fun e => ne_of_mem_of_not_mem h notPost (creditKey_inj e)))
  refine ⟨t, ?_, o, mem, places⟩
  rw [execPlacementRound_of_ready die ready, split, List.foldl_append, List.foldl_cons, before, after]

end Sys2Proof.Machine

open Sys2Proof Sys2Proof.Machine

/-- Settles O55: a launch of one cluster is `State.Lone`, and the round places it at its own level (`placementRound_of_lone`; the place
is free by log 30, the rounds are counted together by log 36); the one record of a bound cluster turns RUNNABLE
(`dispatchRunnable_of_bound`). -/
theorem placementEvents : Obligations.PlacementEvents := by
  unfold Obligations.PlacementEvents
  intro s
  refine ⟨fun d n l i subject die ready launches queue clusters eligible level next gx gy gz w h ctx weight credit item room entries
      supervised => ?_, fun c m found bound new written one stays entry free accepted idle _ inv => ?_⟩
  · subst subject
    have a : s.Lone s.subj.id n l := ⟨launches, clusters, eligible, queue, level, by simp [next, Launch.total, gx, gy, gz], w, h⟩
    obtain rfl : l.item n (s.teamRoom l) = i := by
      rw [a.nextItem] at item
      exact Option.some_inj.1 item
    obtain ⟨t, runs, o, mem, places⟩ := placementRound_of_lone a ⟨room, supervised, entries⟩ die ready weight ctx credit
    obtain ⟨k, c, m, clusters, launch, bound, die, origin, members, core, entry, binds⟩ := places.bound
    exact ⟨t, runs, o, mem, k, c, m, clusters, launch, bound, die, origin, members, core, entry, binds, _,
      by rw [places.launches]; exact if_pos rfl, Launch.placed_last a.last _ _, congrArg (· + 1) next, rfl, rfl⟩
  · obtain ⟨t, runs, puts, bytes, team, started⟩ := dispatchRunnable_of_bound inv found bound new written one stays free accepted idle
    rw [coreOfTeam_teamKey entry] at bytes started
    refine ⟨t, runs, puts, bytes, team, fun i hi named => ?_⟩
    obtain ⟨live, ofTeam, zero, threads⟩ := started i hi named
    exact ⟨live, ofTeam, zero, fun j hj => threads _ (gidOf_threadKey hj)⟩
end

section
/-! PROOFS. Event records to the host, and the signal of MSI-X vector 0 (05 R77). -/
namespace Sys2Proof.Machine

/-- The layout of an event record (R77). -/
theorem ofNat_eventRecord (kind c detail : Nat) :
    BitVec.ofNat 64 (kind % 2 ^ 7 * 2 ^ 56 + c % 64 * 2 ^ 50 + detail % 2 ^ 40) = eventRecord kind c detail := by
  apply BitVec.eq_of_toNat_eq
  have kind' : kind % 2 ^ 7 < 2 ^ 7 := Nat.mod_lt _ (by decide)
  have c' : c % 2 ^ 6 < 2 ^ 6 := Nat.mod_lt _ (by decide)
  have detail' : detail % 2 ^ 40 < 2 ^ 40 := Nat.mod_lt _ (by decide)
  have zero : 0 % 2 ^ 10 < 2 ^ 10 := by decide
  simp only [eventRecord, BitVec.toNat_append, BitVec.toNat_ofNat]
  rw [← Nat.shiftLeft_add_eq_or_of_lt kind', ← Nat.shiftLeft_add_eq_or_of_lt c', ← Nat.shiftLeft_add_eq_or_of_lt zero,
    ← Nat.shiftLeft_add_eq_or_of_lt detail']
  simp only [Nat.shiftLeft_eq]
  omega

/-- The stores and atomics in flight, which a signal of vector 0 waits for (R77; log 35). -/
def State.writesInFlight (s : State) : List Nat := (s.accs.filter (fun e => e.kind == .store || e.kind == .atomic)).map (·.id)

/-- R77: with no other signal waiting, vector 0 of `f` is signalled, once the writes in flight have been performed (log 35). -/
theorem State.signalQueue_of_idle {s : State} (idle : s.msiWait = []) (f : Nat) :
    (s.writesInFlight = [] → (s.signalQueue f).msix = s.msix ++ [(f, 0)] ∧ (s.signalQueue f).msiWait = []) ∧
      (s.writesInFlight ≠ [] → (s.signalQueue f).msix = s.msix ∧ (s.signalQueue f).msiWait = [{ f := f, waits := s.writesInFlight }]) := by
  have one : s.signalQueue f = State.settleMsi { s with msiWait := [{ f := f, waits := s.writesInFlight }] } := by
    simp only [State.signalQueue, idle, List.nil_append]
    rfl
  have ready : ∀ b, (!s.accs.any (fun a => s.writesInFlight.contains a.id)) = b →
      s.signalQueue f = { s with msix := s.msix ++ if b then [(f, 0)] else [],
                                 msiWait := if b then [] else [{ f := f, waits := s.writesInFlight }] } := by
    intro b hb
    rw [one]
    cases b <;> simp only [State.settleMsi, List.partition, List.partition.loop, hb] <;> rfl
  refine ⟨fun none => ?_, fun some => ?_⟩
  · rw [ready true (by simp [none])]
    exact ⟨rfl, rfl⟩
  · obtain ⟨n, rest, e⟩ := List.exists_cons_of_ne_nil some
    have mem : n ∈ s.writesInFlight := by simp [e]
    obtain ⟨a, ha, rfl⟩ := List.mem_map.1 mem
    have waits : s.accs.any (fun a => s.writesInFlight.contains a.id) = true :=
      List.any_eq_true.2 ⟨a, (List.mem_filter.1 ha).1, by simpa using mem⟩
    rw [ready false (by rw [waits]; rfl)]
    exact ⟨List.append_nil _, rfl⟩

/-- What a record raised at a function's queue that has room leaves (R77). -/
structure State.Raises (s : State) (f kind c detail : Nat) (t : State) : Prop where
  frame : t = { s with funcs := t.funcs, msix := t.msix, msiWait := t.msiWait }
  queue : t.func f = { s.func f with events := (s.func f).events ++ [eventRecord kind c detail] }
  others : ∀ k, k ≠ f → t.func k = s.func k
  quiet : (s.func f).events ≠ [] → t.msix = s.msix ∧ t.msiWait = s.msiWait
  signals : (s.func f).events = [] → s.msiWait = [] →
    (s.writesInFlight = [] → t.msix = s.msix ++ [(f, 0)] ∧ t.msiWait = []) ∧
    (s.writesInFlight ≠ [] → t.msix = s.msix ∧ t.msiWait = [{ f := f, waits := s.writesInFlight }])

theorem State.raiseEvent_raises {s : State} {f : Nat} (room : (s.func f).events.length < 256) (kind c detail : Nat) :
    s.Raises f kind c detail (s.raiseEvent f kind c detail) := by
  let r := s.modFunc f (fun x => { x with events := x.events ++ [eventRecord kind c detail] })
  obtain ⟨frame, same, others⟩ := s.modFunc_puts f (fun x => { x with events := x.events ++ [eventRecord kind c detail] })
  have e : s.raiseEvent f kind c detail = if (s.func f).events.isEmpty then r.signalQueue f else r := by
    simp only [State.raiseEvent, if_neg (Nat.not_le.2 room), ofNat_eventRecord]
    rfl
  by_cases empty : (s.func f).events = []
  · rw [e, if_pos (by simp [empty])]
    exact ⟨rfl, same, others, fun h => absurd empty h, fun _ idle => State.signalQueue_of_idle (s := r) idle f⟩
  · rw [e, if_neg (by simpa using empty)]
    exact ⟨rfl, same, others, fun _ => ⟨rfl, rfl⟩, fun h => absurd h empty⟩

/-- A record raised, or lost with the queue full (R78), changes functions and signals alone. -/
theorem State.raiseEvent_eq (s : State) (f kind c detail : Nat) :
    let t := s.raiseEvent f kind c detail
    t = { s with funcs := t.funcs, msix := t.msix, msiWait := t.msiWait } := by
  by_cases room : (s.func f).events.length < 256
  · exact (State.raiseEvent_raises room kind c detail).frame
  · simp only [State.raiseEvent, if_pos (Nat.not_lt.1 room)]
    rfl

end Sys2Proof.Machine
end

section
/-! PROOFS. Control registers of threads, and the address of a request's set (20 R413, R435, R436). -/
namespace Sys2Proof.Machine

/-! ### Effects of words -/

/-- Conditions of which there are none (R201). -/
theorem orAll_map_zero (l : List Nat) : orAll (l.map (fun _ => 0)) = 0 := by
  induction l with
  | nil => rfl
  | cons x r ih => rw [List.map_cons, orAll_cons, ih]; rfl

section
variable {s : State} {b : Bundle} {rest : List Bundle} {i : Instr}

theorem State.Begun.held {s1 : State} (h : s.Begun b i rest s1) : s1.held = s.held := by rw [h.frame]
theorem State.Begun.same {s1 : State} (h : s.Begun b i rest s1) (u n t m : Nat) : s1.Same u n t m ↔ s.cell u n = s.cell t m := by
  rw [← same_iff_cell, h.frame]; rfl

/-- A word is executed with its effect on the state in which it begins, where the effect holds no bundle. -/
theorem exec_of_effect {eff : Effect} (run : exec i s = s.issueWord i eff) (h : s.Executes b rest i) {f : State → State}
    (effect : ∀ s1, s.Begun b i rest s1 → eff b b.threads s1 = f s1) (held : ∀ s1, (f s1).held = s1.held) :
    ∃ s1, s.Begun b i rest s1 ∧ exec i s = .next { f s1 with held := s.heldAfter b i } := by
  obtain ⟨s1, begun, e⟩ := issueWord_begun h eff
  refine ⟨s1, begun, run.trans ?_⟩
  rw [e, effect s1 begun, held_keepLatches s (f s1) b i _ _ ((held s1).trans begun.held)]
  rfl

/-- Threads of a bundle that write a result each, in whatever order, and raise no condition deliver it (R42, R43). -/
theorem State.Put.delivers {s1 s2 : State} (begun : s.Begun b i rest s1) {ts : List Nat} (order : ts.Perm b.threads) {v : Nat → Nat}
    (p : s1.Put ts (formOf b.hints i).dst v (fun _ => 0) s2) :
    s.Delivers b rest i v (fun _ => 0) { s2 with held := s.heldAfter b i } := by
  refine ⟨?_, fun u hu => ?_, fun u hu => ?_, fun u hu d hd reg => ?_, fun u n other => ?_, fun q => ?_, fun k => ?_⟩
  · rw [p.frame, begun.frame]
  · exact (p.own u (order.mem_iff.2 hu)).trans (by rw [begun.threads, if_pos hu])
  · exact (p.others u (fun h => hu (order.mem_iff.1 h))).trans (by rw [begun.threads, if_neg hu])
  · rw [← p.result u (order.mem_iff.2 hu) d hd reg, readRegs_eq, readRegs_eq]
    rfl
  · refine (p.registers u n fun x hx m hm same => ?_).trans (by rw [begun.frame]; rfl)
    exact other x (order.mem_iff.1 hx) m hm ((begun.same u n x m).1 same)
  · refine (p.launches q).trans ?_
    rw [begun.frame, orAll_map_zero, orAll_map_zero]
  · refine (p.contexts k).trans ?_
    rw [begun.frame, orAll_map_zero, orAll_map_zero]
    rfl

/-- A word whose threads, in some order, write their results to its destination delivers them. -/
theorem delivers_of_effect {eff : Effect} (run : exec i s = s.issueWord i eff) (h : s.Executes b rest i)
    (room : s.Room b (formOf b.hints i)) {ts : List Nat} (order : ts.Perm b.threads) (v : Nat → Nat)
    (effect : ∀ s1, s.Begun b i rest s1 → eff b b.threads s1 = s1.putAll ts (formOf b.hints i).dst v (fun _ => 0)) :
    ∃ t, exec i s = .next t ∧ s.Delivers b rest i v (fun _ => 0) t := by
  obtain ⟨s1, begun, e⟩ := issueWord_begun h eff
  have roomFor : s1.RoomFor b.core ts (dstRegs (formOf b.hints i).dst) := by
    rw [begun.frame]
    refine room.imp (fun present t ht => present t (order.mem_iff.1 ht)) (fun space => ?_)
    rw [order.length_eq]
    exact space
  have p := putAll_put b.core (formOf b.hints i).dst v (fun _ => 0) (fits_formOf _ _) ts s1 ((order.map laneOf).nodup_iff.2 h.lanes)
    (fun t ht => h.core t (order.mem_iff.1 ht)) (fun t ht => gid_small h.toBundled t (order.mem_iff.1 ht)) roomFor
  have held : (s1.putAll ts (formOf b.hints i).dst v (fun _ => 0)).held = s.held := by rw [p.frame, begun.held]
  refine ⟨_, ?_, p.delivers begun order⟩
  rw [run, e, effect s1 begun, held_keepLatches s _ b i _ _ held]
  rfl

/-- Delivery speaks of the bundle's threads alone. -/
theorem State.Delivers.congr {v w : Nat → Nat} {c : Nat → BitVec 5} {t : State} (h : s.Delivers b rest i v c t)
    (e : ∀ u ∈ b.threads, v u = w u) : s.Delivers b rest i w c t :=
  ⟨h.frame, fun u hu => e u hu ▸ h.threads u hu, h.others, fun u hu => e u hu ▸ h.result u hu, h.registers, h.launches, h.contexts⟩
end

/-! ### CSRR and CSRW (R435) -/

/-- What a thread may read of a CSR is what it reads (R435). -/
theorem State.csrRead_of_csr {s : State} {b : Bundle} {u n v : Nat} (h : s.csr b u n = some v) : s.csrRead b.core u n = .value v := by
  have supervised : ∀ x, (if (s.team (s.teamOf u)).kind = .supervisor then some x else none) = some v →
      (if s.isSup u then CsrEnd.value x else .trap .priv) = .value v := by
    intro x hx
    obtain ⟨kind, value⟩ := Option.ite_none_right_eq_some.1 hx
    obtain rfl := Option.some.inj value
    exact if_pos (by simp [State.isSup, kind])
  unfold State.csr at h
  unfold State.csrRead
  split at h
  · obtain rfl := Option.some.inj h
    have pair : ∀ m : Team, (m.dn ++ m.rq).toNat = m.rq.toNat + m.dn.toNat * 2 ^ 32 := fun m => by
      rw [BitVec.toNat_append, ← Nat.shiftLeft_add_eq_or_of_lt m.rq.isLt, Nat.shiftLeft_eq, Nat.add_comm]
    simp [State.isSup, pair]
  · obtain rfl := Option.some.inj h
    rfl
  · obtain rfl := Option.some.inj h
    rfl
  · exact supervised _ h
  · exact supervised _ h
  · exact supervised _ h
  · exact supervised _ h
  · exact supervised _ h
  · exact supervised _ h
  · cases h

/-- CSRR delivers the CSR that each thread names and may read (R435). -/
theorem csrr_delivers {s : State} {b : Bundle} {rest : List Bundle} {d a : BitVec 7} {v : Nat → Nat}
    (h : s.Executes b rest (.csrr d a)) (room : s.Room b (formOf b.hints (.csrr d a)))
    (reads : ∀ u ∈ b.threads, s.csr b u (s.opnd b (.csrr d a) u 0) = some (v u)) :
    ∃ t, exec (.csrr d a) s = .next t ∧ s.Delivers b rest (.csrr d a) v (fun _ => 0) t := by
  have order : (inLanes b.threads).Perm b.threads := perm_sortBy _ _
  refine delivers_of_effect rfl h room order v fun s1 begun => ?_
  have values : (inLanes b.threads).map (fun t => (t, s1.csrRead b.core t (s1.operand b.hints t (useW a 32)))) =
      (inLanes b.threads).map (fun t => (t, CsrEnd.value (v t))) := by
    refine List.map_congr_left fun t ht => ?_
    rw [begun.operand, ← State.csrRead_of_csr (reads t (order.mem_iff.1 ht)), begun.frame]
    rfl
  have traps : ∀ c, ((inLanes b.threads).map (fun t => (t, CsrEnd.value (v t)))).filter (fun p => p.2 == .trap c) = [] := by
    intro c
    simp [List.filter_eq_nil_iff]
  simp only [values, List.foldl_cons, List.foldl_nil, traps, List.map_nil, trapAt_nil, List.foldl_map]
  rfl

/-- CSRW of one thread whose write is taken. -/
theorem csrw_of_taken {s : State} {b : Bundle} {rest : List Bundle} {a y : BitVec 7} {u : Nat} (h : s.Executes b rest (.csrw a y))
    (one : b.threads = [u]) {f : State → State} (held : ∀ s1, (f s1).held = s1.held)
    (taken : ∀ s1, s.Begun b (.csrw a y) rest s1 →
      s1.csrWrite b.core u (s.opnd b (.csrw a y) u 0) (s.opnd b (.csrw a y) u 1) = .ok (f s1)) :
    ∃ s1, s.Begun b (.csrw a y) rest s1 ∧ exec (.csrw a y) s = .next { f s1 with held := s.heldAfter b (.csrw a y) } := by
  refine exec_of_effect rfl h (fun s1 begun => ?_) held
  have written : s1.csrWrite b.core u (s1.operand b.hints u (useW a 32)) (s1.operand b.hints u (useX y 64 [124, 126, 127])) =
      .ok (f s1) := by
    rw [begun.operand, begun.operand]
    exact taken s1 begun
  have alone : inLanes b.threads = [u] := by rw [one]; rfl
  simp only [alone, List.foldl_cons, List.foldl_nil, written, List.filter_nil, List.map_nil, trapAt_nil]

section
variable {s : State} {u : Nat} (sup : s.isSup u = true) (core v : Nat)
include sup
theorem State.csrWrite_svLost : s.csrWrite core u 0x103 v =
    .ok (s.modCtx (s.ctxOf u) (fun x => { x with svLost := x.svLost.put core (BitVec.ofNat 64 v) })) := by
  simp [State.csrWrite, sup]
theorem State.csrWrite_event : s.csrWrite core u 0x105 v = .ok (s.raiseEvent (s.ownerOf (s.ctxOf u)) 1 (s.ctxOf u) v) := by
  simp [State.csrWrite, sup]
end

section
variable {s : State} {b : Bundle} {rest : List Bundle} {a y : BitVec 7} {u : Nat} (h : s.Executes b rest (.csrw a y))
  (one : b.threads = [u]) (sup : s.isSup u = true)

theorem State.Begun.thread_one {s1 : State} {i : Instr} (begun : s.Begun b i rest s1) (one : b.threads = [u]) :
    s1.thread u = (s.thread u).issued s b i ∧ ∀ w, w ≠ u → s1.thread w = s.thread w := by
  refine ⟨by rw [begun.threads, if_pos (by simp [one])], fun w hw => by rw [begun.threads, if_neg (by simp [one, hw])]⟩

include h one sup

/-- A supervisor's CSRW of 0x103 sets SV_LOST of its core (R435). -/
theorem csrw_svLost (num : s.opnd b (.csrw a y) u 0 = 0x103) : ∃ t, exec (.csrw a y) s = .next t ∧
    t = { s with issue := rest, held := s.heldAfter b (.csrw a y), threads := t.threads, ctxs := t.ctxs } ∧
    t.thread u = (s.thread u).issued s b (.csrw a y) ∧ (∀ w, w ≠ u → t.thread w = s.thread w) ∧
    t.ctx (s.ctxOf u) = { s.ctx (s.ctxOf u) with
      svLost := (s.ctx (s.ctxOf u)).svLost.put b.core (BitVec.ofNat 64 (s.opnd b (.csrw a y) u 1)) } ∧
    ∀ k, k ≠ s.ctxOf u → t.ctx k = s.ctx k := by
  let v := s.opnd b (.csrw a y) u 1
  let set : Ctx → Ctx := fun x => { x with svLost := x.svLost.put b.core (BitVec.ofNat 64 v) }
  obtain ⟨s1, begun, e⟩ := csrw_of_taken h one (f := fun s1 => s1.modCtx (s.ctxOf u) set) (fun _ => rfl) (fun s1 begun => by
    rw [num, State.csrWrite_svLost (by rw [begun.frame]; exact sup), begun.frame]
    rfl)
  obtain ⟨own, others⟩ := begun.thread_one one
  obtain ⟨-, same, kept⟩ := s1.modCtx_puts (s.ctxOf u) set
  have ctxs : ∀ k, s1.ctx k = s.ctx k := fun k => by rw [begun.frame]; rfl
  refine ⟨_, e, ?_, own, others, same.trans (by rw [ctxs]), fun k hk => (kept k hk).trans (ctxs k)⟩
  dsimp only
  rw [begun.frame]
  rfl

/-- A supervisor's CSRW of 0x105 raises an event with its value (R77, R435; log 35). -/
theorem csrw_event (num : s.opnd b (.csrw a y) u 0 = 0x105) (room : (s.func (s.ownerOf (s.ctxOf u))).events.length < 256) :
    let f := s.ownerOf (s.ctxOf u)
    ∃ t, exec (.csrw a y) s = .next t ∧
      t = { s with issue := rest, held := s.heldAfter b (.csrw a y), threads := t.threads, funcs := t.funcs, msix := t.msix,
                   msiWait := t.msiWait } ∧
      ((s.func f).events ≠ [] → t.msix = s.msix ∧ t.msiWait = s.msiWait) ∧
      ((s.func f).events = [] → s.msiWait = [] →
        (s.writesInFlight = [] → t.msix = s.msix ++ [(f, 0)] ∧ t.msiWait = []) ∧
        (s.writesInFlight ≠ [] → t.msix = s.msix ∧ t.msiWait = [{ f := f, waits := s.writesInFlight }])) ∧
      t.thread u = (s.thread u).issued s b (.csrw a y) ∧ (∀ w, w ≠ u → t.thread w = s.thread w) ∧
      t.func f = { s.func f with events := (s.func f).events ++ [eventRecord 1 (s.ctxOf u) (s.opnd b (.csrw a y) u 1)] } ∧
      ∀ k, k ≠ f → t.func k = s.func k := by
  intro f
  obtain ⟨s1, begun, e⟩ := csrw_of_taken h one
    (f := fun s1 => s1.raiseEvent f 1 (s.ctxOf u) (s.opnd b (.csrw a y) u 1)) (fun s1 => by rw [s1.raiseEvent_eq]) (fun s1 begun => by
      rw [num, State.csrWrite_event (by rw [begun.frame]; exact sup), begun.frame]
      rfl)
  obtain ⟨own, others⟩ := begun.thread_one one
  have raises := s1.raiseEvent_raises (f := f) (by rw [begun.frame]; exact room) 1 (s.ctxOf u) (s.opnd b (.csrw a y) u 1)
  dsimp only at e
  generalize s1.raiseEvent f 1 (s.ctxOf u) (s.opnd b (.csrw a y) u 1) = r at e raises
  have threads : ∀ w, r.thread w = s1.thread w := fun w => by rw [raises.frame]; rfl
  rw [begun.frame] at raises
  refine ⟨_, e, ?_, raises.quiet, raises.signals, (threads u).trans own, fun w hw => (threads w).trans (others w hw), raises.queue,
    raises.others⟩
  dsimp only
  rw [raises.frame]
end

/-! ### RPLGET (R436) -/

/-- The address of the set of the request in a slot, 0 for none (R435, R436). -/
def State.setAddr (s : State) (c core slot : Nat) : Nat :=
  (((s.requestIn c core slot).bind (fun r => r.hasSet.bind s.setOf)).map (fun x => x.addr.toNat)).getD 0

theorem State.requestIn_eq_some {s : State} {c core slot : Nat} {r : Request} : s.requestIn c core slot = some r ↔ s.Slot c core slot r := by
  unfold State.requestIn State.Slot
  split <;> simp [*]

/-- RPLGET computes the address of a set. -/
theorem exec_rplget (d a : BitVec 7) (s : State) :
    exec (.rplget d a) s = s.fpOut (.rplget d a) (fun b s t l => (s.setAddr (s.ctxOf t) b.core (l.getD 0 0), 0)) := rfl

theorem State.setAddr_eq {s : State} {c core slot v : Nat}
    (h : ((∀ r id, s.Slot c core slot r → r.hasSet = some id → s.setOf id = none) ∧ v = 0) ∨
      ∃ r id x, s.Slot c core slot r ∧ r.hasSet = some id ∧ s.setOf id = some x ∧ v = x.addr.toNat) : s.setAddr c core slot = v := by
  unfold State.setAddr
  rcases h with ⟨absent, rfl⟩ | ⟨r, id, x, slot, set, found, rfl⟩
  · have nothing : (s.requestIn c core slot).bind (fun r => r.hasSet.bind s.setOf) = none := by
      simp only [Option.bind_eq_none_iff]
      exact fun r hr id hid => absent r id (State.requestIn_eq_some.1 hr) hid
    rw [nothing]
    rfl
  · rw [State.requestIn_eq_some.2 slot, Option.bind_some, set, Option.bind_some, found]
    rfl

/-- RPLGET delivers the address of the set of each thread's slot (R435, R436). -/
theorem rplget_delivers {s : State} {b : Bundle} {rest : List Bundle} {d a : BitVec 7} {v : Nat → Nat}
    (h : s.Executes b rest (.rplget d a)) (room : s.Room b (formOf b.hints (.rplget d a)))
    (addr : ∀ u ∈ b.threads, s.setAddr (s.ctxOf u) b.core (s.opnd b (.rplget d a) u 0) = v u) :
    ∃ t, exec (.rplget d a) s = .next t ∧ s.Delivers b rest (.rplget d a) v (fun _ => 0) t := by
  obtain ⟨t, e, delivers⟩ := fpOut_delivers (fun b s t l => (s.setAddr (s.ctxOf t) b.core (l.getD 0 0), 0)) h room
    (fun s' near t l => by rw [near.frame]; rfl)
  exact ⟨t, (exec_rplget d a s).trans e, delivers.congr addr⟩

end Sys2Proof.Machine

open Sys2Proof Sys2Proof.Machine

/-- Settles O32: CSRR is a delivery of what `State.csr` gives (`csrr_delivers`), CSRW of one supervisor thread a change of its context
or an event (`csrw_svLost`, `csrw_event`; what vector 0 waits for, log 35), and RPLGET a delivery of `State.setAddr`. -/
theorem controlRegisters : Obligations.ControlRegisters := by
  unfold Obligations.ControlRegisters
  intro d a y s b rest
  refine ⟨fun v h room reads => csrr_delivers h room reads, fun u h one sup => ⟨fun num => csrw_svLost h one sup num,
    fun num room => csrw_event h one sup num room⟩, fun v h room sets => ?_⟩
  exact rplget_delivers h room fun u hu => State.setAddr_eq (sets u hu)
end

section
/-! PROOFS. Active messages: a message leaves its core, a handler starts, a message moves a cluster (05 R97–R101; 22 R452). -/
namespace Sys2Proof.Machine

/-! ### AM_ARRIVAL of the oldest message of a core (R97, R99, R101, R452) -/

/-- The oldest message leaves the outbound buffer of a core. -/
def State.popHead (s : State) (core : Nat) : State := s.modCore core (fun c => { c with outbound := c.outbound.drop 1 })

theorem State.raiseEvent_cores (s : State) (f kind c detail : Nat) : (s.raiseEvent f kind c detail).cores = s.cores := by
  rw [State.raiseEvent_eq]
theorem State.ctx_raiseEvent (s : State) (f kind c detail k : Nat) : (s.raiseEvent f kind c detail).ctx k = s.ctx k := by
  rw [State.raiseEvent_eq]; rfl
theorem State.modOut_eq (s : State) (q : Option Nat) (core : Nat) (f : Outst → Outst) :
    s.modOut q core f = { s with outst := (s.modOut q core f).outst } := by
  cases q <;> rfl
theorem State.outOf_modOut_same (s : State) (q core : Nat) (f : Outst → Outst) :
    (s.modOut (some q) core f).outOf q core = f (s.outOf q core) := Tab.at_put_same _ _ _ _

section
variable {s : State} {m : Msg} {rest : List Msg}

/-- What becomes of the oldest message of a core whose context may run. -/
theorem execAmArrival_of_head (here : s.subj.w = false) (head : (s.core s.subj.id).outbound = m :: rest) (free : s.ctxFree m.ctx = true) :
    exec .amArrival s = .next (
      if m.dstDev = ownId then s.deliver m (dieOf s.subj.id) (fun s' => s'.popHead s.subj.id)
      else if !s.anyPort then (s.popHead s.subj.id).refuseMsg m 1
      else if s.subj.a ≠ 0 then (s.popHead s.subj.id).refuseMsg m (min s.subj.a 5)
      else (s.popHead s.subj.id).modOut m.launch m.core (fun n => { n with messages := n.messages - 1 })) := by
  refine congrArg Host.Outcome.next ?_
  simp only [here, Bool.false_eq_true, if_false, State.sendHead, head, free, Bool.not_true]
  rfl

/-- The buffer of a core whose oldest message has left. -/
theorem State.core_popHead {s : State} {core : Nat} {m : Msg} {rest : List Msg} (head : (s.core core).outbound = m :: rest) :
    (s.popHead core).core core = { s.core core with outbound := rest } := by
  rw [State.popHead, State.core_modCore_same, head]
  rfl

/-- A message for another device is taken there (R97, R452; log 22, log 38). -/
theorem amArrival_departs (here : s.subj.w = false) (head : (s.core s.subj.id).outbound = m :: rest) (free : s.ctxFree m.ctx = true)
    (away : m.dstDev ≠ ownId) (port : s.boot.ready.extractLsb' 6 4 ≠ 0) (started : s.subj.a = 0) :
    Becomes .amArrival s (fun t =>
      t = { s with cores := t.cores, outst := t.outst } ∧ t.core s.subj.id = { s.core s.subj.id with outbound := rest } ∧
      ∀ q, m.launch = some q → t.outOf q m.core = { s.outOf q m.core with messages := (s.outOf q m.core).messages - 1 }) := by
  have up : s.anyPort = true := by simpa [State.anyPort] using port
  refine ⟨(s.popHead s.subj.id).modOut m.launch m.core (fun n => { n with messages := n.messages - 1 }), ?_, ?_, ?_, fun q sent => ?_⟩
  · rw [execAmArrival_of_head here head free]
    simp only [if_neg away, up, Bool.not_true, Bool.false_eq_true, if_false, started, ne_eq, not_true_eq_false]
  · rw [State.modOut_eq]
    rfl
  · rw [State.modOut_eq]
    exact State.core_popHead head
  · rw [sent, State.outOf_modOut_same]
    rfl

/-- A message of this device that is refused counts at its sender and raises an event there (R101; the device's number, log 22). -/
theorem State.refuseMsg_counts (s : State) {m : Msg} (own : m.dev = ownId) (reason : Nat) :
    (s.refuseMsg m reason).cores = s.cores ∧
    ((s.refuseMsg m reason).ctx m.ctx).amNack = sat32 (s.ctx m.ctx).amNack ∧
    ((s.func (s.ownerOf m.ctx)).events.length < 256 → ((s.refuseMsg m reason).func (s.ownerOf m.ctx)).events =
      (s.func (s.ownerOf m.ctx)).events ++ [eventRecord 2 m.ctx (reason * 2 ^ 32 + m.dstDev)]) := by
  let r := s.modCtx m.ctx (fun x => { x with amNack := sat32 x.amNack })
  have counted : (r.ctx m.ctx) = { s.ctx m.ctx with amNack := sat32 (s.ctx m.ctx).amNack } := State.ctx_modCtx_same _ _ _
  have owner : r.ownerOf m.ctx = s.ownerOf m.ctx := by rw [State.ownerOf, counted]; rfl
  have e : s.refuseMsg m reason = (r.raiseEvent (s.ownerOf m.ctx) 2 m.ctx (reason * 2 ^ 32 + m.dstDev)).modOut m.launch m.core
      (fun n => { n with messages := n.messages - 1 }) := by
    rw [← owner]
    simp only [State.refuseMsg, own, bne_self_eq_false, Bool.false_eq_true, if_false]
    rfl
  rw [e, State.modOut_eq]
  refine ⟨?_, ?_, fun room => ?_⟩
  · exact r.raiseEvent_cores (s.ownerOf m.ctx) 2 m.ctx (reason * 2 ^ 32 + m.dstDev)
  · have kept := congrArg Ctx.amNack (r.ctx_raiseEvent (s.ownerOf m.ctx) 2 m.ctx (reason * 2 ^ 32 + m.dstDev) m.ctx)
    rw [counted] at kept
    exact kept
  · exact congrArg Func.events (State.raiseEvent_raises (s := r) room 2 m.ctx (reason * 2 ^ 32 + m.dstDev)).queue

theorem sat32_eq (x : BitVec 32) : sat32 x = if x = 0xFFFFFFFF then 0xFFFFFFFF else x + 1 := by
  unfold sat32
  split
  · next h => exact h.trans (if_pos h).symm
  · next h => exact (if_neg h).symm

/-- A message for another device is refused where no link is up (R101; log 22). -/
theorem amArrival_refused (here : s.subj.w = false) (head : (s.core s.subj.id).outbound = m :: rest) (free : s.ctxFree m.ctx = true)
    (away : m.dstDev ≠ ownId) (own : m.dev = ownId) (noPort : s.boot.ready.extractLsb' 6 4 = 0) :
    Becomes .amArrival s (fun t =>
      t.core s.subj.id = { s.core s.subj.id with outbound := rest } ∧
      (t.ctx m.ctx).amNack = (if (s.ctx m.ctx).amNack = 0xFFFFFFFF then 0xFFFFFFFF else (s.ctx m.ctx).amNack + 1) ∧
      ((s.func (s.ownerOf m.ctx)).events.length < 256 → (t.func (s.ownerOf m.ctx)).events =
        (s.func (s.ownerOf m.ctx)).events ++ [eventRecord 2 m.ctx (2 ^ 32 + m.dstDev)])) := by
  have down : s.anyPort = false := by simpa [State.anyPort] using noPort
  obtain ⟨cores, nack, events⟩ := (s.popHead s.subj.id).refuseMsg_counts own 1
  rw [sat32_eq] at nack
  rw [Nat.one_mul] at events
  refine ⟨(s.popHead s.subj.id).refuseMsg m 1, ?_, ?_, nack, events⟩
  · rw [execAmArrival_of_head here head free]
    simp only [if_neg away, down, Bool.not_false, if_true]
  · rw [State.core, cores]
    exact State.core_popHead head

/-- A message for this device that nothing refuses joins an inbox (R97, R99; log 38). -/
theorem amArrival_joins (here : s.subj.w = false) (head : (s.core s.subj.id).outbound = m :: rest) (free : s.ctxFree m.ctx = true)
    (own : m.dstDev = ownId) {s' : State} (room : (s.inboxOf (m.die (dieOf s.subj.id))).length < 256)
    (accepted : s.amRefusal m (m.die (dieOf s.subj.id)) = (s', none)) :
    Becomes .amArrival s (fun t => t = { s' with cores := t.cores, inbox := t.inbox } ∧
      t.inbox = s'.inbox ++ [(m.die (dieOf s.subj.id), m)] ∧
      t.core s.subj.id = { s'.core s.subj.id with outbound := (s'.core s.subj.id).outbound.drop 1 }) := by
  refine ⟨{ s'.popHead s.subj.id with inbox := s'.inbox ++ [(m.die (dieOf s.subj.id), m)] }, ?_, rfl, rfl, ?_⟩
  · rw [execAmArrival_of_head here head free, if_pos own]
    simp only [State.deliver, if_neg (Nat.not_le.2 room), accepted]
    rfl
  · exact State.core_modCore_same s' s.subj.id (fun c => { c with outbound := c.outbound.drop 1 })
end

/-! ### Registers of a group that are written alike (R98, R112) -/

theorem lineOf_writeReg_isSome (s : State) (t n : Nat) (v : Word) (h : s.Placed t n) :
    ((s.writeReg t n v).lineOf (gidOf t) n).isSome = true := by
  rw [writeReg_eq s t n v h, lineOf_linesAfter, if_pos ⟨rfl, rfl, rfl⟩]
  rfl

theorem State.Avail.placed {s : State} {t n k : Nat} (h : s.Avail t n (k + 1)) : s.Placed t n :=
  h.imp (fun present => present 0 (Nat.succ_pos k)) (fun room => by omega)

/-- Room for registers is room for those after the first, once that has been written. -/
theorem State.Avail.next {s : State} {t n k : Nat} (h : s.Avail t n (k + 1)) (v : Word) : (s.writeReg t n v).Avail t (n + 1) k := by
  have w := writeReg_wrote s t n v h.placed
  refine h.imp (fun present i hi => w.present t _ ?_) (fun room => ?_)
  · rw [Nat.add_assoc, Nat.add_comm 1 i]
    exact present (i + 1) (Nat.succ_lt_succ hi)
  · have := w.count
    simp only [List.length_cons, List.length_nil] at this
    omega

/-- Registers that a thread has written have lines. -/
theorem State.lineOf_writeRegs_isSome (t : Nat) (ws : List Word) (s : State) (n : Nat) (h : s.Avail t n ws.length) (i : Nat)
    (hi : i < ws.length) : ((s.writeRegs t n ws).lineOf (gidOf t) (n + i)).isSome = true := by
  induction ws generalizing s n i with
  | nil => exact absurd hi (Nat.not_lt_zero i)
  | cons v r ih =>
    have h : s.Avail t n (r.length + 1) := h
    cases i with
    | zero => exact (writeRegs_wrote t r _ (n + 1) (h.next v)).present t n (lineOf_writeReg_isSome s t n v h.placed)
    | succ j =>
      have := ih (s.writeReg t n v) (n + 1) (h.next v) j (Nat.lt_of_succ_lt_succ hi)
      rwa [Nat.add_assoc, Nat.add_comm 1 j] at this

theorem laneOf_ne {t u : Nat} (group : gidOf t = gidOf u) (h : t ≠ u) : laneOf t ≠ laneOf u := by
  unfold gidOf laneOf at *; omega

theorem frame_trans_lines {s a b : State} (h1 : a = { s with lines := a.lines }) (h2 : b = { a with lines := b.lines }) :
    b = { s with lines := b.lines } := by
  rw [h1] at h2
  exact h2

/-- Threads of one group that write the same words from register 0 on hold them; nothing changes but register lines. -/
theorem State.foldl_writeRegs_holds (g : Nat) (ws : List Word) (ts : List Nat) (s : State) (group : ∀ t ∈ ts, gidOf t = g)
    (room : ∀ t ∈ ts, s.Avail t 0 ws.length) :
    let s' := ts.foldl (fun s t => s.writeRegs t 0 ws) s
    s' = { s with lines := s'.lines } ∧
      ∀ t, gidOf t = g → (t ∈ ts ∨ ∀ i (h : i < ws.length), s.readReg t i = ws[i]) → ∀ i (h : i < ws.length), s'.readReg t i = ws[i] := by
  induction ts generalizing s with
  | nil => exact ⟨rfl, fun t _ h => h.resolve_left List.not_mem_nil⟩
  | cons u r ih =>
    have avail := room u List.mem_cons_self
    have w := writeRegs_wrote u ws s 0 avail
    have hu := group u List.mem_cons_self
    obtain ⟨frame, holds⟩ := ih (s.writeRegs u 0 ws) (fun t ht => group t (List.mem_cons_of_mem u ht)) (fun t ht => .inl fun i hi => by
      rw [group t (List.mem_cons_of_mem u ht), ← hu]
      exact State.lineOf_writeRegs_isSome u ws s 0 avail i hi)
    refine ⟨?_, fun t ht h => holds t ht ?_⟩
    · exact frame_trans_lines w.frame frame
    · by_cases e : t = u
      · subst e
        exact .inr fun i hi => by simpa using w.result i hi
      · refine h.imp (fun mem => (List.mem_cons.1 mem).resolve_left e) (fun held i hi => ?_)
        rw [w.other t i fun j _ same => laneOf_ne (ht.trans hu.symm) e same.2.2.2]
        exact held i hi

/-! ### HANDLER_START (R98–R101) -/

/-- Threads that start change threads alone. -/
theorem State.foldl_start_eq (pc : VA) (ts : List Nat) (s : State) :
    ts.foldl (fun s t => s.setThread t (Thread.start pc s.clk)) s =
      { s with threads := (ts.foldl (fun s t => s.setThread t (Thread.start pc s.clk)) s).threads } := by
  induction ts generalizing s with
  | nil => rfl
  | cons u r ih =>
    rw [List.foldl_cons, ih]
    rfl
/-- A group that starts changes groups and threads alone (R69). -/
theorem State.startGroup_eq (s : State) (k slot i : Nat) (pc : VA) :
    ∃ gs ts, s.startGroup k slot i pc = { s with groups := gs, threads := ts } :=
  ⟨_, _, State.foldl_start_eq pc _ _⟩

theorem getD_mod_mem {l : List Nat} (h : l ≠ []) (n d : Nat) : l.getD (n % l.length) d ∈ l := by
  rw [List.getD_eq_getElem _ _ (Nat.mod_lt _ (List.length_pos_iff.2 h))]
  exact List.getElem_mem _

/-- A context that enters a core changes that core alone (R93). -/
theorem State.enterCtx_eq (s : State) (core c : Nat) : s.enterCtx core c = { s with cores := (s.enterCtx core c).cores } := by
  unfold State.enterCtx
  split
  · rfl
  · split <;> rfl

/-- The team of a message's handler, with its one group in a slot (R98). -/
structure Team.Handler (x : Team) (m : Msg) (code : Nat) (k : Kernel) (slot : Nat) : Prop where
  kind : x.kind = .handler
  code : x.code = BitVec.ofNat 64 code
  state : x.bind.state = .runnable
  ctx : x.bind.ctx = m.dstCtx
  groups : x.bind.groups = 1
  entryPc : x.bind.entryPc = BitVec.ofNat 64 k.entry
  slots : x.bind.slots = 1#128 <<< slot

/-- The handler of a message has started on a core: its team stands, and its threads hold the message (R98). -/
structure State.Handles (s : State) (m : Msg) (core code : Nat) (k : Kernel) (slot : Nat) : Prop where
  team : (s.team (teamKey core 64)).Handler m code k slot
  threads : ∀ j, j < 32 → (s.thread (threadKey (groupKey core slot) j)).pc = BitVec.ofNat 57 k.entry ∧
    (s.thread (threadKey (groupKey core slot) j)).tstate = .run
  registers : ∀ j, j < 32 → ∀ i (h : i < (m.words.take k.regs).length),
    s.readReg (threadKey (groupKey core slot) j) i = (m.words.take k.regs)[i]

theorem coreOfGroup_groupKey {core slot : Nat} (h : slot < 128) : coreOfGroup (groupKey core slot) = core := by
  unfold coreOfGroup groupKey; omega

section
variable {m : Msg} {core code slot : Nat} {k : Kernel}

/-- Where a handler's team stands and its group has started, its threads take the message (R98); no byte is written. -/
theorem State.Started.handles {r : State} (started : r.Started (groupKey core slot) (teamKey core 64) (BitVec.ofNat 57 k.entry))
    (handler : (r.team (teamKey core 64)).Handler m code k slot) (low : slot < 128)
    (room : (r.lines.filter (fun l => l.core == core)).length + (m.words.take k.regs).length ≤ lineCapacity) :
    let t := (threadsOfGroup (groupKey core slot)).foldl (fun s t => s.writeRegs t 0 (m.words.take k.regs)) r
    t.Handles m core code k slot ∧ t.inbox = r.inbox ∧ t.mem = r.mem := by
  have written := State.foldl_writeRegs_holds (groupKey core slot) (m.words.take k.regs) _ r
    (fun t => mem_threadsOfGroup.1) (fun t ht => .inr (by
      rw [coreOf, mem_threadsOfGroup.1 ht, coreOfGroup_groupKey low]
      exact room))
  dsimp only at written ⊢
  generalize (threadsOfGroup (groupKey core slot)).foldl (fun s t => s.writeRegs t 0 (m.words.take k.regs)) r = t at written ⊢
  obtain ⟨frame, holds⟩ := written
  have thread : ∀ u, t.thread u = r.thread u := fun u => by rw [frame]; rfl
  refine ⟨⟨?_, fun j hj => ?_, fun j hj => ?_⟩, by rw [frame], by rw [frame]⟩
  · rw [frame]
    exact handler
  · obtain ⟨pc, run, -⟩ := started.threads _ (gidOf_threadKey hj)
    rw [thread]
    exact ⟨pc, run⟩
  · have gid := gidOf_threadKey (g := groupKey core slot) hj
    exact holds _ gid (.inl (mem_threadsOfGroup.2 gid))
end

section
variable (s : State) (m : Msg) (core code : Nat) (k : Kernel) (off : Nat)

/-- What a handler's start is made of: its context's place on the core, its team, its group, its threads' registers. -/
theorem State.startHandler_parts : ∃ (u : State) (x : Team) (c : Tab Cluster),
    let slot := (s.slotsFree core).getD (s.free.1.toNat % (s.slotsFree core).length) 0
    u = { s with freeCount := u.freeCount, cores := u.cores } ∧ x.Handler m code k slot ∧
    s.startHandler m core code k off = (threadsOfGroup (groupKey core slot)).foldl (fun s t => s.writeRegs t 0 (m.words.take k.regs))
      (({ u.setTeam (teamKey core 64) x with clusters := c } : State).startGroup (teamKey core 64) slot 0 (BitVec.ofNat 57 k.entry)) := by
  unfold State.startHandler
  refine ⟨s.free.2.enterCtx core m.dstCtx, _, _, ?_, ?_, rfl⟩
  · rw [State.enterCtx_eq]
    rfl
  · exact ⟨rfl, rfl, rfl, rfl, rfl, rfl, rfl⟩

variable {s m core}
/-- R98: a handler starts in a free slot of its core (log 30); no byte is written, and no message is taken. -/
theorem State.startHandler_handles (slots : s.slotsFree core ≠ [])
    (room : (s.lines.filter (fun l => l.core == core)).length + (m.words.take k.regs).length ≤ lineCapacity) :
    ∃ i ∈ s.slotsFree core, (s.startHandler m core code k off).Handles m core code k i ∧
      (s.startHandler m core code k off).inbox = s.inbox ∧ (s.startHandler m core code k off).mem = s.mem := by
  obtain ⟨u, x, c, kept, handler, made⟩ := s.startHandler_parts m core code k off
  have free := getD_mod_mem slots s.free.1.toNat 0
  generalize (s.slotsFree core).getD (s.free.1.toNat % (s.slotsFree core).length) 0 = i at *
  have low : i < 128 := List.mem_range.1 (List.mem_filter.1 free).1
  let w : State := { u.setTeam (teamKey core 64) x with clusters := c }
  have started := w.startGroup_started (teamKey core 64) i 0 (BitVec.ofNat 57 k.entry)
  obtain ⟨gs, ts, frame⟩ := w.startGroup_eq (teamKey core 64) i 0 (BitVec.ofNat 57 k.entry)
  rw [coreOfTeam_teamKey (by decide)] at started
  generalize e : w.startGroup (teamKey core 64) i 0 (BitVec.ofNat 57 k.entry) = r at started frame
  have same : r.lines = s.lines ∧ r.inbox = s.inbox ∧ r.mem = s.mem := by
    rw [frame]
    show u.lines = s.lines ∧ u.inbox = s.inbox ∧ u.mem = s.mem
    rw [kept]
    exact ⟨rfl, rfl, rfl⟩
  have team : r.team (teamKey core 64) = x := by
    rw [frame]
    exact u.team_setTeam_same _ x
  obtain ⟨lines, inbox, mem⟩ := same
  obtain ⟨handles, inbox', mem'⟩ := started.handles (team ▸ handler) low (by rw [lines]; exact room)
  rw [← e] at handles inbox' mem'
  rw [made]
  exact ⟨i, free, handles, inbox'.trans (e ▸ inbox), mem'.trans (e ▸ mem)⟩
end

section
variable {s s1 s2 s3 : State} {m : Msg} {n die core code kern off : Nat} {k : Kernel}

/-- A message whose handler may start on a core, its table and code read (R98, R99; log 38). -/
theorem State.tryHandler_of_read (entry : s.handlerEntry core m.dstCtx m.handler = (s1, .ok (code, kern)))
    (kernel : s1.handlerKernel core m.dstCtx code kern = (s2, .ok k))
    (arena : s2.arenaTake m.dstCtx (pageUp (imageSize 1 k.regs)) = (s3, some off)) :
    ∃ sl os, s.tryHandler n die m core =
      { ({ s3 with inbox := s3.inbox.eraseIdx n } : State).startHandler m core code k off with stale := sl, outst := os } := by
  have read : s.handlerOf core m = (s2, .ok (code, k)) := by simp only [State.handlerOf, entry, kernel]
  simp only [State.tryHandler, read, arena]
  split
  · rw [State.modOut_eq]
    exact ⟨_, _, rfl⟩
  · exact ⟨_, _, rfl⟩

/-- The next message of an inbox whose handler a core may take. -/
theorem execHandlerStart_of_core (queued : s.inbox[s.subj.id]? = some (die, m)) (sound : m.failed = false) (resolved : m.batch = none)
    (next : amAfter ((s.inbox.take s.subj.id).map (·.2)) m = false) (takes : s.handlerCore die m = some core) :
    exec .handlerStart s = .next (s.tryHandler s.subj.id die m core) := by
  refine congrArg Host.Outcome.next ?_
  simp only [queued, sound, resolved, next, takes, Option.isSome_none, Bool.or_self, Bool.false_eq_true, if_false]

theorem Msg.length_words (payload : m.payload.length = 16) : m.words.length = 18 := by simp [Msg.words, payload]

/-- The registers of a handler's threads, as many as it has for the message (R98). -/
theorem State.Handles.readRegs {slot : Nat} (h : s.Handles m core code k slot) (payload : m.payload.length = 16) {j : Nat} (hj : j < 32) :
    s.readRegs (threadKey (groupKey core slot) j) 0 (min 18 k.regs) = m.words.take (min 18 k.regs) := by
  have words := Msg.length_words payload
  rw [readRegs_eq]
  refine List.ext_getElem (by simp [words, Nat.min_comm]) fun i hi _ => ?_
  have bound : i < (m.words.take k.regs).length := by
    rw [List.length_map, List.length_range] at hi
    rw [List.length_take, words]
    omega
  simpa using h.registers j hj i bound

/-- R98–R101: a handler starts as a team of one group whose registers hold the message. -/
theorem handlerStart_handles (queued : s.inbox[s.subj.id]? = some (die, m)) (sound : m.failed = false) (resolved : m.batch = none)
    (next : amAfter ((s.inbox.take s.subj.id).map (·.2)) m = false) (takes : s.handlerCore die m = some core)
    (entry : s.handlerEntry core m.dstCtx m.handler = (s1, .ok (code, kern)))
    (kernel : s1.handlerKernel core m.dstCtx code kern = (s2, .ok k))
    (arena : s2.arenaTake m.dstCtx (pageUp (imageSize 1 k.regs)) = (s3, some off)) (slots : s3.slotsFree core ≠ [])
    (payload : m.payload.length = 16) (room : (s3.lines.filter (fun l => l.core == core)).length + 18 ≤ lineCapacity) :
    Becomes .handlerStart s (fun t => t.inbox = s3.inbox.eraseIdx s.subj.id ∧ t.mem = s3.mem ∧
      ∃ i ∈ s3.slotsFree core, t.Handles m core code k i) := by
  have few : (m.words.take k.regs).length ≤ 18 := Msg.length_words payload ▸ List.length_take_le' k.regs m.words
  let s4 : State := { s3 with inbox := s3.inbox.eraseIdx s.subj.id }
  obtain ⟨i, free, handles, inbox, mem⟩ := State.startHandler_handles (s := s4) (m := m) code k off slots
    ((Nat.add_le_add_left few _).trans room)
  obtain ⟨sl, os, e⟩ : ∃ sl os, s.tryHandler s.subj.id die m core = { s4.startHandler m core code k off with stale := sl, outst := os } :=
    State.tryHandler_of_read entry kernel arena
  generalize s4.startHandler m core code k off = r at handles inbox mem e
  obtain ⟨team, threads, registers⟩ := handles
  have runs := execHandlerStart_of_core queued sound resolved next takes
  rw [e] at runs
  exact ⟨_, runs, inbox, mem, i, free, team, threads, registers⟩
end

/-! ### AM_WAIT_PREEMPTION (R99) -/

/-- R99: a message that has waited 20 µs for a slot or a position moves a cluster of its core. -/
theorem amWaitPreemption_of_starved {s : State} {die since core c : Nat} {m : Msg} (queued : s.inbox[s.subj.id]? = some (die, m))
    (from_ : m.since = some since) (long : since + 20 * oneUs ≤ s.wall) (lacks : s.amLack die m = some core)
    (calm : ∀ p ∈ s.clusters, p.2.state ≠ .stopping) (victim : s.amVictim core = some c) :
    Becomes .amWaitPreemption s (s.Preempts [c]) := by
  have still : s.clusters.any (fun p => p.2.state == .stopping && p.2.members.any (fun x => x.core == core)) = false := by
    rw [List.any_eq_false]
    intro p hp
    simp [calm p hp]
  have late : m.since.any (fun t => decide (t + amTime ≤ s.wall)) = true := by
    rw [from_, Option.any_some, amTime]
    exact decide_eq_true long
  have starved : s.amStarved die m = some core := by
    simp only [State.amStarved, late, Bool.not_true, Bool.false_eq_true, if_false, lacks, Option.filter_some, still, Bool.not_false, if_true]
  refine ⟨_, congrArg Host.Outcome.next ?_, State.foldl_preempt_preempts [c] s⟩
  simp only [queued, starved, Option.bind_some, victim]
  rfl

end Sys2Proof.Machine

open Sys2Proof Sys2Proof.Machine

/-- Settles O57: the oldest message of a core by its destination (`execAmArrival_of_head`; what another device answers is an operand of
the event, log 38, and `deviceId` a constant, log 22), a handler's start by `State.startHandler_handles`, and the pre-emption by
`amWaitPreemption_of_starved`. -/
theorem activeMessages : Obligations.ActiveMessages := by
  unfold Obligations.ActiveMessages
  intro s
  refine ⟨fun m rest here head free => ⟨fun away port started => amArrival_departs here head free away port started,
    fun away own noPort => amArrival_refused here head free away own noPort,
    fun s' own room accepted => amArrival_joins here head free own room accepted⟩,
    fun die m n code kern k s1 s2 s3 off queued sound resolved next takes entry kernel arena slots payload room => ?_,
    fun die m since n c queued from_ long lacks calm victim => amWaitPreemption_of_starved queued from_ long lacks calm victim⟩
  obtain ⟨t, runs, inbox, mem, i, free, handles⟩ :=
    handlerStart_handles queued sound resolved next takes entry kernel arena slots payload room
  obtain ⟨kind, code, state, ctx, groups, entryPc, slots⟩ := handles.team
  exact ⟨t, runs, inbox, mem, kind, code, ⟨state, ctx, groups, entryPc⟩, i, free, slots, fun j hj =>
    ⟨(handles.threads j hj).1, (handles.threads j hj).2, handles.readRegs payload hj⟩⟩
end

section
/-! PROOFS. TEARDOWN while a group waits for a place of the engine that is freed (13 R248, R251; 21 R446). -/
namespace Sys2Proof.Machine

/-- Thread 0 is the only member of its group's copy rendezvous, and has arrived (R248). -/
def loneRdv : Rdv :=
  { pc := 0, instr := .cpy 0 0, hints := Hints.none, mask := 1, openedAt := 0,
    arrivals := [{ lane := 0, mask := 1, a := 0, b := 0, c := 0, k := [] }] }
/-- A copy of context 0 on core 0 that has made its stamp. -/
def stampedCopy : Copy :=
  { id := 0, core := 0, place := 0, team := 0, bind := Bind.reset, cluster := 0, ctx := 0, launch := none, n := 0, state := .stamping,
    was := .stamping, slices := [], after := [], status := 0, count := 0, slice := 0, row := 0, prog := 0, window := 0, index := none,
    indexBad := false, buf := [], held := [], acked := true, entries := [], poison := false }
/-- Core 0 holds group 0 but not the team that the group names, which therefore reads as the reset record, of context 0. The group
waits at its copy rendezvous for a place of the engine; context 0 has a copy on it. -/
def strandedGroup : State :=
  { State.reset with
    boot := { Boot.reset with state := 2 }, copies := [stampedCopy],
    groups := [(0, { Group.reset with live := true, copyRdv := some loneRdv })],
    threads := [(0, { Thread.reset with tstate := .run, waitFor := .copySlice })] }

/-- The teardown of context 0 ends its copy, but not the group: the place that is freed goes to the group, whose slice opens a copy of
context 0 (R251). -/
theorem strandedGroup_teardown : ∃ y ∈ (strandedGroup.runCtl 0 0 1).copies, y.ctx = 0 := by decide +kernel

end Sys2Proof.Machine

open Sys2Proof Sys2Proof.Machine

/-- Refutes O49: in `strandedGroup`, TEARDOWN of context 0 leaves a copy of context 0 (`strandedGroup_teardown`). The statement is
about every state; that of TEARDOWN's clause on copies lacks the hypothesis that a group on a core names a team that the core holds.
No run is claimed to reach a state without it. -/
theorem not_contextEvents : ¬ Obligations.ContextEvents := by
  unfold Obligations.ContextEvents
  intro h
  have sees : strandedGroup.sees 0 0 = true := by decide +kernel
  obtain ⟨-, -, runCtl, -⟩ := h strandedGroup
  obtain ⟨-, -, t, runs, -, -, -, -, -, -, gone, -⟩ := runCtl sees rfl
  cases runs
  obtain ⟨y, left, own⟩ := strandedGroup_teardown
  exact gone y left own
end

section
/-! PROOFS. What no write of a team image, of a save block or of scratch changes: the teams, groups and threads on the cores, their
clusters, register lines, monitors and copies (06 R109, R113, R117; 21 R440–R442). -/
namespace Sys2Proof.Machine

/-- What stands on the cores and engines, beside the bytes of memory and what is kept of them. -/
def State.onCores (s : State) : Tab Team × Tab Group × Tab Thread × Tab Cluster × List RegLine × List Monitor × List Copy :=
  (s.teams, s.groups, s.threads, s.clusters, s.lines, s.monitors, s.copies)

section
variable {s t : State} (h : t.onCores = s.onCores)
include h
theorem State.onCores_teams : t.teams = s.teams := congrArg (·.1) h
theorem State.onCores_groups : t.groups = s.groups := congrArg (·.2.1) h
theorem State.onCores_threads : t.threads = s.threads := congrArg (·.2.2.1) h
theorem State.onCores_clusters : t.clusters = s.clusters := congrArg (·.2.2.2.1) h
theorem State.onCores_lines : t.lines = s.lines := congrArg (·.2.2.2.2.1) h
theorem State.onCores_monitors : t.monitors = s.monitors := congrArg (·.2.2.2.2.2.1) h
theorem State.onCores_copies : t.copies = s.copies := congrArg (·.2.2.2.2.2.2) h
theorem State.onCores_team (k : Nat) : t.team k = s.team k := by rw [State.team, State.onCores_teams h, State.team]
theorem State.onCores_group (g : Nat) : t.group g = s.group g := by rw [State.group, State.onCores_groups h, State.group]
theorem State.onCores_thread (u : Nat) : t.thread u = s.thread u := by rw [State.thread, State.onCores_threads h, State.thread]
end

/-! ### Composition -/

@[simp] theorem State.onCores_ite {p : Prop} [Decidable p] (s t : State) :
    (if p then s else t).onCores = if p then s.onCores else t.onCores := apply_ite _ _ _ _
theorem State.onCores_foldl {α : Type} (l : List α) (f : State → α → State) (h : ∀ s x, (f s x).onCores = s.onCores) (s : State) :
    (l.foldl f s).onCores = s.onCores :=
  List.foldlRecOn l f (motive := fun t : State => t.onCores = s.onCores) rfl (fun t k x _ => (h t x).trans k)

/-! ### Bytes (R113, R225, R226) -/

section
variable (s : State)
@[simp] theorem State.onCores_setBytes (a : Nat) (bs : List Byte) : (s.setBytes a bs).onCores = s.onCores := by
  rw [setBytes_eq]; rfl
@[simp] theorem State.onCores_poisonSector (sec : Nat) : (s.poisonSector sec).onCores = s.onCores := by
  unfold State.poisonSector; split <;> rfl
@[simp] theorem State.onCores_cleanSector (sec : Nat) : (s.cleanSector sec).onCores = s.onCores := (rfl)
@[simp] theorem State.onCores_dropReplicas (pa : Nat) : (s.dropReplicas pa).onCores = s.onCores := (rfl)
@[simp] theorem State.onCores_keepOld (sec : Nat) : (s.keepOld sec).onCores = s.onCores := (rfl)
@[simp] theorem State.onCores_dirtyFrame (loc : Nat) : (s.dirtyFrame loc).onCores = s.onCores := (rfl)
@[simp] theorem State.onCores_with_sectorKey (t : Tab Nat) : State.onCores { s with sectorKey := t } = s.onCores := (rfl)
@[simp] theorem State.onCores_storeBytes (loc key : Nat) (p c : Bool) (bs : List Byte) :
    (s.storeBytes loc key p c bs).onCores = s.onCores := by
  simp [State.storeBytes]
@[simp] theorem State.onCores_storeLeaf (loc leaf : Nat) (bs : List Byte) : (s.storeLeaf loc leaf bs).onCores = s.onCores :=
  s.onCores_storeBytes loc _ _ _ bs
@[simp] theorem State.onCores_dirRecall (loc n : Nat) : (s.dirRecall loc n).onCores = s.onCores := (rfl)
/-- The device's own write into an arena, while no monitor stands. -/
theorem State.onCores_arenaWrite (monitors : s.monitors = []) (c va n x : Nat) : (s.arenaWrite c va n x).onCores = s.onCores := by
  have stored : ((s.storeLeaf (s.arenaLoc c va) (s.arenaLeaf c va) (bytesOf n x)).dirRecall (s.arenaLoc c va)
      (bytesOf n x).length).onCores = s.onCores := by simp
  simp [State.arenaWrite, State.deviceWrite, State.fireMonitors, State.onCores_monitors stored, monitors]

/-! ### Images, save blocks and scratch (R109, R440–R442) -/

@[simp] theorem State.onCores_imageWrite (c va n x : Nat) : (s.imageWrite c va n x).onCores = s.onCores := s.onCores_storeLeaf _ _ _
@[simp] theorem State.onCores_imageZero (c va n : Nat) : (s.imageZero c va n).onCores = s.onCores :=
  State.onCores_foldl _ _ (fun t _ => t.onCores_imageWrite _ _ _ _) s
@[simp] theorem State.onCores_writeImageWord (c tag lane : Nat) (v : Word) : (s.writeImageWord c tag lane v).onCores = s.onCores :=
  s.onCores_storeLeaf _ _ _
@[simp] theorem State.onCores_saveThread (c b lane : Nat) (x : Thread) : (s.saveThread c b lane x).onCores = s.onCores := by
  simp [State.saveThread, State.saveLatch, State.onCores_foldl]
@[simp] theorem State.onCores_saveGroup (c b g : Nat) : (s.saveGroup c b g).onCores = s.onCores := by
  simp [State.saveGroup, State.onCores_foldl]
@[simp] theorem State.onCores_saveControl (k : Nat) : (s.saveControl k).onCores = s.onCores := by
  simp [State.saveControl, State.onCores_foldl]
@[simp] theorem State.onCores_saveCopy (c b : Nat) (x : Copy) : (s.saveCopy c b x).onCores = s.onCores := by
  simp [State.saveCopy, State.onCores_foldl]
@[simp] theorem State.onCores_saveSector (c b i : Nat) (q : QSector) : (s.saveSector c b i q).onCores = s.onCores := by
  simp [State.saveSector]
@[simp] theorem State.onCores_with_quar (l : List QSector) : State.onCores { s with quar := l } = s.onCores := (rfl)
@[simp] theorem State.onCores_saveCopies (cl i c b : Nat) : (s.saveCopies cl i c b).onCores = s.onCores := by
  simp [State.saveCopies, State.onCores_foldl]
@[simp] theorem State.onCores_copySectors (n : Nat) (src : Nat → Nat) (dst : Nat → Nat × Nat) :
    (s.copySectors n src dst).onCores = s.onCores := by
  simp [State.copySectors, State.onCores_foldl]
@[simp] theorem State.onCores_saveScratch (c core base n va : Nat) : (s.saveScratch c core base n va).onCores = s.onCores :=
  s.onCores_copySectors _ _ _
@[simp] theorem State.onCores_loadScratch (c core base n va : Nat) : (s.loadScratch c core base n va).onCores = s.onCores :=
  s.onCores_copySectors _ _ _
@[simp] theorem State.onCores_meetAcc (e : Ecc) : (s.meetAcc e).onCores = s.onCores := by
  unfold State.meetAcc
  dsimp only
  cases e.kind <;> rfl
@[simp] theorem State.onCores_meetAccs (p : Nat → Bool) : (s.meetAccs p).onCores = s.onCores :=
  State.onCores_foldl _ _ (fun t e => t.onCores_meetAcc e) s
@[simp] theorem State.onCores_saveState (k : Nat) : (s.saveState k).onCores = s.onCores := by
  simp [State.saveState, State.onCores_foldl]

/-! ### Arenas, cores, launches -/

@[simp] theorem State.onCores_arenaTake (c len : Nat) : (s.arenaTake c len).1.onCores = s.onCores := by
  unfold State.arenaTake
  split <;> rfl
@[simp] theorem State.onCores_modCore (c : Nat) (f : Core → Core) : (s.modCore c f).onCores = s.onCores := (rfl)
@[simp] theorem State.onCores_leaveCore (core c : Nat) : (s.leaveCore core c).onCores = s.onCores := by
  simp [State.leaveCore]
@[simp] theorem State.onCores_modLaunch (q : Nat) (f : Launch → Launch) : (s.modLaunch q f).onCores = s.onCores := by
  rw [(s.modLaunch_eq q f).1]; rfl
@[simp] theorem State.onCores_freeImage (c : Nat) (base : DWord) : (s.freeImage c base).onCores = s.onCores := (rfl)
end

end Sys2Proof.Machine
end

section
/-! PROOFS. The order to a team of a cluster that is pre-empted (06 R117; 21 R439). -/
namespace Sys2Proof.Machine

/-! ### Threads and groups that a stop brings to their boundaries -/

/-- A thread as a stop puts it back before the instruction that it only waits at (R439). -/
def Thread.backAtRun (x : Thread) : Thread := { x with pc := x.runPc, waitFor := .nothing, tstate := .run }

/-- Threads of a list go back before their instructions; nothing but threads and the wait-for table changes. -/
theorem State.foldl_putBack (ts : List Nat) (s : State) :
    let t := ts.foldl (fun s u => s.putBack u) s
    t = { s with threads := t.threads, wft := t.wft } ∧
      ∀ u, t.thread u = if u ∈ ts then (s.thread u).backAtRun else s.thread u := by
  induction ts generalizing s with
  | nil => exact ⟨rfl, fun u => by simp⟩
  | cons w r ih =>
    obtain ⟨frame, found⟩ := ih (s.putBack w)
    have first : ∀ u, (s.putBack w).thread u = if u = w then (s.thread w).backAtRun else s.thread u := fun u =>
      State.thread_modThread (s.wftDrop w) w u _
    refine ⟨by rw [List.foldl_cons, frame]; rfl, fun u => ?_⟩
    rw [List.foldl_cons, found u, first u]
    by_cases e : u = w
    · subst e
      by_cases again : u ∈ r <;> simp [again, Thread.backAtRun]
    · simp [e]

/-- A group as a stop leaves it: its open rendezvous are gone (R439). -/
def Group.closed (x : Group) : Group := { x with rdv := none, copyRdv := none, quads := [] }
theorem Group.closed_eq_self {x : Group} (h : x.rdv = none ∧ x.copyRdv = none ∧ x.quads = []) : x.closed = x := by
  obtain ⟨rdv, copyRdv, quads⟩ := h
  cases x
  subst rdv copyRdv quads
  rfl

/-- Where no rendezvous is open, closing those of some groups changes no group. -/
theorem State.foldl_closed (gs : List Nat) (s : State) (closed : ∀ g, (s.group g).closed = s.group g) :
    let t := gs.foldl (fun s g => s.modGroup g Group.closed) s
    t = { s with groups := t.groups } ∧ ∀ g, t.group g = s.group g := by
  induction gs generalizing s with
  | nil => exact ⟨rfl, fun _ => rfl⟩
  | cons w r ih =>
    have same : ∀ g, (s.modGroup w Group.closed).group g = s.group g := by
      intro g
      rw [State.group_modGroup]
      split
      · next e => rw [e, closed]
      · rfl
    obtain ⟨frame, found⟩ := ih (s.modGroup w Group.closed) (fun g => by rw [same g, closed])
    exact ⟨by rw [List.foldl_cons, frame]; rfl, fun g => (found g).trans (same g)⟩

/-! ### Nothing to leave (R439) -/

/-- No bundle issues, no operation is in its checks or in a unit, and no PERSIST is on its way: a thread that stops has nothing but a wait
at an instruction to leave. -/
structure State.Unengaged (s : State) : Prop where
  issue : s.issue = []
  held : s.held = []
  ops : s.ops = []
  persists : ∀ a ∈ s.accs, a.kind ≠ .persist

section
variable {s : State} (free : s.Unengaged) (ts : List Nat)
include free
theorem State.Unengaged.stopXops : s.stopXops ts = s := by
  obtain ⟨issue, held, -, -⟩ := free
  have e : s.stopXops ts = { s with issue := [], held := [] } := by simp [State.stopXops, issue, held]
  rw [e]
  cases s
  subst issue held
  rfl
theorem State.Unengaged.leaveUnits : s.leaveUnits ts = s := by
  obtain ⟨-, -, ops, -⟩ := free
  have e : s.leaveUnits ts = { s with ops := [] } := by simp [State.leaveUnits, ops]
  rw [e]
  cases s
  subst ops
  rfl
theorem State.Unengaged.leavePersists : s.leavePersists ts = s := by
  have none_ : s.accs.filter (fun a => a.kind == .persist && ts.contains a.tid) = [] := by
    rw [List.filter_eq_nil_iff]
    intro a ha
    simp [free.persists a ha]
  unfold State.leavePersists
  dsimp only
  rw [none_]
  simp

/-- R439: the threads of a team that wait at a rendezvous, a fence or for units go back before their instructions. -/
theorem State.Unengaged.quiesce (k : Nat) (closed : ∀ g, (s.group g).closed = s.group g) :
    let t := s.quiesce k
    t = { s with groups := t.groups, threads := t.threads, wft := t.wft } ∧ (∀ g, t.group g = s.group g) ∧
      ∀ u, t.thread u = if u ∈ s.threadsOf k ∧ atRendezvous (s.thread u).waitFor = true then (s.thread u).backAtRun else s.thread u := by
  obtain ⟨frame, groups⟩ := State.foldl_closed ((s.groupsOf k).filter (fun g => (s.group g).live)) s closed
  have e : s.quiesce k = let s1 := ((s.groupsOf k).filter (fun g => (s.group g).live)).foldl (fun s g => s.modGroup g Group.closed) s
      ((s.threadsOf k).filter (fun u => atRendezvous (s1.thread u).waitFor)).foldl (fun s u => s.putBack u) s1 := by
    unfold State.quiesce
    dsimp only
    rw [free.stopXops, free.leaveUnits, free.leavePersists]
    rfl
  generalize ((s.groupsOf k).filter (fun g => (s.group g).live)).foldl (fun s g => s.modGroup g Group.closed) s = s1 at e frame groups
  have waits : ∀ u, s1.thread u = s.thread u := fun u => by rw [frame]; rfl
  obtain ⟨frame2, threads⟩ := State.foldl_putBack ((s.threadsOf k).filter (fun u => atRendezvous (s1.thread u).waitFor)) s1
  rw [← e] at frame2 threads
  refine ⟨?_, fun g => ?_, fun u => ?_⟩
  · rw [frame2, frame]
  · rw [← groups g, frame2]
    rfl
  · simp only [threads u, waits, List.mem_filter]
end

/-! ### PREEMPTION_ORDER (R117, R439) -/

/-- R117, R439: the order to a running team of a cluster that is pre-empted. -/
theorem preemptionOrder_of_stopping {s : State} {c : Cluster} (cluster : s.clusters.find (s.team s.subj.id).cluster = some c)
    (stopping : c.state = .stopping) (user : (s.team s.subj.id).kind = .user) (runs : (s.team s.subj.id).bind.state = .runnable)
    (free : s.Unengaged) (copies : s.copies = []) (closed : ∀ g, (s.group g).closed = s.group g) :
    let m := s.team s.subj.id
    Becomes .preemptionOrder s (fun t =>
      t = { s with teams := t.teams, groups := t.groups, threads := t.threads, wft := t.wft } ∧
      t.team s.subj.id = { m with stopping := true, bind := { m.bind with state := .preempted } } ∧
      (∀ g, t.group g = s.group g) ∧
      ∀ u, t.thread u = if u ∈ s.threadsOf s.subj.id ∧ atRendezvous (s.thread u).waitFor = true then (s.thread u).backAtRun
        else s.thread u) := by
  intro m
  let s1 := (s.modTeam s.subj.id (fun m => { m with bind := { m.bind with state := .preempted } })).modTeam s.subj.id
    (fun m => { m with stopping := true })
  have team : s1.team s.subj.id = { m with stopping := true, bind := { m.bind with state := .preempted } } := by
    simp only [s1, State.team_modTeam_same]
    rfl
  have members : s1.threadsOf s.subj.id = s.threadsOf s.subj.id := by
    simp only [State.threadsOf, State.groupsOf, team]
    rfl
  obtain ⟨frame, groups, threads⟩ := State.Unengaged.quiesce (s := s1) ⟨free.issue, free.held, free.ops, free.persists⟩ s.subj.id closed
  have ordered : s.orderTeam s.subj.id = s1.quiesce s.subj.id := by
    have unsuspended : (s1.quiesce s.subj.id).copies = [] := by rw [frame]; exact copies
    unfold State.orderTeam
    simp only [cluster, stopping, user, runs, beq_self_eq_true, Bool.and_self, if_true]
    change ((s1.quiesce s.subj.id).copies.filter _).foldl _ (s1.quiesce s.subj.id) = s1.quiesce s.subj.id
    rw [unsuspended]
    rfl
  refine ⟨_, congrArg Host.Outcome.next ordered, ?_, ?_, groups, fun u => ?_⟩
  · rw [frame]; rfl
  · rw [← team, frame]; rfl
  · rw [threads u, members]
    rfl

end Sys2Proof.Machine
end

section
/-! PROOFS. A team that has stopped leaves its core, and its cluster keeps it (06 R117; 21 R440, R441). -/
namespace Sys2Proof.Machine

theorem Tab.find_foldl_del {α : Type} (ks : List Nat) (t : Tab α) {k : Nat} (h : t.find k = none ∨ k ∈ ks) :
    (ks.foldl (fun t x => t.del x) t).find k = none := by
  induction ks generalizing t with
  | nil => exact h.resolve_right List.not_mem_nil
  | cons j r ih =>
    refine ih (t.del j) ?_
    by_cases e : k = j
    · exact .inl (e ▸ Tab.find_del_same t j)
    · rw [Tab.find_del_other t j k e]
      exact h.imp_right fun m => (List.mem_cons.1 m).resolve_left e

/-- Team `k` and the groups `gs` are on no core any more, and cluster `q` keeps the team of its member `b`. -/
structure State.Left (s : State) (k : Nat) (gs : List Nat) (q b : Nat) : Prop where
  team : s.teams.find k = none
  groups : ∀ g ∈ gs, s.groups.find g = none
  kept : ∃ c m, s.clusters.find q = some c ∧ c.members[b]? = some m ∧ m.savedTeam.isSome = true

section
variable {s t : State} {k q b : Nat} {gs : List Nat}

theorem State.Left.of_onCores (left : s.Left k gs q b) (h : t.onCores = s.onCores) : t.Left k gs q b := by
  obtain ⟨team, groups, kept⟩ := left
  exact ⟨by rw [State.onCores_teams h]; exact team, by rw [State.onCores_groups h]; exact groups,
    by rw [State.onCores_clusters h]; exact kept⟩

/-- A change of the cluster that lets its members keep what they keep. -/
theorem State.Left.modCluster (left : s.Left k gs q b) (f : Cluster → Cluster)
    (keeps : ∀ c m, c.members[b]? = some m → ∃ m', (f c).members[b]? = some m' ∧ m'.savedTeam = m.savedTeam) :
    (s.modCluster q f).Left k gs q b := by
  obtain ⟨team, groups, c, m, found, member, saved⟩ := left
  obtain ⟨frame, same, -⟩ := s.modCluster_eq q f
  obtain ⟨m', member', saved'⟩ := keeps c m member
  refine ⟨by rw [frame]; exact team, by rw [frame]; exact groups, f c, m', by rw [same, found]; rfl, member', by rw [saved', saved]⟩

/-- The scratch of a member that had exited goes to its own save block (R117). -/
theorem State.Left.saveExited (left : s.Left k gs q b) (i : Nat) (m : Member) : (s.saveExited q i m).Left k gs q b := by
  unfold State.saveExited
  split
  · exact left
  · next h _ =>
    dsimp only
    have taken := s.onCores_arenaTake (s.ctxOfCluster q) (saveSize h.size 0)
    split
    · next s1 e =>
      rw [e] at taken
      exact left.of_onCores taken
    · next s1 off e =>
      rw [e] at taken
      refine State.Left.of_onCores (State.Left.modCluster (left.of_onCores ?_) _ fun c x hx => ?_) (State.onCores_modCore _ _ _)
      · simp [taken]
      · rw [List.getElem?_mapIdx, hx]
        refine ⟨_, rfl, ?_⟩
        split <;> rfl

/-- R117: the end of a cluster's pre-emption brings back nothing that has left. -/
theorem State.Left.finishPreempt (left : s.Left k gs q b) : (s.finishPreempt q).Left k gs q b := by
  unfold State.finishPreempt
  split
  · exact left
  · next c _ =>
    split
    · have saved := List.foldlRecOn (c.members.zipIdx.filter (fun p => p.1.exited)) (fun (s : State) p => s.saveExited q p.2 p.1)
        (motive := fun t : State => t.Left k gs q b) left (fun t h p _ => h.saveExited p.2 p.1)
      dsimp only
      split
      · exact saved
      · split
        · refine State.Left.of_onCores ?_ (State.onCores_modLaunch _ _ _)
          exact State.Left.modCluster saved _ fun c m hm => ⟨m, hm, rfl⟩
        · exact saved
    · exact left
end

/-- What the lines of a group become while it leaves touches neither teams nor groups nor clusters. -/
theorem State.evictGroupLines_keeps (s : State) (g : Nat) :
    (s.evictGroupLines g).teams = s.teams ∧ (s.evictGroupLines g).groups = s.groups ∧ (s.evictGroupLines g).clusters = s.clusters := by
  unfold State.evictGroupLines
  exact List.foldlRecOn (threadsOfGroup g) _ (motive := fun t : State => t.teams = s.teams ∧ t.groups = s.groups ∧ t.clusters = s.clusters)
    ⟨rfl, rfl, rfl⟩ (fun t h u _ => h)

/-- R117: a cluster keeps the team of its member that stops. -/
theorem State.keepTeam_keeps {s : State} {k : Nat} {c : Cluster} {m : Member} (cluster : s.clusters.find (s.team k).cluster = some c)
    (member : c.members[(s.team k).bind.team]? = some m) :
    ∃ c m, (s.keepTeam k).clusters.find (s.team k).cluster = some c ∧ c.members[(s.team k).bind.team]? = some m ∧
      m.savedTeam.isSome = true := by
  unfold State.keepTeam
  dsimp only
  rw [(s.modCluster_eq _ _).2.1, cluster]
  refine ⟨_, { m with savedTeam := some { s.team k with stopping := false }, savedThreads := s.keepThreads k,
                      savedCopyCount := (s.groupsOf k).map (fun g => ((s.group g).index, (s.group g).copyCount)) }, rfl, ?_, rfl⟩
  rw [List.getElem?_mapIdx, member, Option.map_some, if_pos rfl]

/-- R117: a stopped team of a cluster leaves its core, and its cluster keeps it. -/
theorem State.stopTeam_left {s : State} {k : Nat} {c : Cluster} {m : Member} (cluster : s.clusters.find (s.team k).cluster = some c)
    (member : c.members[(s.team k).bind.team]? = some m) :
    (s.stopTeam k).Left k (s.groupsOf k) (s.team k).cluster (s.team k).bind.team := by
  let saved := ((s.saveCopies (s.team k).cluster (s.team k).bind.team (s.team k).bind.ctx (s.team k).bind.saveBase).saveState k).saveControl k
  have onCores : saved.onCores = s.onCores := by simp [saved]
  let evicted := (s.groupsOf k).foldl (fun s g => s.evictGroupLines g) saved
  obtain ⟨teams, groups, clusters⟩ : evicted.teams = s.teams ∧ evicted.groups = s.groups ∧ evicted.clusters = s.clusters :=
    List.foldlRecOn (s.groupsOf k) _ (motive := fun t : State => t.teams = s.teams ∧ t.groups = s.groups ∧ t.clusters = s.clusters)
      ⟨State.onCores_teams onCores, State.onCores_groups onCores, State.onCores_clusters onCores⟩ (fun t h g _ => by
        obtain ⟨teams, groups, clusters⟩ := t.evictGroupLines_keeps g
        rw [teams, groups, clusters]
        exact h)
  have team : evicted.team k = s.team k := by rw [State.team, teams, State.team]
  have kept := evicted.keepTeam_keeps (k := k) (by rw [team, clusters]; exact cluster) (by rw [team]; exact member)
  rw [team] at kept
  refine State.Left.of_onCores ?_ (State.onCores_leaveCore _ _ _)
  exact ⟨Tab.find_del_same _ _, fun g hg => Tab.find_foldl_del _ _ (.inr hg), kept⟩

/-! ### TEAM_STOPPED (R117) -/

/-- R117: a member of a cluster whose team has stopped. -/
theorem teamStopped_of_stopped {s : State} {c : Cluster} {m : Member} (cluster : s.clusters.find s.subj.id = some c)
    (member : c.members[s.subj.b]? = some m) (live : m.exited = false) (here : m.savedTeam = none)
    (ofCluster : (s.team (teamKey m.core m.entry)).cluster = s.subj.id) (ofMember : (s.team (teamKey m.core m.entry)).bind.team = s.subj.b)
    (stopped : s.teamStopped (teamKey m.core m.entry) = true) :
    Becomes .teamStopped s (fun t => t.Left (teamKey m.core m.entry) (s.groupsOf (teamKey m.core m.entry)) s.subj.id s.subj.b) := by
  have key : s.memberKey s.subj.id s.subj.b = some (teamKey m.core m.entry) := by
    simp [State.memberKey, cluster, member, live, here]
  have left := State.stopTeam_left (k := teamKey m.core m.entry) (by rw [ofCluster]; exact cluster) (by rw [ofMember]; exact member)
  rw [ofCluster, ofMember] at left
  refine ⟨_, congrArg Host.Outcome.next ?_, left.finishPreempt⟩
  simp only [key, stopped, if_true]

end Sys2Proof.Machine
end

section
/-! PROOFS. The old cores of a cluster that is bound elsewhere write back what they hold of it (06 R113, R118). -/
namespace Sys2Proof.Machine

/-- A write-back places no line: what lines there are stood in the same places before. Clusters do not change. -/
structure State.WrittenBack (s t : State) : Prop where
  clusters : t.clusters = s.clusters
  lines : ∀ l ∈ t.lines, ∃ o ∈ s.lines, o.core = l.core ∧ o.ctx = l.ctx ∧ o.tag = l.tag

theorem State.WrittenBack.refl (s : State) : s.WrittenBack s := ⟨rfl, fun l h => ⟨l, h, rfl, rfl, rfl⟩⟩
theorem State.WrittenBack.trans {s t u : State} (h : s.WrittenBack t) (k : t.WrittenBack u) : s.WrittenBack u := by
  refine ⟨k.clusters.trans h.clusters, fun l hl => ?_⟩
  obtain ⟨o, ho, core, ctx, tag⟩ := k.lines l hl
  obtain ⟨p, hp, core', ctx', tag'⟩ := h.lines o ho
  exact ⟨p, hp, core'.trans core, ctx'.trans ctx, tag'.trans tag⟩
theorem State.WrittenBack.foldl {α : Type} {s t : State} (h : s.WrittenBack t) (l : List α) (f : State → α → State)
    (step : ∀ (s : State) (x : α), s.WrittenBack (f s x)) : s.WrittenBack (l.foldl f t) :=
  List.foldlRecOn l f (motive := fun u : State => s.WrittenBack u) h (fun u k x _ => k.trans (step u x))
theorem State.WrittenBack.of_same {s t : State} (clusters : t.clusters = s.clusters) (lines : t.lines = s.lines) : s.WrittenBack t :=
  ⟨clusters, by rw [lines]; exact (State.WrittenBack.refl s).lines⟩
theorem State.WrittenBack.of_onCores {s t : State} (h : t.onCores = s.onCores) : s.WrittenBack t :=
  .of_same (State.onCores_clusters h) (State.onCores_lines h)

section
variable (s : State)
theorem State.writtenBack_dropLine (core ctx tag : Nat) : s.WrittenBack (s.dropLine core ctx tag) :=
  ⟨rfl, fun l h => ⟨l, (List.mem_filter.1 h).1, rfl, rfl, rfl⟩⟩
/-- A line that is marked as poisoned stays in its place. -/
theorem State.writtenBack_poisonLine (core ctx tag : Nat) (m : BitVec 32) :
    s.WrittenBack (s.modLine core ctx tag (fun l => { l with poison := l.poison ||| m })) := by
  refine ⟨rfl, fun l h => ?_⟩
  obtain ⟨o, ho, rfl⟩ := List.mem_map.1 h
  refine ⟨o, ho, ?_⟩
  split <;> exact ⟨rfl, rfl, rfl⟩
theorem State.writtenBack_meetLineEcc (l : RegLine) (lane : Nat) : s.WrittenBack (s.meetLineEcc l lane) := by
  unfold State.meetLineEcc
  dsimp only
  split
  · exact .refl s
  · split
    · exact .of_same rfl rfl
    · exact .of_same rfl rfl
    · split
      · refine State.WrittenBack.trans ?_ (State.writtenBack_poisonLine _ _ _ _ _)
        exact .of_same rfl rfl
      · refine State.WrittenBack.trans ?_ (State.writtenBack_dropLine _ _ _ _)
        exact .of_same rfl rfl
theorem State.writtenBack_clearKzero (l : RegLine) : s.WrittenBack (s.clearKzero l) := by
  unfold State.clearKzero
  split <;> exact .of_same rfl rfl
/-- R113, R116: a line that is written back, with the faults that this meets. -/
theorem State.writtenBack_writeBack (l : RegLine) : s.WrittenBack (s.writeBack l) := by
  unfold State.writeBack
  dsimp only
  have met : s.WrittenBack (if s.ecc.isEmpty then s else (l.vals.map (·.1)).foldl (fun s i => s.meetLineEcc l i) s) := by
    split
    · exact .refl s
    · exact State.WrittenBack.foldl (.refl s) _ _ (fun s i => s.writtenBack_meetLineEcc l i)
  generalize (if s.ecc.isEmpty then s else (l.vals.map (·.1)).foldl (fun s i => s.meetLineEcc l i) s) = s1 at met ⊢
  generalize (s1.line l.core l.ctx l.tag).getD l = l
  have stored := State.WrittenBack.foldl (State.WrittenBack.foldl met ((List.range 32).filter (fun i => s1.lineKzero l || (l.vals.find i).isSome))
    (fun s i => s.writeImageWord l.ctx l.tag i (l.vals.at' 0 i)) (fun s i => .of_onCores (s.onCores_writeImageWord _ _ _ _)))
    ((List.range 32).filter (fun i => s1.lineKzero l || (l.vals.find i).isSome))
    (fun s i => if l.poison.getLsbD i then s.poisonSector (sectorOf (s.arenaLoc l.ctx (l.tag + 4 * i))) else s)
    (fun s i => .of_onCores (by simp))
  split
  · exact stored.trans (State.writtenBack_clearKzero _ l)
  · exact stored
end

/-- A line that stands where another stood is of the same member, or of none. -/
theorem oldLine_congr {c : Nat} {m : Member} {o l : RegLine} (core : o.core = l.core) (ctx : o.ctx = l.ctx) (tag : o.tag = l.tag) :
    oldLine c m o = oldLine c m l := by
  simp only [oldLine, core, ctx, tag]

/-- R118: after the write-back no core but the new ones holds a line of the cluster. -/
theorem State.writeBackOld_clears {s : State} {q : Nat} {c : Cluster} (cluster : s.clusters.find q = some c) :
    s.PutsCluster q { c with writeback := false } (s.writeBackOld q c) ∧
      ∀ l ∈ (s.writeBackOld q c).lines, ∀ m ∈ c.members, oldLine (s.ctxOfCluster q) m l = false := by
  unfold State.writeBackOld
  dsimp only
  generalize hold : s.lines.filter (fun l => c.members.any (fun m => oldLine (s.ctxOfCluster q) m l)) = old
  have back := State.WrittenBack.foldl (.refl s) (old.filter (·.dirty)) (fun s l => s.writeBack l) (fun s l => s.writtenBack_writeBack l)
  obtain ⟨clusters, lines⟩ := back
  generalize (old.filter (·.dirty)).foldl (fun s l => s.writeBack l) s = s1 at clusters lines ⊢
  obtain ⟨frame, same, others⟩ := State.modCluster_eq
    { s1 with lines := s1.lines.filter (fun l => !old.any (fun o => o.core == l.core && o.ctx == l.ctx && o.tag == l.tag)) } q
    (fun c => { c with writeback := false })
  refine ⟨⟨?_, fun j h => ?_⟩, fun l hl m hm => ?_⟩
  · rw [same, clusters, cluster]; rfl
  · rw [others j h, clusters]
  · rw [frame] at hl
    obtain ⟨stands, notOld⟩ := List.mem_filter.1 hl
    obtain ⟨o, ho, core, ctx, tag⟩ := lines l stands
    by_contra isOld
    have mem : o ∈ old := by
      rw [← hold, List.mem_filter, List.any_eq_true]
      exact ⟨ho, m, hm, by rw [oldLine_congr core ctx tag]; simpa using isOld⟩
    have : old.any (fun o => o.core == l.core && o.ctx == l.ctx && o.tag == l.tag) = true :=
      List.any_eq_true.2 ⟨o, mem, by simp [core, ctx, tag]⟩
    simp [this] at notOld

/-- R118: the old cores of a cluster bound elsewhere have written back. -/
theorem rebindWritebackDone_of_bound {s : State} {c : Cluster} (cluster : s.clusters.find s.subj.id = some c) (bound : c.state = .bound)
    (writeback : c.writeback = true) : Becomes .rebindWritebackDone s (fun t =>
      s.PutsCluster s.subj.id { c with writeback := false } t ∧
        ∀ l ∈ t.lines, ∀ m ∈ c.members, oldLine (s.ctxOfCluster s.subj.id) m l = false) := by
  refine ⟨_, congrArg Host.Outcome.next ?_, State.writeBackOld_clears cluster⟩
  simp [cluster, bound, writeback]

end Sys2Proof.Machine
end

section
/-! PROOFS. A rebound cluster is restored (06 R118; 21 R410, R441, R442; 15 R311, R313). -/
namespace Sys2Proof.Machine

/-! ### Scratch, copies and quarantine, steps 1 to 3 (R441, R442) -/

/-- Step 1 changes, of what stands on the cores, the one team's own units, tickets and barriers. -/
theorem State.loadState_onCores (s : State) (k : Nat) (units : List Nat) : ∃ f : Team → Team,
    (∀ x, (f x).bind = x.bind ∧ (f x).kind = x.kind) ∧ (s.loadState k units).onCores = (s.modTeam k f).onCores := by
  unfold State.loadState
  dsimp only
  refine ⟨?f, ?own, ?eq⟩
  case eq =>
    rw [State.onCores_foldl, State.onCores_loadScratch]
    intro s p
    rw [State.onCores_foldl]
    intro s e
    rfl
  case own => exact fun x => ⟨rfl, rfl⟩

/-- Step 3, for a sector of which no copy is told, while nothing watches the scratch. -/
theorem State.onCores_drainSector {s : State} (monitors : s.monitors = []) (barriers : ∀ p ∈ s.threads, ∀ a ph, p.2.waitFor ≠ .tbarWait a ph)
    (q : QSector) : (s.drainSector q none).onCores = s.onCores := by
  have unnoticed : ∀ t : State, t.onCores = s.onCores → ∀ loc n, t.notice loc n = t := fun t h =>
    State.notice_of_unwatched (by rw [State.onCores_monitors h, monitors]) (by rw [State.onCores_threads h]; exact barriers)
  unfold State.drainSector
  split
  · rfl
  · next m _ =>
    dsimp only
    split
    · rfl
    · rw [unnoticed]
      all_goals simp

/-- Step 3 for the one member of a cluster without copies. -/
theorem State.onCores_drainMembers {s : State} (monitors : s.monitors = []) (barriers : ∀ p ∈ s.threads, ∀ a ph, p.2.waitFor ≠ .tbarWait a ph)
    (c q : Nat) (m : Member) : (s.drainMembers c q [m] []).onCores = s.onCores := by
  unfold State.drainMembers State.ackDrained
  dsimp only [List.zipIdx_cons, List.zipIdx_nil, List.foldl_cons, List.foldl_nil, List.map_nil]
  refine List.foldlRecOn (s.quarOf q 0 ++ _) _ (motive := fun t : State => t.onCores = s.onCores) rfl (fun t h x _ => ?_)
  refine (State.onCores_drainSector ?_ ?_ x).trans h
  · rw [State.onCores_monitors h, monitors]
  · rw [State.onCores_threads h]
    exact barriers

/-! ### Control fields and groups, step 5 (R118, R441) -/

/-- A thread that waited for nothing waits for nothing after the rebinding, whatever its image holds. -/
theorem State.rebornThread_waitFor (s : State) (c b lane : Nat) (queued : Bool) {x : Thread} (h : x.waitFor = .nothing) :
    (s.rebornThread c b lane queued x).waitFor = .nothing := by
  have loaded : (s.loadThread c b lane x).waitFor = .nothing := by simp [State.loadThread, h]
  unfold State.rebornThread
  dsimp only
  rw [loaded]
  exact loaded

/-- Threads set one after another, each to wait for nothing: only threads change, and a thread that waited for nothing still does. -/
theorem State.foldl_setThread_waits (key : Nat → Nat) (x : State → Nat → Thread) (h : ∀ s l, (x s l).waitFor = .nothing) (ls : List Nat)
    (s : State) :
    let t := ls.foldl (fun s l => s.setThread (key l) (x s l)) s
    t = { s with threads := t.threads } ∧
      ∀ u, ((s.thread u).waitFor = .nothing ∨ ∃ l ∈ ls, u = key l) → (t.thread u).waitFor = .nothing := by
  induction ls generalizing s with
  | nil => exact ⟨rfl, fun u hu => hu.resolve_right (by simp)⟩
  | cons l r ih =>
    obtain ⟨frame, waits⟩ := ih (s.setThread (key l) (x s l))
    refine ⟨by rw [List.foldl_cons, frame]; rfl, fun u hu => waits u ?_⟩
    rw [State.thread_setThread]
    by_cases e : u = key l
    · simp [e, h]
    · simpa [e] using hu

/-- Group `g` stands on its core for team `k`, and none of its threads waits. -/
structure State.Stands (s : State) (g k : Nat) : Prop where
  live : (s.group g).live = true
  team : (s.group g).team = k
  waits : ∀ u, gidOf u = g → (s.thread u).waitFor = .nothing

theorem State.Stands.of_onCores {s t : State} {g k : Nat} (h : s.Stands g k) (e : t.onCores = s.onCores) : t.Stands g k := by
  obtain ⟨live, team, waits⟩ := h
  exact ⟨by rw [State.onCores_group e, live], by rw [State.onCores_group e, team], fun u hu => by rw [State.onCores_thread e, waits u hu]⟩

section
variable {m : Member} (idle : ∀ p ∈ m.savedThreads, p.2.waitFor = .nothing) (k : Nat) (x : Team)
include idle

theorem Member.savedThread_waitFor (n : Nat) : (m.savedThreads.at' Thread.reset n).waitFor = .nothing := by
  unfold Tab.at'
  cases e : m.savedThreads.find n with
  | none => rfl
  | some v => exact idle _ (Tab.mem_of_find e)

/-- R118: the group of a slot stands; only groups and threads change, and every other group that stood stands. -/
theorem State.restoreGroup_stands (slot i : Nat) (s : State) :
    let t := s.restoreGroup k slot i m x
    t = { s with groups := t.groups, threads := t.threads } ∧
      ∀ g, (s.Stands g k ∨ g = groupKey (coreOfTeam k) slot) → t.Stands g k := by
  let gid := groupKey (coreOfTeam k) slot
  let s1 := s.setGroup gid { Group.reset with
    live := true, team := k, index := i, kzero := s.loadKzero x.bind.ctx (awayBlock m i), copyCount := m.savedCopyCount.at' 0 i }
  have restored : ∃ f : State → Nat → Thread, (∀ s l, (f s l).waitFor = .nothing) ∧
      s.restoreGroup k slot i m x = (List.range 32).foldl (fun s l => s.setThread (threadKey gid l) (f s l)) s1 := by
    unfold State.restoreGroup
    dsimp only
    refine ⟨?f, ?waits, ?eq⟩
    case eq => rfl
    case waits => exact fun s l => s.rebornThread_waitFor _ _ l _ (Member.savedThread_waitFor idle (i * 32 + l))
  obtain ⟨f, nothing, e⟩ := restored
  obtain ⟨frame, waits⟩ := State.foldl_setThread_waits (threadKey gid) f nothing (List.range 32) s1
  rw [← e] at frame waits
  generalize s.restoreGroup k slot i m x = t at frame waits
  refine ⟨by rw [frame]; rfl, fun g h => ?_⟩
  have group : t.group g = s1.group g := by rw [frame]; rfl
  have own : ∀ u, gidOf u = gid → (t.thread u).waitFor = .nothing := by
    intro u hu
    obtain ⟨l, hl, e⟩ := List.mem_map.1 (mem_threadsOfGroup.2 hu)
    exact waits u (.inr ⟨l, hl, e.symm⟩)
  by_cases e : g = gid
  · subst e
    exact ⟨by rw [group, State.group_setGroup_same], by rw [group, State.group_setGroup_same], own⟩
  · obtain ⟨live, team, still⟩ := h.resolve_right e
    rw [State.group_setGroup, if_neg e] at group
    exact ⟨by rw [group, live], by rw [group, team], fun u hu => waits u (.inl (still u hu))⟩

/-- R118: the groups of a list of slots stand. -/
theorem State.foldl_restoreGroup (ps : List (Nat × Nat)) (s : State) :
    let t := ps.foldl (fun s p => s.restoreGroup k p.1 p.2 m x) s
    t = { s with groups := t.groups, threads := t.threads } ∧
      ∀ g, (s.Stands g k ∨ ∃ p ∈ ps, g = groupKey (coreOfTeam k) p.1) → t.Stands g k := by
  induction ps generalizing s with
  | nil => exact ⟨rfl, fun g h => h.resolve_right (by simp)⟩
  | cons p r ih =>
    obtain ⟨frame1, first⟩ := State.restoreGroup_stands idle k x p.1 p.2 s
    rw [List.foldl_cons]
    generalize s.restoreGroup k p.1 p.2 m x = s1 at frame1 first ⊢
    obtain ⟨frame, rest⟩ := ih s1
    generalize r.foldl (fun s p => s.restoreGroup k p.1 p.2 m x) s1 = t at frame rest ⊢
    refine ⟨by rw [frame, frame1], fun g h => rest g ?_⟩
    rcases h with h | ⟨y, hy, rfl⟩
    · exact .inl (first g (.inl h))
    · rcases List.mem_cons.1 hy with rfl | hy
      · exact .inl (first _ (.inr rfl))
      · exact .inr ⟨y, hy, rfl⟩
end

end Sys2Proof.Machine
end

section
/-! PROOFS. A rebound cluster is back on its cores: its control fields, and what its teams find on their return (06 R118; 21 R410, R431,
R441; 15 R310–R313). -/
namespace Sys2Proof.Machine

/-- The user team `k` with bind record `b` is on its core: its groups stand, and `m` is the only member of its cluster `q`. -/
structure State.Back (s : State) (q k : Nat) (b : Bind) (m : Member) : Prop where
  kind : (s.team k).kind = .user
  bind : (s.team k).bind = b
  groups : ∀ i ∈ slotsOf b.slots, s.Stands (groupKey (coreOfTeam k) i) k
  cluster : ∃ c, s.clusters.find q = some c ∧ c.members = [m] ∧ c.rebound = false

section
variable {s t : State} {q k : Nat} {b : Bind} {m : Member}

theorem State.Back.of_onCores (back : s.Back q k b m) (h : t.onCores = s.onCores) : t.Back q k b m := by
  obtain ⟨kind, bind, groups, cluster⟩ := back
  exact ⟨by rw [State.onCores_team h, kind], by rw [State.onCores_team h, bind], fun i hi => (groups i hi).of_onCores h,
    by rw [State.onCores_clusters h]; exact cluster⟩

/-- A team whose groups stand is back once its cluster is not to be restored any more. -/
theorem State.modCluster_back {c : Cluster} (kind : (s.team k).kind = .user) (bind : (s.team k).bind = b)
    (groups : ∀ i ∈ slotsOf b.slots, s.Stands (groupKey (coreOfTeam k) i) k) (cluster : s.clusters.find q = some c) (f : Cluster → Cluster)
    (only : (f c).members = [m]) (restored : (f c).rebound = false) : (s.modCluster q f).Back q k b m := by
  obtain ⟨frame, same, -⟩ := s.modCluster_eq q f
  have team : (s.modCluster q f).team k = s.team k := by rw [frame]; rfl
  refine ⟨by rw [team, kind], by rw [team, bind], fun i hi => ?_, f c, by rw [same, cluster]; rfl, only, restored⟩
  obtain ⟨live, owner, waits⟩ := groups i hi
  rw [frame]
  exact ⟨live, owner, waits⟩

/-- No thread of a team that is back waits. -/
theorem State.Back.waitFor (back : s.Back q k b m) {u : Nat} (h : u ∈ s.threadsOf k) : (s.thread u).waitFor = .nothing := by
  obtain ⟨kind, bind, groups, -⟩ := back
  simp only [State.threadsOf, State.groupsOf, kind, bind, List.mem_flatMap, List.mem_map] at h
  obtain ⟨g, ⟨i, hi, rfl⟩, hu⟩ := h
  exact (groups i hi).waits u (mem_threadsOfGroup.1 hu)

/-! ### What a team finds on its return (R311, R342, R431) -/

/-- A team of which no thread waits has nothing to wake to. -/
theorem State.Back.wakeTeam (back : s.Back q k b m) : (s.wakeTeam k).Back q k b m := by
  have keyed : (s.rekeyTbarWaits k).Back q k b m := back.of_onCores rfl
  unfold State.wakeTeam
  have barriers : (s.rekeyTbarWaits k).wakeTbarWaits k = s.rekeyTbarWaits k := by
    unfold State.wakeTbarWaits
    refine foldl_eq_self fun u hu => ?_
    simp only [keyed.waitFor hu]
  have tickets : (s.rekeyTbarWaits k).wakeTickets k = s.rekeyTbarWaits k := by
    unfold State.wakeTickets
    refine foldl_eq_self fun u hu => ?_
    simp only [keyed.waitFor hu]
  have marked : (s.rekeyTbarWaits k).exitMarked k = s.rekeyTbarWaits k := by
    unfold State.exitMarked
    rw [List.filter_eq_nil_iff.2]
    · rfl
    · intro u hu
      simp [keyed.waitFor hu]
  rw [barriers, tickets, marked]
  exact keyed

/-- R313: phases of the cluster barrier may complete; no thread of the team waits for one. -/
theorem State.Back.cbarCheck (back : s.Back q k b m) (key : teamKey m.core m.entry = k) (here : m.savedTeam = none) :
    (s.cbarCheck q).Back q k b m := by
  have release : ∀ {s : State}, s.Back q k b m → ∀ p, s.releasePhase q 0 m p = s := by
    intro s back p
    unfold State.releasePhase
    rw [here]
    dsimp only
    split
    · rfl
    · rw [key, List.filter_eq_nil_iff.2]
      · rfl
      · intro u hu
        simp [phaseOver, back.waitFor hu]
  have loop : ∀ n, ∀ s : State, s.Back q k b m → (s.cbarLoop q n).Back q k b m := by
    intro n
    induction n with
    | zero => exact fun s back => back
    | succ n ih =>
      intro s back
      obtain ⟨c, found, only, restored⟩ := back.cluster
      have next := State.modCluster_back back.kind back.bind back.groups found (fun c => { c with phases := c.phases + 1 }) only restored
      unfold State.cbarLoop
      rw [found]
      dsimp only
      split
      · rw [only]
        simp only [List.zipIdx_cons, List.zipIdx_nil, List.foldl_cons, List.foldl_nil, release next]
        exact ih _ next
      · exact back
  unfold State.cbarCheck
  split
  · exact back
  · exact loop _ s back
end

/-! ### Step 5: the control fields and the groups (R118, R410, R441) -/

theorem State.onCores_renumber {s : State} (monitors : s.monitors = []) (p : List (Nat × Nat)) : (s.renumber p).onCores = s.onCores := by
  simp [State.renumber, State.onCores, monitors]

/-- While no monitor stands, the headers of a group's sets change and nothing on the cores does. -/
theorem State.onCores_rewrite {s : State} (monitors : s.monitors = []) (g : Nat) :
    ((s.rewriteOwner g).rewriteSpills g).onCores = s.onCores := by
  have owner : (s.rewriteOwner g).onCores = s.onCores := by
    unfold State.rewriteOwner
    refine List.foldlRecOn _ _ (motive := fun t : State => t.onCores = s.onCores) rfl (fun t h x _ => ?_)
    dsimp only
    rw [State.onCores_arenaWrite]
    · exact h
    · exact (State.onCores_monitors h).trans monitors
  have none_ : (s.rewriteOwner g).monitors = [] := (State.onCores_monitors owner).trans monitors
  simp [State.rewriteSpills, none_, owner]

/-- The groups of a team stand in its slots again, and the headers of their sets name the new place (R118, R410). -/
def State.groupsReturn (s : State) (k core : Nat) (slots : List Nat) (m : Member) (x : Team) : State :=
  slots.foldl (fun s i => (s.rewriteOwner (groupKey core i)).rewriteSpills (groupKey core i))
    (slots.zipIdx.foldl (fun s p => s.restoreGroup k p.1 p.2 m x) s)

theorem State.groupsReturn_stands {s : State} (monitors : s.monitors = []) {m : Member} (idle : ∀ p ∈ m.savedThreads, p.2.waitFor = .nothing)
    (k core : Nat) (slots : List Nat) (x : Team) :
    let t := s.groupsReturn k core slots m x
    t.teams = s.teams ∧ t.clusters = s.clusters ∧ ∀ i ∈ slots, t.Stands (groupKey (coreOfTeam k) i) k := by
  obtain ⟨frame, stands⟩ := State.foldl_restoreGroup idle k x slots.zipIdx s
  unfold State.groupsReturn
  generalize slots.zipIdx.foldl (fun s p => s.restoreGroup k p.1 p.2 m x) s = s1 at frame stands
  have quiet : s1.monitors = [] := by rw [frame]; exact monitors
  have written : (slots.foldl (fun s i => (s.rewriteOwner (groupKey core i)).rewriteSpills (groupKey core i)) s1).onCores = s1.onCores :=
    List.foldlRecOn _ _ (motive := fun t : State => t.onCores = s1.onCores) rfl (fun _ h _ _ =>
      (State.onCores_rewrite ((State.onCores_monitors h).trans quiet) _).trans h)
  refine ⟨(State.onCores_teams written).trans (by rw [frame]), (State.onCores_clusters written).trans (by rw [frame]), fun i hi => ?_⟩
  obtain ⟨j, hj⟩ := List.getElem?_of_mem hi
  exact (stands _ (.inr ⟨(i, j), List.mem_zipIdx_iff_getElem?.2 hj, rfl⟩)).of_onCores written

/-- A member that keeps nothing any more. -/
def Member.returned (m : Member) : Member := { m with savedTeam := none, savedThreads := [], savedCopyCount := [] }
/-- A cluster whose first member has returned. -/
def Cluster.firstReturned (c : Cluster) : Cluster :=
  { c with members := c.members.mapIdx (fun j z => if j = 0 then z.returned else z) }

/-- Step 5 for the first member of a cluster: the control fields, then the groups. -/
theorem State.restoreControl_eq {s : State} {q : Nat} {m : Member} {x : Team} (saved : m.savedTeam = some x) :
    let k := teamKey m.core m.entry
    let y := s.loadTeam (s.team k)
    let slots := slotsOf (s.team k).bind.slots
    s.restoreControl q 0 m = (((s.setTeam k y).renumber (slots.zipIdx.map (fun p => (awayGid q 0 p.2, groupKey m.core p.1)))).groupsReturn
      k m.core slots m y).modCluster q Cluster.firstReturned := by
  simp only [State.restoreControl, saved]
  rfl

/-- R118, R441: step 5 for the only member of a cluster. -/
theorem State.restoreControl_restores {s : State} {q k : Nat} {c : Cluster} {m : Member} {x : Team} (monitors : s.monitors = [])
    (cluster : s.clusters.find q = some c) (only : c.members = [m]) (saved : m.savedTeam = some x) (key : teamKey m.core m.entry = k)
    (idle : ∀ p ∈ m.savedThreads, p.2.waitFor = .nothing) :
    let t := s.restoreControl q 0 m
    (t.team k).kind = (s.team k).kind ∧ (t.team k).bind = (s.team k).bind ∧
      (∀ i ∈ slotsOf (s.team k).bind.slots, t.Stands (groupKey (coreOfTeam k) i) k) ∧
      t.clusters.find q = some { c with members := [m.returned] } := by
  have e := State.restoreControl_eq (s := s) (q := q) saved
  rw [key] at e
  dsimp only at e
  have numbered := State.onCores_renumber (s := s.setTeam k (s.loadTeam (s.team k))) monitors
    ((slotsOf (s.team k).bind.slots).zipIdx.map (fun p => (awayGid q 0 p.2, groupKey m.core p.1)))
  generalize (s.setTeam k (s.loadTeam (s.team k))).renumber _ = s1 at e numbered
  obtain ⟨teams, clusters, stands⟩ := State.groupsReturn_stands ((State.onCores_monitors numbered).trans monitors) idle k m.core
    (slotsOf (s.team k).bind.slots) (s.loadTeam (s.team k))
  generalize s1.groupsReturn k m.core (slotsOf (s.team k).bind.slots) m (s.loadTeam (s.team k)) = s2 at e teams clusters stands
  obtain ⟨frame, same, -⟩ := s2.modCluster_eq q Cluster.firstReturned
  rw [← e] at frame same
  have team : (s.restoreControl q 0 m).team k = s.loadTeam (s.team k) := by
    rw [frame, State.team, teams]
    exact (State.onCores_team numbered k).trans (s.team_setTeam_same k _)
  refine ⟨by rw [team]; rfl, by rw [team]; rfl, fun i hi => ?_, ?_⟩
  · obtain ⟨live, owner, waits⟩ := stands i hi
    rw [frame]
    exact ⟨live, owner, waits⟩
  · rw [same, clusters, State.onCores_clusters numbered]
    refine (congrArg (Option.map Cluster.firstReturned) cluster).trans ?_
    rw [Option.map_some, Cluster.firstReturned, only]
    rfl

/-! ### REBIND_RESTORE (R118, R441) -/

/-- Where there is no copy, there is none to put back on an engine. -/
theorem State.restoreCopies_of_none {s : State} (copies : s.copies = []) (c q : Nat) (ms : List Member) :
    s.restoreCopies c q ms = some s := by
  simp [State.restoreCopies, copies]

theorem State.onCores_dropBlocks (s : State) (c : Nat) (ms : List Member) : (s.dropBlocks c ms).onCores = s.onCores :=
  State.onCores_foldl _ _ (fun t _ => t.onCores_freeImage _ _) s

/-- A cluster that is not to be restored any more, its members without save blocks (R441). -/
def Cluster.restored (c : Cluster) : Cluster :=
  { c with rebound := false, members := c.members.map (fun m => { m with saveBase := 0 }) }

/-- The steps of R441 for a cluster of one member without copies, where its units are free and its context is. -/
theorem State.restoreCluster_eq {s s1 : State} {q : Nat} {c : Cluster} {m : Member} {x : Team} (only : c.members = [m])
    (saved : m.savedTeam = some x) (copies : s.copies = []) (units : s.unitsRoom (s.ctxOfCluster q) c = true)
    (free : s.ctxFree (s.ctxOfCluster q) = true)
    (loaded : s.loadState (teamKey m.core m.entry) (s.unitsLeft m.core) = s1) (still : s1.copies = []) :
    s.restoreCluster q c = (((((s1.drainMembers (s.ctxOfCluster q) q [m] []).restoreControl q 0 m).dropBlocks (s.ctxOfCluster q)
      [m]).modCluster q Cluster.restored).wakeTeam (teamKey m.core m.entry)).cbarCheck q := by
  have step1 : s.restoreMember q (s.ctxOfCluster q) 0 m = s1 := by
    rw [← loaded]
    simp only [State.restoreMember, saved]
  have step2 := State.restoreCopies_of_none still (s.ctxOfCluster q) q [m]
  simp only [State.restoreCluster, units, free, Bool.not_true, Bool.or_self, Bool.false_eq_true, if_false, copies, List.filter_nil, only,
    List.zipIdx_cons, List.zipIdx_nil, List.foldl_cons, List.foldl_nil, step1, step2, List.filter_cons, saved, Option.isSome_some, if_true]
  rfl

/-- R118, R441: a cluster of one member without copies is restored where its units are free and its context is. -/
theorem State.restoreCluster_back {s : State} {q : Nat} {c : Cluster} {m : Member} {x : Team} (cluster : s.clusters.find q = some c)
    (only : c.members = [m]) (saved : m.savedTeam = some x) (user : (s.team (teamKey m.core m.entry)).kind = .user)
    (idle : ∀ p ∈ m.savedThreads, p.2.waitFor = .nothing) (copies : s.copies = []) (monitors : s.monitors = [])
    (barriers : ∀ p ∈ s.threads, ∀ a ph, p.2.waitFor ≠ .tbarWait a ph)
    (units : s.unitsRoom (s.ctxOfCluster q) c = true) (free : s.ctxFree (s.ctxOfCluster q) = true) :
    (s.restoreCluster q c).Back q (teamKey m.core m.entry) (s.team (teamKey m.core m.entry)).bind { m.returned with saveBase := 0 } := by
  obtain ⟨f, own, loaded⟩ := s.loadState_onCores (teamKey m.core m.entry) (s.unitsLeft m.core)
  rw [State.restoreCluster_eq only saved copies units free rfl ((State.onCores_copies loaded).trans copies)]
  have drained := State.onCores_drainMembers ((State.onCores_monitors loaded).trans monitors)
    (by rw [State.onCores_threads loaded]; exact barriers) (s.ctxOfCluster q) q m
  generalize (s.loadState _ _).drainMembers (s.ctxOfCluster q) q [m] [] = s3 at drained
  have onCores := drained.trans loaded
  generalize key : teamKey m.core m.entry = k at *
  obtain ⟨kind, bind, groups, found⟩ := State.restoreControl_restores (s := s3) (q := q)
    ((State.onCores_monitors onCores).trans monitors) ((congrArg (Tab.find · q) (State.onCores_clusters onCores)).trans cluster) only saved
    key idle
  obtain ⟨ownBind, ownKind⟩ := own (s.team k)
  rw [(State.onCores_team onCores k).trans (s.team_modTeam_same k f)] at kind bind groups
  rw [ownKind] at kind
  rw [ownBind] at bind groups
  generalize s3.restoreControl q 0 m = s4 at kind bind groups found
  have freed := s4.onCores_dropBlocks (s.ctxOfCluster q) [m]
  generalize s4.dropBlocks (s.ctxOfCluster q) [m] = s5 at freed
  have back : (s5.modCluster q Cluster.restored).Back q k (s.team k).bind { m.returned with saveBase := 0 } :=
    State.modCluster_back (by rw [State.onCores_team freed, kind, user]) (by rw [State.onCores_team freed, bind])
      (fun i hi => (groups i hi).of_onCores freed) ((congrArg (Tab.find · q) (State.onCores_clusters freed)).trans found) _ rfl rfl
  exact back.wakeTeam.cbarCheck key rfl

/-- R118, R441: a cluster that is bound again, of which the old cores have nothing left. -/
theorem rebindRestore_of_bound {s : State} {c : Cluster} {m : Member} {x : Team} (cluster : s.clusters.find s.subj.id = some c)
    (bound : c.state = .bound) (rebound : c.rebound = true) (written : c.writeback = false) (only : c.members = [m])
    (saved : m.savedTeam = some x) (user : (s.team (teamKey m.core m.entry)).kind = .user)
    (idle : ∀ p ∈ m.savedThreads, p.2.waitFor = .nothing) (copies : s.copies = []) (unwatched : s.Unwatched)
    (units : s.unitsRoom (s.ctxOfCluster s.subj.id) c = true) (free : s.ctxFree (s.ctxOfCluster s.subj.id) = true) :
    Becomes .rebindRestore s (fun t => t.Back s.subj.id (teamKey m.core m.entry) (s.team (teamKey m.core m.entry)).bind
      { m.returned with saveBase := 0 }) := by
  refine ⟨_, congrArg Host.Outcome.next ?_, State.restoreCluster_back cluster only saved user idle copies unwatched.monitors
    unwatched.barriers units free⟩
  simp [cluster, bound, rebound, written]

end Sys2Proof.Machine

open Sys2Proof Sys2Proof.Machine

/-- Settles O56: event by event. A team that is ordered to stop has only its threads' own waits to leave (`State.Unengaged.quiesce`); one
that has stopped leaves its core to its cluster (`State.Left`, which the end of the pre-emption keeps); a write-back places no line
(`State.WrittenBack`); and of a restored team no thread waits, so that nothing wakes on its return (`State.Back`). -/
theorem preemptionEvents : Obligations.PreemptionEvents := by
  unfold Obligations.PreemptionEvents
  intro s
  refine ⟨fun c cluster stopping user runs issue held ops copies persists closed => ?_,
    fun c m cluster member live here ofCluster ofMember stopped _ => ?_, fun c cluster bound writeback => ?_,
    fun c m x cluster bound rebound written only saved entry user idle copies _ unwatched _ units free => ?_⟩
  · exact preemptionOrder_of_stopping cluster stopping user runs ⟨issue, held, ops, persists⟩ copies
      (fun g => Group.closed_eq_self (closed g))
  · obtain ⟨t, runs, team, groups, kept⟩ := teamStopped_of_stopped cluster member live here ofCluster ofMember stopped
    exact ⟨t, runs, team, groups, kept⟩
  · exact rebindWritebackDone_of_bound cluster bound writeback
  · obtain ⟨t, runs, -, -, groups, c', found, members, restored⟩ :=
      rebindRestore_of_bound cluster bound rebound written only saved user idle copies unwatched units free
    refine ⟨t, runs, ⟨c', _, found, restored, members, rfl, rfl⟩, fun i hi slot => ?_⟩
    have stands := groups i (mem_slotsOf.2 ⟨hi, slot⟩)
    rw [coreOfTeam_teamKey entry] at stands
    exact ⟨stands.live, stands.team⟩
end

section
/-! PROOFS. Uniform instructions: one k register of each team of a bundle (07 R125; 09 R171–R173). -/
namespace Sys2Proof.Machine

/-! ### Sign extension and 64-bit sources (R7, R171) -/

theorem wrapInt_lt (m : Nat) (x : Int) : wrapInt m x < 2 ^ m := by
  have pos : (0 : Int) < (2 ^ m : Nat) := by positivity
  have h := Int.emod_lt_of_pos x pos
  have h0 := Int.emod_nonneg x pos.ne'
  unfold wrapInt
  omega

theorem signedOf_eq_toInt (n x : Nat) (pos : 0 < n) : signedOf n x = (BitVec.ofNat n x).toInt := by
  have half : 2 * 2 ^ (n - 1) = 2 ^ n := by
    rw [← Nat.pow_succ', Nat.succ_eq_add_one, Nat.sub_add_cancel pos]
  simp only [signedOf, BitVec.toInt_eq_toNat_cond, BitVec.toNat_ofNat]
  split <;> split <;> omega

/-- `sext` is the sign extension of the low bits (R7). -/
theorem ofNat_sext (n m x : Nat) (pos : 0 < n) : BitVec.ofNat m (sext n m x) = (BitVec.ofNat n x).signExtend m := by
  rw [BitVec.signExtend, ← signedOf_eq_toInt n x pos]
  apply BitVec.eq_of_toNat_eq
  rw [BitVec.toNat_ofNat, BitVec.toNat_ofInt, sext, Nat.mod_eq_of_lt (wrapInt_lt m _)]
  rfl

/-- An immediate of 64 bits is one (R47). -/
theorem imm125_int_lt (h : Hints) (w : Nat) : (imm125 h .int w).getD 0 < 2 ^ w := by
  unfold imm125
  split <;> first
    | exact wrapInt_lt w _
    | exact Nat.two_pow_pos w
    | contradiction

theorem kVal_lt (m : Team) (h : Hints) (c : BitVec 7) : kVal m h c < 2 ^ 64 := by
  unfold kVal
  split
  · exact (m.kreg c.toNat).isLt
  split
  · exact imm125_int_lt h 64
  split <;> decide

/-- A source of a uniform instruction is the one that R171 names. -/
theorem ofNat_kVal (m : Team) (h : Hints) (c : BitVec 7) : BitVec.ofNat 64 (kVal m h c) = kSource h m c := by
  unfold kVal kSource
  split
  · rw [BitVec.ofNat_toNat, BitVec.setWidth_eq]
  split
  · rfl
  split <;> rfl

theorem kSource_toNat (m : Team) (h : Hints) (c : BitVec 7) : (kSource h m c).toNat = kVal m h c := by
  rw [← ofNat_kVal, BitVec.toNat_ofNat, Nat.mod_eq_of_lt (kVal_lt m h c)]

/-! ### KMOV, KADD, KADDI, KSHL, KAND (R171) -/

/-- A uniform instruction writes what it computes of each team (R125, R171). -/
theorem uniform_of_value {i : Instr} {d : BitVec 7} (g : Hints → Team → Nat) {v : Bundle → Team → DWord}
    (run : ∀ s, exec i s = s.uniformOut i d g) (value : ∀ b m, BitVec.ofNat 64 (g b.hints m) = v b m) :
    Uniform i d.toNat v := by
  intro s b rest h
  obtain ⟨t, e, sets⟩ := uniformOut_sets d g h
  simp only [value] at sets
  exact ⟨t, (run s).trans e, sets⟩

theorem kshl_value (m : Team) (h : Hints) (a b : BitVec 7) :
    BitVec.ofNat 64 (if kVal m h b ≥ 64 then 0 else kVal m h a * 2 ^ kVal m h b) =
      if 64 ≤ (kSource h m b).toNat then 0 else kSource h m a <<< (kSource h m b).toNat := by
  rw [kSource_toNat]
  split
  · rfl
  · apply BitVec.eq_of_toNat_eq
    rw [BitVec.toNat_shiftLeft, kSource_toNat, BitVec.toNat_ofNat, Nat.shiftLeft_eq]

theorem kand_value (m : Team) (h : Hints) (a b : BitVec 7) :
    BitVec.ofNat 64 (Nat.land (kVal m h a) (kVal m h b)) = kSource h m a &&& kSource h m b := by
  apply BitVec.eq_of_toNat_eq
  rw [BitVec.toNat_and, kSource_toNat, kSource_toNat, BitVec.toNat_ofNat]
  exact Nat.mod_eq_of_lt (Nat.and_lt_two_pow _ (kVal_lt m h b))

/-! ### KFROMV (R173) -/

theorem minBy_eq_none {α : Type} {rank : α → Nat} {l : List α} (h : minBy rank l = none) : l = [] := by
  cases l with
  | nil => rfl
  | cons x r =>
    rw [minBy] at h
    split at h
    · cases h
    · split at h <;> cases h

/-- The least element is one of the list, and of least rank. -/
theorem minBy_least {α : Type} {rank : α → Nat} {l : List α} {x : α} (h : minBy rank l = some x) :
    x ∈ l ∧ ∀ y ∈ l, rank x ≤ rank y := by
  induction l generalizing x with
  | nil => cases h
  | cons z r ih =>
    rw [minBy] at h
    cases e : minBy rank r with
    | none =>
      rw [e] at h
      cases h
      simp [minBy_eq_none e]
    | some w =>
      rw [e] at h
      dsimp only at h
      obtain ⟨mem, least⟩ := ih e
      by_cases lt : rank w < rank z
      · rw [if_pos lt] at h
        cases h
        exact ⟨List.mem_cons_of_mem z mem, List.forall_mem_cons.2 ⟨lt.le, least⟩⟩
      · rw [if_neg lt] at h
        cases h
        exact ⟨List.mem_cons_self, List.forall_mem_cons.2 ⟨le_rfl, fun y hy => (not_lt.1 lt).trans (least y hy)⟩⟩

theorem bind_setK (s : State) (k n : Nat) (v : DWord) (j : Nat) : ((s.setK k n v).team j).bind = (s.team j).bind := by
  rw [team_setK]
  split
  · next e => rw [e]
  · rfl

/-- A write of a k register changes no register of a thread. -/
theorem readReg_setK (s : State) (k n : Nat) (v : DWord) (t m : Nat) : (s.setK k n v).readReg t m = s.readReg t m := by
  have groups : ∀ g, (s.setK k n v).group g = s.group g := fun _ => rfl
  simp only [State.readReg, State.lineOf, State.ctxOfGroup, State.lineAddr, State.groupBlock, bind_setK, groups]
  rfl

/-- A write of a k register of one team leaves the operands of every other team's threads. -/
theorem operands_setK (s : State) {k t : Nat} (n : Nat) (v : DWord) (h : Hints) (f : Form) (other : s.teamOf t ≠ k) :
    (s.setK k n v).operands h t f = s.operands h t f := by
  refine operands_congr _ _ h t f (fun m => readReg_setK s k n v t m) rfl fun m => ?_
  change ((s.setK k n v).team (s.teamOf t)).kreg m = _
  rw [team_setK, if_neg other]
  rfl

/-- Teams that take one value each in turn hold it; nothing else changes. -/
theorem setK_fold_keyed (d : Nat) (v : Nat → DWord) (ks : List Nat) (s : State) (distinct : ks.Nodup) :
    let t := ks.foldl (fun s k => s.setK k d (v k)) s
    t = { s with teams := t.teams } ∧
      ∀ j, t.team j = if j ∈ ks then { s.team j with k := (s.team j).k.put d (v j) } else s.team j := by
  induction ks generalizing s with
  | nil => exact ⟨rfl, fun _ => rfl⟩
  | cons k r ih =>
    obtain ⟨fresh, distinct⟩ := List.nodup_cons.1 distinct
    obtain ⟨frame, teams⟩ := ih (s.setK k d (v k)) distinct
    refine ⟨frame.trans rfl, fun j => (teams j).trans ?_⟩
    rw [team_setK]
    by_cases e : j = k
    · subst e; simp [fresh]
    · simp [e]

/-- A uniform instruction whose teams take one value each. -/
theorem setsUniform_of_fold {s s1 : State} {b : Bundle} {rest : List Bundle} {i : Instr} (begun : s.Begun b i rest s1) (d : Nat)
    (v : Nat → DWord) :
    s.SetsUniform b rest i d v
      { (s1.teamsOf b.threads).foldl (fun s k => s.setK k d (v k)) s1 with held := s.heldAfter b i } := by
  obtain ⟨frame, teams⟩ := setK_fold_keyed d v (s1.teamsOf b.threads) s1 (nodup_dedup _)
  generalize (s1.teamsOf b.threads).foldl (fun s k => s.setK k d (v k)) s1 = t at frame teams
  have owners : ∀ k, k ∈ s1.teamsOf b.threads ↔ ∃ u ∈ b.threads, s.teamOf u = k := by
    intro k
    simp only [State.teamsOf, mem_dedup, List.mem_map]
    rw [begun.frame]
    exact Iff.rfl
  have threads : ∀ u, t.thread u = if u ∈ b.threads then (s.thread u).issued s b i else s.thread u := by
    intro u
    rw [← begun.threads u, frame]
    rfl
  have before : ∀ k, s1.team k = s.team k := fun k => by rw [begun.frame]; rfl
  refine ⟨?_, fun u hu => (threads u).trans (if_pos hu), fun u hu => (threads u).trans (if_neg hu), fun u hu => ?_, fun k none_ => ?_⟩
  · rw [frame, begun.frame]
  · exact (teams _).trans (by rw [if_pos ((owners _).2 ⟨u, hu, rfl⟩), before])
  · have absent : k ∉ s1.teamsOf b.threads := fun m => by
      obtain ⟨u, hu, e⟩ := (owners k).1 m
      exact none_ u hu e
    exact (teams k).trans (by rw [if_neg absent, before])

/-- What KFROMV takes from a thread (R173). -/
def kfromvValue (h : Hints) (l : List Nat) : DWord :=
  if hTy h 7 = 3 then (BitVec.ofNat 32 (l.getD 0 0)).signExtend 64 else BitVec.ofNat 64 (l.getD 0 0)

theorem ofNat_kfromv (h : Hints) (l : List Nat) :
    BitVec.ofNat 64 (if hTy h 7 = 3 then sext 32 64 (arg l 0) else arg l 0) = kfromvValue h l := by
  unfold kfromvValue
  split
  · exact ofNat_sext 32 64 _ (by decide)
  · rfl

/-- One team's part of KFROMV: its register takes the operand of the lowest of its threads (R173). -/
def State.kfromvTeam (s : State) (b : Bundle) (d a : BitVec 7) (k : Nat) : State :=
  match minBy laneOf (b.threads.filter (fun t => s.teamOf t == k)) with
  | none => s
  | some t =>
    let v := arg (s.operands b.hints t (formOf b.hints (.kfromv d a))) 0
    s.setK k d.toNat (BitVec.ofNat 64 (if hTy b.hints 7 = 3 then sext 32 64 v else v))

section
variable {s : State} {b : Bundle} {d a : BitVec 7} {v : Nat → DWord}

/-- A team takes what its lowest thread gives. -/
theorem State.kfromvTeam_eq {k : Nat} (some_ : ∃ t ∈ b.threads, s.teamOf t = k)
    (value : ∀ t ∈ b.threads, s.teamOf t = k → (∀ w ∈ b.threads, s.teamOf w = k → laneOf t ≤ laneOf w) →
      v k = kfromvValue b.hints (s.operands b.hints t (formOf b.hints (.kfromv d a)))) :
    s.kfromvTeam b d a k = s.setK k d.toNat (v k) := by
  unfold State.kfromvTeam
  cases e : minBy laneOf (b.threads.filter (fun t => s.teamOf t == k)) with
  | none =>
    obtain ⟨t, ht, hk⟩ := some_
    have absent := List.filter_eq_nil_iff.1 (minBy_eq_none e) t ht
    simp [hk] at absent
  | some t =>
    obtain ⟨mem, least⟩ := minBy_least e
    simp only [List.mem_filter, beq_iff_eq, and_imp] at mem least
    simp only [ofNat_kfromv, value t mem.1 mem.2 least]

/-- KFROMV team by team: what one team takes leaves the operands of the others' threads. -/
theorem State.foldl_kfromvTeam (value : ∀ t ∈ b.threads, (∀ w ∈ b.threads, s.teamOf w = s.teamOf t → laneOf t ≤ laneOf w) →
      v (s.teamOf t) = kfromvValue b.hints (s.operands b.hints t (formOf b.hints (.kfromv d a))))
    (ks : List Nat) (distinct : ks.Nodup) (owned : ∀ k ∈ ks, ∃ t ∈ b.threads, s.teamOf t = k) (x : State)
    (teams : ∀ t, x.teamOf t = s.teamOf t)
    (operands : ∀ t, s.teamOf t ∈ ks → x.operands b.hints t (formOf b.hints (.kfromv d a)) =
      s.operands b.hints t (formOf b.hints (.kfromv d a))) :
    ks.foldl (fun s k => s.kfromvTeam b d a k) x = ks.foldl (fun s k => s.setK k d.toNat (v k)) x := by
  induction ks generalizing x with
  | nil => rfl
  | cons k r ih =>
    obtain ⟨fresh, distinct⟩ := List.nodup_cons.1 distinct
    obtain ⟨ownK, ownR⟩ := List.forall_mem_cons.1 owned
    have first : x.kfromvTeam b d a k = x.setK k d.toNat (v k) := by
      refine State.kfromvTeam_eq (by simpa only [teams] using ownK) fun t ht hk least => ?_
      simp only [teams] at hk least
      subst hk
      rw [operands t List.mem_cons_self]
      exact value t ht least
    rw [List.foldl_cons, List.foldl_cons, first]
    refine ih distinct ownR _ (fun t => teams t) fun t ht => ?_
    rw [operands_setK x _ _ _ _ (fun e => fresh (by rw [← e, teams]; exact ht)), operands t (List.mem_cons_of_mem k ht)]
end

/-- R173: each team's register takes what the lowest of its threads gives. -/
theorem kfromv_sets {s : State} {b : Bundle} {rest : List Bundle} {d a : BitVec 7} (h : s.Executes b rest (.kfromv d a)) :
    ∃ t, exec (.kfromv d a) s = .next t ∧ ∀ v : Nat → DWord,
      (∀ u ∈ b.threads, (∀ w ∈ b.threads, s.teamOf w = s.teamOf u → laneOf u ≤ laneOf w) →
        v (s.teamOf u) = kfromvValue b.hints (s.operands b.hints u (formOf b.hints (.kfromv d a)))) →
      s.SetsUniform b rest (.kfromv d a) d.toNat v t := by
  obtain ⟨s1, begun, e⟩ := issueWord_begun h (fun b act s => (s.teamsOf act).foldl (fun s k =>
    match minBy laneOf (act.filter (fun t => s.teamOf t == k)) with
    | none => s
    | some t =>
      let v := arg (s.operands b.hints t (formOf b.hints (.kfromv d a))) 0
      s.setK k d.toNat (BitVec.ofNat 64 (if hTy b.hints 7 = 3 then sext 32 64 v else v))) s)
  refine ⟨_, e, fun v value => ?_⟩
  have teams : ∀ t, s1.teamOf t = s.teamOf t := fun t => by rw [begun.frame]; rfl
  have owned : ∀ k ∈ s1.teamsOf b.threads, ∃ t ∈ b.threads, s.teamOf t = k := by
    intro k hk
    simpa only [State.teamsOf, mem_dedup, List.mem_map, teams] using hk
  have all := State.foldl_kfromvTeam value (s1.teamsOf b.threads) (nodup_dedup _) owned s1 teams fun t _ => begun.operands _ t _
  have sets := setsUniform_of_fold begun d.toNat v
  obtain ⟨frame, -⟩ := setK_fold_keyed d.toNat v (s1.teamsOf b.threads) s1 (nodup_dedup _)
  rw [← all] at sets frame
  have held : (((s1.teamsOf b.threads).foldl (fun s k => s.kfromvTeam b d a k) s1).keepLatches b (.kfromv d a)
      (formOf b.hints (.kfromv d a)) b.threads).held = s.heldAfter b (.kfromv d a) :=
    held_keepLatches s _ b _ _ _ (by rw [frame, begun.held])
  rw [← held] at sets
  exact sets

end Sys2Proof.Machine

open Sys2Proof Sys2Proof.Machine

/-- Settles O10: the sources of the model are those of R171 (`ofNat_kVal`), and KFROMV goes team by team (`kfromv_sets`). -/
theorem uniformInstructions : Obligations.UniformInstructions := by
  unfold Obligations.UniformInstructions
  refine ⟨fun d a b j => ⟨?_, ?_, ?_, ?_, ?_⟩, fun d a s b rest h => kfromv_sets h⟩
  · exact uniform_of_value (fun h m => kVal m h a) (fun _ => rfl) fun bd m => ofNat_kVal m bd.hints a
  · exact uniform_of_value (fun h m => kVal m h a + kVal m h b) (fun _ => rfl) fun bd m => by
      rw [BitVec.ofNat_add, ofNat_kVal, ofNat_kVal]
  · exact uniform_of_value (fun h m => kVal m h a + immField h 7 j.toNat) (fun _ => rfl) fun bd m => by
      rw [BitVec.ofNat_add, ofNat_kVal]
  · exact uniform_of_value (fun h m => if kVal m h b ≥ 64 then 0 else kVal m h a * 2 ^ kVal m h b) (fun _ => rfl) fun bd m =>
      kshl_value m bd.hints a b
  · exact uniform_of_value (fun h m => Nat.land (kVal m h a) (kVal m h b)) (fun _ => rfl) fun bd m => kand_value m bd.hints a b
end

section
/-! PROOFS. Fault-capable words at issue: the lanes that they leave under check, form by form (07 R136; 12 R228, R233; 13 R267; 15 R288,
R294; 16 R330), and what they come to in helpers (07 R141). -/
namespace Sys2Proof.Machine

/-! ### Addresses (R228, R288, R294) -/

theorem operand_lt (s : State) (h : Hints) (t : Nat) (u : Use) : s.operand h t u < 2 ^ u.width :=
  Nat.mod_lt _ (Nat.two_pow_pos _)

/-- The first operand is that of the form's first use. -/
theorem State.opnd_zero {b : Bundle} {i : Instr} {u : Use} {us : List Use} (first : (formOf b.hints i).uses = u :: us) (s : State)
    (t : Nat) : s.opnd b i t 0 = s.operand b.hints t u := by
  unfold State.opnd State.operands usesOf
  rw [first]
  cases (formOf b.hints i).third <;> rfl

/-- The sum of an address is one of 64-bit words, its 32-bit offset extended. -/
theorem ofNat_effAddr (base : DWord) {off : Nat} (sx : Bool) (scale disp : Nat) (small : off < 2 ^ 32) :
    BitVec.ofNat 64 (effAddr base.toNat off sx scale disp) =
      base + laneOffset sx off * BitVec.ofNat 64 scale + BitVec.ofNat 64 disp := by
  have extended : BitVec.ofNat 64 (if sx then sext 32 64 off else off) = laneOffset sx off := by
    unfold laneOffset
    cases sx
    · apply BitVec.eq_of_toNat_eq
      simp only [Bool.false_eq_true, if_false, BitVec.toNat_ofNat, BitVec.toNat_setWidth, Nat.mod_eq_of_lt small]
    · exact ofNat_sext 32 64 off (by decide)
  apply BitVec.eq_of_toNat_eq
  simp only [effAddr, ← extended, BitVec.toNat_add, BitVec.toNat_mul, BitVec.toNat_ofNat]
  simp

theorem wmAddr_eq (s : State) (b : Bundle) (sx : Bool) (t : Nat) (k : BitVec 6) (o : BitVec 7) (j : BitVec 6) (n : Nat) :
    BitVec.ofNat 64 (s.wmAddr b.hints sx t k o j n) = s.wmForm b t sx k o j n :=
  ofNat_effAddr _ sx n _ (operand_lt s b.hints t (useX o 32 [124, 126]))

theorem kAddr_eq {s : State} {b : Bundle} {i : Instr} {u : Use} {us : List Use} (first : (formOf b.hints i).uses = u :: us)
    (width : u.width = 32) (t : Nat) (sx : Bool) (n : Nat) :
    BitVec.ofNat 64 (s.kAddr b.hints t (s.opnd b i t 0) sx n) = s.kForm b i t sx n := by
  refine ofNat_effAddr _ sx n _ ?_
  rw [State.opnd_zero first, ← width]
  exact operand_lt s b.hints t u

/-! ### Lanes at issue -/

/-- A fault-capable word leaves the lanes under check that it forms of the values of its operands. -/
theorem checks_of_memOut {i : Instr} (supp : Bool) (mk : State → Bundle → Nat → Lane) {lane : Bundle → State → Nat → Lane}
    (run : ∀ s, exec i s = s.memOut i supp mk)
    (kept : ∀ s b rest s1, s.Begun b i rest s1 → ∀ t, mk s1 b t = mk s b t)
    (lanes : ∀ s b t, mk s b t = lane b s t) (tid : ∀ s b t, (mk s b t).tid = t) : Checks i lane := by
  intro s b rest h noHelper
  obtain ⟨t, e, suspends⟩ := memOut_suspends supp mk h noHelper (fun s1 begun => kept s b rest s1 begun) (tid s b)
  refine ⟨t, (run s).trans e, ?_⟩
  have all : mk s b = lane b s := funext (lanes s b)
  rwa [← all]

section
variable {s s1 : State} {b : Bundle} {rest : List Bundle} {i : Instr} (begun : s.Begun b i rest s1)
include begun
theorem State.Begun.wmAddr (sx : Bool) (t : Nat) (k : BitVec 6) (o : BitVec 7) (j : BitVec 6) (n : Nat) :
    s1.wmAddr b.hints sx t k o j n = s.wmAddr b.hints sx t k o j n := by
  simp only [State.wmAddr, begun.kreg, begun.operand]
theorem State.Begun.kAddr (t off : Nat) (sx : Bool) (n : Nat) : s1.kAddr b.hints t off sx n = s.kAddr b.hints t off sx n := by
  simp only [State.kAddr, begun.kreg]
end

/-- Loads, prefetches and maintenance: each lane with the address of the WM form (R228). -/
theorem checks_load {i : Instr} (supp : Bool) (k : BitVec 6) (o : BitVec 7) (j : BitVec 6) (sx : Bundle → Bool) (n : Bundle → Nat)
    (run : ∀ s, exec i s = s.memOut i supp (fun s b t => s.loadLane b (sx b) t k o j (n b))) :
    Checks i (fun b s u => laneAt u (s.wmForm b u (sx b) k o j (n b))) := by
  refine checks_of_memOut supp _ run (fun s b rest s1 begun t => ?_) (fun s b t => ?_) fun s b t => rfl
  · simp only [State.loadLane, begun.wmAddr]
  · rw [State.loadLane, addrLane, wmAddr_eq]; rfl

/-- LDK has no offset of its own (R242). -/
theorem wmForm_noOffset (s : State) (b : Bundle) (u : Nat) (k j : BitVec 6) (n : Nat) :
    s.wmForm b u false k 126 j n = s.kreg u k.toNat + BitVec.ofNat 64 (immField b.hints 6 j.toNat) := by
  have none_ : s.operand b.hints u (useX 126 32 [124, 126]) = 0 := rfl
  rw [State.wmForm, none_]
  simp [laneOffset]

/-- Stores: with the data that the lanes hold at issue (R233). -/
theorem checks_store {i : Instr} (d : BitVec 7) (k : BitVec 6) (o : BitVec 7) (j : BitVec 6) (sx : Bundle → Bool)
    (run : ∀ s, exec i s = s.memOut i true (fun s b t => s.storeLane b (sx b) t d k o j (tyWidth (hTy b.hints 7)))) :
    Checks i (fun b s u => s.storeForm b u (sx b) d k o j) := by
  refine checks_of_memOut true _ run (fun s b rest s1 begun t => ?_) (fun s b t => ?_) fun s b t => rfl
  · simp only [State.storeLane, begun.wmAddr, begun.operand]
  · rw [State.storeLane, dataLane, wmAddr_eq]; rfl

/-- Words of majors 0x28–0x2B: with a scaled offset beside k[KSEL] and two operands (R288, R294). -/
theorem checks_kForm {i : Instr} (supp : Bool) (sx : Bundle → Bool) (n : Bundle → Nat) (y : List Nat → Nat)
    (run : ∀ s, exec i s = s.memOut i supp (fun s b t =>
      let l := s.operands b.hints t (formOf b.hints i)
      dataLane t (s.kAddr b.hints t (arg l 0) (sx b) (n b)) (arg l 1) (y l)))
    (offset : ∀ h, ∃ u us, (formOf h i).uses = u :: us ∧ u.width = 32) :
    Checks i (fun b s u => laneWith u (s.kForm b i u (sx b) (n b)) (s.opnd b i u 1) (y (s.operands b.hints u (formOf b.hints i)))) := by
  refine checks_of_memOut supp _ run (fun s b rest s1 begun t => ?_) (fun s b t => ?_) fun s b t => rfl
  · simp only [begun.operands, begun.kAddr]
  · obtain ⟨u, us, first, width⟩ := offset b.hints
    rw [← kAddr_eq first width]
    rfl

/-- Transaction barriers: the barrier's address and an operand (R267). -/
theorem checks_tbar {i : Instr} (run : ∀ s, exec i s = s.memOut i false (fun s b t => s.tbarLane b i t))
    (address : ∀ h, ∃ u us, (formOf h i).uses = u :: us ∧ u.width = 32) :
    Checks i (fun b s u => laneWith u (BitVec.ofNat 64 (s.opnd b i u 0)) (s.opnd b i u 1) 0) := by
  refine checks_of_memOut false _ run (fun s b rest s1 begun t => ?_) (fun s b t => ?_) fun s b t => rfl
  · simp only [State.tbarLane, begun.operands]
  · obtain ⟨u, us, first, width⟩ := address b.hints
    have small : s.opnd b i t 0 < 2 ^ 32 := by
      rw [State.opnd_zero first, ← width]
      exact operand_lt s b.hints t u
    change dataLane t (s.opnd b i t 0 % 2 ^ 32) (s.opnd b i t 1) 0 = _
    rw [Nat.mod_eq_of_lt small]
    rfl

/-- Words whose lanes are made of their operands alone (R330, R412). -/
theorem checks_operands {i : Instr} (supp : Bool) (f : Nat → List Nat → Lane)
    (run : ∀ s, exec i s = s.memOut i supp (fun s b t => f t (s.operands b.hints t (formOf b.hints i)))) (tid : ∀ t l, (f t l).tid = t) :
    Checks i (fun b s u => f u (s.operands b.hints u (formOf b.hints i))) :=
  checks_of_memOut supp _ run (fun s b rest s1 begun t => by rw [begun.operands]) (fun _ _ _ => rfl) fun _ _ _ => tid _ _

/-- Words that hand the address in their first operand to a unit (R330, R385, R404, R433, R434). -/
theorem checks_address {i : Instr} (supp : Bool)
    (run : ∀ s, exec i s = s.memOut i supp (fun s b t => addrLane t (arg (s.operands b.hints t (formOf b.hints i)) 0))) :
    Checks i (fun b s u => laneAt u (BitVec.ofNat 64 (s.opnd b i u 0))) :=
  checks_operands supp (fun t l => addrLane t (arg l 0)) run fun _ _ => rfl

/-! ### Helpers (R141) -/

/-- Zero written with the width of a destination's registers is zero written with its own (R42, R141). -/
theorem writeDst_zero {s : State} {t : Nat} {d : Use} (near : gidOf t < 2 ^ 40) (fit : fits (some d)) :
    s.writeDst t d.code (32 * d.regs) 0 = s.writeDst t d.code d.width 0 := by
  have regs : d.regs = if d.width ≤ 32 then 1 else d.width / 32 := fit d rfl
  have count : (if 32 * d.regs ≤ 32 then 1 else 32 * d.regs / 32) = if d.width ≤ 32 then 1 else d.width / 32 := by
    rw [regs]
    split <;> split <;> omega
  simp only [State.writeDst, if_neg (Nat.not_le.2 near), Nat.zero_mod, count]

theorem record_zero (s : State) (t : Nat) : s.record t 0 = s := if_pos rfl

theorem partition_all (l : List Nat) (p : Nat → Bool) (h : ∀ t ∈ l, p t = true) : l.partition p = (l, []) := by
  rw [List.partition_eq_filter_filter, List.filter_eq_self.2 h, List.filter_eq_nil_iff.2 fun t ht => by simp [h t ht]]

/-- R141: helpers write zero to the destination, and no thread is left to execute. -/
theorem suppress_all {s : State} {i : Instr} {h : Hints} {ts : List Nat} (helpers : ∀ t ∈ ts, (s.thread t).helper = true)
    (near : ∀ t ∈ ts, gidOf t < 2 ^ 40) : s.suppress i h ts = (s.putAll ts (formOf h i).dst (fun _ => 0) (fun _ => 0), []) := by
  have fit := fits_formOf h i
  simp only [State.suppress, partition_all ts _ helpers, State.putAll, record_zero]
  congr 1
  refine List.foldl_ext _ _ _ fun s t ht => ?_
  cases e : (formOf h i).dst with
  | none => rfl
  | some d => exact writeDst_zero (near t ht) (e ▸ fit)

/-- A word that has no effect where its helpers leave no thread to execute is suppressed in helpers. -/
theorem suppressedIn_of_effect {i : Instr} (eff : Effect) (run : ∀ s, exec i s = s.issueWord i eff)
    (effect : ∀ s b act, (s.suppress i b.hints act).2 = [] → eff b act s = (s.suppress i b.hints act).1) : SuppressedIn i := by
  intro s b rest h room helpers
  refine delivers_of_effect (run s) h room (List.Perm.refl b.threads) (fun _ => 0) fun s1 begun => ?_
  have all := suppress_all (s := s1) (i := i) (h := b.hints) (ts := b.threads)
    (fun t ht => by rw [begun.threads, if_pos ht]; exact helpers t ht) (gid_small h.toBundled)
  rw [effect s1 b b.threads (by rw [all]), all]

theorem suppressedIn_of_memOut {i : Instr} {mk : State → Bundle → Nat → Lane} (run : ∀ s, exec i s = s.memOut i true mk) :
    SuppressedIn i :=
  suppressedIn_of_effect _ run fun s b act none_ => by
    simp only [if_true, none_]
    rfl

theorem suppressedIn_of_walkOut {i : Instr} {mk : State → Bundle → Nat → Lane × Walk} (run : ∀ s, exec i s = s.walkOut i mk) :
    SuppressedIn i :=
  suppressedIn_of_effect _ run fun s b act none_ => by
    simp only [none_]
    rfl

end Sys2Proof.Machine

open Sys2Proof Sys2Proof.Machine

/-- Settles O19: each form by the address that its lanes present (`checks_load`, `checks_store`, `checks_kForm`). -/
theorem memoryAtIssue : Obligations.MemoryAtIssue := by
  unfold Obligations.MemoryAtIssue
  refine ⟨fun d k kd o j => ⟨?_, ?_, ?_, ?_, ?_, ?_, ?_⟩, fun d k o j => ⟨?_, ?_⟩, fun d a b o => ⟨?_, ?_, ?_, ?_, ?_, ?_⟩⟩
  · exact checks_load false k o j (fun b => xmodBit b.hints 0) elemBytes fun _ => rfl
  · exact checks_load false k o j (fun _ => false) elemBytes fun _ => rfl
  · have h := checks_load (i := .ldk kd k j) false k 126 j (fun _ => false) (fun _ => 1) fun _ => rfl
    simpa only [wmForm_noOffset] using h
  · exact checks_load false k o j (fun _ => false) (fun _ => 1) fun _ => rfl
  · exact checks_load false k o j (fun _ => false) (fun _ => 1) fun _ => rfl
  · exact checks_load false k o j (fun _ => false) (fun _ => 1) fun _ => rfl
  · exact checks_load true k o j (fun _ => false) (fun _ => 1) fun _ => rfl
  · exact checks_store d k o j (fun b => xmodBit b.hints 0) fun _ => rfl
  · exact checks_store d k o j (fun _ => false) fun _ => rfl
  all_goals
    refine checks_kForm true (fun b => b.hints.xmod.getLsbD 2) elemBytes (fun l => l.getD 2 0) (fun _ => rfl) fun h => ⟨_, _, rfl, rfl⟩

/-- Settles O20: the offset and the barrier's address are of 32 bits (`checks_kForm`, `checks_tbar`). -/
theorem synchronisationAtIssue : Obligations.SynchronisationAtIssue := by
  unfold Obligations.SynchronisationAtIssue
  refine ⟨fun d a b n => ⟨?_, ?_, ?_, ?_, ?_, ?_⟩, fun d a b n => ⟨?_, ?_, ?_, ?_⟩⟩
  · exact checks_kForm false (fun _ => false) (fun _ => 8) (fun l => l.getD 2 0) (fun _ => rfl) fun h => ⟨_, _, rfl, rfl⟩
  · exact checks_kForm false (fun _ => false) (fun _ => 8) (fun l => l.getD 2 0) (fun _ => rfl) fun h => ⟨_, _, rfl, rfl⟩
  · exact checks_kForm false (fun _ => false) (fun _ => 8) (fun l => l.getD 2 0) (fun _ => rfl) fun h => ⟨_, _, rfl, rfl⟩
  · exact checks_kForm false (fun _ => false) (fun _ => 8) (fun l => l.getD 2 0) (fun _ => rfl) fun h => ⟨_, _, rfl, rfl⟩
  · exact checks_kForm false (fun b => b.hints.xmod.getLsbD 4) elemBytes (fun _ => 0) (fun _ => rfl) fun h => ⟨_, _, rfl, rfl⟩
  · exact checks_kForm false (fun b => b.hints.xmod.getLsbD 2) (fun _ => 8) (fun _ => 0) (fun _ => rfl) fun h => ⟨_, _, rfl, rfl⟩
  all_goals exact checks_tbar (fun _ => rfl) fun h => ⟨_, _, rfl, rfl⟩

/-- Settles O21: the lanes are made of the operands alone (`checks_operands`, `checks_address`). -/
theorem enginesAtIssue : Obligations.EnginesAtIssue := by
  unfold Obligations.EnginesAtIssue
  refine ⟨fun d a b n => ⟨?_, ?_, ?_, ?_, ?_, ?_, ?_⟩, fun d a b n => ⟨?_, ?_, ?_, ?_, ?_, ?_⟩⟩
  · exact checks_address true fun _ => rfl
  · exact checks_address true fun _ => rfl
  · exact checks_address true fun _ => rfl
  · exact checks_operands true (fun t l => dataLane t 0 (arg l 0) 0) (fun _ => rfl) fun _ _ => rfl
  · exact checks_operands true (fun t l => dataLane t 0 (arg l 0) (arg l 1)) (fun _ => rfl) fun _ _ => rfl
  · exact checks_operands true (fun t l => dataLane t 0 (arg l 0) (arg l 1 + arg l 2 * 2 ^ 32)) (fun _ => rfl) fun _ _ => rfl
  · exact checks_operands false (fun t l => dataLane t 0 (arg l 0) 0) (fun _ => rfl) fun _ _ => rfl
  · exact checks_address false fun _ => rfl
  · exact checks_address false fun _ => rfl
  · exact checks_address false fun _ => rfl
  · exact checks_address true fun _ => rfl
  · exact checks_address false fun _ => rfl
  · exact checks_operands true (fun t l => dataLane t (arg l 0) b.toNat 0) (fun _ => rfl) fun _ _ => rfl

/-- Settles O22: suppressed words leave no thread to execute (`suppress_all`). -/
theorem suppressedInHelpers : Obligations.SuppressedInHelpers := by
  unfold Obligations.SuppressedInHelpers
  intro d a b o k j op n
  refine ⟨?_, ?_, ?_, ?_, ?_, ?_, ?_, ?_, ?_, ?_, ?_, ?_, ?_, ?_, ?_, ?_, ?_, ?_, ?_, ?_⟩
  case refine_18 => exact suppressedIn_of_walkOut fun _ => rfl
  case refine_19 => exact suppressedIn_of_walkOut fun _ => rfl
  case refine_20 => exact suppressedIn_of_walkOut fun _ => rfl
  all_goals exact suppressedIn_of_memOut fun _ => rfl
end

section
/-! PROOFS. JOIN (07 R130; 09 R178). -/
namespace Sys2Proof.Machine

/-! ### Effects of words -/

section
variable {s : State} {b : Bundle} {rest : List Bundle} {i : Instr}

/-- A word is executed with its effect on the state in which it begins, where that effect holds no bundle. -/
theorem exec_of_begun {eff : Effect} (run : exec i s = s.issueWord i eff) (h : s.Executes b rest i) {f : State → State}
    (effect : ∀ s1, s.Begun b i rest s1 → eff b b.threads s1 = f s1 ∧ (f s1).held = s1.held) :
    ∃ s1, s.Begun b i rest s1 ∧ exec i s = .next { f s1 with held := s.heldAfter b i } := by
  obtain ⟨s1, begun, e⟩ := issueWord_begun h eff
  obtain ⟨result, held⟩ := effect s1 begun
  refine ⟨s1, begun, run.trans ?_⟩
  rw [e, result, held_keepLatches s (f s1) b i _ _ (held.trans begun.held)]
  rfl

/-- A word that has no effect moves its threads on. -/
theorem steers_of_nothing {eff : Effect} (run : exec i s = s.issueWord i eff) (h : s.Executes b rest i)
    (effect : ∀ s1, s.Begun b i rest s1 → eff b b.threads s1 = s1) :
    ∃ t, exec i s = .next t ∧ s.Steers b rest i (fun _ x => x) t := by
  obtain ⟨s1, begun, e⟩ := exec_of_effect run h (f := fun s1 => s1) effect (fun _ => rfl)
  refine ⟨_, e, ?_, fun u hu => (begun.threads u).trans (if_pos hu), fun u hu => (begun.threads u).trans (if_neg hu)⟩
  dsimp only
  rw [begun.frame]

theorem State.Begun.teamOf {s1 : State} (begun : s.Begun b i rest s1) (u : Nat) : s1.teamOf u = s.teamOf u := by rw [begun.frame]; rfl
theorem State.Begun.team {s1 : State} (begun : s.Begun b i rest s1) (k : Nat) : s1.team k = s.team k := by rw [begun.frame]; rfl
theorem State.Begun.group {s1 : State} (begun : s.Begun b i rest s1) (g : Nat) : s1.group g = s.group g := by rw [begun.frame]; rfl

theorem State.Begun.clk {s1 : State} (begun : s.Begun b i rest s1) : s1.clk = s.clk := by rw [begun.frame]
theorem State.Begun.wall {s1 : State} (begun : s.Begun b i rest s1) : s1.wall = s.wall := by rw [begun.frame]

/-- Moving on leaves a thread's DEPTH. -/
theorem State.Begun.depth {s1 : State} (begun : s.Begun b i rest s1) (u : Nat) : (s1.thread u).depth = (s.thread u).depth := by
  rw [begun.threads]; split <;> rfl

theorem State.Begun.atJoin {s1 : State} (begun : s.Begun b i rest s1) (u : Nat) (pc : VA) : s1.atJoin u pc ↔ s.atJoin u pc := by
  unfold State.atJoin
  rw [begun.teamOf, begun.team, begun.depth]
end

/-! ### JOIN (R130, R178) -/

/-- A JOIN does nothing for a thread in no entry of its address. -/
theorem State.joinThread_of_outside {s : State} {u : Nat} {pc : VA} (outside : ¬s.atJoin u pc) : s.joinThread u pc = s := by
  unfold State.joinThread
  dsimp only
  split
  · next e last =>
    rw [if_neg]
    intro counted
    simp only [Bool.and_eq_true, beq_iff_eq, decide_eq_true_eq] at counted
    obtain ⟨⟨-, top⟩, here⟩ := counted
    exact outside ⟨e, last, top, here⟩
  · rfl

/-- An entry that one of its members has come to the join point of. -/
def RsEntry.joined (e : RsEntry) (now : Nat) : RsEntry := { e with pending := e.pending - 1, since := some (e.since.getD now) }

theorem set_last {α : Type} {l : List α} {x y : α} (last : l.getLast? = some x) : l.set (l.length - 1) y = l.dropLast ++ [y] := by
  obtain ⟨r, rfl⟩ := List.getLast?_eq_some_iff.1 last
  simp

theorem State.releaseDone_of_pending {s : State} {k : Nat} {e : RsEntry} (last : (s.team k).rstack.getLast? = some e)
    (pending : e.pending ≠ 0) (n : Nat) : s.releaseDone k n = s := by
  cases n with
  | zero => rfl
  | succ n => rw [State.releaseDone, last]; exact if_neg pending

/-- Thread `u` of team `k` waits at a join point, where `e` stands as the top entry of the team's stack. -/
def State.waitAtJoin (s : State) (k u : Nat) (pc : VA) (e : RsEntry) : State :=
  (s.modTeam k (fun m => { m with rstack := m.rstack.dropLast ++ [e] })).modThread u
    (fun x => { x.block .join s.wall with pc := pc, runPc := pc })

section
variable (s : State) (k u : Nat) (pc : VA) (e : RsEntry)
theorem State.waitAtJoin_eq :
    s.waitAtJoin k u pc e = { s with threads := (s.waitAtJoin k u pc e).threads, teams := (s.waitAtJoin k u pc e).teams } := rfl
theorem State.thread_waitAtJoin (v : Nat) : (s.waitAtJoin k u pc e).thread v =
    if v = u then { (s.thread u).moved pc with tstate := .wait, waitFor := .join, armedAt := s.wall } else s.thread v :=
  State.thread_modThread (s.modTeam k _) u v _
theorem State.team_waitAtJoin (j : Nat) : (s.waitAtJoin k u pc e).team j =
    if j = k then { s.team k with rstack := (s.team k).rstack.dropLast ++ [e] } else s.team j :=
  State.team_modTeam s k j (fun m => { m with rstack := m.rstack.dropLast ++ [e] })
end

/-- A counted thread whose entry has other members pending waits at the join point (R130). -/
theorem State.joinThread_of_pending {s : State} {u : Nat} {pc : VA} {e : RsEntry} (here : s.atJoin u pc)
    (last : (s.team (s.teamOf u)).rstack.getLast? = some e) (pending : 2 ≤ e.pending) :
    s.joinThread u pc = s.waitAtJoin (s.teamOf u) u pc (e.joined s.clk) := by
  obtain ⟨e', last', top, address⟩ := here
  obtain rfl : e = e' := Option.some.inj (last.symm.trans last')
  have deep : 1 ≤ (s.thread u).depth := by
    rw [top]
    exact List.length_pos_iff.2 fun empty => by simp [empty] at last
  have entries : s.modTeam (s.teamOf u) (fun m => { m with rstack := m.rstack.set ((s.team (s.teamOf u)).rstack.length - 1) (e.joined s.clk) }) =
      s.modTeam (s.teamOf u) (fun m => { m with rstack := m.rstack.dropLast ++ [e.joined s.clk] }) := by
    simp only [State.modTeam, set_last last]
  have goesOn : (s.waitAtJoin (s.teamOf u) u pc (e.joined s.clk)).releaseDone (s.teamOf u) 33 =
      s.waitAtJoin (s.teamOf u) u pc (e.joined s.clk) := by
    refine State.releaseDone_of_pending (e := e.joined s.clk) ?_ (Nat.sub_ne_zero_of_lt pending) 33
    rw [State.team_waitAtJoin, if_pos rfl]
    exact List.getLast?_concat
  unfold State.joinThread
  dsimp only
  rw [last]
  dsimp only
  rw [if_pos (by simp [top ▸ deep, top, address]), top, ← RsEntry.joined, entries]
  exact goesOn

theorem join_of_outside {s : State} {b : Bundle} {rest : List Bundle} (h : s.Executes b rest .join)
    (outside : ∀ u ∈ b.threads, ¬s.atJoin u b.pc) :
    ∃ t, exec .join s = .next t ∧ s.Steers b rest .join (fun _ x => x) t :=
  steers_of_nothing rfl h fun _ begun => foldl_eq_self fun u hu =>
    State.joinThread_of_outside fun here => outside u hu ((begun.atJoin u b.pc).1 here)

theorem join_of_pending {s : State} {b : Bundle} {rest : List Bundle} {u : Nat} {e : RsEntry} (h : s.Executes b rest .join)
    (one : b.threads = [u]) (here : s.atJoin u b.pc) (last : (s.team (s.teamOf u)).rstack.getLast? = some e) (pending : 2 ≤ e.pending) :
    ∃ t, exec .join s = .next t ∧
      t = { s with issue := rest, held := s.heldAfter b .join, threads := t.threads, teams := t.teams } ∧
      t.thread u = { ((s.thread u).issued s b .join).moved b.pc with tstate := .wait, waitFor := .join, armedAt := s.wall } ∧
      (∀ w, w ≠ u → t.thread w = s.thread w) ∧
      t.team (s.teamOf u) = { s.team (s.teamOf u) with
        rstack := (s.team (s.teamOf u)).rstack.dropLast ++ [e.joined s.clk] } ∧
      ∀ k, k ≠ s.teamOf u → t.team k = s.team k := by
  obtain ⟨s1, begun, run⟩ := exec_of_effect (eff := fun b act s => act.foldl (fun s t => s.joinThread t b.pc) s)
    (f := fun s1 => s1.waitAtJoin (s.teamOf u) u b.pc (e.joined s.clk)) rfl h (fun s1 begun => by
      rw [one, List.foldl_cons, List.foldl_nil, State.joinThread_of_pending ((begun.atJoin u b.pc).2 here)
        (by rw [begun.teamOf, begun.team]; exact last) pending, begun.teamOf, begun.clk]) (fun _ => rfl)
  obtain ⟨own, others⟩ := begun.thread_one one
  have threads := s1.thread_waitAtJoin (s.teamOf u) u b.pc (e.joined s.clk)
  have teams := s1.team_waitAtJoin (s.teamOf u) u b.pc (e.joined s.clk)
  refine ⟨_, run, ?_, (threads u).trans ?_, fun w hw => (threads w).trans ((if_neg hw).trans (others w hw)), (teams _).trans ?_,
    fun k hk => (teams k).trans ((if_neg hk).trans (begun.team k))⟩
  · rw [State.waitAtJoin_eq, begun.frame]
  · rw [if_pos rfl, own, begun.wall]
  · rw [if_pos rfl, begun.team]

end Sys2Proof.Machine

open Sys2Proof Sys2Proof.Machine

/-- Settles O14: a JOIN is nothing outside the entries of its address (`join_of_outside`); where another member is pending, no entry is
released (`join_of_pending`). -/
theorem join : Obligations.Join := by
  unfold Obligations.Join
  exact fun s b rest h => ⟨join_of_outside h, fun u e one here _ last pending => join_of_pending h one here last pending⟩
end

section
/-! PROOFS. EXIT and EXIT.H where the threads' groups go on (07 R131, R138, R140; 09 R179). -/
namespace Sys2Proof.Machine

/-! ### The end of a thread whose group goes on (R131, R138, R179, R249, R312, R313) -/

/-- A thread that has exited (R179). -/
def Thread.gone (x : Thread) : Thread :=
  { x with tstate := .exited, waitFor := .nothing, waitDst := 126, xop := none, inSet := none, depth := 0 }

/-- Nothing counts on thread `u` of the team: it stands in no entry and no barrier is open, no rendezvous of its group, no copy and no wait
stands; and its mate `w`, no helper, holds the team back from the next phase of its cluster's barrier. -/
structure State.Calm (s : State) (u w : Nat) : Prop where
  near : gidOf u < 2 ^ 40
  entries : (s.team (s.teamOf u)).rstack = []
  bars : (s.team (s.teamOf u)).bars = []
  rdv : (s.group (gidOf u)).rdv = none
  copyRdv : (s.group (gidOf u)).copyRdv = none
  quads : (s.group (gidOf u)).quads = []
  copies : s.copies = []
  monitors : s.monitors = []
  wft : s.wft = []
  mate : gidOf w = gidOf u
  member : w ∈ s.threadsOf (s.teamOf u)
  alive : s.alive w = true
  helper : (s.thread w).helper = false
  late : ∀ c, s.clusters.find (s.team (s.teamOf u)).cluster = some c → Sys2Proof.Machine.ahead ((s.thread w).mt - c.phases) = false ∧
    ∃ m ∈ c.members, m.exited = false ∧ m.savedTeam = none ∧ teamKey m.core m.entry = s.teamOf u

/-- What the end of such a thread may change, and that teams read as before. -/
structure State.Stays (s t : State) : Prop where
  frame : t = { s with threads := t.threads, teams := t.teams, accs := t.accs, nextId := t.nextId, copies := t.copies,
                       monitors := t.monitors, wft := t.wft }
  teams : ∀ k, t.team k = s.team k
  copies : s.copies = [] → t.copies = []
  monitors : s.monitors = [] → t.monitors = []
  wft : s.wft = [] → t.wft = []

theorem State.Stays.refl (s : State) : s.Stays s := ⟨rfl, fun _ => rfl, id, id, id⟩
theorem State.Stays.trans {s t r : State} (h : s.Stays t) (k : t.Stays r) : s.Stays r := by
  refine ⟨?_, fun j => (k.teams j).trans (h.teams j), k.copies ∘ h.copies, k.monitors ∘ h.monitors, k.wft ∘ h.wft⟩
  rw [k.frame, h.frame]

section
variable {s t : State} {u w : Nat}

theorem State.Stays.groups (h : s.Stays t) : t.groups = s.groups := by rw [h.frame]
theorem State.Stays.clusters (h : s.Stays t) : t.clusters = s.clusters := by rw [h.frame]
theorem State.Stays.group (h : s.Stays t) (g : Nat) : t.group g = s.group g := by rw [State.group, h.groups]; rfl
theorem State.Stays.teamOf (h : s.Stays t) (v : Nat) : t.teamOf v = s.teamOf v := by rw [State.teamOf, h.group]; rfl
theorem State.Stays.threadsOf (h : s.Stays t) (k : Nat) : t.threadsOf k = s.threadsOf k := by
  simp only [State.threadsOf, State.groupsOf, h.teams]

/-- A calm thread stays so while its mate's record stands. -/
theorem State.Calm.of_stays (calm : s.Calm u w) (h : s.Stays t) (mate : t.thread w = s.thread w) : t.Calm u w := by
  obtain ⟨near, entries, bars, rdv, copyRdv, quads, copies, monitors, wft, same, member, alive, helper, late⟩ := calm
  exact ⟨near, by rw [h.teamOf, h.teams, entries], by rw [h.teamOf, h.teams, bars], by rw [h.group, rdv], by rw [h.group, copyRdv],
    by rw [h.group, quads], h.copies copies, h.monitors monitors, h.wft wft, same, by rw [h.teamOf, h.threadsOf]; exact member,
    by rw [State.alive, mate]; exact alive, by rw [mate, helper], by rw [h.clusters, h.teamOf, h.teams, mate]; exact late⟩

/-! Each part of `State.retireThread`, for a calm thread. -/

theorem State.Calm.leaveEntries (calm : s.Calm u w) : s.Stays (s.leaveEntries u) ∧ (s.leaveEntries u).threads = s.threads := by
  have e : s.leaveEntries u = s.modTeam (s.teamOf u) (fun m => { m with rstack := [] }) := by
    unfold State.leaveEntries
    dsimp only
    have empty : s.modTeam (s.teamOf u) (fun m => { m with
        rstack := m.rstack.mapIdx (fun i e => if i < (s.thread u).depth then { e with pending := e.pending - 1 } else e) }) =
        s.modTeam (s.teamOf u) (fun m => { m with rstack := [] }) := by
      simp only [State.modTeam, calm.entries, List.mapIdx_nil]
    rw [empty, State.releaseDone, State.team_modTeam_same]
    rfl
  rw [e]
  refine ⟨⟨rfl, fun k => ?_, id, id, id⟩, rfl⟩
  rw [State.team_modTeam]
  split
  · next h =>
    subst h
    have entries := calm.entries
    generalize s.team (s.teamOf u) = m at entries ⊢
    cases m
    subst entries
    rfl
  · rfl

theorem State.Calm.forgetWaits (calm : s.Calm u w) : s.Stays (s.forgetWaits u) ∧ (s.forgetWaits u).threads = s.threads := by
  have e : s.forgetWaits u = { s with wft := [], monitors := [] } := by
    simp [State.forgetWaits, State.wftDrop, calm.monitors, calm.wft]
  rw [e]
  exact ⟨⟨rfl, fun _ => rfl, id, fun _ => rfl, fun _ => rfl⟩, rfl⟩

theorem threadKey_gidOf_laneOf (u : Nat) : threadKey (gidOf u) (laneOf u) = u := by
  unfold threadKey gidOf laneOf; omega

theorem State.Calm.leaveSet (calm : s.Calm u w) (outside : (s.thread u).inSet = none) : s.leaveSet u = s := by
  unfold State.leaveSet State.leaveSetOf State.threadAt
  rw [if_pos calm.near, threadKey_gidOf_laneOf, outside]

theorem State.orphan_stays (s : State) (u : Nat) : s.Stays (s.orphan u) ∧ (s.orphan u).threads = s.threads := by
  unfold State.orphan
  split <;> exact ⟨⟨rfl, fun _ => rfl, id, id, id⟩, rfl⟩

theorem State.Calm.copyRdvCheck (calm : s.Calm u w) : s.copyRdvCheck (gidOf u) = s := by
  unfold State.copyRdvCheck
  rw [calm.copyRdv]

theorem State.Calm.copyGather (calm : s.Calm u w) (k : Nat) : s.Stays (s.copyGather k) ∧ (s.copyGather k).threads = s.threads := by
  have e : s.copyGather k = { s with copies := [] } := by simp [State.copyGather, calm.copies]
  rw [e]
  exact ⟨⟨rfl, fun _ => rfl, fun _ => rfl, id, id⟩, rfl⟩

theorem State.Calm.barCheck (calm : s.Calm u w) (i : Nat) : s.barCheck (s.teamOf u) i = s := by
  have closed : ((s.team (s.teamOf u)).bar i).phaseOpen = false := by rw [Team.bar, calm.bars]; rfl
  unfold State.barCheck
  dsimp only
  rw [closed, Bool.false_and, if_neg Bool.false_ne_true]

/-- The mate has not arrived at the phase of the cluster's barrier: it completes none (R313). -/
theorem State.Calm.cbarCheck (calm : s.Calm u w) : s.cbarCheck (s.team (s.teamOf u)).cluster = s := by
  unfold State.cbarCheck
  cases found : s.clusters.find (s.team (s.teamOf u)).cluster with
  | none => rfl
  | some c =>
    obtain ⟨behind, m, mem, here, resident, key⟩ := calm.late c found
    have waits : s.memberArrived m c.phases = false := by
      unfold State.memberArrived State.arrivedAt State.liveThreads
      rw [here, resident, key, if_neg Bool.false_ne_true]
      exact List.all_eq_false.2 ⟨w, List.mem_filter.2 ⟨calm.member, calm.alive⟩, by simp [behind]⟩
    have open_ : c.members.all (fun m => s.memberArrived m c.phases) = false :=
      List.all_eq_false.2 ⟨m, mem, by simp [waits]⟩
    dsimp only
    cases s.phasesAhead c with
    | zero => rfl
    | succ n =>
      unfold State.cbarLoop
      rw [found]
      dsimp only
      rw [open_, Bool.and_false, if_neg Bool.false_ne_true]

theorem State.modThread_stays (s : State) (u : Nat) (f : Thread → Thread) : s.Stays (s.modThread u f) :=
  ⟨rfl, fun _ => rfl, id, id, id⟩

/-- The last part of `State.retireThread`, once the thread's record is marked: what waited for it goes on. -/
def State.afterRetire (s : State) (k t : Nat) : State :=
  let g := gidOf t
  let s := match (s.group g).rdv with
    | some r => if r.mask.getLsbD (laneOf t) then s.failRdv g [] 0 else s
    | none => s
  let s := match (s.group g).quads.find (laneOf t / 4) with
    | some r => if r.mask.getLsbD (laneOf t) then s.failQuad g (laneOf t / 4) [] 0 else s
    | none => s
  let s := s.copyRdvCheck g
  let s := s.copyGather k
  let s := (List.range 4).foldl (fun s i => if ((s.team k).bar i).n = 0 then s.barCheck k i else s) s
  s.cbarCheck (s.team k).cluster

theorem State.retireThread_eq (s : State) (u : Nat) : s.retireThread u =
    (((((s.leaveEntries u).forgetWaits u).leaveSet u).orphan u).modThread u Thread.gone).afterRetire (s.teamOf u) u := rfl

theorem State.Calm.afterRetire (calm : s.Calm u w) :
    s.Stays (s.afterRetire (s.teamOf u) u) ∧ (s.afterRetire (s.teamOf u) u).threads = s.threads := by
  obtain ⟨stays, threads⟩ := calm.copyGather (s.teamOf u)
  have gathered := calm.of_stays stays (by rw [State.thread, threads]; rfl)
  have e : s.afterRetire (s.teamOf u) u = s.copyGather (s.teamOf u) := by
    unfold State.afterRetire
    dsimp only
    rw [calm.rdv]
    dsimp only
    rw [calm.quads]
    dsimp only [Tab.find]
    rw [calm.copyRdvCheck]
    generalize s.copyGather (s.teamOf u) = t at gathered stays ⊢
    rw [← stays.teamOf u, foldl_eq_self fun i _ => by rw [gathered.barCheck, ite_self], gathered.cbarCheck]
  rw [e]
  exact ⟨stays, threads⟩

/-- What is retired with a calm thread is its own record alone. -/
theorem State.Calm.retireThread (calm : s.Calm u w) (other : w ≠ u) (outside : (s.thread u).inSet = none) :
    s.Stays (s.retireThread u) ∧ ∀ v, (s.retireThread u).thread v = if v = u then (s.thread u).gone else s.thread v := by
  obtain ⟨stays1, threads1⟩ := calm.leaveEntries
  have calm1 := calm.of_stays stays1 (by rw [State.thread, threads1]; rfl)
  obtain ⟨stays2, threads2⟩ := calm1.forgetWaits
  have calm2 := calm1.of_stays stays2 (by rw [State.thread, threads2]; rfl)
  have same2 : ((s.leaveEntries u).forgetWaits u).threads = s.threads := threads2.trans threads1
  have set2 := calm2.leaveSet (by rw [State.thread, same2]; exact outside)
  obtain ⟨stays3, threads3⟩ := ((s.leaveEntries u).forgetWaits u).orphan_stays u
  rw [State.retireThread_eq, set2]
  have stays4 := ((stays1.trans stays2).trans stays3).trans (State.modThread_stays _ u Thread.gone)
  have threads4 : ∀ v, ((((s.leaveEntries u).forgetWaits u).orphan u).modThread u Thread.gone).thread v =
      if v = u then (s.thread u).gone else s.thread v := by
    intro v
    have before : ∀ v, (((s.leaveEntries u).forgetWaits u).orphan u).thread v = s.thread v := fun v => by
      rw [State.thread, threads3, same2]; rfl
    rw [State.thread_modThread, before, before]
  generalize (((s.leaveEntries u).forgetWaits u).orphan u).modThread u Thread.gone = t at stays4 threads4 ⊢
  have calm4 := calm.of_stays stays4 ((threads4 w).trans (if_neg other))
  obtain ⟨stays5, threads5⟩ := calm4.afterRetire
  rw [stays4.teamOf] at stays5 threads5
  exact ⟨stays4.trans stays5, fun v => by rw [State.thread, threads5]; exact threads4 v⟩

/-- R179: a thread whose group and team go on exits, and nothing else of the group or team ends with it (R114, R140). -/
theorem State.Calm.exitThread (calm : s.Calm u w) (other : w ≠ u) (alive : s.alive u = true) (outside : (s.thread u).inSet = none) :
    s.Stays (s.exitThread u) ∧ ∀ v, (s.exitThread u).thread v = if v = u then (s.thread u).gone else s.thread v := by
  obtain ⟨stays, threads⟩ := calm.retireThread other outside
  have after := calm.of_stays stays ((threads w).trans (if_neg other))
  have e : s.exitThread u = s.retireThread u := by
    unfold State.exitThread
    dsimp only
    generalize s.retireThread u = t at after
    have mem : w ∈ threadsOfGroup (gidOf u) := mem_threadsOfGroup.2 calm.mate
    have left : ((threadsOfGroup (gidOf u)).filter t.alive).all (fun v => (t.thread v).helper) = false :=
      List.all_eq_false.2 ⟨w, List.mem_filter.2 ⟨mem, after.alive⟩, by simp [after.helper]⟩
    have stands : (threadsOfGroup (gidOf u)).any t.alive = true := List.any_eq_true.2 ⟨w, mem, after.alive⟩
    rw [alive, left, Bool.and_false, if_neg Bool.false_ne_true, stands]
    rfl
  rw [e]
  exact ⟨stays, threads⟩

/-- Threads that exit one after another, each beside a mate that stays. -/
theorem State.foldl_exitThread (ts : List Nat) (s : State) (distinct : ts.Nodup)
    (leaves : ∀ u ∈ ts, (∃ w, w ∉ ts ∧ s.Calm u w) ∧ s.alive u = true ∧ (s.thread u).inSet = none) :
    let t := ts.foldl (fun s u => s.exitThread u) s
    s.Stays t ∧ ∀ v, t.thread v = if v ∈ ts then (s.thread v).gone else s.thread v := by
  induction ts generalizing s with
  | nil => exact ⟨State.Stays.refl s, fun _ => rfl⟩
  | cons u r ih =>
    obtain ⟨fresh, distinct⟩ := List.nodup_cons.1 distinct
    obtain ⟨⟨w, away, calm⟩, alive, outside⟩ := leaves u List.mem_cons_self
    obtain ⟨stays, threads⟩ := calm.exitThread (List.ne_of_not_mem_cons away) alive outside
    have kept : ∀ v, v ≠ u → (s.exitThread u).thread v = s.thread v := fun v hv => (threads v).trans (if_neg hv)
    obtain ⟨later, found⟩ := ih (s.exitThread u) distinct fun v hv => by
      obtain ⟨⟨x, away, calm⟩, alive, outside⟩ := leaves v (List.mem_cons_of_mem u hv)
      have ne : v ≠ u := fun e => fresh (e ▸ hv)
      refine ⟨⟨x, List.not_mem_of_not_mem_cons away, calm.of_stays stays (kept x (List.ne_of_not_mem_cons away))⟩, ?_, ?_⟩
      · rw [State.alive, kept v ne]; exact alive
      · rw [kept v ne]; exact outside
    refine ⟨stays.trans later, fun v => (found v).trans ?_⟩
    by_cases e : v = u
    · subst e
      simp [fresh, threads v]
    · simp [e, kept v e]
end

/-! ### EXIT and EXIT.H of a bundle (R140, R179) -/

section
variable {s s1 : State} {b : Bundle} {rest : List Bundle} {i : Instr}

theorem exitSup_user {ts : List Nat} (user : ∀ u ∈ ts, s.isSup u = false) : s.exitSup b ts = (s, ts) := by
  unfold State.exitSup
  rw [partition_nil ts _ user]
  dsimp only
  rw [trapAt_nil]

/-- What a bundle's threads leave behind, once they have moved on. -/
theorem State.LeavesAlone.calm (alone : s.LeavesAlone b) (bundled : s.Bundled b) (begun : s.Begun b i rest s1) {u : Nat} (hu : u ∈ b.threads) :
    ∃ w, w ∉ b.threads ∧ s1.Calm u w := by
  obtain ⟨stays, live, meets, team, copies, ⟨monitors, wft⟩, -⟩ := alone
  obtain ⟨w, mate, away, alive, helper, member, late⟩ := stays u hu
  obtain ⟨rdv, copyRdv, quads⟩ := meets u hu
  have same : s1.thread w = s.thread w := (begun.threads w).trans (if_neg away)
  have moved : s1 = { s with issue := rest, threads := s1.threads } := begun.frame
  refine ⟨w, away, gid_small bundled u hu, ?_, ?_, ?_, ?_, ?_, ?_, ?_, ?_, mate, ?_, ?_, ?_, ?_⟩
  · rw [begun.teamOf, begun.team]; exact (team u hu).1
  · rw [begun.teamOf, begun.team]; exact (team u hu).2
  · rw [begun.group, rdv]
  · rw [begun.group, copyRdv]
  · rw [begun.group, quads]
  · rw [moved]; exact copies
  · rw [moved]; exact monitors
  · rw [moved]; exact wft
  · rw [moved]; exact member
  · rw [State.alive, same]; exact alive
  · rw [same, helper]
  · rw [begun.teamOf, begun.team, same, show s1.clusters = s.clusters by rw [moved]]
    exact late

/-- R179: the threads of the bundle have exited; the others, registers and memory stand as they were. -/
theorem exit_exits (h : s.Executes b rest .exit) (alone : s.LeavesAlone b) (user : ∀ u ∈ b.threads, s.isSup u = false) :
    ∃ t, exec .exit s = .next t ∧ (∀ u ∈ b.threads, t.thread u = ((s.thread u).issued s b .exit).gone) ∧
      (∀ u, u ∉ b.threads → t.thread u = s.thread u) ∧
      t.mem = s.mem ∧ t.lines = s.lines ∧ t.issue = rest ∧ t.launches = s.launches ∧ t.ctxs = s.ctxs ∧ t.cores = s.cores := by
  have ends : ∀ s1, s.Begun b .exit rest s1 → let t := b.threads.foldl (fun s u => s.exitThread u) s1
      s1.Stays t ∧ ∀ v, t.thread v = if v ∈ b.threads then (s1.thread v).gone else s1.thread v := by
    intro s1 begun
    refine State.foldl_exitThread b.threads s1 (nodup_of_lanes h.lanes) fun u hu => ⟨alone.calm h.toBundled begun hu, ?_, ?_⟩
    · rw [State.alive, begun.threads, if_pos hu]; exact alone.live u hu
    · rw [begun.threads, if_pos hu]; exact h.fresh u hu
  obtain ⟨s1, begun, run⟩ := exec_of_begun (f := fun s1 => b.threads.foldl (fun s u => s.exitThread u) s1) rfl h fun s1 begun => by
    refine ⟨?_, by rw [(ends s1 begun).1.frame]⟩
    dsimp only
    rw [exitSup_user fun u hu => by rw [begun.frame]; exact user u hu]
  obtain ⟨stays, threads⟩ := ends s1 begun
  refine ⟨_, run, fun u hu => ?_, fun u hu => ?_, ?_, ?_, ?_, ?_, ?_, ?_⟩
  · exact (threads u).trans (by rw [if_pos hu, begun.threads, if_pos hu])
  · exact (threads u).trans (by rw [if_neg hu, begun.threads, if_neg hu])
  all_goals
    dsimp only
    rw [stays.frame, begun.frame]

/-- R140: threads that are no helpers become helpers, and their group goes on with its mate. -/
theorem exitH_helps (h : s.Executes b rest .exitH) (none_ : s.NoHelper b) (alone : s.LeavesAlone b)
    (user : ∀ u ∈ b.threads, s.isSup u = false) :
    ∃ t, exec .exitH s = .next t ∧ s.Steers b rest .exitH (fun _ x => { x with helper := true }) t := by
  refine steers_of_fold h _ (fun _ x => { x with helper := true }) fun s1 begun => ?_
  dsimp only
  rw [exitSup_user fun u hu => by rw [begun.frame]; exact user u hu]
  dsimp only
  rw [partition_nil b.threads _ fun u hu => by rw [begun.threads, if_pos hu]; exact none_ u hu]
  dsimp only [List.foldl_nil]
  refine foldl_eq_self fun u hu => if_neg ?_
  obtain ⟨w, away, calm⟩ := alone.calm h.toBundled begun hu
  have same := thread_foldl_mod b.threads (fun _ x => { x with helper := true }) w (nodup_of_lanes h.lanes) s1
  rw [if_neg away] at same
  rw [Bool.not_eq_true]
  refine List.all_eq_false.2 ⟨w, List.mem_filter.2 ⟨mem_threadsOfGroup.2 calm.mate, ?_⟩, ?_⟩
  · rw [State.alive, same]; exact calm.alive
  · rw [same]; simp [calm.helper]
end

end Sys2Proof.Machine

open Sys2Proof Sys2Proof.Machine

/-- Settles O16: the threads of the bundle exit one after another, each beside a mate that stays (`exit_exits`); with EXIT.H no group is
left to its helpers (`exitH_helps`). -/
theorem exit : Obligations.Exit := by
  unfold Obligations.Exit
  exact ⟨fun s b rest h alone user => exit_exits h alone user, fun s b rest h none_ alone user => exitH_helps h none_ alone user⟩
end

section
/-! PROOFS. The tree of a reduction over the lanes of a group (08 R157). -/
namespace Sys2Proof.Machine

/-- A node of the tree: it combines its two halves, or passes on the only one, with the conditions that it raises. -/
def treeNode (f : Nat → Nat → Nat × BitVec 5) : Option Nat → Option Nat → Option Nat × BitVec 5
  | some a, some b => (some (f a b).1, (f a b).2)
  | some a, none => (some a, 0)
  | none, o => (o, 0)

section
variable (f : Nat → Nat → Nat × BitVec 5)

theorem laneTree_succ (w : Nat → Option Nat) (n l : Nat) :
    laneTree f w (n + 1) l =
      ((treeNode f (laneTree f w n l).1 (laneTree f w n (l + 2 ^ n)).1).1,
        (laneTree f w n l).2 ||| (laneTree f w n (l + 2 ^ n)).2 |||
          (treeNode f (laneTree f w n l).1 (laneTree f w n (l + 2 ^ n)).1).2) := by
  rw [laneTree]
  rcases laneTree f w n l with ⟨_ | a, c⟩ <;> rcases laneTree f w n (l + 2 ^ n) with ⟨_ | b, d⟩ <;> simp [treeNode]

theorem treeLevel_cons (x y : Option Nat) (r : List (Option Nat)) :
    treeLevel f (x :: y :: r) = ((treeNode f x y).1 :: (treeLevel f r).1, (treeLevel f r).2 ||| (treeNode f x y).2) := by
  rw [treeLevel]
  cases x <;> cases y <;> simp [treeNode]

/-- The nodes above the leaves. -/
def treePair (w : Nat → Option Nat) (i : Nat) : Option Nat := (treeNode f (w (2 * i)) (w (2 * i + 1))).1
/-- The conditions that the `n` nodes from the `l`-th on above the leaves raise. -/
def treeConds (w : Nat → Option Nat) (l n : Nat) : BitVec 5 :=
  orAll ((List.range n).map (fun i => (treeNode f (w (2 * (l + i))) (w (2 * (l + i) + 1))).2))

theorem orAll_append (a b : List (BitVec 5)) : orAll (a ++ b) = orAll a ||| orAll b := by
  induction a with
  | nil => simp
  | cons x r ih => rw [List.cons_append, orAll_cons, orAll_cons, ih, BitVec.or_assoc]

theorem treeConds_add (w : Nat → Option Nat) (l n k : Nat) :
    treeConds f w l (n + k) = treeConds f w l n ||| treeConds f w (l + n) k := by
  simp only [treeConds, List.range_add, List.map_append, List.map_map, orAll_append, Function.comp_def, Nat.add_assoc]

/-- One level of the tree pairs neighbours. -/
theorem treeLevel_range (n : Nat) (w : Nat → Option Nat) :
    treeLevel f ((List.range (2 * n)).map w) = ((List.range n).map (treePair f w), treeConds f w 0 n) := by
  induction n generalizing w with
  | zero => rfl
  | succ n ih =>
    have leaves : (List.range (2 * (n + 1))).map w = w 0 :: w 1 :: (List.range (2 * n)).map (fun i => w (i + 2)) := by
      rw [Nat.mul_succ, List.range_succ_eq_map, List.range_succ_eq_map]
      simp [Function.comp_def]
    have shift : ∀ i, 2 * i + 2 = 2 * (i + 1) := fun _ => rfl
    have conds : treeConds f (fun i => w (i + 2)) 0 n = treeConds f w 1 n := by
      simp only [treeConds, Nat.zero_add, Nat.add_comm 1]
      rfl
    have first : treeConds f w 0 (1 + n) = (treeNode f (w 0) (w 1)).2 ||| treeConds f w 1 n := by
      rw [treeConds_add]
      simp [treeConds]
    rw [leaves, treeLevel_cons, ih, conds, Nat.add_comm n 1, first, BitVec.or_comm, Nat.add_comm 1 n, List.range_succ_eq_map,
      List.map_cons, List.map_map]
    rfl

/-- The tree over the nodes above the leaves is the tree but for its lowest level. -/
theorem laneTree_treePair (w : Nat → Option Nat) (n l : Nat) :
    laneTree f w (n + 1) (2 * l) = ((laneTree f (treePair f w) n l).1, treeConds f w l (2 ^ n) ||| (laneTree f (treePair f w) n l).2) := by
  induction n generalizing l with
  | zero =>
    rw [laneTree_succ]
    simp [laneTree, treePair, treeConds]
  | succ n ih =>
    have half : 2 * l + 2 ^ (n + 1) = 2 * (l + 2 ^ n) := by rw [Nat.pow_succ]; omega
    rw [laneTree_succ, half, ih, ih, laneTree_succ f (treePair f w) n l, Nat.pow_succ, Nat.mul_two, treeConds_add]
    refine Prod.ext rfl ?_
    dsimp only
    ac_rfl

/-- R157: level by level from the leaves, or from the root down: the same tree. -/
theorem treeRoot_eq (n : Nat) (w : Nat → Option Nat) :
    treeRoot f n ((List.range (2 ^ n)).map w) = ((laneTree f w n 0).1.getD 0, (laneTree f w n 0).2) := by
  induction n generalizing w with
  | zero => rfl
  | succ n ih =>
    have whole := laneTree_treePair f w n 0
    rw [Nat.mul_zero] at whole
    rw [treeRoot, Nat.pow_succ, Nat.mul_comm, treeLevel_range]
    dsimp only
    rw [ih, whole]
end

end Sys2Proof.Machine
end

section
/-! PROOFS. What the members of a complete meeting bring, and the results that they receive (08 R157; 09 R182–R187). -/
namespace Sys2Proof.Machine

/-! ### Types of operands (R52) -/

/-- A word that executes has a type that its form takes (R52, R58). -/
theorem State.Executes.hTy_mem {s : State} {b : Bundle} {rest : List Bundle} {i : Instr} (h : s.Executes b rest i) (d : Nat) :
    hTy b.hints d = d ∨ hTy b.hints d ∈ (formOf b.hints i).types := by
  obtain ⟨u, hu⟩ := List.exists_mem_of_ne_nil _ h.inhabited
  have word : xopIndex i = none := Option.eq_none_iff_forall_ne_some.2 h.word
  have formed : modOk b.hints (formOf b.hints i) = true := by
    have passes := h.passes u hu
    by_contra bad
    simp only [State.decodeFail, formAt_word _ _ _ _ word, word, State.formOk, hintsOk, Bool.not_eq_true] at passes bad
    simp [bad] at passes
  have typed : hType b.hints = 0 ∨ hType b.hints ∈ (formOf b.hints i).types := by
    simp only [modOk, Bool.and_eq_true, Bool.or_eq_true, Option.isNone_iff_eq_none] at formed
    obtain ⟨⟨-, absent | ⟨-, typed⟩⟩, -⟩ := formed
    · left
      rw [hType, Hints.modWord, absent]
      decide
    · simpa using typed
  unfold hTy
  split
  · exact .inl rfl
  · next nonzero => exact .inr (typed.resolve_left nonzero)

/-- The second operand is that of the form's second use. -/
theorem State.opnd_one {b : Bundle} {i : Instr} {u0 u : Use} {us : List Use} (second : (formOf b.hints i).uses = u0 :: u :: us) (s : State)
    (t : Nat) : s.opnd b i t 1 = s.operand b.hints t u := by
  unfold State.opnd State.operands usesOf
  rw [second]
  cases (formOf b.hints i).third <;> rfl

theorem State.opnd_one_lt {b : Bundle} {i : Instr} {u0 u : Use} {us : List Use} (second : (formOf b.hints i).uses = u0 :: u :: us)
    (narrow : u.width ≤ 64) (s : State) (t : Nat) : s.opnd b i t 1 < 2 ^ 64 := by
  rw [State.opnd_one second]
  exact (operand_lt s b.hints t u).trans_le (Nat.pow_le_pow_right (by decide) narrow)

theorem toNat_ofNat_of_lt {x : Nat} (h : x < 2 ^ 64) : (BitVec.ofNat 64 x).toNat = x := by
  rw [BitVec.toNat_ofNat, Nat.mod_eq_of_lt h]

theorem ofNat_beq {x y : Nat} (hx : x < 2 ^ 64) (hy : y < 2 ^ 64) : (BitVec.ofNat 64 x == BitVec.ofNat 64 y) = (x == y) := by
  rw [Bool.eq_iff_iff, beq_iff_eq, beq_iff_eq, ← BitVec.toNat_inj, toNat_ofNat_of_lt hx, toNat_ofNat_of_lt hy]

/-! ### Arrivals (R138, R182) -/

/-- What a member brings to a meeting: its mask, and the values that `mk` makes of its operands. -/
def State.arrival (s : State) (b : Bundle) (i : Instr) (mk : State → Bundle → Nat → List Nat → DWord × DWord) (u : Nat) : Arrival :=
  let l := s.operands b.hints u (formOf b.hints i)
  { lane := laneOf u, mask := BitVec.ofNat 32 (arg l 0), a := (mk s b u l).1, b := (mk s b u l).2, c := 0, k := [] }

/-- The threads of a bundle in rising order. -/
def Bundle.rising (b : Bundle) : List Nat := sortBy (fun x y => decide (x ≤ y)) b.threads
theorem Bundle.rising_perm (b : Bundle) : b.rising.Perm b.threads := perm_sortBy _ _

def State.arrivals (s : State) (b : Bundle) (i : Instr) (mk : State → Bundle → Nat → List Nat → DWord × DWord) : List Arrival :=
  b.rising.map (s.arrival b i mk)

theorem laneMask_perm {a b : List Nat} (h : a.Perm b) : laneMask a = laneMask b := by
  have comm : RightCommutative (fun (m : Word) (t : Nat) => m ||| (1#32 <<< laneOf t)) := ⟨fun m t u => by ac_rfl⟩
  exact h.foldl_eq (0 : Word)

section
variable {s : State} {b : Bundle} {i : Instr} {mk : State → Bundle → Nat → List Nat → DWord × DWord}

theorem State.any_arrivals (p : Arrival → Bool) : (s.arrivals b i mk).any p = b.threads.any (fun u => p (s.arrival b i mk u)) := by
  rw [Bool.eq_iff_iff, State.arrivals, List.any_map, List.any_eq_true, List.any_eq_true]
  simp only [b.rising_perm.mem_iff, Function.comp_apply]

theorem State.all_arrivals (p : Arrival → Bool) : (s.arrivals b i mk).all p = b.threads.all (fun u => p (s.arrival b i mk u)) := by
  rw [Bool.eq_iff_iff, State.arrivals, List.all_map, List.all_eq_true, List.all_eq_true]
  simp only [b.rising_perm.mem_iff, Function.comp_apply]

theorem State.maskOf_arrivals (p : Arrival → Bool) :
    maskOf (((s.arrivals b i mk).filter p).map (·.lane)) = laneMask (b.threads.filter (fun u => p (s.arrival b i mk u))) := by
  rw [State.arrivals, List.filter_map, List.map_map, maskOf, List.foldl_map]
  exact laneMask_perm (b.rising_perm.filter _)

variable {g : Nat} {m : Word} (gathered : s.Gathered b i g m)
include gathered

theorem State.Gathered.lane_iff {u : Nat} (hu : u ∈ b.threads) (x : Nat) (hx : threadKey g x ∈ b.threads ∨ x < 32) :
    laneOf u = x ↔ u = threadKey g x := by
  have own := gathered.group u hu
  have small : x < 32 := hx.elim (fun mem => by
    have other := gathered.group _ mem
    unfold gidOf threadKey at other
    omega) id
  unfold gidOf threadKey laneOf at *
  omega

theorem State.Gathered.mask_eq {u : Nat} (hu : u ∈ b.threads) : (s.arrival b i mk u).mask = m := gathered.mask u hu

theorem State.Gathered.any_lane (x : Nat) :
    (s.arrivals b i mk).any (fun a => a.lane == x) = decide (threadKey g x ∈ b.threads) := by
  rw [State.any_arrivals, Bool.eq_iff_iff, List.any_eq_true, decide_eq_true_iff]
  constructor
  · rintro ⟨u, hu, lane⟩
    have small : x < 32 := by rw [← beq_iff_eq.1 lane]; exact Nat.mod_lt _ (by decide)
    rwa [← (gathered.lane_iff hu x (.inr small)).1 (beq_iff_eq.1 lane)]
  · exact fun mem => ⟨_, mem, beq_iff_eq.2 ((gathered.lane_iff mem x (.inl mem)).2 rfl)⟩

/-- The arrival of a lane is that of its thread. -/
theorem State.Gathered.find_lane (x : Nat) : (s.arrivals b i mk).find? (fun a => a.lane == x) =
    if threadKey g x ∈ b.threads then some (s.arrival b i mk (threadKey g x)) else none := by
  have any := gathered.any_lane (mk := mk) x
  split
  · next mem =>
    cases e : (s.arrivals b i mk).find? (fun a => a.lane == x) with
    | none =>
      rw [decide_eq_true mem, List.any_eq_true] at any
      obtain ⟨a, ha, lane⟩ := any
      exact absurd lane (List.find?_eq_none.1 e a ha)
    | some a =>
      have lane : (a.lane == x) = true := List.find?_some (p := fun a : Arrival => a.lane == x) e
      obtain ⟨u, hu, rfl⟩ := List.mem_map.1 (List.mem_of_find?_eq_some e)
      rw [← (gathered.lane_iff (b.rising_perm.mem_iff.1 hu) x (.inl mem)).1 (beq_iff_eq.1 lane)]
  · next absent =>
    rw [decide_eq_false absent, List.any_eq_false] at any
    exact List.find?_eq_none.2 any
end

/-! ### Results of the members (R183–R187) -/

/-- Every member of a complete meeting of `i` receives `v`, with the conditions `c`; only the helpers among the threads are asked for. -/
def MeetingGives (i : Instr) (mk : State → Bundle → Nat → List Nat → DWord × DWord) (v : Bundle → State → Nat → Word → Nat → Nat)
    (c : Bundle → State → Nat → BitVec 5) : Prop :=
  ∀ s b rest g m, s.Executes b rest i → s.Gathered b i g m → ∀ x : State, (∀ u, (x.thread u).helper = (s.thread u).helper) →
    ∀ u ∈ b.threads, x.groupResult g i b.hints (s.arrivals b i mk) (s.arrival b i mk u) = (v b s g m u, c b s g)

/-- VOTE (R183). -/
theorem vote_gives (d a : BitVec 7) (inv : Bool) (p : BitVec 3) (n : Bool) :
    MeetingGives (.vote d a inv p n) (fun s _ t _ => (BitVec.ofNat 64 (b2n ((s.thread t).pred p.toNat != inv)), 0))
      (fun bd s _ _ _ =>
        let yes := fun u => (s.thread u).pred p.toNat != inv
        match hXmod bd.hints with
        | 0 => (laneMask (bd.threads.filter yes)).toNat
        | 1 => if bd.threads.any yes then 1 else 0
        | 2 => if bd.threads.all yes then 1 else 0
        | _ => if bd.threads.all yes || !bd.threads.any yes then 1 else 0) (fun _ _ _ => 0) := by
  intro s b rest g m h gathered x helpers u hu
  let mk : State → Bundle → Nat → List Nat → DWord × DWord := fun s _ t _ => (BitVec.ofNat 64 (b2n ((s.thread t).pred p.toNat != inv)), 0)
  let as := s.arrivals b (.vote d a inv p n) mk
  have votes : (fun u => (s.arrival b (.vote d a inv p n) mk u).a != 0) = fun u => (s.thread u).pred p.toNat != inv := by
    funext u
    change (BitVec.ofNat 64 (b2n ((s.thread u).pred p.toNat != inv)) != 0) = _
    cases (s.thread u).pred p.toNat != inv <;> rfl
  have mask := State.maskOf_arrivals (s := s) (b := b) (i := .vote d a inv p n) (mk := mk) (fun a => a.a != 0)
  have none_ : (as.filter (fun (a : Arrival) => a.a != 0)).isEmpty = !b.threads.any (fun u => (s.thread u).pred p.toNat != inv) := by
    rw [← votes, ← State.any_arrivals (s := s) (b := b) (i := .vote d a inv p n) (mk := mk) (fun a => a.a != 0), Bool.eq_iff_iff]
    simp [as]
  have all_ : ((as.filter (fun (a : Arrival) => a.a != 0)).length == as.length) = b.threads.all (fun u => (s.thread u).pred p.toNat != inv) := by
    rw [← votes, ← State.all_arrivals (s := s) (b := b) (i := .vote d a inv p n) (mk := mk) (fun a => a.a != 0), Bool.eq_iff_iff, beq_iff_eq,
      List.length_filter_eq_length_iff, List.all_eq_true]
  rw [votes] at mask
  change (match hXmod b.hints with
    | 0 => (maskOf ((as.filter (fun (a : Arrival) => a.a != 0)).map (fun (a : Arrival) => a.lane))).toNat
    | 1 => b2n (!(as.filter (fun (a : Arrival) => a.a != 0)).isEmpty)
    | 2 => b2n ((as.filter (fun (a : Arrival) => a.a != 0)).length == as.length)
    | _ => b2n ((as.filter (fun (a : Arrival) => a.a != 0)).isEmpty || (as.filter (fun (a : Arrival) => a.a != 0)).length == as.length), (0 : BitVec 5)) = _
  rw [mask, none_, all_, Bool.not_not, Bool.or_comm]
  rfl

/-- MATCH (R184). -/
theorem matchVal_gives (d a b : BitVec 7) (n : Bool) :
    MeetingGives (.matchVal d a b n) (fun _ _ _ l => (BitVec.ofNat 64 (arg l 1), 0))
      (fun bd s _ m u =>
        let same := fun w => s.opnd bd (.matchVal d a b n) w 1 == s.opnd bd (.matchVal d a b n) u 1
        if xmodBit bd.hints 0 then (if bd.threads.all same then m.toNat else 0) else (laneMask (bd.threads.filter same)).toNat)
      (fun _ _ _ => 0) := by
  intro s bd rest g m h gathered x helpers u hu
  have narrow : tyWidth (hTy bd.hints 11) ≤ 64 := by
    rcases h.hTy_mem 11 with e | e
    · rw [e]; decide
    · exact (by decide : ∀ t ∈ tBits, tyWidth t ≤ 64) _ e
  have value : ∀ w, s.opnd bd (.matchVal d a b n) w 1 < 2 ^ 64 := fun w => State.opnd_one_lt rfl narrow s w
  let mk : State → Bundle → Nat → List Nat → DWord × DWord := fun _ _ _ l => (BitVec.ofNat 64 (arg l 1), 0)
  let y := s.arrival bd (.matchVal d a b n) mk u
  have same : (fun w => (s.arrival bd (.matchVal d a b n) mk w).a == y.a) =
      fun w => s.opnd bd (.matchVal d a b n) w 1 == s.opnd bd (.matchVal d a b n) u 1 :=
    funext fun w => ofNat_beq (value w) (value u)
  have all_ := State.all_arrivals (s := s) (b := bd) (i := .matchVal d a b n) (mk := mk) (fun a => a.a == y.a)
  have mask := State.maskOf_arrivals (s := s) (b := bd) (i := .matchVal d a b n) (mk := mk) (fun a => a.a == y.a)
  rw [same] at all_ mask
  change (if xmodBit bd.hints 0 then (if (s.arrivals bd (.matchVal d a b n) mk).all (fun a => a.a == y.a) then y.mask.toNat else 0, (0 : BitVec 5))
    else ((maskOf (((s.arrivals bd (.matchVal d a b n) mk).filter (fun a => a.a == y.a)).map (·.lane))).toNat, 0)) = _
  rw [all_, mask, show y.mask = m from gathered.mask_eq hu]
  dsimp only
  split <;> rfl

/-- SHFL (R185). -/
theorem shfl_gives (d a b : BitVec 7) (n : Bool) :
    MeetingGives (.shfl d a b n) (fun _ _ _ l => (BitVec.ofNat 64 (arg l 1), BitVec.ofNat 64 (arg l 2)))
      (fun bd s g _ u =>
        let val := fun w => s.opnd bd (.shfl d a b n) w 1
        let sel := s.opnd bd (.shfl d a b n) u 2
        let l := laneOf u
        let from_ : Option Nat := match hXmod bd.hints with
          | 0 => some (sel % 32)
          | 1 => if sel ≤ l then some (l - sel) else none
          | 2 => if l + sel ≤ 31 then some (l + sel) else none
          | _ => some (l ^^^ (sel % 32))
        match from_ with
        | some x => if threadKey g x ∈ bd.threads then val (threadKey g x) else val u
        | none => val u) (fun _ _ _ => 0) := by
  intro s bd rest g m h gathered x helpers u hu
  have narrow : tyWidth (hTy bd.hints 11) ≤ 64 := by
    rcases h.hTy_mem 11 with e | e
    · rw [e]; decide
    · exact (by decide : ∀ t ∈ tBits, tyWidth t ≤ 64) _ e
  have value : ∀ w, (BitVec.ofNat 64 (s.opnd bd (.shfl d a b n) w 1)).toNat = s.opnd bd (.shfl d a b n) w 1 :=
    fun w => toNat_ofNat_of_lt (State.opnd_one_lt rfl narrow s w)
  have lane : (s.arrival bd (.shfl d a b n) (fun _ _ _ l => (BitVec.ofNat 64 (arg l 1), BitVec.ofNat 64 (arg l 2))) u).b.toNat =
      s.opnd bd (.shfl d a b n) u 2 :=
    toNat_ofNat_of_lt ((operand_lt s bd.hints u { useW 0 32 with code := hSrc3 bd.hints }).trans
      (show (2 : Nat) ^ 32 < 2 ^ 64 by decide))
  let mk : State → Bundle → Nat → List Nat → DWord × DWord := fun _ _ _ l => (BitVec.ofNat 64 (arg l 1), BitVec.ofNat 64 (arg l 2))
  have found := gathered.find_lane (mk := mk)
  have taken : ∀ src : Option Nat, (match src with
      | some l => (((s.arrivals bd (.shfl d a b n) mk).find? (fun (a : Arrival) => a.lane == l)).map (fun (a : Arrival) => a.a)).getD
          (s.arrival bd (.shfl d a b n) mk u).a
      | none => (s.arrival bd (.shfl d a b n) mk u).a).toNat =
      match src with
      | some x => if threadKey g x ∈ bd.threads then s.opnd bd (.shfl d a b n) (threadKey g x) 1 else s.opnd bd (.shfl d a b n) u 1
      | none => s.opnd bd (.shfl d a b n) u 1 := by
    intro src
    cases src with
    | none => exact value u
    | some l =>
      dsimp only
      rw [found]
      split
      · exact value _
      · exact value u
  refine Prod.ext ((taken _).trans ?_) rfl
  rw [lane]
  rfl

/-- ELECT (R187). -/
theorem elect_gives (d a : BitVec 7) (n : Bool) :
    MeetingGives (.elect d a n) (fun _ _ _ _ => (0, 0))
      (fun bd s g _ _ =>
        match (List.range 32).find? (fun l => decide (threadKey g l ∈ bd.threads) && !(s.thread (threadKey g l)).helper) with
        | some l => 2 ^ l
        | none => 0) (fun _ _ _ => 0) := by
  intro s b rest g m h gathered x helpers u hu
  let as := s.arrivals b (.elect d a n) (fun _ _ _ _ => (0, 0))
  have same : (fun l => as.any (fun a => a.lane == l) && !(x.thread (threadKey g l)).helper) =
      fun l => decide (threadKey g l ∈ b.threads) && !(s.thread (threadKey g l)).helper :=
    funext fun l => by rw [gathered.any_lane, helpers]
  change (match (List.range 32).find? (fun l => as.any (fun a => a.lane == l) && !(x.thread (threadKey g l)).helper) with
    | some l => (2 ^ l, (0 : BitVec 5))
    | none => (0, 0)) = _
  rw [same]
  dsimp only
  cases (List.range 32).find? (fun l => decide (threadKey g l ∈ b.threads) && !(s.thread (threadKey g l)).helper) <;> rfl

/-- The operands of GRED: its mask, and a value of its type. -/
theorem gred_uses (h : Hints) (d a b : BitVec 7) (n : Bool) :
    let ty := hTy h (if hXmod h ≤ 2 then 3 else 11)
    (formOf h (.gred d a b n)).uses = useW a 32 :: useW b (tyWidth ty) (tyImm ty) :: [] := by
  rfl

/-- GRED (R157, R186). -/
theorem gred_gives (d a b : BitVec 7) (n : Bool) :
    let val := fun (bd : Bundle) (s : State) (g l : Nat) =>
      if threadKey g l ∈ bd.threads then some (s.opnd bd (.gred d a b n) (threadKey g l) 1) else none
    let ty := fun (bd : Bundle) => hTy bd.hints (if hXmod bd.hints ≤ 2 then 3 else 11)
    let root := fun (bd : Bundle) (s : State) (g : Nat) =>
      laneTree (gredNode (hXmod bd.hints) (ty bd)) (val bd s g) 5 0
    MeetingGives (.gred d a b n) (fun _ _ _ l => (BitVec.ofNat 64 (arg l 1), 0)) (fun bd s g _ _ => (root bd s g).1.getD 0)
      (fun bd s g => (root bd s g).2 |||
        (if (hXmod bd.hints = 1 ∨ hXmod bd.hints = 2) ∧ 14 ≤ ty bd then
          sigNan (bd.threads.map (fun u => (fmtOf (ty bd)).read (s.opnd bd (.gred d a b n) u 1))) else 0)) := by
  intro val ty root s bd rest g m h gathered x helpers u hu
  have narrow : tyWidth (ty bd) ≤ 64 := by
    rcases h.hTy_mem (if hXmod bd.hints ≤ 2 then 3 else 11) with e | e
    · rw [show ty bd = _ from e]; split <;> decide
    · have listed : ∀ t ∈ (if hXmod bd.hints ≤ 2 then [3, 7, 4, 8, 15, 14] else tBits), tyWidth t ≤ 64 := by
        split <;> decide
      exact listed _ e
  have value : ∀ w, (BitVec.ofNat 64 (s.opnd bd (.gred d a b n) w 1)).toNat = s.opnd bd (.gred d a b n) w 1 :=
    fun w => toNat_ofNat_of_lt (State.opnd_one_lt (gred_uses bd.hints d a b n) narrow s w)
  let mk : State → Bundle → Nat → List Nat → DWord × DWord := fun _ _ _ l => (BitVec.ofNat 64 (arg l 1), 0)
  have leaves : laneVals (s.arrivals bd (.gred d a b n) mk) = (List.range (2 ^ 5)).map (val bd s g) := by
    refine List.map_congr_left fun l _ => ?_
    rw [gathered.find_lane]
    by_cases mem : threadKey g l ∈ bd.threads
    · rw [if_pos mem, Option.map_some, show val bd s g l = some _ from if_pos mem]
      exact congrArg some (value _)
    · rw [if_neg mem, show val bd s g l = none from if_neg mem]
      rfl
  have signals : sigNan ((s.arrivals bd (.gred d a b n) mk).map (fun a => (fmtOf (ty bd)).read a.a.toNat)) =
      sigNan (bd.threads.map (fun u => (fmtOf (ty bd)).read (s.opnd bd (.gred d a b n) u 1))) := by
    rw [sigNan, sigNan, List.any_map, List.any_map, State.any_arrivals]
    exact congrArg (fun f => cIf (bd.threads.any f) cIV) (funext fun w => congrArg (fun v => ((fmtOf (ty bd)).read v).isSnan) (value w))
  change ((treeRoot (gredNode (hXmod bd.hints) (ty bd)) 5 (laneVals (s.arrivals bd (.gred d a b n) mk))).1,
    (treeRoot (gredNode (hXmod bd.hints) (ty bd)) 5 (laneVals (s.arrivals bd (.gred d a b n) mk))).2 |||
      if (hXmod bd.hints == 1 || hXmod bd.hints == 2) && decide (14 ≤ ty bd) then
        sigNan ((s.arrivals bd (.gred d a b n) mk).map (fun a => (fmtOf (ty bd)).read a.a.toNat)) else 0) = _
  rw [leaves, treeRoot_eq, signals]
  simp only [Bool.and_eq_true, Bool.or_eq_true, beq_iff_eq, decide_eq_true_eq]
  rfl

end Sys2Proof.Machine
end

section
/-! PROOFS. Group-wide instructions: a complete meeting ends, and its members go on with their results (07 R138; 09 R182). -/
namespace Sys2Proof.Machine

/-! ### The members' results, one after the other -/

/-- A member of a complete meeting writes its result and goes on at `pc` (R182). -/
def State.give (d : Option Use) (v : Nat → Nat) (pc : VA) (s : State) (t : Nat) : State :=
  ((s.wftDrop t).putDst t d (v t)).modThread t (fun x => { x with pc := pc, runPc := pc, waitFor := .nothing })

/-- What the results of the members of a meeting leave. -/
structure State.Gave (s : State) (ts : List Nat) (d : Option Use) (v : Nat → Nat) (pc : VA) (s' : State) : Prop where
  frame : s' = { s with threads := s'.threads, lines := s'.lines, wft := s'.wft }
  own : ∀ u ∈ ts, s'.thread u = { (s.thread u).latched d (v u) with pc := pc, runPc := pc, waitFor := .nothing }
  others : ∀ u, u ∉ ts → s'.thread u = s.thread u
  result : ∀ t ∈ ts, ∀ u, d = some u → u.code.toNat < 120 → s'.readRegs t u.code.toNat u.regs = wordsOf u.regs (v t % 2 ^ u.width)
  registers : ∀ u n, (∀ x ∈ ts, ∀ m ∈ dstRegs d, ¬ s.Same u n x m) → s'.readReg u n = s.readReg u n

theorem frame_trans_wft {s a b : State} (h1 : a = { s with threads := a.threads, lines := a.lines, wft := a.wft })
    (h2 : b = { a with threads := b.threads, lines := b.lines, wft := b.wft }) :
    b = { s with threads := b.threads, lines := b.lines, wft := b.wft } := by
  rw [h1] at h2
  exact h2

/-- Room for the destinations of some threads is room for the first one's. -/
theorem State.RoomFor.avail {s : State} {t : Nat} {r : List Nat} {d : Option Use} (room : s.RoomFor (coreOf t) (t :: r) (dstRegs d)) :
    ∀ u, d = some u → u.code.toNat < 120 → s.Avail t u.code.toNat u.regs := by
  intro u hu reg
  have regs : dstRegs d = (List.range u.regs).map (u.code.toNat + ·) := by simp [hu, dstRegs, regsWritten, reg]
  rcases room with present | space
  · refine .inl fun i hi => present t List.mem_cons_self _ ?_
    rw [regs]
    exact List.mem_map_of_mem (List.mem_range.2 hi)
  · right
    rw [regs, List.length_cons, List.length_map, List.length_range, Nat.succ_mul] at space
    omega

/-- Once a thread has written its destination there is room for those of the others. -/
theorem State.Put1.roomFor {s s' : State} {t : Nat} {r : List Nat} {d : Option Use} {v : Nat} (p : s.Put1 t d v s')
    (room : s.RoomFor (coreOf t) (t :: r) (dstRegs d)) : s'.RoomFor (coreOf t) r (dstRegs d) := by
  refine room.imp (fun present x hx n hn => p.present x n (present x (List.mem_cons_of_mem _ hx) n hn)) (fun space => ?_)
  rw [List.length_cons, Nat.succ_mul] at space
  have := p.count
  omega

theorem foldl_give_gave (core : Nat) (d : Option Use) (v : Nat → Nat) (pc : VA) (hf : fits d) :
    ∀ (ts : List Nat) (s : State), (ts.map laneOf).Nodup → (∀ t ∈ ts, coreOf t = core) → (∀ t ∈ ts, gidOf t < 2 ^ 40) →
      s.RoomFor core ts (dstRegs d) → s.Gave ts d v pc (ts.foldl (State.give d v pc) s) := by
  intro ts
  induction ts with
  | nil => exact fun s _ _ _ _ => ⟨rfl, by simp, fun _ _ => rfl, by simp, fun _ _ _ => rfl⟩
  | cons t r ih =>
    intro s distinct cores small room
    obtain ⟨lane, distinct⟩ := List.nodup_cons.1 distinct
    have other : ∀ x ∈ r, laneOf x ≠ laneOf t := fun x hx e => lane (e ▸ List.mem_map_of_mem hx)
    have absent : t ∉ r := fun h => other t h rfl
    obtain rfl := cores t List.mem_cons_self
    have p : (s.wftDrop t).Put1 t d (v t) _ := putDst_put _ t d (v t) (small t List.mem_cons_self) hf (State.RoomFor.avail (r := r) room)
    have w := ih (s.give d v pc t) distinct (fun x hx => cores x (List.mem_cons_of_mem t hx))
      (fun x hx => small x (List.mem_cons_of_mem t hx)) (p.roomFor room)
    have frame : s.give d v pc t =
        { s with threads := (s.give d v pc t).threads, lines := (s.give d v pc t).lines, wft := (s.give d v pc t).wft } := by
      rw [State.give, p.frame]
      rfl
    have same : ∀ u n x m, (s.give d v pc t).Same u n x m ↔ s.Same u n x m := by
      intro u n x m
      rw [frame]
      rfl
    have thread : ∀ u, (s.give d v pc t).thread u =
        if u = t then { (s.thread t).latched d (v t) with pc := pc, runPc := pc, waitFor := .nothing } else s.thread u := by
      intro u
      rw [State.give, State.thread_modThread]
      split
      · rw [p.own]
        rfl
      · next ne => exact p.others u ne
    have result : ∀ u, d = some u → u.code.toNat < 120 →
        (s.give d v pc t).readRegs t u.code.toNat u.regs = wordsOf u.regs (v t % 2 ^ u.width) := by
      intro u hu reg
      rw [← p.result u hu reg, readRegs_eq, readRegs_eq]
      rfl
    refine ⟨frame_trans_wft frame w.frame, fun u hu => ?_, fun u hu => ?_, fun x hx u hu reg => ?_, fun u n apart => ?_⟩
    · rcases List.mem_cons.1 hu with rfl | later
      · exact (w.others u absent).trans ((thread u).trans (if_pos rfl))
      · rw [List.foldl_cons, w.own u later, thread, if_neg (ne_of_mem_of_not_mem later absent)]
    · obtain ⟨ne, later⟩ := not_or.1 (mt List.mem_cons.2 hu)
      exact (w.others u later).trans ((thread u).trans (if_neg ne))
    · rcases List.mem_cons.1 hx with rfl | later
      · rw [← result u hu reg, readRegs_eq, readRegs_eq]
        refine List.map_congr_left fun i _ => w.registers x _ fun y hy m _ shared => ?_
        exact other y hy ((same _ _ _ _).1 shared).2.2.2.symm
      · exact w.result x later u hu reg
    · exact (w.registers u n fun x hx m hm shared => apart x (List.mem_cons_of_mem t hx) m hm ((same _ _ _ _).1 shared)).trans
        (p.registers u n (apart t List.mem_cons_self))

/-! ### Groups that read the same -/

section
variable {s : State} {G : Tab Group} (reads : ∀ k, G.at' Group.reset k = s.group k)
include reads

theorem State.teamOf_groups (t : Nat) : ({ s with groups := G } : State).teamOf t = s.teamOf t := congrArg Group.team (reads _)

theorem State.launchOf_groups (t : Nat) : ({ s with groups := G } : State).launchOf t = s.launchOf t := by
  rw [State.launchOf, State.teamOf_groups reads]
  rfl

theorem State.ctxOf_groups (t : Nat) : ({ s with groups := G } : State).ctxOf t = s.ctxOf t := by
  rw [State.ctxOf, State.teamOf_groups reads]
  rfl

theorem State.ctxOfGroup_groups (g : Nat) : ({ s with groups := G } : State).ctxOfGroup g = s.ctxOfGroup g :=
  congrArg (fun x : Group => (s.team x.team).bind.ctx) (reads g)

theorem State.lineAddr_groups (g n : Nat) : ({ s with groups := G } : State).lineAddr g n = s.lineAddr g n :=
  congrArg (fun x : Group => (s.team x.team).bind.imageBase.toNat + 0x400 + groupStride (s.team x.team).bind.regs * x.index + 0x800 + 128 * n)
    (reads g)

theorem State.cell_groups (t n : Nat) : ({ s with groups := G } : State).cell t n = s.cell t n := by
  rw [State.cell, State.ctxOfGroup_groups reads, State.lineAddr_groups reads]
  rfl

theorem State.lineOf_groups (g n : Nat) : ({ s with groups := G } : State).lineOf g n = s.lineOf g n := by
  rw [State.lineOf, State.ctxOfGroup_groups reads, State.lineAddr_groups reads]
  rfl

theorem State.readReg_groups (t n : Nat) : ({ s with groups := G } : State).readReg t n = s.readReg t n := by
  have group : ∀ k, ({ s with groups := G } : State).group k = s.group k := reads
  simp only [State.readReg, State.lineOf_groups reads, State.ctxOfGroup_groups reads, State.lineAddr_groups reads, group]
  rfl
end

/-- Conditions that threads of one launch or context all raise are those that one of them raises. -/
theorem orAll_filter_const (p : Nat → Bool) (c : BitVec 5) (t : Nat) (l : List Nat) (ht : t ∈ l) (same : ∀ u ∈ l, p u = p t) :
    orAll ((l.filter p).map (fun _ => c)) = whenC (p t) c := by
  have step : ∀ r : List Nat, (∀ u ∈ r, p u = p t) → whenC (p t) c ||| orAll ((r.filter p).map (fun _ => c)) = whenC (p t) c := by
    intro r same
    induction r with
    | nil => simp
    | cons x r ih =>
      rw [orAll_filter_cons, same x List.mem_cons_self, ← BitVec.or_assoc, BitVec.or_self, ih fun u hu => same u (List.mem_cons_of_mem x hu)]
  cases l with
  | nil => exact absurd ht List.not_mem_nil
  | cons x r =>
    rw [orAll_filter_cons, same x List.mem_cons_self, step r fun u hu => same u (List.mem_cons_of_mem x hu)]

end Sys2Proof.Machine
end

section
/-! PROOFS. Group-wide instructions: a meeting that is complete at its issue, from the arrival of its members to its end (07 R138). -/
namespace Sys2Proof.Machine

section
variable {s s1 : State} {b : Bundle} {rest : List Bundle} {i : Instr} {g : Nat} {m : Word}
  {mk : State → Bundle → Nat → List Nat → DWord × DWord}

/-- The meeting that the bundle's threads make. -/
def State.meeting (s : State) (b : Bundle) (i : Instr) (m : Word) (mk : State → Bundle → Nat → List Nat → DWord × DWord) : Rdv :=
  { pc := b.pc, instr := i, hints := b.hints, mask := m, arrivals := s.arrivals b i mk, openedAt := s.wall }

/-- The bundle's threads stand at the meeting `r`. -/
def State.met (s : State) (b : Bundle) (g : Nat) (r : Rdv) : State :=
  (b.rising.foldl (fun s u => s.suspendAt b u .rendezvous) s).modGroup g (fun x => { x with rdv := some r })
/-- The meeting is over, and its members have yet to receive their results. -/
def State.parted (s : State) (b : Bundle) (g : Nat) (r : Rdv) : State := (s.met b g r).modGroup g (fun x => { x with rdv := none })

theorem Bundle.rising_nodup (h : s.Bundled b) : b.rising.Nodup := b.rising_perm.nodup_iff.2 (nodup_of_lanes h.lanes)

theorem Bundle.rising_cons (h : b.threads ≠ []) : ∃ u r, b.rising = u :: r :=
  List.exists_cons_of_ne_nil fun nil => h (List.nil_perm.1 (nil ▸ b.rising_perm))

theorem State.thread_record (x : State) (t : Nat) (c : BitVec 5) (u : Nat) : (x.record t c).thread u = x.thread u := by
  rw [State.thread, (recorded_eq (record_recorded x t c)).1]
  rfl

theorem State.met_eq (s : State) (b : Bundle) (g : Nat) (r : Rdv) :
    s.met b g r = { s with threads := (s.met b g r).threads, groups := (s.met b g r).groups } := by
  unfold State.met
  simp only [suspendAt_eq]
  rw [foldl_mod_eq]
  rfl

theorem State.thread_met (h : s.Bundled b) (x : State) (r : Rdv) (u : Nat) : (x.met b g r).thread u =
    if u ∈ b.threads then { x.thread u with pc := b.runPc, runPc := b.runPc, waitFor := .rendezvous } else x.thread u := by
  unfold State.met
  simp only [suspendAt_eq]
  refine (thread_foldl_mod b.rising (fun _ y => { y with pc := b.runPc, runPc := b.runPc, waitFor := .rendezvous }) u (Bundle.rising_nodup h) x).trans ?_
  simp only [b.rising_perm.mem_iff]

theorem State.group_met (x : State) (b : Bundle) (r : Rdv) (k : Nat) :
    (x.met b g r).group k = if k = g then { x.group g with rdv := some r } else x.group k := by
  unfold State.met
  simp only [suspendAt_eq]
  rw [foldl_mod_eq]
  exact State.group_modGroup _ g k _

theorem State.parted_eq (s : State) (b : Bundle) (g : Nat) (r : Rdv) :
    s.parted b g r = { s with threads := (s.met b g r).threads, groups := (s.parted b g r).groups } := by
  have met := s.met_eq b g r
  unfold State.parted State.modGroup State.setGroup
  rw [met]

/-- A group with no meeting under way is as it was once a meeting has come and gone. -/
theorem State.group_parted (quiet : (s.group g).rdv = none) (b : Bundle) (r : Rdv) (k : Nat) : (s.parted b g r).group k = s.group k := by
  rw [State.parted, State.group_modGroup]
  split
  · next e =>
    rw [State.group_met, if_pos rfl, e, ← quiet]
  · next ne => rw [State.group_met, if_neg ne]

section
variable (gathered : s.Gathered b i g m)
include gathered

/-- Going through the arrivals is going through the threads. -/
theorem State.Gathered.foldl_arrivals (f : State → Nat → State) (x : State) :
    (s.arrivals b i mk).foldl (fun x a => f x (threadKey g a.lane)) x = b.rising.foldl f x := by
  rw [State.arrivals, List.foldl_map]
  refine List.foldl_ext _ _ _ fun y u hu => ?_
  rw [← gathered.group u (b.rising_perm.mem_iff.1 hu)]
  exact congrArg (f y) (threadKey_gidOf_laneOf u)

theorem State.Gathered.mem_lanesOf {l : Nat} : l ∈ lanesOf m ↔ l < 32 ∧ threadKey g l ∈ b.threads := by
  rw [lanesOf, List.mem_filter, List.mem_range]
  exact and_congr_right (gathered.members l)

/-- The bundle's threads are all that the meeting asks for: it is complete (R138). -/
theorem State.Gathered.joinRdv (h : s.Bundled b) (begun : s.Begun b i rest s1) :
    s1.joinRdv b g (s.meeting b i m mk) (s.arrivals b i mk) [] = (s1.met b g (s.meeting b i m mk)).completeRdv g (s.meeting b i m mk) := by
  have stand : (s.arrivals b i mk).foldl (fun x a => x.suspendAt b (threadKey g a.lane) .rendezvous) s1 =
      b.rising.foldl (fun x u => x.suspendAt b u .rendezvous) s1 := gathered.foldl_arrivals (fun x u => x.suspendAt b u .rendezvous) s1
  have agree : (s.arrivals b i mk).any (fun a => a.mask != m) = false := by
    rw [State.any_arrivals, List.any_eq_false]
    intro u hu
    simp [gathered.mask_eq hu]
  have alive : (lanesOf m).any (fun l => !(s1.met b g (s.meeting b i m mk)).alive (threadKey g l)) = false := by
    rw [List.any_eq_false]
    intro l hl
    have mem := (gathered.mem_lanesOf.1 hl).2
    have live := gathered.live _ mem
    unfold State.alive at live ⊢
    rw [State.thread_met h, if_pos mem, begun.threads, if_pos mem]
    change ¬(!((s.thread (threadKey g l)).tstate != .exited)) = true
    rw [live]
    decide
  have complete : (lanesOf m).all (fun l => (s.arrivals b i mk).any (fun a => a.lane == l)) = true := by
    rw [List.all_eq_true]
    intro l hl
    rw [gathered.any_lane, decide_eq_true_iff]
    exact (gathered.mem_lanesOf.1 hl).2
  unfold State.joinRdv
  simp only [List.filter_nil, List.isEmpty_nil, Bool.not_true, Bool.or_false]
  rw [stand]
  change (if (s.arrivals b i mk).any (fun a => a.mask != m) ||
      (lanesOf m).any (fun l => !(s1.met b g (s.meeting b i m mk)).alive (threadKey g l)) then _
    else if (lanesOf m).all (fun l => (s.arrivals b i mk).any (fun a => a.lane == l)) then _ else _) = _
  rw [agree, alive, complete]
  rfl

/-- A complete meeting gives its members their results and records their conditions. -/
theorem State.Gathered.completeRdv {x : State} {v : Nat → Nat} {c : BitVec 5}
    (gives : ∀ u ∈ b.threads, x.groupResult g i b.hints (s.arrivals b i mk) (s.arrival b i mk u) = (v u, c)) {t0 : Nat} {r0 : List Nat}
    (first : b.rising = t0 :: r0) :
    x.completeRdv g (s.meeting b i m mk) = ((b.rising.foldl (State.give (formOf b.hints i).dst v (b.pc + 4))
      (x.modGroup g (fun y => { y with rdv := none }))).record t0 c).freeRdvWaiters g := by
  have results : (s.arrivals b i mk).map (fun a => (a, x.groupResult g i b.hints (s.arrivals b i mk) a)) =
      b.rising.map (fun u => (s.arrival b i mk u, (v u, c))) := by
    conv_lhs => rw [State.arrivals, List.map_map]
    exact List.map_congr_left fun u hu => congrArg (Prod.mk _) (gives u (b.rising_perm.mem_iff.1 hu))
  have own : ∀ u ∈ b.rising, threadKey g (s.arrival b i mk u).lane = u := fun u hu => by
    rw [← gathered.group u (b.rising_perm.mem_iff.1 hu)]
    exact threadKey_gidOf_laneOf u
  unfold State.completeRdv
  dsimp only [State.meeting]
  rw [results, List.foldl_map, first, List.map_cons]
  dsimp only
  rw [← first, own t0 (first ▸ List.mem_cons_self)]
  congr 2
  refine List.foldl_ext _ _ _ fun y u hu => ?_
  rw [own u hu]
  rfl

end

/-- Nobody waits for the end of a meeting that nobody else knew of. -/
theorem State.freeRdvWaiters_of_none {x : State} (free : ∀ l, l < 32 → (x.thread (threadKey g l)).waitFor ≠ .rendezvous) :
    x.freeRdvWaiters g = x := by
  refine foldl_eq_self fun t ht => if_neg ?_
  obtain ⟨l, hl, rfl⟩ := List.mem_map.1 ht
  exact fun waits => free l (List.mem_range.1 hl) (beq_iff_eq.1 waits)

/-- Threads that find neither a copy nor a quad of their group under way break nothing. -/
theorem State.breakOthers_of_quiet {x : State} (copy : (x.group g).copyRdv = none) (quads : (x.group g).quads = []) (b : Bundle)
    (ts : List Nat) : x.breakOthers b g ts = (x, ts) := by
  unfold State.breakOthers
  rw [copy, quads]
  simp

/-- What the members bring when they arrive is what their registers hold at issue. -/
theorem State.Begun.arrivals (begun : s.Begun b i rest s1) (near : ∀ x, s.Near x → ∀ t l, mk x b t l = mk s b t l) :
    s1.arrivals b i mk = s.arrivals b i mk := by
  refine List.map_congr_left fun u _ => ?_
  unfold State.arrival
  dsimp only
  rw [begun.operands, near s1 begun.near]

theorem State.Begun.thread_parted (begun : s.Begun b i rest s1) (h : s.Executes b rest i) (g : Nat) (r : Rdv) (u : Nat) :
    (s1.parted b g r).thread u = if u ∈ b.threads then
      { (s.thread u).issued s b i with pc := b.runPc, runPc := b.runPc, waitFor := .rendezvous } else s.thread u := by
  refine (State.thread_met (g := g) h.toBundled s1 r u).trans ?_
  rw [begun.threads]
  split <;> rfl

section
variable (gathered : s.Gathered b i g m)
include gathered

theorem State.Gathered.groups (h : b.threads ≠ []) : dedupBy id (b.threads.map gidOf) = [g] := by
  refine dedupBy_const id g _ (fun y hy => ?_) (by simpa using h)
  obtain ⟨u, hu, rfl⟩ := List.mem_map.1 hy
  exact gathered.group u hu

theorem State.Gathered.all_of_group : b.threads.filter (fun t => gidOf t == g) = b.threads :=
  List.filter_eq_self.2 fun u hu => beq_iff_eq.2 (gathered.group u hu)

/-- Every member's mask names it: they arrive together where no other meeting is open (R138). -/
theorem State.Gathered.arriveAll (begun : s.Begun b i rest s1) (h : b.threads ≠ []) :
    s1.arriveAll b i g (s.arrivals b i mk) [] = s1.joinRdv b g (s.meeting b i m mk) (s.arrivals b i mk) [] := by
  have named : (s.arrivals b i mk).partition (fun a => a.mask.getLsbD a.lane) = (s.arrivals b i mk, []) := by
    rw [List.partition_eq_filter_filter]
    have each : ∀ a ∈ s.arrivals b i mk, a.mask.getLsbD a.lane = true := by
      intro a ha
      obtain ⟨u, hu, rfl⟩ := List.mem_map.1 ha
      have mem := b.rising_perm.mem_iff.1 hu
      rw [gathered.mask_eq mem]
      refine (gathered.members _ (Nat.mod_lt _ (by decide))).2 ?_
      rw [← gathered.group u mem]
      exact (threadKey_gidOf_laneOf u).symm ▸ mem
    refine Prod.ext (List.filter_eq_self.2 each) (List.filter_eq_nil_iff.2 fun a ha => ?_)
    simp [each a ha]
  have closed : (s1.group g).rdv = none := by
    rw [begun.group]
    exact gathered.quiet.1
  unfold State.arriveAll
  rw [named]
  dsimp only
  rw [List.map_nil, trapAt_nil]
  unfold State.arriveGroup
  rw [closed]
  obtain ⟨u, r, first⟩ := Bundle.rising_cons h
  have lead : s.arrivals b i mk = s.arrival b i mk u :: r.map (s.arrival b i mk) := by rw [State.arrivals, first, List.map_cons]
  have mask := gathered.mask_eq (mk := mk) (b.rising_perm.mem_iff.1 (first ▸ List.mem_cons_self : u ∈ b.rising))
  rw [State.meeting, lead, ← mask, ← begun.wall]

/-- What the results leave of the state in which the meeting is over. -/
theorem State.Gathered.gave (h : s.Executes b rest i) (room : s.Room b (formOf b.hints i)) (begun : s.Begun b i rest s1) (v : Nat → Nat)
    (r : Rdv) : (s1.parted b g r).Gave b.rising (formOf b.hints i).dst v (b.pc + 4)
      (b.rising.foldl (State.give (formOf b.hints i).dst v (b.pc + 4)) (s1.parted b g r)) := by
  have order := b.rising_perm
  have reads := State.group_parted (g := g) (s := s1) (by rw [begun.group]; exact gathered.quiet.1) b r
  refine foldl_give_gave b.core _ v _ (fits_formOf _ _) _ _ ((order.map laneOf).nodup_iff.2 h.lanes)
    (fun t ht => h.core t (order.mem_iff.1 ht)) (fun t ht => gid_small h.toBundled t (order.mem_iff.1 ht)) ?_
  rw [State.parted_eq]
  refine Or.imp (fun present t ht n hn => ?_) (fun space => ?_) room
  · refine (congrArg Option.isSome ((State.lineOf_groups reads (gidOf t) n).trans ?_)).trans (present t (order.mem_iff.1 ht) n hn)
    rw [begun.frame]
    rfl
  · rw [order.length_eq, begun.frame]
    exact space

/-- What the arrival of all its members at once makes of a meeting. -/
theorem groupOut_begun (room : s.Room b (formOf b.hints i)) (run : exec i s = s.groupOut i mk) (h : s.Executes b rest i)
    (near : ∀ x, s.Near x → ∀ t l, mk x b t l = mk s b t l) {v : Nat → Nat} {c : BitVec 5}
    (gives : ∀ x : State, (∀ u, (x.thread u).helper = (s.thread u).helper) → ∀ u ∈ b.threads,
      x.groupResult g i b.hints (s.arrivals b i mk) (s.arrival b i mk u) = (v u, c)) {t0 : Nat} {r0 : List Nat}
    (first : b.rising = t0 :: r0) :
    ∃ s1, s.Begun b i rest s1 ∧ exec i s = .next { (b.rising.foldl (State.give (formOf b.hints i).dst v (b.pc + 4))
      (s1.parted b g (s.meeting b i m mk))).record t0 c with held := s.heldAfter b i } := by
  refine exec_of_begun (f := fun s1 => (b.rising.foldl (State.give (formOf b.hints i).dst v (b.pc + 4))
      (s1.parted b g (s.meeting b i m mk))).record t0 c) run h fun s1 begun => ⟨?_, ?_⟩
  · have nonempty := h.inhabited
    have pass : b.threads.filter (fun t => gidOf t == g && !b.threads.contains t) = [] :=
      List.filter_eq_nil_iff.2 fun u hu => by simp [hu]
    obtain ⟨closed, copy, quads⟩ := gathered.quiet
    rw [← begun.group] at closed copy quads
    have unbroken := State.breakOthers_of_quiet copy quads b b.threads
    have arrived : (sortBy (fun x y => decide (x ≤ y)) b.threads).map (s1.arrival b i mk) = s.arrivals b i mk :=
      begun.arrivals near
    rw [gathered.groups nonempty, List.foldl_cons, List.foldl_nil, gathered.all_of_group, unbroken]
    dsimp only
    rw [pass, closed]
    change s1.arriveAll b i g ((sortBy (fun x y => decide (x ≤ y)) b.threads).map (s1.arrival b i mk)) [] = _
    have helpers : ∀ u, ((s1.met b g (s.meeting b i m mk)).thread u).helper = (s.thread u).helper := by
      intro u
      rw [State.thread_met h.toBundled, begun.threads]
      split <;> rfl
    rw [arrived, gathered.arriveAll begun nonempty, gathered.joinRdv h.toBundled begun, gathered.completeRdv (gives _ helpers) first]
    refine State.freeRdvWaiters_of_none fun l small => ?_
    have gave := gathered.gave h room begun v (s.meeting b i m mk)
    rw [State.thread_record]
    by_cases mem : threadKey g l ∈ b.threads
    · refine ne_of_eq_of_ne (congrArg Thread.waitFor (gave.own _ (b.rising_perm.mem_iff.2 mem))) ?_
      exact WaitFor.noConfusion
    · refine ne_of_eq_of_ne (congrArg Thread.waitFor ((gave.others _ (mt b.rising_perm.mem_iff.1 mem)).trans ?_)) (gathered.free l small)
      rw [begun.thread_parted h, if_neg mem]
  · have gave := gathered.gave h room begun v (s.meeting b i m mk)
    rw [(record_recorded _ t0 c).frame, gave.frame, State.parted_eq]
end

end
end Sys2Proof.Machine
end

section
/-! PROOFS. Group-wide instructions: what a complete meeting leaves (07 R138; 09 R182–R187). -/
namespace Sys2Proof.Machine

section
variable {s : State} {t u : Nat} (group : gidOf u = gidOf t)
include group
theorem State.launchOf_of_group : s.launchOf u = s.launchOf t := by rw [State.launchOf, State.launchOf, State.teamOf, State.teamOf, group]
theorem State.ctxOf_of_group : s.ctxOf u = s.ctxOf t := by rw [State.ctxOf, State.ctxOf, State.teamOf, State.teamOf, group]
end

section
variable {s s1 : State} {b : Bundle} {rest : List Bundle} {i : Instr} {g : Nat} {m : Word}

/-- But for its threads and its group, the state is as at the issue. -/
theorem State.Begun.parted_eq (begun : s.Begun b i rest s1) (g : Nat) (r : Rdv) : s1.parted b g r =
    { s with issue := rest, threads := (s1.parted b g r).threads, groups := (s1.parted b g r).groups } := by
  rw [State.parted_eq, begun.frame]

section
variable (begun : s.Begun b i rest s1) (quiet : (s.group g).rdv = none) (r : Rdv)
include begun quiet

theorem State.Begun.group_parted (k : Nat) : (s1.parted b g r).group k = s.group k :=
  (State.group_parted (by rw [begun.group]; exact quiet) b r k).trans (begun.group k)

theorem State.Begun.readReg_parted (u n : Nat) : (s1.parted b g r).readReg u n = s.readReg u n := by
  rw [begun.parted_eq g r]
  exact State.readReg_groups (s := s) (begun.group_parted quiet r) u n

theorem State.Begun.same_parted (u n x k : Nat) : (s1.parted b g r).Same u n x k ↔ s.cell u n = s.cell x k := by
  have cell : ∀ u n, (s1.parted b g r).cell u n = s.cell u n := fun u n => by
    rw [begun.parted_eq g r]
    exact State.cell_groups (s := s) (begun.group_parted quiet r) u n
  rw [same_iff_cell, cell, cell]

theorem State.Begun.launchOf_parted (u : Nat) : (s1.parted b g r).launchOf u = s.launchOf u := by
  rw [begun.parted_eq g r]
  exact State.launchOf_groups (s := s) (begun.group_parted quiet r) u

theorem State.Begun.ctxOf_parted (u : Nat) : (s1.parted b g r).ctxOf u = s.ctxOf u := by
  rw [begun.parted_eq g r]
  exact State.ctxOf_groups (s := s) (begun.group_parted quiet r) u
end

/-- The threads' control state after an issue whose results `v` they have taken. -/
def State.tookThreads (s1 : State) (b : Bundle) (d : Option Use) (v : Nat → Nat) : Tab Thread :=
  (b.rising.foldl (fun x u => x.modThread u (fun y => y.latched d (v u))) s1).threads

theorem State.tookThreads_at (begun : s.Begun b i rest s1) (h : s.Bundled b) (d : Option Use) (v : Nat → Nat) (u : Nat) :
    (s1.tookThreads b d v).at' Thread.reset u = if u ∈ b.threads then ((s.thread u).issued s b i).latched d (v u) else s.thread u := by
  refine (thread_foldl_mod b.rising (fun u y => y.latched d (v u)) u (Bundle.rising_nodup h) s1).trans ?_
  simp only [b.rising_perm.mem_iff, begun.threads]
  split <;> rfl

/-- No group is changed in the end. -/
theorem State.Gave.group (begun : s.Begun b i rest s1) (quiet : (s.group g).rdv = none) {r : Rdv} {d : Option Use} {v : Nat → Nat} {pc : VA}
    {c : BitVec 5} {x y : State} (gave : (s1.parted b g r).Gave b.rising d v pc x) {t0 : Nat} (recorded : x.Recorded t0 c y) (k : Nat) :
    y.group k = s.group k := by
  rw [recorded.frame, gave.frame]
  exact begun.group_parted quiet r k

/-- The members of a meeting deliver their results: the state after it but for what the meeting itself has changed. -/
theorem State.Gave.delivers (begun : s.Begun b i rest s1) (h : s.Bundled b) (gathered : s.Gathered b i g m) {r : Rdv} {v : Nat → Nat}
    {c : BitVec 5} {x y : State} (gave : (s1.parted b g r).Gave b.rising (formOf b.hints i).dst v (b.pc + 4) x) {t0 : Nat}
    (first : t0 ∈ b.threads) (recorded : x.Recorded t0 c y) :
    s.Delivers b rest i v (fun _ => c)
      { y with held := s.heldAfter b i, threads := s1.tookThreads b (formOf b.hints i).dst v, groups := s.groups, wft := s.wft } := by
  have quiet := gathered.quiet.1
  have frame : y = { s with issue := rest, threads := y.threads, groups := y.groups, lines := y.lines, wft := y.wft,
                             launches := y.launches, ctxs := y.ctxs } := by
    rw [recorded.frame, gave.frame, begun.parted_eq g r]
  have groups : ∀ k, s.groups.at' Group.reset k = y.group k := fun k => (gave.group begun quiet recorded k).symm
  have reads : ∀ u n, ({ y with held := s.heldAfter b i, threads := s1.tookThreads b (formOf b.hints i).dst v, groups := s.groups,
                                  wft := s.wft } : State).readReg u n = x.readReg u n :=
    fun u n => (State.readReg_groups (s := y) groups u n).trans (readReg_recorded recorded u n)
  have launch : ∀ u ∈ b.threads, s.launchOf u = x.launchOf t0 := by
    intro u hu
    rw [State.launchOf_of_group ((gathered.group u hu).trans (gathered.group t0 first).symm), ← begun.launchOf_parted quiet r, gave.frame]
    rfl
  have context : ∀ u ∈ b.threads, s.ctxOf u = x.ctxOf t0 := by
    intro u hu
    rw [State.ctxOf_of_group ((gathered.group u hu).trans (gathered.group t0 first).symm), ← begun.ctxOf_parted quiet r, gave.frame]
    rfl
  refine ⟨?_, fun u hu => ?_, fun u hu => ?_, fun u hu d hd reg => ?_, fun u n apart => ?_, fun q => ?_, fun k => ?_⟩
  · conv_lhs => rw [frame]
  · exact (State.tookThreads_at begun h _ v u).trans (if_pos hu)
  · exact (State.tookThreads_at begun h _ v u).trans (if_neg hu)
  · rw [← gave.result u (b.rising_perm.mem_iff.2 hu) d hd reg, readRegs_eq, readRegs_eq]
    exact List.map_congr_left fun n _ => reads u _
  · rw [reads, gave.registers u n, begun.readReg_parted quiet r]
    exact fun x hx k hk same => apart x (b.rising_perm.mem_iff.1 hx) k hk ((begun.same_parted quiet r u n x k).1 same)
  · refine (recorded.launches q).trans ?_
    rw [orAll_filter_const (fun u => s.launchOf u == some q) c t0 b.threads first
      (fun u hu => by rw [launch u hu, launch t0 first]), launch t0 first, gave.frame, begun.parted_eq g r]
  · refine (recorded.contexts k).trans ?_
    rw [orAll_filter_const (fun u => (s.launchOf u).isNone && s.ctxOf u == k) c t0 b.threads first
      (fun u hu => by rw [launch u hu, launch t0 first, context u hu, context t0 first]), launch t0 first, context t0 first]
    rw [show x.ctx k = s.ctx k by rw [gave.frame, begun.parted_eq g r]; rfl]
end

theorem Thread.latched_moved (x : Thread) (pc next : VA) (w : WaitFor) (d : Option Use) (v : Nat) :
    { ({ x with pc := pc, runPc := pc, waitFor := w } : Thread).latched d v with pc := next, runPc := next, waitFor := .nothing } =
      { ({ x with pc := next, runPc := next } : Thread).latched d v with waitFor := .nothing } := by
  unfold Thread.latched
  split
  · split <;> rfl
  · rfl

/-- R138, R182: a meeting that is complete at its issue gives every member its result. -/
theorem MeetingGives.meets {i : Instr} {mk : State → Bundle → Nat → List Nat → DWord × DWord}
    {v : Bundle → State → Nat → Word → Nat → Nat} {c : Bundle → State → Nat → BitVec 5} (gives : MeetingGives i mk v c)
    (run : ∀ s, exec i s = s.groupOut i mk) (near : ∀ s b x, s.Near x → ∀ t l, mk x b t l = mk s b t l) : Meets i v c := by
  intro s b rest g m h room gathered
  obtain ⟨t0, r0, first⟩ := Bundle.rising_cons h.inhabited
  obtain ⟨s1, begun, result⟩ := groupOut_begun gathered room (run s) h (near s b) (gives s b rest g m h gathered) first
  have gave := gathered.gave h room begun (v b s g m) (s.meeting b i m mk)
  have recorded := record_recorded (b.rising.foldl (State.give (formOf b.hints i).dst (v b s g m) (b.pc + 4))
    (s1.parted b g (s.meeting b i m mk))) t0 (c b s g)
  have thread := State.thread_record (b.rising.foldl (State.give (formOf b.hints i).dst (v b s g m) (b.pc + 4))
    (s1.parted b g (s.meeting b i m mk))) t0 (c b s g)
  generalize b.rising.foldl _ _ = x at result gave recorded thread
  generalize x.record t0 (c b s g) = y at result recorded thread
  have member : t0 ∈ b.threads := b.rising_perm.mem_iff.1 (first ▸ List.mem_cons_self)
  have groups := gave.group begun gathered.quiet.1 recorded
  have delivers := gave.delivers begun h.toBundled gathered member recorded
  refine ⟨_, _, result, delivers, rfl, fun u hu => ?_, fun u hu => ?_, groups, fun u n => ?_⟩
  · refine (thread u).trans ((gave.own u (b.rising_perm.mem_iff.2 hu)).trans ?_)
    rw [begun.thread_parted h, if_pos hu, delivers.threads u hu]
    exact Thread.latched_moved _ _ _ _ _ _
  · refine (thread u).trans ((gave.others u (mt b.rising_perm.mem_iff.1 hu)).trans ?_)
    rw [begun.thread_parted h, if_neg hu]
  · exact (State.readReg_groups (fun k => (groups k).symm) u n).symm

end Sys2Proof.Machine
open Sys2Proof Sys2Proof.Machine

/-- Settles O25: the bundle's threads are a complete meeting, so they arrive, meet and part at the issue; GRED's tree over the
lanes from the leaves up is the tree from the root down. -/
theorem groupWide : Obligations.GroupWide := by
  unfold Obligations.GroupWide
  refine ⟨fun d a b inv p n => ⟨(vote_gives d a inv p n).meets (fun _ => rfl) fun s b x near t l => ?_,
    (matchVal_gives d a b n).meets (fun _ => rfl) fun _ _ _ _ _ _ => rfl, (shfl_gives d a b n).meets (fun _ => rfl) fun _ _ _ _ _ _ => rfl,
    (elect_gives d a n).meets (fun _ => rfl) fun _ _ _ _ _ _ => rfl⟩,
    fun d a b n => (gred_gives d a b n).meets (fun _ => rfl) fun _ _ _ _ _ _ => rfl⟩
  simp only [Thread.pred, near.preds t]
end

section
/-! PROOFS. A word whose meaning is a result and conditions of its operands; the modifier values that an executing word has; the
values of its operands (03 R41, R47, R51, R52, R58). -/
namespace Sys2Proof.Machine

/-- A word delivers what its meaning gives for the operands of an execution (R41). -/
theorem computesF_of_fpOut {i : Instr} {g v : Bundle → State → Nat → List Nat → Nat × BitVec 5} (run : ∀ s, exec i s = s.fpOut i g)
    (near : ∀ b s s', s.Near s' → ∀ t l, g b s' t l = g b s t l)
    (value : ∀ s b rest, s.Executes b rest i → ∀ u, g b s u (s.operands b.hints u (formOf b.hints i)) =
      v b s u (s.operands b.hints u (formOf b.hints i))) : ComputesF i v := by
  intro s b rest h room
  obtain ⟨t, result, delivers⟩ := fpOut_delivers g h room (near b s)
  simp only [value s b rest h] at delivers
  exact ⟨t, (run s).trans result, delivers⟩

/-- The same of a word that raises no condition. -/
theorem computes_of_aluOut {i : Instr} {g : Hints → List Nat → Nat} {v : Bundle → State → Nat → List Nat → Nat}
    (run : ∀ s, exec i s = s.aluOut i g)
    (value : ∀ s b rest, s.Executes b rest i → ∀ u, g b.hints (s.operands b.hints u (formOf b.hints i)) =
      v b s u (s.operands b.hints u (formOf b.hints i))) : Computes i v :=
  computesF_of_fpOut (v := fun b s u l => (v b s u l, 0)) run (fun _ _ _ _ _ _ => rfl)
    fun s b rest h u => congrArg (·, 0) (value s b rest h u)

/-- A word that executes has the modifiers that its form takes (R51, R52, R58). -/
theorem State.Executes.modOk {s : State} {b : Bundle} {rest : List Bundle} {i : Instr} (h : s.Executes b rest i) :
    modOk b.hints (formOf b.hints i) = true := by
  obtain ⟨u, hu⟩ := List.exists_mem_of_ne_nil _ h.inhabited
  have word : xopIndex i = none := Option.eq_none_iff_forall_ne_some.2 h.word
  have passes := h.passes u hu
  by_contra bad
  rw [Bool.not_eq_true] at bad
  simp only [State.decodeFail, formAt_word _ _ _ _ word, word, State.formOk, hintsOk, bad] at passes
  simp at passes

theorem State.Executes.hXmod_mem {s : State} {b : Bundle} {rest : List Bundle} {i : Instr} (h : s.Executes b rest i) :
    hXmod b.hints ∈ (formOf b.hints i).xmods :=
  List.contains_iff_mem.1 (Bool.and_eq_true_iff.1 h.modOk).2

/-- Operands fit the widths of their uses (R41, R42). -/
theorem State.operands_getD_lt (s : State) (t k : Nat) {h : Hints} {f : Form} {w : Nat} (narrow : ∀ u ∈ usesOf h f, u.width ≤ w) :
    (s.operands h t f).getD k 0 < 2 ^ w := by
  rw [State.operands, List.getD_eq_getElem?_getD, List.getElem?_map]
  cases found : (usesOf h f)[k]? with
  | none => exact Nat.two_pow_pos w
  | some u =>
    exact (operand_lt s h t u).trans_le (Nat.pow_le_pow_right (by decide) (narrow u (List.mem_of_getElem? found)))

end Sys2Proof.Machine
end

section
/-! PROOFS. Integers: the two's-complement reading of an operand, and a result reduced or saturated to a type (08 R143, R144;
09 R160–R163). -/
namespace Sys2Proof.Machine

/-! ### The values of a type (R143, R144) -/

theorem tyWidth_pos (ty : Nat) : 0 < tyWidth ty := by
  unfold tyWidth
  split <;> decide

theorem wrapInt_eq_toNat (w : Nat) (x : Int) : wrapInt w x = (BitVec.ofInt w x).toNat := (BitVec.toNat_ofInt x).symm

theorem intVal_eq {w : Nat} (pos : 0 < w) (ty x : Nat) :
    intVal ty w x = if tySigned ty then (BitVec.ofNat w x).toInt else ((BitVec.ofNat w x).toNat : Int) := by
  rw [intVal, signedOf_eq_toInt w x pos, BitVec.toNat_ofNat]

theorem intMin_eq (ty w : Nat) : intMin ty w = if tySigned ty then -(2 ^ (w - 1)) else 0 := by
  simp only [intMin, Nat.cast_pow, Nat.cast_ofNat]

theorem intMax_eq (ty w : Nat) : intMax ty w = if tySigned ty then 2 ^ (w - 1) - 1 else 2 ^ w - 1 := by
  simp only [intMax, Nat.cast_pow, Nat.cast_ofNat]

theorem intMin_le_intMax (ty w : Nat) : intMin ty w ≤ intMax ty w := by
  have half := Nat.two_pow_pos (w - 1)
  have whole := Nat.two_pow_pos w
  unfold intMin intMax
  split <;> omega

/-- To clamp is to take the nearer end of the type's range (R144). -/
theorem clampInt_eq (ty w : Nat) (x : Int) :
    clampInt ty w x = if x < intMin ty w then intMin ty w else if intMax ty w < x then intMax ty w else x := by
  have ends := intMin_le_intMax ty w
  unfold clampInt
  split
  · omega
  · split <;> omega

/-- A result depends on its type by its sign alone: IMAD.WIDE names the 64-bit type of the operating type's sign (R162). -/
theorem intResult_eq_intRes (h : Hints) {ty : Nat} (sign : tySigned ty = tySigned (hTy h 3)) (w : Nat) (x : Int) :
    intResult ty w (hSat h) x = intRes h w x := by
  unfold intResult intRes
  rw [wrapInt_eq_toNat, clampInt_eq, intMin_eq, intMax_eq, sign]

theorem resI_eq_intRes (h : Hints) (x : Int) : resI h x = intRes h (wideI h) x := intResult_eq_intRes h rfl _ x

theorem intVal_eq_intOf (h : Hints) (l : List Nat) (k : Nat) {w : Nat} (pos : 0 < w) :
    intVal (hTy h 3) w (arg l k) = intOf h w l k := intVal_eq pos _ _

theorem argI_eq_intOf (h : Hints) (l : List Nat) (k : Nat) : argI h l k = intOf h (wideI h) l k :=
  intVal_eq_intOf h l k (tyWidth_pos _)

/-! ### The integer instructions (R162, R163) -/

/-- A row of R162 delivers the integer that its meaning makes of the operands. -/
theorem computes_intOp {i : Instr} (f : (Nat → Int) → Int) {g : (Nat → Int) → Int}
    (run : ∀ s, exec i s = s.aluOut i (fun h l => resI h (f (argI h l)))) (same : ∀ x, f x = g x) : Computes i (intOp g) :=
  computes_of_aluOut run fun s b rest h u => by
    rw [resI_eq_intRes, same, funext (argI_eq_intOf _ _), intOp]

theorem natAbs_eq_ite (x : Int) : (x.natAbs : Int) = if x < 0 then -x else x := by
  split <;> omega

theorem natAbs_sub_eq_ite (x y : Int) : ((x - y).natAbs : Int) = if x < y then y - x else x - y := by
  split <;> omega

/-- IMULH: the high half of the exact product (R162). -/
theorem computes_imulh (d a b : BitVec 7) (n : Bool) : Computes (.imulh d a b n) (fun bd _ _ l =>
    let w := wideI bd.hints
    (BitVec.ofInt w (intOf bd.hints w l 0 * intOf bd.hints w l 1 / 2 ^ w)).toNat) :=
  computes_of_aluOut (execImulh.eq_1 d a b n) fun s bd rest h u => by
    simp only [wrapInt_eq_toNat, argI_eq_intOf, Nat.cast_pow, Nat.cast_ofNat]
    rfl

/-- A word that executes IMAD.WIDE has a 32-bit operating type (R162). -/
theorem wideI_of_wide {s : State} {bd : Bundle} {rest : List Bundle} {d a b : BitVec 7} {n : Bool}
    (h : s.Executes bd rest (.imad d a b n)) (wide : xmodBit bd.hints 0 = true) : wideI bd.hints = 32 := by
  have types : (formOf bd.hints (.imad d a b n)).types = [3, 7] := congrArg Form.types (if_pos wide)
  have typed := h.hTy_mem 3
  rw [types] at typed
  simp only [List.mem_cons, List.not_mem_nil, or_false] at typed
  obtain e | e | e := typed <;> rw [wideI, e] <;> rfl

/-- IMAD: the sum of the product and the third source, 64 bits wide with .WIDE (R162). -/
theorem computes_imad (d a b : BitVec 7) (n : Bool) : Computes (.imad d a b n) (fun bd _ _ l =>
    let h := bd.hints
    if xmodBit h 0 then intRes h 64 (intOf h 32 l 0 * intOf h 32 l 1 + intOf h 64 l 2)
    else intRes h (wideI h) (intOf h (wideI h) l 0 * intOf h (wideI h) l 1 + intOf h (wideI h) l 2)) :=
  computes_of_aluOut (execImad.eq_1 d a b n) fun s bd rest h u => by
    simp only [resI_eq_intRes, argI_eq_intOf]
    cases wide : xmodBit bd.hints 0 with
    | false => rfl
    | true =>
      have sign : tySigned (if tySigned (hTy bd.hints 3) then 4 else 8) = tySigned (hTy bd.hints 3) := by
        cases tySigned (hTy bd.hints 3) <;> rfl
      simp only [if_true, wideI_of_wide h wide, intResult_eq_intRes _ sign, intVal_eq_intOf _ _ _ (by decide : 0 < 64)]

theorem toNat_add_shiftLeft (a off k : Nat) :
    (BitVec.ofNat 64 a + BitVec.ofNat 64 off <<< k).toNat = (a + off * 2 ^ k) % 2 ^ 64 := by
  rw [BitVec.toNat_add, BitVec.toNat_shiftLeft, BitVec.toNat_ofNat, BitVec.toNat_ofNat, Nat.shiftLeft_eq, Nat.mod_mul_mod,
    ← Nat.add_mod]

/-- LEA: a 64-bit base and a scaled 32-bit offset, modulo 2^64 (R163). -/
theorem computes_lea (d a b : BitVec 7) (n : Bool) : Computes (.lea d a b n) (fun bd _ _ l =>
    let off := if xmodBit bd.hints 3 then (bitsOf 32 l 1).setWidth 64 else (bitsOf 32 l 1).signExtend 64
    (bitsOf 64 l 0 + (off <<< (hXmod bd.hints % 8))).toNat) :=
  computes_of_aluOut (execLea.eq_1 d a b n) fun s bd rest h u => by
    have small : arg (s.operands bd.hints u (formOf bd.hints (.lea d a b n))) 1 < 2 ^ 32 :=
      (State.opnd_one rfl s u).trans_lt (operand_lt s bd.hints u (useW b 32))
    generalize s.operands bd.hints u (formOf bd.hints (.lea d a b n)) = l at small
    have extended : BitVec.ofNat 64 (if xmodBit bd.hints 3 then arg l 1 else sext 32 64 (arg l 1)) =
        if xmodBit bd.hints 3 then (bitsOf 32 l 1).setWidth 64 else (bitsOf 32 l 1).signExtend 64 := by
      split
      · exact (BitVec.setWidth_ofNat_of_le_of_lt (by decide) small).symm
      · exact ofNat_sext 32 64 _ (by decide)
    exact (toNat_add_shiftLeft _ _ _).symm.trans (by rw [extended]; rfl)

/-- IADDI: the sum with the immediate, a signed number of the type's width (R162). -/
theorem computes_iaddi (d a : BitVec 7) (j : BitVec 12) : Computes (.iaddi d a j) (fun bd _ _ l =>
    let h := bd.hints
    intRes h (wideI h) (intOf h (wideI h) l 0 + (BitVec.ofNat (wideI h) (immField h 12 j.toNat)).toInt)) :=
  computes_of_aluOut (execIaddi.eq_1 d a j) fun s bd rest h u => by
    rw [resI_eq_intRes, argI_eq_intOf, wI, signedOf_eq_toInt _ _ (tyWidth_pos _)]
    rfl

end Sys2Proof.Machine

open Sys2Proof Sys2Proof.Machine

/-- Settles O1: a value of a type and a result of one are those of the model's integers (`intVal_eq`, `intResult_eq_intRes`). -/
theorem integerArithmetic : Obligations.IntegerArithmetic := by
  unfold Obligations.IntegerArithmetic
  refine ⟨fun d a b n => ⟨?_, ?_, ?_, ?_, ?_, ?_, ?_⟩, fun d a b j n => ⟨?_, ?_, ?_, ?_⟩⟩
  · exact computes_intOp (fun x => x 0 + x 1) (fun _ => rfl) fun _ => rfl
  · exact computes_intOp (fun x => x 0 - x 1) (fun _ => rfl) fun _ => rfl
  · exact computes_intOp (fun x => x 0 * x 1) (fun _ => rfl) fun _ => rfl
  · exact computes_intOp (fun x => (x 0).natAbs) (fun _ => rfl) fun x => natAbs_eq_ite (x 0)
  · exact computes_intOp (fun x => min (x 0) (x 1)) (fun _ => rfl) fun x => min_def (x 0) (x 1)
  · exact computes_intOp (fun x => max (x 0) (x 1)) (fun _ => rfl) fun x => max_def (x 0) (x 1)
  · exact computes_intOp (fun x => (x 0 - x 1).natAbs + x 2) (fun _ => rfl)
      fun x => congrArg (· + x 2) (natAbs_sub_eq_ite (x 0) (x 1))
  · exact computes_imulh d a b n
  · exact computes_imad d a b n
  · exact computes_lea d a b n
  · exact computes_iaddi d a j
end

section
/-! PROOFS. The approximations: the table of special values, and what holds of the values that the table leaves open (08 R145, R158,
R159; 10 R196). -/
namespace Sys2Proof.Machine

/-! ### Encodings (R145, R146) -/

/-- The sign of a number is the sign bit of its encoding. -/
theorem Fmt.neg_read (f : Fmt) {x : Nat} (number : (f.read x).isNan = false) : (f.read x).neg = bit x f.signBit := by
  revert number
  unfold Fmt.read
  dsimp only
  split
  · split
    · exact fun _ => rfl
    · exact nofun
  split
  · exact nofun
  split <;> exact fun _ => rfl

/-- The sign bit turns the sign alone. -/
theorem Fmt.read_add_signBit (f : Fmt) (x : Nat) : f.read (x + 2 ^ f.signBit) = (f.read x).negate := by
  have magnitude : (x + 2 ^ f.signBit) % 2 ^ f.signBit = x % 2 ^ f.signBit := Nat.add_mod_right _ _
  have sign : bit (x + 2 ^ f.signBit) f.signBit = !bit x f.signBit := by
    rw [bit, Nat.add_comm, Nat.testBit_two_pow_add_eq, bit]
  unfold Fmt.read
  dsimp only
  rw [magnitude, sign]
  split
  · split <;> rfl
  split
  · rfl
  split <;> rfl

/-- A normal encoding is its significand scaled by its exponent (R145). -/
theorem Fmt.read_normal {f : Fmt} (ieee : f.sp = .ieee) {x : Nat} (normal : x % 2 ^ f.signBit / 2 ^ f.m ≠ 0)
    (finite : x % 2 ^ f.signBit / 2 ^ f.m ≠ 2 ^ f.e - 1) :
    f.read x = (Num.fin (bit x f.signBit) (2 ^ f.m + x % 2 ^ f.signBit % 2 ^ f.m) 1).scale
      ((x % 2 ^ f.signBit / 2 ^ f.m : Nat) - (f.bias : Int) - f.m) := by
  have least : max (x % 2 ^ f.signBit / 2 ^ f.m) 1 = x % 2 ^ f.signBit / 2 ^ f.m := max_eq_left (Nat.pos_of_ne_zero normal)
  simp [Fmt.read, Num.scale, ieee, finite, normal, least]

/-- The greatest exponent encodes no finite value (R145). -/
theorem Fmt.inUnit_read_top {f : Fmt} (ieee : f.sp = .ieee) {x : Nat} (top : x % 2 ^ f.signBit / 2 ^ f.m = 2 ^ f.e - 1) :
    inUnit (f.read x) = false := by
  simp only [Fmt.read, ieee, top, BEq.rfl, Bool.and_self, if_true]
  split <;> rfl

theorem le_of_inUnit_scale {s : Bool} {n : Nat} {k : Int} (h : inUnit ((Num.fin s n 1).scale k) = true) : n ≤ 2 ^ (-k).toNat := by
  simp only [Num.scale] at h
  split at h
  · calc n ≤ n * 2 ^ k.toNat := Nat.le_mul_of_pos_right n (Nat.two_pow_pos _)
      _ ≤ 1 := of_decide_eq_true h
      _ ≤ 2 ^ (-k).toNat := Nat.one_le_two_pow
  · exact (of_decide_eq_true h : n ≤ 1 * 2 ^ (-k).toNat).trans (Nat.one_mul _).le

/-- An FP32 value in [−1, 1] is encoded by a magnitude of at most that of 1: its significand of 2^23 or more is within a power of
two of at most 2^23. -/
theorem mod_le_one_of_inUnit {c : Nat} (h : inUnit ((fmtOf 15).read c) = true) : c % 2 ^ 31 ≤ 0x3F800000 := by
  by_contra large
  have normal : 127 ≤ c % 2 ^ 31 / 2 ^ 23 := by omega
  have finite : c % 2 ^ 31 / 2 ^ 23 ≠ 2 ^ 8 - 1 := fun top => by
    rw [Fmt.inUnit_read_top rfl top] at h
    cases h
  rw [Fmt.read_normal rfl (Nat.ne_zero_of_lt normal) finite] at h
  have inside : 2 ^ 23 + c % 2 ^ 31 % 2 ^ 23 ≤ 2 ^ (-((c % 2 ^ 31 / 2 ^ 23 : Nat) - (127 : Int) - 23)).toNat := le_of_inUnit_scale h
  have exponent : (-((c % 2 ^ 31 / 2 ^ 23 : Nat) - (127 : Int) - 23)).toNat = 150 - c % 2 ^ 31 / 2 ^ 23 := by omega
  rw [exponent] at inside
  obtain one | above := normal.eq_or_lt
  · rw [← one] at inside
    omega
  · have half := inside.trans (Nat.pow_le_pow_right (by decide) (by omega : 150 - c % 2 ^ 31 / 2 ^ 23 ≤ 22))
    omega

/-! ### The table (R159) -/

/-- The FP32 approximations (R196). -/
def Fn.single : List Fn := [.rcp, .rsq, .ex2, .lg2, .sin, .cos, .tanh]

/-- A result agrees with the table: it is what the table states for an input, or raises nothing where the table states nothing. -/
def Fn.Agrees (fn : Fn) (v : Num) (r : Nat × BitVec 5) : Prop :=
  (∀ y, approxTable fn v = some y → r = y) ∧ (approxTable fn v = none → r.2 = 0)

theorem Fn.Agrees.of_stated {fn : Fn} {v : Num} {r : Nat × BitVec 5} (stated : approxTable fn v = some r) : fn.Agrees v r :=
  ⟨fun _ h => Option.some.inj (stated.symm.trans h), fun h => absurd (stated.symm.trans h) nofun⟩

theorem Fn.Agrees.of_open {fn : Fn} {v : Num} {r : Nat × BitVec 5} (free : approxTable fn v = none) (quiet : r.2 = 0) :
    fn.Agrees v r :=
  ⟨fun _ h => absurd (free.symm.trans h) nofun, fun _ => quiet⟩

theorem one_fp32 : (deliver (fmtOf 15) {} false (Num.ofInt 1)).1 = 0x3F800000 := by decide +kernel

section
variable {fn : Fn} (single : fn ∈ Fn.single) {x : Nat}
include single

theorem approx_of_nan {s : Bool} (h : (fmtOf 15).read x = .nan s) : fn.Agrees (.nan s) (approx fn x) := by
  refine .of_stated ?_
  fin_cases single <;> simp only [approx, h] <;> rfl

theorem approx_of_inf {s : Bool} (h : (fmtOf 15).read x = .inf s) : fn.Agrees (.inf s) (approx fn x) := by
  refine .of_stated ?_
  fin_cases single <;> simp only [approx, h, one_fp32] <;> cases s <;> rfl

theorem approx_of_zero {s : Bool} {d : Nat} (h : (fmtOf 15).read x = .fin s 0 d) : fn.Agrees (.fin s 0 d) (approx fn x) := by
  refine .of_stated ?_
  fin_cases single <;> simp only [approx, h, one_fp32] <;> rfl
end

section
variable {x n d : Nat} {s : Bool} (h : (fmtOf 15).read x = .fin s (n + 1) d)
include h

/-- The table leaves every nonzero finite operand of these to R158. -/
theorem approx_of_unlisted {fn : Fn} (unlisted : fn ∈ [Fn.rcp, .sin, .cos, .tanh]) : fn.Agrees (.fin s (n + 1) d) (approx fn x) := by
  have free : approxTable fn (.fin s (n + 1) d) = none := by
    fin_cases unlisted <;> cases s <;> rfl
  refine .of_open free ?_
  fin_cases unlisted <;> simp only [approx, h] <;> split <;> rfl

/-- A negative operand has neither a square root nor a logarithm. -/
theorem approx_of_positive {fn : Fn} (positive : fn ∈ [Fn.rsq, .lg2]) : fn.Agrees (.fin s (n + 1) d) (approx fn x) := by
  cases s
  · refine .of_open (by fin_cases positive <;> rfl) ?_
    fin_cases positive <;> simp only [approx, h] <;> rfl
  · refine .of_stated ?_
    fin_cases positive <;> simp only [approx, h] <;> rfl

/-- 2^x is infinite above 128 and zero below −150. -/
theorem ex2_of_fin : Fn.ex2.Agrees (.fin s (n + 1) d) (approx .ex2 x) := by
  have table : approxTable .ex2 (.fin s (n + 1) d) = if s = false ∧ 128 * d < n + 1 then some (0x7F800000, 0)
      else if s = true ∧ 150 * d < n + 1 then some (0, 0) else none := by cases s <;> rfl
  have above : ((if s then -((n + 1 : Nat) : Int) else (n + 1 : Nat)) > 128 * d) ↔ s = false ∧ 128 * d < n + 1 := by
    cases s <;> simp <;> omega
  have below : ((if s then -((n + 1 : Nat) : Int) else (n + 1 : Nat)) < -150 * (d : Int)) ↔ s = true ∧ 150 * d < n + 1 := by
    cases s <;> simp <;> omega
  have value : approx .ex2 x = if s = false ∧ 128 * d < n + 1 then (0x7F800000, 0)
      else if s = true ∧ 150 * d < n + 1 then (0, 0)
      else (openValue (fmtOf 15) Fn.ex2.code x (.ulp 2) (enclExp2 (if s then -((n + 1 : Nat) : Int) else (n + 1 : Nat)) d)
        (fun _ => true), 0) := by
    simp only [approx, h, above, below]
    rfl
  rw [value]
  split
  · next large => exact .of_stated (table.trans (if_pos large))
  · next large =>
    rw [if_neg large] at table
    split
    · next small => exact .of_stated (table.trans (if_pos small))
    · next small => exact .of_open (table.trans (if_neg small)) rfl

end

theorem approx_agrees {fn : Fn} (single : fn ∈ Fn.single) (x : Nat) : fn.Agrees ((fmtOf 15).read x) (approx fn x) := by
  cases h : (fmtOf 15).read x with
  | nan s => exact approx_of_nan single h
  | inf s => exact approx_of_inf single h
  | fin s n d =>
    cases n with
    | zero => exact approx_of_zero single h
    | succ n =>
      simp only [Fn.single, List.mem_cons, List.not_mem_nil, or_false] at single
      obtain rfl | rfl | rfl | rfl | rfl | rfl | rfl := single
      · exact approx_of_unlisted h (by decide)
      · exact approx_of_positive h (by decide)
      · exact ex2_of_fin h
      · exact approx_of_positive h (by decide)
      · exact approx_of_unlisted h (by decide)
      · exact approx_of_unlisted h (by decide)
      · exact approx_of_unlisted h (by decide)

/-! ### Beyond the table (R159) -/

/-- FSIN and FCOS of a value beyond 2^20 are the free value, where it lies in [−1, 1]. -/
theorem approx_far {fn : Fn} (wave : fn ∈ [Fn.sin, .cos]) {x n d : Nat} {s : Bool} (h : (fmtOf 15).read x = .fin s n d)
    (far : 2 ^ 20 * d < n) : (approx fn x).1 % 2 ^ 31 ≤ 0x3F800000 := by
  obtain ⟨n, rfl⟩ := Nat.exists_eq_succ_of_ne_zero (Nat.ne_zero_of_lt far)
  have value : (approx fn x).1 = if inUnit ((fmtOf 15).read ((specialValue fn.code (BitVec.ofNat 64 x)).toNat % 2 ^ 32)) then
      (specialValue fn.code (BitVec.ofNat 64 x)).toNat % 2 ^ 32 else 0 := by
    fin_cases wave <;> simp only [approx, h, if_neg (Nat.not_le.2 far)]
  rw [value]
  split
  · next inside => exact mod_le_one_of_inUnit inside
  · decide

/-- FTANH of a nonzero finite value has a magnitude that depends on the operand's magnitude alone. -/
theorem tanh_eq {x n d : Nat} {s : Bool} (h : (fmtOf 15).read x = .fin s (n + 1) d) : (approx .tanh x).1 =
    (fmtOf 15).withSign s (openValue (fmtOf 15) Fn.tanh.code (x % 2 ^ 31) (.ulp 2) (enclTanh (n + 1) d) inUnit % 2 ^ 31) := by
  simp only [approx, h]
  rfl

/-- FTANH is odd. -/
theorem tanh_odd {x : Nat} (small : x < 2 ^ 31) (number : ((fmtOf 15).read x).isNan = false) :
    (approx .tanh (x + 2 ^ 31)).1 = (approx .tanh x).1 + 2 ^ 31 := by
  have positive : ((fmtOf 15).read x).neg = false := (Fmt.neg_read _ number).trans (Nat.testBit_lt_two_pow small)
  have turned : (fmtOf 15).read (x + 2 ^ 31) = ((fmtOf 15).read x).negate := Fmt.read_add_signBit _ x
  have tanh : Fn.tanh ∈ Fn.single := by decide
  cases h : (fmtOf 15).read x with
  | nan s => exact nomatch h ▸ number
  | inf s =>
    rw [h] at positive turned
    obtain rfl : s = false := positive
    rw [(approx_of_inf tanh turned).1 _ rfl, (approx_of_inf tanh h).1 _ rfl]
    rfl
  | fin s n d =>
    rw [h] at positive turned
    obtain rfl : s = false := positive
    cases n with
    | zero =>
      rw [(approx_of_zero tanh turned).1 _ rfl, (approx_of_zero tanh h).1 _ rfl]
      rfl
    | succ n =>
      rw [tanh_eq turned, tanh_eq h, Nat.add_mod_right]
      rfl

/-! ### The instructions (R196) -/

theorem computesF_of_approx {i : Instr} {fn : Fn} (run : ∀ s, exec i s = s.fpOut i (fun _ _ _ l => approx fn (arg l 0))) :
    ComputesF i (fun _ _ _ l => approx fn (l.getD 0 0)) :=
  computesF_of_fpOut run (fun _ _ _ _ _ _ => rfl) fun _ _ _ _ _ => rfl

end Sys2Proof.Machine

open Sys2Proof Sys2Proof.Machine

/-- Settles O8: input by input against the table (`approx_agrees`); beyond 2^20 a free value stands only in [−1, 1] (`approx_far`), and
the sign of FTANH is its operand's (`tanh_odd`). -/
theorem approximations : Obligations.Approximations := by
  unfold Obligations.Approximations
  refine ⟨fun d a n => ⟨?_, ?_, ?_, ?_, ?_, ?_, ?_⟩, fun fn single x => approx_agrees single x, fun fn wave x s n d h far => ?_,
    fun x small number => tanh_odd small number⟩
  · exact computesF_of_approx (execFrcp.eq_1 d a n)
  · exact computesF_of_approx (execFrsq.eq_1 d a n)
  · exact computesF_of_approx (execFex2.eq_1 d a n)
  · exact computesF_of_approx (execFlg2.eq_1 d a n)
  · exact computesF_of_approx (execFsin.eq_1 d a n)
  · exact computesF_of_approx (execFcos.eq_1 d a n)
  · exact computesF_of_approx (execFtanh.eq_1 d a n)
  · exact approx_far wave h far
end

section
/-! PROOFS. Conversions between numeric types, and the packing of block-scaled elements (08 R152–R155; 10 R197–R200). -/
namespace Sys2Proof.Machine

/-! ### The draw of a delivery (R152) -/

theorem State.Near.drawSeed {s s' : State} (near : s.Near s') (t : Nat) (pc : VA) : s'.drawSeed t pc = s.drawSeed t pc := by
  have teams : s'.teams = s.teams := by rw [near.frame]
  have groups : s'.groups = s.groups := by rw [near.frame]
  have group : s'.group = s.group := funext fun g => by rw [State.group, groups, State.group]
  have team : s'.team = s.team := funext fun k => by rw [State.team, teams, State.team]
  have teamOf : s'.teamOf t = s.teamOf t := by rw [State.teamOf, group, State.teamOf]
  have launchOf : s'.launchOf t = s.launchOf t := by rw [State.launchOf, team, teamOf, State.launchOf]
  simp only [State.drawSeed, launchOf, group, team, teamOf]
  cases s.launchOf t with
  | none => rfl
  | some q =>
    have launch := near.launch q
    cases found : s'.launches.find q with
    | none =>
      rw [found] at launch
      have same := Option.map_eq_none_iff.1 launch.symm
      simp only [found, same]
    | some l =>
      rw [found] at launch
      obtain ⟨m, same, fields⟩ := Option.map_eq_some_iff.1 launch.symm
      simp only [Prod.mk.injEq] at fields
      obtain ⟨gx, gy, tag⟩ := fields
      simp only [found, same, gx, gy, tag]

theorem State.Near.delivery {s s' : State} (near : s.Near s') (b : Bundle) (t e w : Nat) :
    s'.delivery b t e w = s.delivery b t e w := by
  simp only [State.delivery, State.draw, near.drawSeed]

/-! ### Integers (R154) -/

theorem toInt_eq_intOfFloat (ty mode : Nat) (x : Num) : toInt ty mode 0 x = intOfFloat ty mode x := by
  cases x with
  | nan => rfl
  | inf s => simp only [toInt, intOfFloat, wrapInt_eq_toNat, intMin_eq, intMax_eq]
  | fin s n d =>
    simp only [toInt, intOfFloat, wrapInt_eq_toNat, clampInt_eq, ← intMin_eq, ← intMax_eq]
    generalize (if s then -((roundInt mode 0 s n d).1 : Int) else ((roundInt mode 0 s n d).1 : Int)) = v
    split
    · next below => rw [if_neg (by omega)]
    · split
      · next above => rw [if_neg (by omega)]
      · rw [if_pos rfl, cIf]

/-! ### Floating and scale types (R153, R155) -/

theorem nanCode_fmtOf {ty : Nat} (float : 14 ≤ ty) (narrow : ty ≤ 22) : (fmtOf ty).nanCode = nanResult ty := by
  interval_cases ty <;> rfl

/-- How the floating types mark infinities and NaNs (R145). -/
theorem sp_fmtOf {ty : Nat} (float : 14 ≤ ty) (narrow : ty ≤ 22) :
    (fmtOf ty).sp = if 20 ≤ ty then .none else if ty = 18 then .nanOnly else .ieee := by
  interval_cases ty <;> rfl

theorem sp_fmtOf_eq_none {ty : Nat} (float : 14 ≤ ty) (narrow : ty ≤ 22) : ((fmtOf ty).sp == .none) = decide (20 ≤ ty) := by
  interval_cases ty <;> rfl

theorem sigNan_singleton (x : Num) : sigNan [x] = cIf x.isSnan cIV := by
  rw [sigNan, List.any_cons, List.any_nil, Bool.or_false]

/-- Of a source that is no signalling NaN the delivery alone raises conditions. -/
theorem convFp_quiet {x : Num} (quiet : x.isSnan = false) (ty : Nat) (d : Deliver) :
    convFp ty d x = if ty = 23 then toE8m0 d x else deliver (fmtOf ty) d true x := by
  simp only [convFp, sigNan_singleton, quiet]
  exact congrArg (Prod.mk _) BitVec.or_zero

section
variable {ty : Nat} (float : 14 ≤ ty) (typed : ty ≤ 23) (d : Deliver) (s : Bool)
include float typed

theorem convFp_nan : convFp ty d (.nan s) = convertTo ty d (.nan s) := by
  simp only [convFp, convertTo, sigNan_singleton]
  obtain rfl | narrow := typed.eq_or_lt
  · simp only [toE8m0, if_true]
    cases s <;> rfl
  · simp only [if_neg narrow.ne, deliver, nanCode_fmtOf float (Nat.le_of_lt_succ narrow),
      sp_fmtOf_eq_none float (Nat.le_of_lt_succ narrow)]
    cases s <;> cases decide (20 ≤ ty) <;> rfl

theorem convFp_inf : convFp ty d (.inf s) = convertTo ty d (.inf s) := by
  rw [convFp_quiet rfl]
  obtain rfl | narrow := typed.eq_or_lt
  · rfl
  simp only [convertTo, if_neg narrow.ne, deliver, sp_fmtOf float (Nat.le_of_lt_succ narrow)]
  by_cases finite : 20 ≤ ty
  · simp only [if_pos finite]
    rfl
  by_cases e4m3 : ty = 18
  · subst e4m3
    rfl
  · simp only [if_neg finite, if_neg e4m3]

/-- A conversion is the one that R153 and R155 state. -/
theorem convFp_eq_convertTo (x : Num) : convFp ty d x = convertTo ty d x := by
  cases x with
  | nan s => exact convFp_nan float typed d s
  | inf s => exact convFp_inf float typed d s
  | fin s n e => exact convFp_quiet rfl ty d
end

/-! ### The rows of R197 -/

theorem cvtFp_near (dTgt dSrc : Nat) (b : Bundle) (s s' : State) (near : s.Near s') (t : Nat) (l : List Nat) :
    cvtFp dTgt dSrc b s' t l = cvtFp dTgt dSrc b s t l := by
  simp only [cvtFp, near.delivery]

/-- A conversion between floating types reads the source type and delivers to the target type. -/
theorem cvtFp_eq {dTgt dSrc : Nat} {b : Bundle} (typed : 14 ≤ hTy b.hints dTgt ∧ hTy b.hints dTgt ≤ 23) (s : State) (t : Nat)
    (l : List Nat) : cvtFp dTgt dSrc b s t l =
      convertTo (hTy b.hints dTgt) (s.delivery b t 0 (xorWords (tyWidth (srcTy b.hints dSrc)) (l.getD 0 0)))
        (readFp (srcTy b.hints dSrc) (l.getD 0 0)) :=
  convFp_eq_convertTo typed.1 typed.2 _ _

/-- The target of a row of floating and scale types whose default is .F32 is one of them. -/
theorem hTy_float {s : State} {b : Bundle} {rest : List Bundle} {i : Instr} (h : s.Executes b rest i) {tgt : List Nat}
    (row : (formOf b.hints i).types = tgt) (floats : ∀ t ∈ 15 :: tgt, 14 ≤ t ∧ t ≤ 23) :
    14 ≤ hTy b.hints 15 ∧ hTy b.hints 15 ≤ 23 :=
  floats _ (List.mem_cons.2 (row ▸ h.hTy_mem 15))

/-- D2F has one source type, .F64 (R197). -/
theorem srcTy_d2f {s : State} {bd : Bundle} {rest : List Bundle} {d a : BitVec 7} {n : Bool} (h : s.Executes bd rest (.d2f d a n)) :
    srcTy bd.hints 14 = 14 := by
  have xmod : hXmod bd.hints ∈ [0, 14] := h.hXmod_mem
  simp only [List.mem_cons, List.not_mem_nil, or_false] at xmod
  obtain e | e := xmod <;> rw [srcTy, e] <;> rfl

/-- F2D has one target type, .F64 (R197). -/
theorem hTy_f2d {s : State} {bd : Bundle} {rest : List Bundle} {d a : BitVec 7} {n : Bool} (h : s.Executes bd rest (.f2d d a n)) :
    hTy bd.hints 14 = 14 :=
  (h.hTy_mem 14).elim id List.mem_singleton.1

/-! ### FPACK (R199) -/

theorem packElem_eq (ty c : Nat) (d : Deliver) (v : Num) : packElem ty c d v = packedElement ty c d v := by
  cases v <;> rfl

theorem scaleOf_eq (ty : Nat) (a : Num) : scaleOf ty a = blockScale ty a := by
  cases a with
  | nan s => rfl
  | inf s => rfl
  | fin s n d => cases n <;> rfl

/-- FPACK's operands have 32 bits, and the xor that R152 mixes is that of its three words. -/
theorem fpack_words (s : State) (b : Bundle) (u : Nat) (d a y : BitVec 7) (n : Bool) :
    let l := s.operands b.hints u (formOf b.hints (.fpack d a y n))
    Nat.xor (arg l 0) (Nat.xor (arg l 1) (arg l 2)) = (bitsOf 32 l 0 ^^^ bitsOf 32 l 1 ^^^ bitsOf 32 l 2).toNat := by
  intro l
  have narrow : ∀ v ∈ usesOf b.hints (formOf b.hints (.fpack d a y n)), v.width ≤ 32 := by
    change ∀ v ∈ usesOf b.hints (if xmodBit b.hints 0 = true then _ else _), v.width ≤ 32
    split <;> simp [usesOf, useW]
  have word : ∀ k, (bitsOf 32 l k).toNat = arg l k := fun k =>
    (BitVec.toNat_ofNat _ _).trans (Nat.mod_eq_of_lt (State.operands_getD_lt s u k narrow))
  rw [BitVec.toNat_xor, BitVec.toNat_xor, word, word, word]
  exact (Nat.xor_assoc _ _ _).symm

end Sys2Proof.Machine

open Sys2Proof Sys2Proof.Machine

/-- Settles O9: a conversion delivers its source once converted (`convFp_eq_convertTo`, `toInt_eq_intOfFloat`), its target a floating
or scale type; a draw of .SR reads nothing that the delivery to another lane changes (`State.Near.delivery`). -/
theorem conversions : Obligations.Conversions := by
  unfold Obligations.Conversions
  intro d a b n
  refine ⟨?_, ?_, ?_, ?_, ?_, ?_⟩
  · exact computesF_of_fpOut (execF2i.eq_1 d a n) (fun _ _ _ _ _ _ => rfl) fun _ _ _ _ _ => toInt_eq_intOfFloat _ _ _
  · refine computesF_of_fpOut (execI2f.eq_1 d a n) (fun _ _ _ near _ _ => by simp only [near.delivery]) fun s bd rest h u => ?_
    obtain ⟨float, typed⟩ := hTy_float (tgt := [15, 16, 17, 14]) h rfl (by decide)
    simp only [intVal_eq (tyWidth_pos _), convFp_eq_convertTo float typed]
    rfl
  · refine computesF_of_fpOut (execF2f.eq_1 d a n) (cvtFp_near 15 15) fun s bd rest h u => ?_
    exact cvtFp_eq (hTy_float (tgt := [15, 16, 17, 19, 18, 20, 21, 22, 23]) h rfl (by decide)) s u _
  · refine computesF_of_fpOut (execD2f.eq_1 d a n) (cvtFp_near 15 14) fun s bd rest h u => ?_
    rw [cvtFp_eq (hTy_float (tgt := [15, 16, 17]) h rfl (by decide)), srcTy_d2f h]
    rfl
  · refine computesF_of_fpOut (execF2d.eq_1 d a n) (cvtFp_near 14 15) fun s bd rest h u => ?_
    rw [cvtFp_eq (by rw [hTy_f2d h]; decide), hTy_f2d h]
  · refine computesF_of_fpOut (execFpack.eq_1 d a b n) ?_ fun s bd rest h u => ?_
    · intro b s s' near t l
      simp only [near.delivery]
    · have words := fpack_words s bd u d a b n
      generalize s.operands bd.hints u (formOf bd.hints (.fpack d a b n)) = l at words
      simp only [packElem_eq, scaleOf_eq, words]
      rfl
end

section
/-! PROOFS. Operands as bits, and the logic, shift and count functions on them (09 R164, R166). -/
namespace Sys2Proof.Machine

/-! ### Operands of a word as bits -/

/-- An instruction that computes a result delivers what its meaning gives of operands that fit the widths of its form (R41). -/
theorem computes_of_fit {i : Instr} {g : Hints → List Nat → Nat} {v : Bundle → State → Nat → List Nat → Nat}
    (run : ∀ s, exec i s = s.aluOut i g) (widths : Hints → List Nat)
    (uses : ∀ h, (usesOf h (formOf h i)).map Use.width = widths h)
    (value : ∀ s b rest, s.Executes b rest i → ∀ u l, (∀ k, arg l k < 2 ^ (widths b.hints).getD k 0) → g b.hints l = v b s u l) :
    Computes i v := by
  refine computes_of_aluOut run fun s b rest h u => value s b rest h u _ fun k => ?_
  rw [arg, State.operands, ← uses, List.getD_eq_getElem?_getD, List.getD_eq_getElem?_getD, List.getElem?_map, List.getElem?_map]
  cases (usesOf b.hints (formOf b.hints i))[k]? with
  | none => exact Nat.one_pos
  | some x => exact operand_lt s b.hints u x

/-- An operand that fits a width is the number of its bits. -/
theorem arg_eq_toNat {w k : Nat} {l : List Nat} (fits : arg l k < 2 ^ w) : arg l k = (bitsOf w l k).toNat :=
  ((BitVec.toNat_ofNat _ _).trans (Nat.mod_eq_of_lt fits)).symm

/-! ### Shifts (R164) -/

section
variable {w : Nat} (x : BitVec w)

theorem notN_toNat (y : BitVec w) : notN w y.toNat = (~~~y).toNat := by
  rw [notN, BitVec.toNat_not, Nat.mod_eq_of_lt y.isLt]

theorem andn_toNat (y : BitVec w) : Nat.land x.toNat (notN w y.toNat) = (x &&& ~~~y).toNat := by
  rw [notN_toNat, BitVec.toNat_and]
  rfl

theorem shl_toNat (c : Nat) : (if c ≥ w then 0 else x.toNat * 2 ^ c % 2 ^ w) = (x <<< c).toNat := by
  split
  · next all => rw [BitVec.shiftLeft_eq_zero all, BitVec.toNat_ofNat, Nat.zero_mod]
  · rw [BitVec.toNat_shiftLeft, Nat.shiftLeft_eq]

theorem shr_toNat (c : Nat) : (if c ≥ w then 0 else x.toNat / 2 ^ c) = (x >>> c).toNat := by
  rw [BitVec.toNat_ushiftRight, Nat.shiftRight_eq_div_pow]
  split
  · next all => exact (Nat.div_eq_of_lt (x.isLt.trans_le (Nat.pow_le_pow_right (by decide) all))).symm
  · rfl

/-- Beyond the width an arithmetic shift leaves the sign alone. -/
theorem toInt_div_two_pow (c : Nat) : x.toInt / (2 ^ min c (w - 1) : Nat) = x.toInt / (2 ^ c : Nat) := by
  rcases Nat.le_total c (w - 1) with within | beyond
  · rw [Nat.min_eq_left within]
  have low := x.le_toInt
  have high := @BitVec.toInt_lt w x
  have sign : ∀ n, w - 1 ≤ n → x.toInt / (2 ^ n : Nat) = if x.toInt < 0 then -1 else 0 := by
    intro n hn
    have wide : (2 : Int) ^ (w - 1) ≤ (2 ^ n : Nat) := by
      rw [Nat.cast_pow]
      exact pow_le_pow_right₀ (by decide) hn
    split
    · rw [Int.ediv_eq_iff_of_pos (by positivity)]
      omega
    · exact Int.ediv_eq_zero_of_lt (by omega) (by omega)
  rw [Nat.min_eq_right beyond, sign _ le_rfl, sign _ beyond]

theorem sarN_toNat (pos : 0 < w) (c : Nat) : sarN w x.toNat c = (x.sshiftRight c).toNat := by
  rw [sarN, wrapInt_eq_toNat, signedOf_eq_toInt w _ pos, BitVec.ofNat_toNat, BitVec.setWidth_eq, toInt_div_two_pow,
    BitVec.sshiftRight_eq, Int.shiftRight_eq_div_pow]

theorem rot_toNat {c : Nat} (within : c < w) :
    (x.toNat * 2 ^ c + x.toNat / 2 ^ (w - c)) % 2 ^ w = (x.rotateLeft c).toNat := by
  have split : 2 ^ w = 2 ^ (w - c) * 2 ^ c := by rw [← Nat.pow_add, Nat.sub_add_cancel within.le]
  have high : x.toNat / 2 ^ (w - c) < 2 ^ c := Nat.div_lt_of_lt_mul (split ▸ x.isLt)
  have low : x.toNat * 2 ^ c % 2 ^ w = x.toNat % 2 ^ (w - c) * 2 ^ c := by rw [split, Nat.mul_mod_mul_right]
  have sum : x.toNat % 2 ^ (w - c) * 2 ^ c + x.toNat / 2 ^ (w - c) < 2 ^ w := by
    have := Nat.mod_lt x.toNat (Nat.two_pow_pos (w - c))
    calc _ < x.toNat % 2 ^ (w - c) * 2 ^ c + 2 ^ c := Nat.add_lt_add_left high _
      _ = (x.toNat % 2 ^ (w - c) + 1) * 2 ^ c := (Nat.succ_mul _ _).symm
      _ ≤ 2 ^ (w - c) * 2 ^ c := Nat.mul_le_mul_right _ this
      _ = 2 ^ w := split.symm
  have rotated : (x.toNat * 2 ^ c + x.toNat / 2 ^ (w - c)) % 2 ^ w = x.toNat % 2 ^ (w - c) * 2 ^ c + x.toNat / 2 ^ (w - c) := by
    rw [← Nat.mod_add_mod, low, Nat.mod_eq_of_lt sum]
  rw [rotated, BitVec.toNat_rotateLeft, Nat.mod_eq_of_lt within, Nat.shiftLeft_eq, low, Nat.shiftRight_eq_div_pow, ← Nat.shiftLeft_eq,
    Nat.shiftLeft_add_eq_or_of_lt high]
end

/-! ### Counts (R166) -/

/-- Of the indexes from `s` on, those before the first one with a property. -/
theorem length_takeWhile_range' (p : Nat → Bool) (n s : Nat) :
    ((List.range' s n).takeWhile (fun i => !p i)).length + s = ((List.range' s n).find? p).getD (s + n) := by
  induction n generalizing s with
  | zero => simp
  | succ n ih =>
    rw [List.range'_succ, List.takeWhile_cons, List.find?_cons]
    cases p s with
    | true => simp
    | false => simpa [Nat.add_right_comm, Nat.add_assoc, Nat.add_comm 1 n] using ih (s + 1)

theorem lowBit_getD (n x : Nat) : (lowBit n x).getD n = ((List.range n).takeWhile (fun i => !x.testBit i)).length := by
  have counted := length_takeWhile_range' x.testBit n 0
  rw [← List.range_eq_range', Nat.add_zero, Nat.zero_add] at counted
  exact counted.symm

/-- The zero bits above the highest one bit. -/
theorem length_takeWhile_reverse_range (x : Nat) : ∀ n, x < 2 ^ n →
    ((List.range n).reverse.takeWhile (fun i => !x.testBit i)).length = if x = 0 then n else n - 1 - Nat.log2 x
  | 0, small => by simp
  | n + 1, small => by
    have top : x.testBit n = decide (2 ^ n ≤ x) := by
      have half := Nat.pow_succ (n := 2) (m := n)
      have pos := Nat.two_pow_pos n
      rw [Nat.testBit_eq_decide_div_mod_eq]
      by_cases le : 2 ^ n ≤ x
      · have one : x / 2 ^ n = 1 := Nat.div_eq_of_lt_le (by omega) (by omega)
        simp [one, le]
      · simp [Nat.div_eq_of_lt (Nat.lt_of_not_le le), le]
    rw [List.range_succ, List.reverse_append, List.reverse_singleton, List.singleton_append, List.takeWhile_cons, top]
    by_cases le : 2 ^ n ≤ x
    · have nonzero : x ≠ 0 := (Nat.two_pow_pos n).trans_le le |>.ne'
      rw [(Nat.log2_eq_iff nonzero).2 ⟨le, small⟩]
      simp [le, nonzero]
    · have rest := length_takeWhile_reverse_range x n (Nat.lt_of_not_le le)
      simp only [le, decide_false, Bool.not_false, if_true, List.length_cons, rest]
      split
      · rfl
      · next nonzero =>
        have := (Nat.log2_lt nonzero).2 (Nat.lt_of_not_le le)
        omega

section
variable {w : Nat} (x : BitVec w)

theorem popc_toNat : popc w x.toNat = ((List.range w).filter (fun i => x.getLsbD i)).length := rfl

theorem clz_toNat : (if x.toNat = 0 then w else w - 1 - Nat.log2 x.toNat) =
    ((List.range w).reverse.takeWhile (fun i => !x.getLsbD i)).length :=
  (length_takeWhile_reverse_range x.toNat w x.isLt).symm

theorem ctz_toNat : (lowBit w x.toNat).getD w = ((List.range w).takeWhile (fun i => !x.getLsbD i)).length := lowBit_getD w x.toNat
end

/-- The bits of a number one longer in the opposite order: the top bit comes lowest. -/
theorem revBits_succ (w x : Nat) : revBits (w + 1) x = 2 * revBits w x + b2n (x.testBit w) := by
  have double : ∀ i ∈ List.range w, (if bit x i then 2 ^ (w + 1 - 1 - i) else 0) = 2 * (if bit x i then 2 ^ (w - 1 - i) else 0) := by
    intro i hi
    have below := List.mem_range.1 hi
    split
    · rw [← Nat.pow_succ', show w + 1 - 1 - i = (w - 1 - i).succ by omega]
    · rfl
  rw [revBits, revBits, ← List.sum_eq_foldl, ← List.sum_eq_foldl, List.range_succ, List.map_append, List.sum_append,
    List.map_congr_left double, List.sum_map_mul_left]
  simp [bit, b2n]

theorem revBits_toNat : ∀ {w : Nat} (x : BitVec w), revBits w x.toNat = x.reverse.toNat
  | 0, x => by rw [BitVec.of_length_zero (x := x.reverse)]; rfl
  | w + 1, x => by
    have low : ∀ y z, (∀ i < w, y.testBit i = z.testBit i) → revBits w y = revBits w z := by
      intro y z same
      exact congrArg (List.foldl _ 0) (List.map_congr_left fun i hi => by
        simp only [show bit y i = bit z i from same i (List.mem_range.1 hi)])
    rw [revBits_succ, BitVec.reverse, BitVec.toNat_concat, ← revBits_toNat, BitVec.msb_eq_getLsbD_last,
      low x.toNat (x.truncate w).toNat fun i hi => by simp [hi]]
    cases e : x.toNat.testBit w <;> simp [b2n, BitVec.getLsbD, e, Nat.mul_comm]

/-! ### The instructions of R164 and R166 -/

section
variable {i : Instr}

/-- A logic instruction delivers what it makes of two operands of the operating type. -/
theorem computes_logic {f : Nat → Nat → Nat → Nat} {g : (w : Nat) → BitVec w → BitVec w → BitVec w}
    (run : ∀ s, exec i s = s.aluOut i (fun h l => f (wB h) (arg l 0) (arg l 1)))
    (uses : ∀ h, (usesOf h (formOf h i)).map Use.width = [wB h, wB h])
    (value : ∀ {w : Nat} (x y : BitVec w), f w x.toNat y.toNat = (g w x y).toNat) :
    Computes i (bitOp fun w x l => g w x (bitsOf w l 1)) :=
  computes_of_fit run (fun h => [wB h, wB h]) uses fun _ b _ _ _ l fits => by
    rw [arg_eq_toNat (fits 0), arg_eq_toNat (fits 1)]
    exact value _ _

/-- A shift delivers what it makes of an operand of the operating type and a count of 32 bits. -/
theorem computes_shift {f : Nat → Nat → Nat → Nat} {g : (w : Nat) → BitVec w → Nat → BitVec w}
    (run : ∀ s, exec i s = s.aluOut i (fun h l => f (wB h) (arg l 0) (arg l 1)))
    (uses : ∀ h, (usesOf h (formOf h i)).map Use.width = [wB h, 32])
    (value : ∀ {w : Nat}, 0 < w → ∀ (x : BitVec w) (c : Nat), f w x.toNat c = (g w x c).toNat) :
    Computes i (bitOp fun w x l => g w x (bitsOf 32 l 1).toNat) :=
  computes_of_fit run (fun h => [wB h, 32]) uses fun _ b _ _ _ l fits => by
    rw [arg_eq_toNat (fits 0), arg_eq_toNat (w := 32) (fits 1)]
    exact value (tyWidth_pos _) _ _

/-- An instruction of one operand of the operating type delivers what it makes of it. -/
theorem computes_ofBits {f : Nat → Nat → Nat} {g : (w : Nat) → BitVec w → Nat}
    (run : ∀ s, exec i s = s.aluOut i (fun h l => f (wB h) (arg l 0)))
    (uses : ∀ h, (usesOf h (formOf h i)).map Use.width = [wB h]) (value : ∀ {w : Nat} (x : BitVec w), f w x.toNat = g w x) :
    Computes i (fun b _ _ l => g (wideB b.hints) (bitsOf (wideB b.hints) l 0)) :=
  computes_of_fit run (fun h => [wB h]) uses fun _ b _ _ _ l fits => by
    rw [arg_eq_toNat (fits 0)]
    exact value _
end

end Sys2Proof.Machine

open Sys2Proof Sys2Proof.Machine

/-- Settles O2: operands are bits of the operating type, and counts are numbers of 32 bits (`computes_of_fit`); each instruction is its
function of them (`shl_toNat`, `sarN_toNat`, `rot_toNat`, `clz_toNat`, `ctz_toNat`, `revBits_toNat`). -/
theorem logicShiftsAndCounts : Obligations.LogicShiftsAndCounts := by
  unfold Obligations.LogicShiftsAndCounts
  refine ⟨fun d a b n => ⟨?_, ?_, ?_, ?_, ?_, ?_, ?_, ?_⟩, fun d a n => ⟨?_, ?_, ?_, ?_⟩⟩
  · exact computes_logic (f := fun _ => Nat.land) (execAnd.eq_1 d a b n) (fun _ => rfl) fun x y => (BitVec.toNat_and x y).symm
  · exact computes_logic (f := fun _ => Nat.lor) (execOr.eq_1 d a b n) (fun _ => rfl) fun x y => (BitVec.toNat_or x y).symm
  · exact computes_logic (f := fun _ => Nat.xor) (execXor.eq_1 d a b n) (fun _ => rfl) fun x y => (BitVec.toNat_xor x y).symm
  · exact computes_logic (i := .andn d a b n) (f := fun w x y => Nat.land x (notN w y)) (execAndn.eq_1 d a b n) (fun _ => rfl) andn_toNat
  · exact computes_shift (f := fun w x c => if c ≥ w then 0 else x * 2 ^ c % 2 ^ w) (execShl.eq_1 d a b n) (fun _ => rfl) fun _ => shl_toNat
  · exact computes_shift (f := fun w x c => if c ≥ w then 0 else x / 2 ^ c) (execShr.eq_1 d a b n) (fun _ => rfl) fun _ => shr_toNat
  · exact computes_shift (f := sarN) (execSar.eq_1 d a b n) (fun _ => rfl) fun pos x => sarN_toNat x pos
  · exact computes_shift (f := fun w x c => (x * 2 ^ (c % w) + x / 2 ^ (w - c % w)) % 2 ^ w) (g := fun w x c => x.rotateLeft (c % w))
      (execRot.eq_1 d a b n) (fun _ => rfl) fun pos x c => rot_toNat x (Nat.mod_lt c pos)
  · exact computes_ofBits (i := .popc d a n) (f := popc) (execPopc.eq_1 d a n) (fun _ => rfl) popc_toNat
  · exact computes_ofBits (i := .clz d a n) (f := fun w x => if x = 0 then w else w - 1 - Nat.log2 x) (execClz.eq_1 d a n)
      (fun _ => rfl) clz_toNat
  · exact computes_ofBits (i := .ctz d a n) (f := fun w x => (lowBit w x).getD w) (execCtz.eq_1 d a n) (fun _ => rfl) ctz_toNat
  · exact computes_ofBits (i := .brev d a n) (f := revBits) (g := fun _ x => x.reverse.toNat) (execBrev.eq_1 d a n) (fun _ => rfl)
      revBits_toNat
end

section
/-! PROOFS. The funnel shift, bit fields and the byte permute (09 R165). -/
namespace Sys2Proof.Machine

/-! ### Fields of bits -/

theorem extractLsb'_toNat_eq_bits {w : Nat} (x : BitVec w) (lo len : Nat) : (x.extractLsb' lo len).toNat = bits x.toNat lo len := by
  rw [BitVec.extractLsb'_toNat, Nat.shiftRight_eq_div_pow, bits]

theorem bits_zero (x len : Nat) : bits x 0 len = x % 2 ^ len := by rw [bits, Nat.pow_zero, Nat.div_one]

theorem append_toNat {m n : Nat} (x : BitVec m) (y : BitVec n) : (x ++ y).toNat = x.toNat * 2 ^ n + y.toNat := by
  rw [BitVec.toNat_append, ← Nat.shiftLeft_add_eq_or_of_lt y.isLt, Nat.shiftLeft_eq]

/-- The position and the length of a bit field. -/
theorem fieldOf_toNat (w : Word) : fieldOf w.toNat = bitField w := by
  rw [fieldOf, bitField, extractLsb'_toNat_eq_bits, extractLsb'_toNat_eq_bits, bits_zero]
  rfl

theorem bitField_le (w : Word) : (bitField w).2 ≤ 32 := (Nat.min_le_right _ _).trans (Nat.sub_le _ _)

/-! ### FSHF -/

theorem fshf_toNat (x y : Word) (right : Bool) (m : Nat) :
    (if right then (x.toNat * 2 ^ 32 + y.toNat) / 2 ^ m % 2 ^ 32 else (x.toNat * 2 ^ 32 + y.toNat) * 2 ^ m % 2 ^ 64 / 2 ^ 32) =
      (if right then ((x ++ y : DWord) >>> m).extractLsb' 0 32 else ((x ++ y : DWord) <<< m).extractLsb' 32 32).toNat := by
  rw [← append_toNat]
  cases right with
  | true =>
    simp only [if_true, extractLsb'_toNat_eq_bits, bits_zero, BitVec.toNat_ushiftRight, Nat.shiftRight_eq_div_pow]
  | false =>
    have high : (x ++ y : DWord).toNat * 2 ^ m % 2 ^ 64 / 2 ^ 32 < 2 ^ 32 :=
      Nat.div_lt_of_lt_mul (Nat.mod_lt _ (Nat.two_pow_pos 64))
    simp only [Bool.false_eq_true, if_false, extractLsb'_toNat_eq_bits, bits, BitVec.toNat_shiftLeft, Nat.shiftLeft_eq]
    exact (Nat.mod_eq_of_lt high).symm

/-! ### BFX -/

theorem sext_toNat {n : Nat} (pos : 0 < n) (m : Nat) (x : BitVec n) : sext n m x.toNat = (x.signExtend m).toNat := by
  rw [sext, wrapInt_eq_toNat, signedOf_eq_toInt n _ pos, BitVec.ofNat_toNat, BitVec.setWidth_eq, BitVec.signExtend]

/-- The field that BFX takes, extended. -/
theorem bfx_toNat (x : Word) (p : Nat) {k : Nat} (small : k ≤ 32) (signed : Prop) [Decidable signed] :
    (if decide signed && decide (k ≥ 1) then sext k 32 (x.toNat / 2 ^ p % 2 ^ k) else x.toNat / 2 ^ p % 2 ^ k) =
      (if signed then ((x >>> p).setWidth k).signExtend 32 else ((x >>> p).setWidth k).setWidth 32).toNat := by
  have field : x.toNat / 2 ^ p % 2 ^ k = ((x >>> p).setWidth k).toNat := by
    rw [BitVec.toNat_setWidth, BitVec.toNat_ushiftRight, Nat.shiftRight_eq_div_pow]
  rw [field]
  generalize (x >>> p).setWidth k = f
  have whole : f.toNat = (f.setWidth 32).toNat := by
    rw [BitVec.toNat_setWidth, Nat.mod_eq_of_lt (f.isLt.trans_le (Nat.pow_le_pow_right (by decide) small))]
  by_cases ext : signed
  · rcases Nat.eq_zero_or_pos k with rfl | pos
    · rw [BitVec.of_length_zero (x := f), if_pos ext]
      simp
    · rw [decide_eq_true ext, decide_eq_true (p := k ≥ 1) pos, Bool.and_self, if_pos rfl, if_pos ext]
      exact sext_toNat pos 32 f
  · rw [decide_eq_false ext, Bool.false_and, if_neg Bool.false_ne_true, if_neg ext]
    exact whole

/-! ### BFI -/

theorem fieldOnes_toNat (p : Nat) {k : Nat} (small : k ≤ 32) : (2 ^ k - 1) * 2 ^ p % 2 ^ 32 = (fieldOnes p k).toNat := by
  have fits : 2 ^ k - 1 < 2 ^ 32 := by
    have := Nat.pow_le_pow_right (n := 2) (by decide) small
    have := Nat.two_pow_pos k
    omega
  rw [fieldOnes, BitVec.toNat_shiftLeft, BitVec.toNat_ofNat, Nat.mod_eq_of_lt fits, Nat.shiftLeft_eq]

theorem bfi_toNat (x y : Word) (p : Nat) {k : Nat} (small : k ≤ 32) :
    Nat.lor (Nat.land x.toNat (notN 32 ((2 ^ k - 1) * 2 ^ p % 2 ^ 32))) (Nat.land (y.toNat * 2 ^ p % 2 ^ 32) ((2 ^ k - 1) * 2 ^ p % 2 ^ 32)) =
      ((x &&& ~~~fieldOnes p k) ||| ((y <<< p) &&& fieldOnes p k)).toNat := by
  rw [fieldOnes_toNat p small, notN_toNat, BitVec.toNat_or, BitVec.toNat_and, BitVec.toNat_and, BitVec.toNat_shiftLeft, Nat.shiftLeft_eq]
  rfl

/-! ### BPERM -/

/-- The byte that a selector of four bits names: that of its low three bits, or copies of its sign. -/
theorem permByte_toNat (pool : DWord) (g : BitVec 4) :
    (if g.toNat < 8 then bits pool.toNat (8 * (g.toNat % 8)) 8 else if bits pool.toNat (8 * (g.toNat % 8)) 8 ≥ 128 then 255 else 0) =
      (permByte pool g).toNat := by
  have index : (g.extractLsb' 0 3).toNat = g.toNat % 8 := by
    rw [extractLsb'_toNat_eq_bits, bits_zero]
    rfl
  have sign : g.getLsbD 3 = decide (8 ≤ g.toNat) := by
    have := g.isLt
    rw [BitVec.getLsbD, Nat.testBit_eq_decide_div_mod_eq]
    exact decide_eq_decide.2 (by omega)
  unfold permByte
  rw [index, sign]
  rw [← extractLsb'_toNat_eq_bits]
  generalize pool.extractLsb' (8 * (g.toNat % 8)) 8 = y
  have negative : y.getLsbD 7 = decide (128 ≤ y.toNat) := by
    have := y.isLt
    rw [BitVec.getLsbD, Nat.testBit_eq_decide_div_mod_eq]
    exact decide_eq_decide.2 (by omega)
  dsimp only
  rw [negative]
  simp only [decide_eq_true_eq]
  by_cases low : g.toNat < 8
  · rw [if_pos low, if_neg (Nat.not_le.2 low)]
  · rw [if_neg low, if_pos (Nat.le_of_not_lt low)]
    split <;> rfl

theorem sum_range_four (f : Nat → Nat) : ((List.range 4).map f).foldl (· + ·) 0 = f 0 + f 1 + f 2 + f 3 := by
  simp [List.range_succ]

/-- Four bytes, the lowest first, are the number that they stand for. -/
theorem foldl_bytes (z : Nat → BitVec 8) :
    ((List.range 4).map (fun i => (z i).toNat * 2 ^ (8 * i))).foldl (· + ·) 0 = (z 3 ++ z 2 ++ z 1 ++ z 0).toNat := by
  rw [sum_range_four, append_toNat, append_toNat, append_toNat]
  omega

theorem bperm_toNat (x y c : Word) :
    ((List.range 4).map (fun i =>
      let g := bits c.toNat (4 * i) 4
      let z := bits (y.toNat * 2 ^ 32 + x.toNat) (8 * (g % 8)) 8
      (if g < 8 then z else if z ≥ 128 then 255 else 0) * 2 ^ (8 * i))).foldl (· + ·) 0 =
      (permByte (y ++ x) (c.extractLsb' 12 4) ++ permByte (y ++ x) (c.extractLsb' 8 4) ++
        permByte (y ++ x) (c.extractLsb' 4 4) ++ permByte (y ++ x) (c.extractLsb' 0 4)).toNat := by
  refine (congrArg (List.foldl (· + ·) 0) (List.map_congr_left fun i _ => ?_)).trans
    (foldl_bytes fun i => permByte (y ++ x) (c.extractLsb' (4 * i) 4))
  dsimp only
  rw [← permByte_toNat, extractLsb'_toNat_eq_bits, append_toNat]

/-! ### The instructions of R165 -/

/-- An instruction whose operating types have 32 bits delivers what it makes of its words. -/
theorem computes_words {i : Instr} {f : Hints → List Nat → Nat} {v : Bundle → State → Nat → List Nat → Nat}
    (run : ∀ s, exec i s = s.aluOut i f) (d : Nat) (ts third : List Nat)
    (types : ∀ h, (formOf h i).types = ts) (words : ∀ t ∈ d :: ts, tyWidth t = 32)
    (uses : ∀ h, (usesOf h (formOf h i)).map Use.width = tyWidth (hTy h d) :: tyWidth (hTy h d) :: third) (narrow : ∀ n ∈ third, n ≤ 32)
    (value : ∀ b s u l, (∀ k, arg l k = (bitsOf 32 l k).toNat) → f b.hints l = v b s u l) : Computes i v := by
  refine computes_of_aluOut run fun s b rest h u => ?_
  have word : tyWidth (hTy b.hints d) = 32 := words _ (List.mem_cons.2 (types b.hints ▸ h.hTy_mem d))
  have fits := fun k => s.operands_getD_lt u k (h := b.hints) (f := formOf b.hints i) (w := 32) fun x hx => by
    have width := List.mem_map_of_mem (f := Use.width) hx
    rw [uses, word] at width
    simp only [List.mem_cons] at width
    obtain e | e | e := width
    · exact e.le
    · exact e.le
    · exact narrow _ e
  exact value b s u _ fun k => arg_eq_toNat (fits k)

end Sys2Proof.Machine

open Sys2Proof Sys2Proof.Machine

/-- Settles O3: the operands are words (`computes_words`), and each instruction is its function of them (`fshf_toNat`, `bfx_toNat`,
`bfi_toNat`, `bperm_toNat`). -/
theorem bitFields : Obligations.BitFields := by
  unfold Obligations.BitFields
  intro d a b n
  refine ⟨?_, ?_, ?_, ?_⟩
  · refine computes_words (execFshf.eq_1 d a b n) 11 [11] [32] (fun _ => rfl) (by decide) (fun _ => rfl) (by decide) fun bd s u l word => ?_
    rw [word 0, word 1, word 2]
    exact fshf_toNat _ _ _ _
  · refine computes_words (execBfx.eq_1 d a b n) 7 [7, 3] [] (fun _ => rfl) (by decide) (fun _ => rfl) (by decide) fun bd s u l word => ?_
    rw [word 0, word 1, fieldOf_toNat]
    exact bfx_toNat _ _ (bitField_le _) _
  · refine computes_words (execBfi.eq_1 d a b n) 11 [11] [32] (fun _ => rfl) (by decide) (fun _ => rfl) (by decide) fun bd s u l word => ?_
    rw [word 0, word 1, word 2, fieldOf_toNat]
    exact bfi_toNat _ _ _ (bitField_le _)
  · refine computes_words (execBperm.eq_1 d a b n) 11 [11] [32] (fun _ => rfl) (by decide) (fun _ => rfl) (by decide) fun bd s u l word => ?_
    rw [word 0, word 1, word 2]
    exact bperm_toNat _ _ _
end

section
/-! PROOFS. Indirect branches, yields and NOP (09 R176, R177, R180, R181). -/
namespace Sys2Proof.Machine

/-! ### Threads that go to targets of their own (R176, R177) -/

theorem State.jump_eq (s : State) (t pc : Nat) : s.jump t pc = s.modThread t (fun x => x.moved (BitVec.ofNat 57 pc)) := rfl

/-- Threads whose targets are multiples of 4 within the address space all go there. -/
theorem State.gotoAll_of_near (s : State) (b : Bundle) (ts : List Nat) (tgt : Nat → Nat) (link : Option (BitVec 7))
    (near : ∀ u ∈ ts, tgt u % 4 = 0 ∧ tgt u < 2 ^ 57) :
    s.gotoAll b (ts.map (fun t => (t, tgt t))) link = ts.foldl (fun s t => s.goto64 b t (tgt t) link) s := by
  have aligned : (ts.map (fun t => (t, tgt t))).partition (fun p => p.2 % 4 ≠ 0) = ([], ts.map (fun t => (t, tgt t))) := by
    rw [List.partition_eq_filter_filter]
    refine Prod.ext (List.filter_eq_nil_iff.2 ?_) (List.filter_eq_self.2 ?_)
    all_goals
      intro p hp
      obtain ⟨u, hu, rfl⟩ := List.mem_map.1 hp
      simp [(near u hu).1]
  have inside : (ts.map (fun t => (t, tgt t))).filter (fun p => 2 ^ 57 ≤ p.2) = [] := by
    refine List.filter_eq_nil_iff.2 fun p hp => ?_
    obtain ⟨u, hu, rfl⟩ := List.mem_map.1 hp
    simpa using (near u hu).2
  unfold State.gotoAll
  rw [aligned]
  dsimp only
  rw [inside, List.map_nil, trapAt_nil, List.foldl_map]
  rfl

/-- RET and BRX move each thread to its own target (R177). -/
theorem steers_of_goto {i : Instr} (run : ∀ s, exec i s = s.issueWord i (fun b act s =>
      s.gotoAll b (act.map (fun t => (t, arg (s.operands b.hints t (formOf b.hints i)) 0))) none))
    {s : State} {b : Bundle} {rest : List Bundle} (h : s.Executes b rest i)
    (near : ∀ u ∈ b.threads, (s.operands b.hints u (formOf b.hints i)).getD 0 0 % 4 = 0 ∧
      (s.operands b.hints u (formOf b.hints i)).getD 0 0 < 2 ^ 57) :
    ∃ t, exec i s = .next t ∧ s.Steers b rest i (fun u x =>
      x.moved (BitVec.ofNat 57 ((s.operands b.hints u (formOf b.hints i)).getD 0 0))) t := by
  rw [run]
  refine steers_of_fold h _ _ fun s1 begun => ?_
  simp only [begun.operands]
  exact State.gotoAll_of_near s1 b b.threads _ none near

/-! ### Calls (R176) -/

/-- Registers are written alike whatever the threads' control state, where no line is evicted for them. -/
theorem State.writeRegs_threads (T : Tab Thread) (t : Nat) : ∀ (ws : List Word) (s : State) (n : Nat), s.Avail t n ws.length →
    ({ s with threads := T } : State).writeRegs t n ws = { s.writeRegs t n ws with threads := T }
  | [], _, _, _ => rfl
  | v :: r, s, n, room => by
    have first : ({ s with threads := T } : State).writeReg t n v = { s.writeReg t n v with threads := T } := by
      rw [writeReg_eq s t n v room.placed, writeReg_eq _ t n v (show State.Placed { s with threads := T } t n from room.placed)]
      rfl
    rw [State.writeRegs, first]
    exact State.writeRegs_threads T t r _ _ (room.next v)

/-- A destination is written to the same register lines whatever the threads' control state. -/
theorem State.lines_putDst_threads (s : State) (T : Tab Thread) (t : Nat) {d : Option Use} (v : Nat) (small : gidOf t < 2 ^ 40)
    (fit : fits d) (room : ∀ u, d = some u → u.code.toNat < 120 → s.Avail t u.code.toNat u.regs) :
    (({ s with threads := T } : State).putDst t d v).lines = (s.putDst t d v).lines := by
  cases d with
  | none => rfl
  | some u =>
    simp only [State.putDst, State.writeDst, if_neg (Nat.not_le.2 small), ← fit u rfl]
    by_cases reg : u.code.toNat < 120
    · rw [if_pos reg, if_pos reg, State.writeRegs_threads T t _ s _ (by rw [wordsOf_length]; exact room u rfl reg)]
    · rw [if_neg reg, if_neg reg]
      split <;> rfl

/-- A thread delivers its result and goes to its target (R176). -/
def State.linkTo (d : Option Use) (v tgt : Nat → Nat) (s : State) (t : Nat) : State := (s.putDst t d (v t)).jump t (tgt t)

/-- Threads that deliver and go, one after another, leave what their deliveries alone leave, and stand at their targets. -/
theorem foldl_linkTo (core : Nat) {d : Option Use} (v tgt : Nat → Nat) (fit : fits d) : ∀ (ts : List Nat) (s x : State),
    x = { s with threads := x.threads } → (ts.map laneOf).Nodup → (∀ t ∈ ts, coreOf t = core) → (∀ t ∈ ts, gidOf t < 2 ^ 40) →
      s.RoomFor core ts (dstRegs d) →
      ts.foldl (State.linkTo d v tgt) x =
          { s.putAll ts d v (fun _ => 0) with threads := (ts.foldl (State.linkTo d v tgt) x).threads } ∧
        ∀ u, (ts.foldl (State.linkTo d v tgt) x).thread u =
          if u ∈ ts then ((x.thread u).latched d (v u)).moved (BitVec.ofNat 57 (tgt u)) else x.thread u
  | [], _, _, like, _, _, _, _ => ⟨like, fun _ => rfl⟩
  | t :: r, s, x, like, distinct, cores, small, room => by
    obtain ⟨T, rfl⟩ : ∃ T, x = { s with threads := T } := ⟨_, like⟩
    obtain ⟨lane, distinct⟩ := List.nodup_cons.1 distinct
    have absent : t ∉ r := fun h => lane (List.mem_map_of_mem h)
    obtain rfl := cores t List.mem_cons_self
    have near := small t List.mem_cons_self
    have p := putDst_put s t d (v t) near fit room.avail
    have q := putDst_put { s with threads := T } t d (v t) near fit (State.RoomFor.avail (r := r) room)
    have lines := State.lines_putDst_threads s T t (v t) near fit room.avail
    have first : State.linkTo d v tgt { s with threads := T } t =
        { s.putDst t d (v t) with threads := (State.linkTo d v tgt { s with threads := T } t).threads } := by
      rw [State.linkTo, State.jump_eq, q.frame, p.frame, lines]
      rfl
    have thread : ∀ u, (State.linkTo d v tgt { s with threads := T } t).thread u =
        if u = t then ((T.at' Thread.reset t).latched d (v t)).moved (BitVec.ofNat 57 (tgt t)) else T.at' Thread.reset u := by
      intro u
      rw [State.linkTo, State.jump_eq, State.thread_modThread]
      split
      · rw [q.own]
        rfl
      · next other => exact q.others u other
    obtain ⟨frame, threads⟩ := foldl_linkTo (coreOf t) v tgt fit r _ _ first distinct
      (fun x hx => cores x (List.mem_cons_of_mem t hx)) (fun x hx => small x (List.mem_cons_of_mem t hx)) (p.roomFor room)
    refine ⟨frame, fun u => (threads u).trans ?_⟩
    rw [thread]
    by_cases own : u = t
    · subst own
      rw [if_neg absent, if_pos rfl, if_pos List.mem_cons_self]
      rfl
    · simp only [List.mem_cons, own, if_false, false_or]
      rfl

section
variable {s s1 : State} {b : Bundle} {rest : List Bundle} {i : Instr}

/-- The threads of a bundle that deliver and go leave a delivery but for where they stand. -/
theorem State.Begun.links (begun : s.Begun b i rest s1) (h : s.Executes b rest i) (room : s.Room b (formOf b.hints i)) (v tgt : Nat → Nat) :
    ∃ x y : State, b.threads.foldl (State.linkTo (formOf b.hints i).dst v tgt) s1 = x ∧
      s.Delivers b rest i v (fun _ => 0) { y with held := s.heldAfter b i } ∧ y.held = s.held ∧ x = { y with threads := x.threads } ∧
      ∀ u, x.thread u = if u ∈ b.threads then
        (((s.thread u).issued s b i).latched (formOf b.hints i).dst (v u)).moved (BitVec.ofNat 57 (tgt u)) else s.thread u := by
  have small := gid_small h.toBundled
  have roomFor : s1.RoomFor b.core b.threads (dstRegs (formOf b.hints i).dst) := by
    rw [begun.frame]
    exact room
  have put := putAll_put b.core _ v (fun _ => 0) (fits_formOf b.hints i) b.threads s1 h.lanes h.core small roomFor
  obtain ⟨frame, threads⟩ := foldl_linkTo b.core v tgt (fits_formOf b.hints i) b.threads s1 s1 rfl h.lanes h.core small roomFor
  refine ⟨_, _, rfl, put.delivers begun (List.Perm.refl _), ?_, frame, fun u => (threads u).trans ?_⟩
  · rw [put.frame, begun.held]
  · rw [begun.threads]
    split <;> rfl

/-- Where a thread's CALL leads (R176). -/
def State.callTarget (s : State) (b : Bundle) (i : Instr) (u : Nat) : Nat :=
  let v := arg (s.operands b.hints u (formOf b.hints i)) 0
  if xmodBit b.hints 0 then (b.pc.toNat + 4 * v) % 2 ^ 64 else v

theorem State.Begun.callTarget (begun : s.Begun b i rest s1) (j : Instr) (u : Nat) : s1.callTarget b j u = s.callTarget b j u := by
  rw [State.callTarget, begun.operands, State.callTarget]

/-- CALL writes the return address of each thread, and moves it to its target (R176). -/
theorem call_links {d a : BitVec 7} {n : Bool} {tgt : Nat → Nat} (h : s.Executes b rest (.call d a n))
    (room : s.Room b (formOf b.hints (.call d a n)))
    (near : ∀ u ∈ b.threads, tgt u = s.callTarget b (.call d a n) u ∧ tgt u % 4 = 0 ∧ tgt u < 2 ^ 57) :
    ∃ t t', exec (.call d a n) s = .next t ∧ s.Delivers b rest (.call d a n) (fun _ => (b.pc + 4).toNat) (fun _ => 0) t' ∧
      t = { t' with threads := t.threads } ∧ (∀ u ∈ b.threads, t.thread u = (t'.thread u).moved (BitVec.ofNat 57 (tgt u))) ∧
      ∀ u, u ∉ b.threads → t.thread u = s.thread u := by
  have run : exec (.call d a n) s = s.issueWord (.call d a n) (fun b act s1 =>
      s1.gotoAll b (act.map (fun t => (t, s1.callTarget b (.call d a n) t))) (some d)) := rfl
  obtain ⟨s1, begun, result⟩ := issueWord_begun h fun b act s1 =>
    s1.gotoAll b (act.map (fun t => (t, s1.callTarget b (.call d a n) t))) (some d)
  obtain ⟨x, y, linked, delivers, held, frame, threads⟩ := begun.links h room (fun _ => (b.pc + 4).toNat) tgt
  have targets : b.threads.map (fun t => (t, s1.callTarget b (.call d a n) t)) = b.threads.map (fun t => (t, tgt t)) :=
    List.map_congr_left fun u hu => by rw [begun.callTarget, (near u hu).1]
  have effect : s1.gotoAll b (b.threads.map (fun t => (t, s1.callTarget b (.call d a n) t))) (some d) = x := by
    rw [targets, State.gotoAll_of_near s1 b b.threads tgt (some d) fun u hu => (near u hu).2]
    exact linked
  rw [effect, held_keepLatches s x b _ _ _ ((congrArg State.held frame).trans held)] at result
  refine ⟨_, _, run.trans result, delivers, ?_, fun u hu => ?_, fun u hu => (threads u).trans (if_neg hu)⟩
  · dsimp only
    rw [frame]
    rfl
  · rw [delivers.threads u hu]
    exact (threads u).trans (if_pos hu)
end

/-! ### YIELD (R180) -/

/-- A thread that yields for `d` clk: it ranks last, and waits from 64 clk on (R180). -/
def Thread.yielded (x : Thread) (now d : Nat) : Thread :=
  if d = 0 then { x with yields := true }
  else { x with yields := true, waitFor := .yieldDelay (now + d), tstate := if d < 64 then x.tstate else .wait }

/-- What YIELD reads of a state is as in `s`: the time, the threads' rights, and their operands. -/
structure State.ReadsAs (s x : State) (b : Bundle) (f : Form) : Prop where
  clk : x.clk = s.clk
  rights : ∀ u, x.isSup u = s.isSup u
  operands : ∀ u, x.operands b.hints u f = s.operands b.hints u f

theorem State.ReadsAs.modThread {s x : State} {b : Bundle} {f : Form} (h : s.ReadsAs x b f) (t : Nat) {g : Thread → Thread}
    (latch : ∀ y, (g y).latch = y.latch) : s.ReadsAs (x.modThread t g) b f := by
  refine ⟨h.clk, h.rights, fun u => (operands_congr x (x.modThread t g) b.hints u f (fun _ => rfl) ?_ fun _ => rfl).trans (h.operands u)⟩
  rw [State.thread_modThread]
  split
  · next e => rw [latch, e]
  · rfl

theorem Thread.yielded_latch (x : Thread) (now d : Nat) : (x.yielded now d).latch = x.latch := by
  unfold Thread.yielded
  split <;> rfl

/-- Each thread yields for its own operand. -/
theorem yield_steers {s : State} {b : Bundle} {rest : List Bundle} {a : BitVec 7} (h : s.Executes b rest (.yield a))
    (user : ∀ u ∈ b.threads, s.isSup u = false) :
    ∃ t, exec (.yield a) s = .next t ∧ s.Steers b rest (.yield a) (fun u x =>
      x.yielded s.clk (min ((s.operands b.hints u (formOf b.hints (.yield a))).getD 0 0) 65535)) t := by
  change ∃ t, execYield a s = .next t ∧ _
  rw [execYield]
  refine steers_of_fold h _ _ fun s1 begun => ?_
  have start : s.ReadsAs s1 b (formOf b.hints (.yield a)) :=
    ⟨begun.clk, fun u => by rw [begun.frame]; rfl, fun u => begun.operands _ _ _⟩
  refine (List.foldl_rel (r := fun x y => x = y ∧ s.ReadsAs y b (formOf b.hints (.yield a))) ⟨rfl, start⟩ fun u hu x y like => ?_).1
  obtain ⟨rfl, reads⟩ := like
  refine ⟨?_, reads.modThread u fun y => y.yielded_latch _ _⟩
  dsimp only
  rw [reads.rights, user u hu, if_neg Bool.false_ne_true, reads.operands, reads.clk]
  refine congrArg (x.modThread u) (funext fun y => ?_)
  simp only [Thread.yielded, arg, ge_iff_le, ← Nat.not_lt, ite_not]

end Sys2Proof.Machine

open Sys2Proof Sys2Proof.Machine

/-- Settles O15: RET and BRX are moves alone (`steers_of_goto`); the threads of a CALL write the return address where no line is evicted
for it, so the moves of the others leave what each writes (`foldl_linkTo`). -/
theorem indirectBranches : Obligations.IndirectBranches := by
  unfold Obligations.IndirectBranches
  refine fun d a n => ⟨fun i word s b rest h near => ?_, fun s b rest tgt h room near => call_links h room near⟩
  obtain rfl | rfl := word
  · exact steers_of_goto (i := .ret a) (execRet.eq_1 a) h near
  · exact steers_of_goto (i := .brx a) (execBrx.eq_1 a) h near

/-- Settles O17: each thread yields for its own operand, which the yields of the others leave alone (`yield_steers`). -/
theorem yield : Obligations.Yield := by
  unfold Obligations.Yield
  exact fun a s b rest h user => yield_steers h user

/-- Settles O18: NOP has no effect, so its threads move on (`steers_of_nothing`). -/
theorem nopChangesNothing : Obligations.NopChangesNothing := by
  unfold Obligations.NopChangesNothing
  exact ⟨rfl, fun s b rest h => steers_of_nothing (execNop.eq_1 s) h fun _ _ => rfl⟩
end

section
/-! PROOFS. Floating-point arithmetic: the exact value of the operands rounded once, extrema, comparisons and classes (10 R188–R195,
R200). -/
namespace Sys2Proof.Machine

/-! ### The exact value rounded once (R190, R200) -/

/-- The types that arithmetic is done in: .F64, .F32, .F16 and .BF16 (R145, R189, R192). -/
def arithTypes : List Nat := [14, 15, 16, 17]

theorem sp_of_arithType {ty : Nat} (typed : ty ∈ arithTypes) : (fmtOf ty).sp = .ieee := by
  revert ty
  decide

/-- The delivery of an exact value `v` of the operands `xs`, case by case (R190). -/
def roundedOnce (f : Fmt) (d : Deliver) (xs : List Num) (v : Num) : Nat × BitVec 5 :=
  if xs.any (·.isNan) then (f.nanCode, sigNan xs)
  else
    match v with
    | .nan _ => (f.nanCode, cIV)
    | .inf neg => (f.withSign neg (if d.sat then f.maxCode else f.infCode), 0)
    | .fin _ _ _ => deliver f d false v

@[simp] theorem Num.isNan_nan (s : Bool) : (Num.nan s).isNan = true := rfl
@[simp] theorem Num.isNan_inf (s : Bool) : (Num.inf s).isNan = false := rfl
@[simp] theorem Num.isNan_fin (s : Bool) (n d : Nat) : (Num.fin s n d).isNan = false := rfl

theorem any_isSnan_of_any_isNan {xs : List Num} (numbers : xs.any (·.isNan) = false) : xs.any (·.isSnan) = false := by
  rw [List.any_eq_false] at numbers ⊢
  intro x hx
  cases x with
  | nan => exact absurd rfl (numbers _ hx)
  | inf => exact Bool.false_ne_true
  | fin => exact Bool.false_ne_true

/-- An operation that gives a NaN for a NaN delivers its exact value rounded once. -/
theorem arith_eq_roundedOnce {f : Fmt} (ieee : f.sp = .ieee) (d : Deliver) {xs : List Num} {v : Num}
    (strict : xs.any (·.isNan) = true → v.isNan = true) : arith f d xs v = roundedOnce f d xs v := by
  cases nans : xs.any (·.isNan) with
  | true =>
    cases v with
    | nan => simp [arith, roundedOnce, deliver, nans, ieee, cIf]
    | inf => exact nomatch strict nans
    | fin => exact nomatch strict nans
  | false =>
    have quiet : sigNan xs = 0 := by rw [sigNan, any_isSnan_of_any_isNan nans, cIf, if_neg Bool.false_ne_true]
    cases v with
    | nan => simp [arith, roundedOnce, deliver, nans, quiet, ieee, cIf]
    | inf => simp [arith, roundedOnce, deliver, nans, quiet, ieee, cIf]
    | fin => simp [arith, roundedOnce, nans, quiet, cIf]

theorem fpOp_eq_roundedOnce (ty k : Nat) (g : Bool → (Nat → Num) → Num) (b : Bundle) (s : State) (t : Nat) (l : List Nat) :
    fpOp ty k g b s t l = roundedOnce (fmtOf ty) (s.delivery b t 0 0) ((List.range k).map fun i => (fmtOf ty).read (l.getD i 0))
      (g (hRound b.hints == 2) fun i => (fmtOf ty).read (l.getD i 0)) := rfl

/-! ### Operations give a NaN for a NaN (R190) -/

theorem Num.isNan_add {a b : Num} (nan : a.isNan = true ∨ b.isNan = true) (down : Bool) : (Num.add down a b).isNan = true := by
  cases a with
  | nan => rfl
  | inf => cases b <;> simp_all [Num.add]
  | fin => cases b <;> simp_all [Num.add]

theorem Num.isNan_mul {a b : Num} (nan : a.isNan = true ∨ b.isNan = true) : (a.mul b).isNan = true := by
  cases a with
  | nan => rfl
  | inf => cases b <;> simp_all [Num.mul]
  | fin => cases b <;> simp_all [Num.mul]

theorem Num.isNan_negate (a : Num) : a.negate.isNan = a.isNan := by cases a <;> rfl

theorem Num.isNan_scale (a : Num) (b : Int) : (a.scale b).isNan = a.isNan := by
  cases a with
  | nan => rfl
  | inf => rfl
  | fin =>
    rw [Num.scale]
    split <;> rfl

theorem any_isNan_pair {x y : Num} (h : [x, y].any (·.isNan) = true) : x.isNan = true ∨ y.isNan = true := by
  simpa using h

theorem add_strict (down : Bool) (x y : Num) (h : [x, y].any (·.isNan) = true) : (Num.add down x y).isNan = true :=
  Num.isNan_add (any_isNan_pair h) down

theorem sub_strict (down : Bool) (x y : Num) (h : [x, y].any (·.isNan) = true) : (Num.sub down x y).isNan = true :=
  Num.isNan_add (by rw [Num.isNan_negate]; exact any_isNan_pair h) down

theorem mul_strict (x y : Num) (h : [x, y].any (·.isNan) = true) : (x.mul y).isNan = true :=
  Num.isNan_mul (any_isNan_pair h)

theorem fma_strict (down : Bool) (x y z : Num) (h : [x, y, z].any (·.isNan) = true) :
    (Num.add down (x.mul y) z).isNan = true := by
  have nan : (x.isNan = true ∨ y.isNan = true) ∨ z.isNan = true := by simpa [or_assoc] using h
  exact Num.isNan_add (nan.imp_left Num.isNan_mul) down

/-! ### Operations in a type -/

section
variable {ty : Nat} (typed : ty ∈ arithTypes) (b : Bundle) (s : State) (t : Nat) (l : List Nat)
include typed

theorem fp2_eq {op : Bool → Num → Num → Num}
    (strict : ∀ down x y, [x, y].any (·.isNan) = true → (op down x y).isNan = true) :
    fp2 ty op b s t l = fpOp ty 2 (fun down x => op down (x 0) (x 1)) b s t l := by
  rw [fpOp_eq_roundedOnce]
  exact arith_eq_roundedOnce (sp_of_arithType typed) _ (strict _ _ _)

theorem fp3_eq : fp3 ty b s t l = fpOp ty 3 (fun down x => Num.add down ((x 0).mul (x 1)) (x 2)) b s t l := by
  rw [fpOp_eq_roundedOnce]
  exact arith_eq_roundedOnce (sp_of_arithType typed) _ (fma_strict _ _ _ _)
end

section
variable {s s' : State} (near : s.Near s') (ty : Nat) (b : Bundle) (t : Nat) (l : List Nat)
include near

theorem State.Near.fp2 (op : Bool → Num → Num → Num) : fp2 ty op b s' t l = fp2 ty op b s t l := by
  simp only [Machine.fp2, near.delivery]

theorem State.Near.fp3 : fp3 ty b s' t l = fp3 ty b s t l := by
  simp only [Machine.fp3, near.delivery]
end

theorem computesF_fp2 {i : Instr} {ty : Nat} (typed : ty ∈ arithTypes) {op : Bool → Num → Num → Num}
    (strict : ∀ down x y, [x, y].any (·.isNan) = true → (op down x y).isNan = true)
    (run : ∀ s, exec i s = s.fpOut i (fp2 ty op)) : ComputesF i (fpOp ty 2 fun down x => op down (x 0) (x 1)) :=
  computesF_of_fpOut run (fun b _ _ near t l => near.fp2 ty b t l op) fun s b _ _ u => fp2_eq typed b s u _ strict

theorem computesF_fp3 {i : Instr} {ty : Nat} (typed : ty ∈ arithTypes) (run : ∀ s, exec i s = s.fpOut i (fp3 ty)) :
    ComputesF i (fpOp ty 3 fun down x => Num.add down ((x 0).mul (x 1)) (x 2)) :=
  computesF_of_fpOut run (fun b _ _ near t l => near.fp3 ty b t l) fun s b _ _ u => fp3_eq typed b s u _

/-! ### Extrema (R191) -/

/-- The order of the extrema is the numeric one with −0 below +0. -/
theorem Num.lt_eq (x y : Num) : x.lt y = (numLess x y || (x.isZero && y.isZero && x.neg && !y.neg)) := by
  cases x <;> cases y <;> simp [Num.lt, numLess, Num.ltFin, Num.isZero]

theorem minMax_eq (ty : Nat) (max : Bool) (a b : Nat) : minMax (fmtOf ty) max a b = extremum ty max a b := by
  simp only [minMax, extremum, Num.lt_eq]

theorem computesF_minMax {i : Instr} {ty : Nat} {max : Bool}
    (run : ∀ s, exec i s = s.fpOut i (fun _ _ _ l => minMax (fmtOf ty) max (arg l 0) (arg l 1))) :
    ComputesF i (fun _ _ _ l => extremum ty max (l.getD 0 0) (l.getD 1 0)) :=
  computesF_of_fpOut run (fun _ _ _ _ _ _ => rfl) fun _ _ _ _ _ => minMax_eq ty max _ _

/-! ### Conditions (R61, R195) -/

/-- Codes 0 to 5 are the conditions of R61 between integers. -/
theorem icond_eq {cc : Nat} (code : cc ≤ 5) (a b : Int) : icond cc a b = intCond cc a b := by
  interval_cases cc <;> rfl

/-- Two numbers are equal where neither is less (R195). -/
theorem Num.eq_eq_numSame {a b : Num} (ha : a.isNan = false) (hb : b.isNan = false) : a.eq b = numSame a b := by
  cases a with
  | nan => cases ha
  | inf s => cases b with
    | nan => cases hb
    | inf t => cases s <;> cases t <;> rfl
    | fin t m e => cases s <;> rfl
  | fin s n d => cases b with
    | nan => cases hb
    | inf t => cases t <;> rfl
    | fin t m e =>
      change (_ == _) = (!decide (_ < _) && !decide (_ < _))
      rw [Bool.eq_iff_iff]
      simp only [beq_iff_eq, Bool.and_eq_true, Bool.not_eq_true', decide_eq_false_iff_not, not_lt]
      exact ⟨fun e => ⟨e.ge, e.le⟩, fun ⟨ge, le⟩ => le_antisymm le ge⟩

/-- A zero is not less than another. -/
theorem numLess_of_isZero {a b : Num} (za : a.isZero = true) (zb : b.isZero = true) : numLess a b = false := by
  cases a with
  | nan => cases za
  | inf => cases za
  | fin s n d => cases b with
    | nan => cases zb
    | inf => cases zb
    | fin t m e =>
      obtain rfl : n = 0 := beq_iff_eq.1 za
      obtain rfl : m = 0 := beq_iff_eq.1 zb
      cases s <;> cases t <;> simp [numLess, Num.top]

theorem numSame_comm (a b : Num) : numSame a b = numSame b a := Bool.and_comm _ _

/-- The order that has −0 below +0, but between equal numbers, is the numeric one. -/
theorem Num.lt_and_not_same (a b : Num) : (a.lt b && !numSame a b) = numLess a b := by
  rw [Num.lt_eq, numSame]
  cases numLess a b with
  | true => rfl
  | false =>
    cases za : a.isZero with
    | false => rfl
    | true =>
      cases zb : b.isZero with
      | false => rfl
      | true => simp [numLess_of_isZero zb za]

/-- Codes 0 to 13 are the conditions of R61 between floating values. -/
theorem fcond_eq {cc : Nat} (code : cc ≤ 13) (a b : Num) : fcond cc a b = floatCond cc a b := by
  cases nan : (a.isNan || b.isNan) with
  | true => interval_cases cc <;> simp [fcond, floatCond, nan]
  | false =>
    obtain ⟨ha, hb⟩ := Bool.or_eq_false_iff.1 nan
    have above : (b.lt a && !numSame a b) = numLess b a := by rw [numSame_comm, Num.lt_and_not_same]
    unfold fcond
    simp only [Num.eq_eq_numSame ha hb, Num.lt_and_not_same, above, nan]
    interval_cases cc <;> simp [floatCond, nan]

/-! ### FCLASS (R192) -/

theorem Fmt.exponent_eq (f : Fmt) (x : Nat) : x % 2 ^ f.signBit / 2 ^ f.m = x / 2 ^ f.m % 2 ^ f.e := by
  rw [Fmt.signBit, Nat.add_comm, Nat.pow_add, Nat.mod_mul_right_div_self]

theorem Fmt.mantissa_eq (f : Fmt) (x : Nat) : x % 2 ^ f.signBit % 2 ^ f.m = x % 2 ^ f.m :=
  Nat.mod_mod_of_dvd x (Nat.pow_dvd_pow 2 (Nat.le_add_left _ _))

/-- The greatest exponent encodes an infinity or a NaN (R145, R146). -/
theorem Fmt.read_of_top {f : Fmt} (ieee : f.sp = .ieee) {x : Nat} (top : x / 2 ^ f.m % 2 ^ f.e = 2 ^ f.e - 1) :
    f.read x = if x % 2 ^ f.m = 0 then .inf (x.testBit f.signBit) else .nan (!(x % 2 ^ f.m).testBit (f.m - 1)) := by
  simp [Fmt.read, ieee, Fmt.exponent_eq, Fmt.mantissa_eq, top, bit]

/-- Every other exponent encodes a finite value, zero where exponent and mantissa are (R145). -/
theorem Fmt.read_of_finite {f : Fmt} (ieee : f.sp = .ieee) {x : Nat} (finite : x / 2 ^ f.m % 2 ^ f.e ≠ 2 ^ f.e - 1) :
    ∃ n d, f.read x = .fin (x.testBit f.signBit) n d ∧ (n = 0 ↔ x / 2 ^ f.m % 2 ^ f.e = 0 ∧ x % 2 ^ f.m = 0) := by
  have zero : (if x / 2 ^ f.m % 2 ^ f.e = 0 then x % 2 ^ f.m else 2 ^ f.m + x % 2 ^ f.m) = 0 ↔
      x / 2 ^ f.m % 2 ^ f.e = 0 ∧ x % 2 ^ f.m = 0 := by
    have := Nat.two_pow_pos f.m
    split <;> omega
  simp only [Fmt.read, ieee, Fmt.exponent_eq, Fmt.mantissa_eq, beq_eq_false_iff_ne.2 finite, bit]
  generalize (if x / 2 ^ f.m % 2 ^ f.e = 0 then x % 2 ^ f.m else 2 ^ f.m + x % 2 ^ f.m) = n at zero ⊢
  split
  · next h => exact absurd h (by decide)
  split
  · next h => exact absurd h (by simp)
  split
  · exact ⟨_, _, rfl, by rw [← zero]; simp⟩
  · exact ⟨_, _, rfl, zero⟩

/-- FCLASS sets the bit of the class. -/
theorem fclassMask_eq {ty : Nat} (typed : ty ∈ arithTypes) (x : Nat) : fclassMask (fmtOf ty) x = 2 ^ classOf ty x := by
  have ieee := sp_of_arithType typed
  simp only [fclassMask, classOf]
  generalize fmtOf ty = f at ieee
  have subnormal : x % 2 ^ f.signBit < 2 ^ f.m ↔ x / 2 ^ f.m % 2 ^ f.e = 0 := by
    rw [← Fmt.exponent_eq, Nat.div_eq_zero_iff_lt (Nat.two_pow_pos _)]
  have sign : x.testBit (f.e + f.m) = x.testBit f.signBit := rfl
  rw [sign]
  congr 1
  by_cases top : x / 2 ^ f.m % 2 ^ f.e = 2 ^ f.e - 1
  · rw [Fmt.read_of_top ieee top, if_pos top]
    by_cases zero : x % 2 ^ f.m = 0
    · simp only [if_pos zero]
    · simp only [if_neg zero]
      cases (x % 2 ^ f.m).testBit (f.m - 1) <;> rfl
  · obtain ⟨n, d, value, zero⟩ := Fmt.read_of_finite ieee top
    rw [value, if_neg top]
    cases n with
    | zero =>
      obtain ⟨exponent, mantissa⟩ := zero.1 rfl
      simp only [if_pos exponent, if_pos mantissa]
    | succ n =>
      simp only [subnormal, decide_eq_true_eq]
      split
      · next exponent =>
        rw [if_neg fun mantissa => n.succ_ne_zero (zero.2 ⟨exponent, mantissa⟩)]
      · rfl

/-- The operating type of a row whose types, the default among them, are those of arithmetic. -/
theorem hTy_arith {s : State} {b : Bundle} {rest : List Bundle} {i : Instr} (h : s.Executes b rest i) {row : List Nat} {ty : Nat}
    (types : (formOf b.hints i).types = row) (typed : ∀ t ∈ ty :: row, t ∈ arithTypes) : hTy b.hints ty ∈ arithTypes :=
  typed _ (List.mem_cons.2 (types ▸ h.hTy_mem ty))

theorem computesF_fclass (d a : BitVec 7) (n : Bool) :
    ComputesF (.fclass d a n) (fun bd _ _ l => (2 ^ classOf (hTy bd.hints 15) (l.getD 0 0), 0)) :=
  computes_of_aluOut (execFclass.eq_1 d a n) fun _ _ _ h _ =>
    fclassMask_eq (hTy_arith (row := [15, 14, 16, 17]) h rfl (by decide)) _

/-! ### The halves of packed words (R189) -/

theorem bits_mod (x : Nat) {w lo len : Nat} (inside : lo + len ≤ w) : bits (x % 2 ^ w) lo len = bits x lo len := by
  apply Nat.eq_of_testBit_eq
  intro i
  simp only [bits, Nat.testBit_mod_two_pow, Nat.testBit_div_two_pow]
  by_cases low : i < len
  · have : i + lo < w := by omega
    simp [low, this]
  · simp [low]

/-- A field of a number is the field of its low bits. -/
theorem bits_eq_extractLsb' (x : Nat) {w lo len : Nat} (inside : lo + len ≤ w) :
    bits x lo len = ((BitVec.ofNat w x).extractLsb' lo len).toNat := by
  rw [extractLsb'_toNat_eq_bits, BitVec.toNat_ofNat, bits_mod x inside]

theorem halves_eq (g : Bundle → State → Nat → List Nat → Nat × BitVec 5) (b : Bundle) (s : State) (t : Nat) (l : List Nat) :
    halves (g b s t) l = bothHalves g b s t l := by
  have high : (fun x => bits x 16 16) = fun x => ((BitVec.ofNat 32 x).extractLsb' 16 16).toNat :=
    funext fun x => bits_eq_extractLsb' x (by decide)
  rw [halves, high]
  rfl

theorem hTy_packed {s : State} {b : Bundle} {rest : List Bundle} {i : Instr} (h : s.Executes b rest i)
    (packed : (formOf b.hints i).types = [16, 17]) : hTy b.hints 16 ∈ arithTypes :=
  hTy_arith h packed (by decide)

/-- A packed instruction delivers what its meaning makes of each half. -/
theorem computesF_bothHalves {i : Instr} {g v : Bundle → State → Nat → List Nat → Nat × BitVec 5}
    (run : ∀ s, exec i s = s.fpOut i (fun b s t l => halves (g b s t) l))
    (near : ∀ b s s', s.Near s' → ∀ t l, g b s' t l = g b s t l)
    (value : ∀ s b rest, s.Executes b rest i → ∀ u l, g b s u l = v b s u l) : ComputesF i (bothHalves v) :=
  computesF_of_fpOut run (fun b s s' n t l => by rw [funext (near b s s' n t)]) fun s b rest h u => by
    rw [halves_eq, bothHalves, bothHalves]
    simp only [value s b rest h]

/-! ### FSCALE, FRND, FDP2 and DP4A (R190, R193, R194) -/

theorem computesF_fscale (d a b : BitVec 7) (n : Bool) : ComputesF (.fscale d a b n) (fun bd s t l =>
    fpOp 15 1 (fun _ x => (x 0).scale (max (-1000) (min 1000 (bitsOf 32 l 1).toInt))) bd s t l) :=
  computesF_of_fpOut (execFscale.eq_1 d a b n) (fun _ _ _ near _ _ => by simp only [near.delivery]) fun s bd rest h u => by
    simp only [signedOf_eq_toInt 32 _ (by decide), fpOp_eq_roundedOnce]
    exact arith_eq_roundedOnce rfl _ fun nan => by simpa [Num.isNan_scale] using nan

theorem computesF_frnd (d a : BitVec 7) (n : Bool) : ComputesF (.frnd d a n) (fun bd _ _ l =>
    let f := fmtOf (hTy bd.hints 15)
    match f.read (l.getD 0 0) with
    | .fin s m e => ((deliver f {} false (.fin s (roundInt (hRound bd.hints) 0 s m e).1 1)).1, 0)
    | x => ((deliver f {} false x).1, sigNan [x])) :=
  computesF_of_fpOut (execFrnd.eq_1 d a n) (fun _ _ _ _ _ _ => rfl) fun s bd rest h u => by
    simp only [arg]
    cases (fmtOf (hTy bd.hints 15)).read ((s.operands bd.hints u (formOf bd.hints (.frnd d a n))).getD 0 0) <;> rfl

theorem computesF_fdp2 (d a b : BitVec 7) (n : Bool) : ComputesF (.fdp2 d a b n) (fun bd s t l =>
    let h := fmtOf (hTy bd.hints 16)
    let x := fun k i => h.read ((bitsOf 32 l k).extractLsb' (16 * i) 16).toNat
    let c := (fmtOf 15).read (l.getD 2 0)
    let down := hRound bd.hints == 2
    arith (fmtOf 15) (s.delivery bd t 0 0) [x 0 0, x 1 0, x 0 1, x 1 1, c]
      (Num.add down (Num.add down ((x 0 0).mul (x 1 0)) ((x 0 1).mul (x 1 1))) c)) :=
  computesF_of_fpOut (execFdp2.eq_1 d a b n) (fun _ _ _ near _ _ => by simp only [near.delivery]) fun s bd rest h u => by
    simp only [bits_eq_extractLsb' (w := 32) _ (by decide : 16 * 0 + 16 ≤ 32),
      bits_eq_extractLsb' (w := 32) _ (by decide : 16 * 1 + 16 ≤ 32)]
    rfl

/-- A byte of DP4A, unsigned or signed. -/
theorem intVal_byte (uns : Bool) (y : BitVec 8) :
    intVal (if uns then 5 else 1) 8 y.toNat = if uns then (y.toNat : Int) else y.toInt := by
  rw [intVal_eq (by decide), BitVec.ofNat_toNat, BitVec.setWidth_eq]
  cases uns <;> rfl

/-- A result on `w` bits, saturated to the ends of its type (R144). -/
theorem intResult_eq (ty w : Nat) (sat : Bool) (x : Int) : intResult ty w sat x =
    (BitVec.ofInt w (if sat then max (if tySigned ty then -(2 ^ (w - 1)) else 0)
      (min (if tySigned ty then 2 ^ (w - 1) - 1 else 2 ^ w - 1) x) else x)).toNat := by
  rw [intResult, wrapInt_eq_toNat, clampInt, intMin_eq, intMax_eq]

theorem computes_dp4a (d a b : BitVec 7) (n : Bool) : Computes (.dp4a d a b n) (fun bd _ _ l =>
    let byte := fun (uns : Bool) k i =>
      let y := (bitsOf 32 l k).extractLsb' (8 * i) 8
      if uns then (y.toNat : Int) else y.toInt
    let p := fun i => byte (xmodBit bd.hints 0) 0 i * byte (xmodBit bd.hints 1) 1 i
    let x := (bitsOf 32 l 2).toInt + p 0 + p 1 + p 2 + p 3
    (BitVec.ofInt 32 (if hSat bd.hints then max (-(2 ^ 31)) (min (2 ^ 31 - 1) x) else x)).toNat) :=
  computes_of_aluOut (execDp4a.eq_1 d a b n) fun s bd rest h u => by
    generalize s.operands bd.hints u (formOf bd.hints (.dp4a d a b n)) = l
    have byte : ∀ (uns : Bool) (k i : Nat), i ∈ List.range 4 → intVal (if uns then 5 else 1) 8 (bits (arg l k) (8 * i) 8) =
        if uns then (((bitsOf 32 l k).extractLsb' (8 * i) 8).toNat : Int) else ((bitsOf 32 l k).extractLsb' (8 * i) 8).toInt := by
      intro uns k i hi
      have := List.mem_range.1 hi
      rw [bits_eq_extractLsb' (w := 32) _ (by omega), intVal_byte]
      rfl
    rw [intResult_eq, signedOf_eq_toInt 32 _ (by decide)]
    have four : List.range 4 = [0, 1, 2, 3] := rfl
    simp only [four, List.foldl_cons, List.foldl_nil, byte _ _ 0 (by decide), byte _ _ 1 (by decide), byte _ _ 2 (by decide),
      byte _ _ 3 (by decide)]
    rfl

end Sys2Proof.Machine

open Sys2Proof Sys2Proof.Machine

/-- Settles O6: an operation that gives a NaN for a NaN delivers its exact value rounded once (`arith_eq_roundedOnce`). -/
theorem floatArithmetic : Obligations.FloatArithmetic := by
  unfold Obligations.FloatArithmetic
  have float : 15 ∈ arithTypes := by decide
  refine ⟨fun d a b n => ⟨?_, ?_, ?_, ?_, ?_, ?_, ?_⟩, fun d a b n => ⟨?_, ?_, ?_⟩⟩
  · exact computesF_fp2 float add_strict (execFadd.eq_1 d a b n)
  · exact computesF_fp2 float sub_strict (execFsub.eq_1 d a b n)
  · exact computesF_fp2 float (fun _ => mul_strict) (execFmul.eq_1 d a b n)
  · exact computesF_fp3 float (execFfma.eq_1 d a b n)
  · exact computesF_minMax (execFmin.eq_1 d a b n)
  · exact computesF_minMax (execFmax.eq_1 d a b n)
  · exact computesF_of_fpOut (execFsqrt.eq_1 d a n) (fun _ _ _ _ _ _ => rfl) fun _ _ _ _ _ => rfl
  · exact computesF_fclass d a n
  · exact computesF_fscale d a b n
  · exact computesF_frnd d a n

/-- Settles O7: a packed instruction is its meaning on each half (`halves_eq`). -/
theorem packedAndDoubleArithmetic : Obligations.PackedAndDoubleArithmetic := by
  unfold Obligations.PackedAndDoubleArithmetic
  have double : 14 ∈ arithTypes := by decide
  refine ⟨fun d a b n => ⟨?_, ?_, ?_, ?_, ?_, ?_⟩, fun d a b n => ⟨?_, ?_, ?_, ?_, ?_, ?_, ?_⟩⟩
  · exact computesF_bothHalves (execHadd2.eq_1 d a b n) (fun b _ _ near t l => near.fp2 _ b t l _) fun s b _ h u l =>
      fp2_eq (hTy_packed h rfl) b s u l add_strict
  · exact computesF_bothHalves (execHmul2.eq_1 d a b n) (fun b _ _ near t l => near.fp2 _ b t l _) fun s b _ h u l =>
      fp2_eq (hTy_packed h rfl) b s u l fun _ => mul_strict
  · exact computesF_bothHalves (execHfma2.eq_1 d a b n) (fun b _ _ near t l => near.fp3 _ b t l) fun s b _ h u l =>
      fp3_eq (hTy_packed h rfl) b s u l
  · exact computesF_bothHalves (execHmax2.eq_1 d a b n) (fun _ _ _ _ _ _ => rfl) fun _ _ _ _ _ _ => minMax_eq _ true _ _
  · exact computesF_fdp2 d a b n
  · exact computes_dp4a d a b n
  · exact computesF_fp2 double add_strict (execDadd.eq_1 d a b n)
  · exact computesF_fp2 double (fun _ => mul_strict) (execDmul.eq_1 d a b n)
  · exact computesF_fp3 double (execDfma.eq_1 d a b n)
  · exact computesF_minMax (execDmin.eq_1 d a b n)
  · exact computesF_minMax (execDmax.eq_1 d a b n)
  · exact computesF_of_approx (execDrcp.eq_1 d a n)
  · exact computesF_of_approx (execDrsq.eq_1 d a n)
end

section
/-! PROOFS. Micro-ops that go on: the threads at a bundle's next micro-op run it one after another (19 R394, R398, R400,
R403). -/
namespace Sys2Proof.Machine

/-! ### One thread's micro-op -/

/-- Conditions are recorded alike before and after a thread changes. -/
theorem setThread_record (s : State) (u t : Nat) (x : Thread) (c : BitVec 5) :
    (s.record t c).setThread u x = (s.setThread u x).record t c := by
  have launch : (s.setThread u x).launchOf t = s.launchOf t := rfl
  rw [State.record, State.record, launch]
  split
  · rfl
  cases s.launchOf t with
  | none => rfl
  | some q =>
    simp only [State.modLaunch, State.setThread_launches]
    split <;> rfl

/-- A thread's continuation goes on. -/
def Thread.goesOn (h : Cont → Cont) (x : Thread) : Thread := { x with xop := x.xop.map h }

/-- What a micro-op that goes on makes of a thread in a sequence. -/
theorem modThread_record_goesOn {s : State} {t : Nat} {k : Cont} (seq : (s.thread t).xop = some k) (h : Cont → Cont) (c : BitVec 5) :
    (s.record t c).modThread t (fun x => { x with xop := some (h k) }) = (s.modThread t (Thread.goesOn h)).record t c := by
  rw [State.modThread, State.thread_record, setThread_record, State.modThread, Thread.goesOn, seq]
  rfl

theorem State.Near.modded {s0 s s' : State} {ts : List Nat} {f : Nat → Thread → Thread} {c : Nat → BitVec 5} (near : s0.Near s)
    (m : s.Modded ts f c s') (preds : ∀ u x, (f u x).preds = x.preds) : s0.Near s' where
  frame := by
    rw [m.frame, near.frame]
  preds u := by
    rw [m.threads, ← near.preds u]
    split
    · exact preds u _
    · rfl
  launch q := by
    rw [← near.launch q, m.launches q, Option.map_map]
    rfl

/-! ### The threads of a bundle -/

/-- The conditions that a thread's micro-op raises. -/
def State.seqConds (s : State) (c : Nat → Cont → BitVec 5) (u : Nat) : BitVec 5 := ((s.thread u).xop.map (c u)).getD 0

/-- What `microOut` does for one thread of those at the micro-op `f`, with the traps so far. -/
def microTurn (f : Bundle → Nat → Cont → State → State × MEnd) (b : Bundle)
    (p : State × List (Nat × Cause × Nat × Nat × Nat)) (t : Nat) : State × List (Nat × Cause × Nat × Nat × Nat) :=
  match (p.1.thread t).xop with
  | none => p
  | some k =>
    match f b t k p.1 with
    | (s, .go k) => (s.modThread t (fun x => { x with xop := some k }), p.2)
    | (s, .done) => (s.endSequence b t, p.2)
    | (s, .wait) => (s, p.2)
    | (s, .park a r w) => (s.parkXop b t a r w, p.2)
    | (s, .trap c i0 i1 r) => (s, p.2 ++ [(t, c, i0, i1, r)])

theorem microOut_eq {f : Bundle → Nat → Cont → State → State × MEnd} {s : State} {b : Bundle} {rest : List Bundle}
    (head : s.issue = b :: rest) : s.microOut f =
      let p := (s.microThreads b).foldl (microTurn f b) ({ s with issue := rest }, [])
      let s' := p.1.microTraps b p.2
      let left := b.threads.filter s'.running
      .next (if left.isEmpty then s' else { s' with held := s'.held ++ [{ b with threads := left, inXop := true }] }) := by
  rw [State.microOut, head]
  rfl

theorem microTurn_of_go {f : Bundle → Nat → Cont → State → State × MEnd} {b : Bundle} {s : State} {t : Nat} {k : Cont}
    (seq : (s.thread t).xop = some k) {h : Cont → Cont} {c : BitVec 5} (run : f b t k s = (s.record t c, .go (h k))) :
    microTurn f b (s, []) t = ((s.modThread t (Thread.goesOn h)).record t c, []) := by
  rw [← modThread_record_goesOn seq]
  simp only [microTurn, seq, run]

/-- Where every thread goes on, the threads' continuations change and their conditions are recorded, and there is no trap. -/
theorem foldl_microTurn {f : Bundle → Nat → Cont → State → State × MEnd} {b : Bundle} {s : State} {h : Nat → Cont → Cont}
    {c : Nat → Cont → BitVec 5} (run : ∀ s', s.Near s' → ∀ u k, f b u k s' = (s'.record u (c u k), .go (h u k))) :
    ∀ (ts : List Nat) (s' : State), s.Near s' → ts.Nodup →
      (∀ u ∈ ts, (s.thread u).xop.isSome = true ∧ (s'.thread u).xop = (s.thread u).xop) →
      ts.foldl (microTurn f b) (s', []) = (s'.modAll ts (fun u => Thread.goesOn (h u)) (s.seqConds c), [])
  | [], _, _, _, _ => rfl
  | t :: ts, s', near, distinct, seq => by
    obtain ⟨fresh, distinct⟩ := List.nodup_cons.1 distinct
    obtain ⟨⟨k, here⟩, same⟩ := (seq t List.mem_cons_self).imp_left Option.isSome_iff_exists.1
    have conds : s.seqConds c t = c t k := by rw [State.seqConds, here]; rfl
    have turn : microTurn f b (s', []) t = (s'.modAll [t] (fun u => Thread.goesOn (h u)) (s.seqConds c), []) := by
      rw [microTurn_of_go (same.trans here) (run s' near t k), ← conds]
      rfl
    have one := modAll_modded (fun u => Thread.goesOn (h u)) (s.seqConds c) [t] s' (List.nodup_singleton t)
    rw [List.foldl_cons, turn]
    refine foldl_microTurn run ts _ (near.modded one fun _ _ => rfl) distinct fun u hu => ?_
    obtain ⟨there, same⟩ := seq u (List.mem_cons_of_mem t hu)
    refine ⟨there, ?_⟩
    have other : u ∉ [t] := fun e => fresh (List.mem_singleton.1 e ▸ hu)
    rw [one.threads, if_neg other]
    exact same

@[simp] theorem microTraps_nil (s : State) (b : Bundle) : s.microTraps b [] = s := rfl

/-! ### A micro-op that goes on -/

theorem State.microThreads_subset {s : State} {b : Bundle} {u : Nat} (h : u ∈ s.microThreads b) :
    u ∈ b.threads.filter s.running := by
  rw [State.microThreads] at h
  split at h
  · exact (List.mem_filter.1 h).1
  · cases h

theorem State.Sequenced.nodup {s : State} {b : Bundle} {rest : List Bundle} (h : s.Sequenced b rest) : (s.microThreads b).Nodup := by
  rw [State.microThreads]
  split
  · exact (h.distinct.filter _).filter _
  · exact List.nodup_nil

theorem State.running_xop {s : State} {u : Nat} (h : s.running u = true) : (s.thread u).xop.isSome = true := by
  rw [State.running] at h
  split at h
  · next e => rw [e]; rfl
  · cases h

/-- Threads whose continuations go on stay in their sequences. -/
theorem State.Modded.running {s s' : State} {ts : List Nat} {h : Nat → Cont → Cont} {c : Nat → BitVec 5}
    (m : s.Modded ts (fun u => Thread.goesOn (h u)) c s') (going : ∀ u k, (h u k).stopped = k.stopped) : s'.running = s.running := by
  funext u
  rw [State.running, State.running, State.alive, State.alive, m.threads]
  by_cases member : u ∈ ts
  · rw [if_pos member, Thread.goesOn]
    cases (s.thread u).xop with
    | none => rfl
    | some k => simp only [Option.map_some, going]
  · rw [if_neg member]

/-- The conditions of those of some threads in sequences that a test picks. -/
theorem map_seqConds_filter {s : State} (c : Nat → Cont → BitVec 5) (p : Nat → Bool) {ts : List Nat}
    (seq : ∀ u ∈ ts, (s.thread u).xop.isSome = true) :
    (ts.filter p).map (s.seqConds c) = ts.filterMap (fun u => if p u then (s.thread u).xop.map (c u) else none) := by
  rw [← List.filterMap_eq_map, List.filterMap_filter]
  refine List.filterMap_congr fun u hu => ?_
  obtain ⟨k, here⟩ := Option.isSome_iff_exists.1 (seq u hu)
  simp [State.seqConds, here]

/-- A micro-op that goes on for every thread, recording its conditions (R398, R400, R403). -/
theorem microOut_micro {s : State} {b : Bundle} {rest : List Bundle} {f : Bundle → Nat → Cont → State → State × MEnd}
    {h : Nat → Cont → Cont} {c : Nat → Cont → BitVec 5} (stands : s.Sequenced b rest)
    (run : ∀ s', s.Near s' → ∀ u k, f b u k s' = (s'.record u (c u k), .go (h u k)))
    (going : ∀ u k, (h u k).stopped = k.stopped) : ∃ t, s.microOut f = .next t ∧ s.Micro b rest h c t := by
  have seq : ∀ u ∈ s.microThreads b, (s.thread u).xop.isSome = true := fun u hu =>
    State.running_xop (List.mem_filter.1 (State.microThreads_subset hu)).2
  have taken : s.Near { s with issue := rest } := ⟨rfl, fun _ => rfl, fun _ => rfl⟩
  have folded := foldl_microTurn run (s.microThreads b) { s with issue := rest } taken stands.nodup fun u hu => ⟨seq u hu, rfl⟩
  have m := modAll_modded (fun u => Thread.goesOn (h u)) (s.seqConds c) (s.microThreads b) { s with issue := rest } stands.nodup
  generalize State.modAll { s with issue := rest } _ _ _ = s' at folded m
  have running : s'.running = s.running := m.running going
  have left : (b.threads.filter s.running).isEmpty = false := by
    obtain ⟨u, hu⟩ := List.exists_mem_of_ne_nil _ stands.some
    exact List.isEmpty_eq_false_iff.2 (List.ne_nil_of_mem (State.microThreads_subset hu))
  refine ⟨{ s' with held := s'.held ++ [{ b with threads := b.threads.filter s.running, inXop := true }] }, ?_, ?_, ?_, ?_, ?_, ?_⟩
  · simp only [microOut_eq stands.head, folded, microTraps_nil, running, left, Bool.false_eq_true, if_false]
  · rw [m.frame]
  · intro u hu k here
    refine (m.threads u).trans ?_
    rw [if_pos hu]
    change Thread.goesOn (h u) (s.thread u) = _
    rw [Thread.goesOn, here, Option.map_some]
  · exact fun u hu => (m.threads u).trans (if_neg hu)
  · intro q
    refine (m.launches q).trans ?_
    rw [map_seqConds_filter c _ seq]
    simp only [beq_iff_eq]
    rfl
  · intro k
    refine (m.contexts k).trans ?_
    rw [map_seqConds_filter c _ seq]
    rfl
end Sys2Proof.Machine
end

section
/-! PROOFS. Micro-ops that compute a temporary: integers modulo 2^64, floating-point arithmetic, conversions and conditions
(19 R394, R398). -/
namespace Sys2Proof.Machine

/-! ### A temporary computed (R394, R398) -/

theorem Cont.goto_stopped (k : Cont) (i : Nat) : (k.goto i).stopped = k.stopped := by
  rw [Cont.goto]
  split <;> rfl

theorem Cont.puts_stopped (k : Cont) (d : BitVec 3) (v : DWord) : (k.puts d v).stopped = k.stopped := Cont.goto_stopped _ _

/-- A micro-op that computes a temporary and conditions delivers what its meaning gives. -/
theorem tempF_of_tempFpOut {i : Instr} {d : BitVec 3} {g : Bundle → State → Nat → Cont → Nat × BitVec 5}
    {v : State → Bundle → Nat → Cont → Nat × BitVec 5} (run : ∀ s, exec i s = s.tempFpOut d g)
    (near : ∀ b s s', s.Near s' → ∀ u k, g b s' u k = g b s u k)
    (value : i.wellFormed = true → ∀ b s u k, g b s u k = v s b u k) : TempF i d v := by
  intro formed s b rest stands
  obtain ⟨t, result, micro⟩ := microOut_micro (h := fun u k => k.puts d (BitVec.ofNat 64 (v s b u k).1))
    (c := fun u k => (v s b u k).2) (f := fun b t k s => (s.record t (g b s t k).2, .go (k.set d (g b s t k).1).next)) stands
    (fun s' n u k => by
      simp only [near b s s' n, value formed]
      rfl)
    fun _ _ => Cont.puts_stopped _ _ _
  exact ⟨t, (run s).trans result, micro⟩

/-- A micro-op that computes a temporary alone raises no condition. -/
theorem tempOut_eq (s : State) (d : BitVec 3) (f : Cont → Nat) : s.tempOut d f = s.tempFpOut d (fun _ _ _ k => (f k, 0)) := by
  simp only [State.tempOut, State.tempFpOut, record_zero]

/-- It writes the temporary modulo 2^64. -/
theorem temp_of_tempOut {i : Instr} {d : BitVec 3} {f : Cont → Nat} {v : Cont → DWord} (run : ∀ s, exec i s = s.tempOut d f)
    (value : ∀ k, BitVec.ofNat 64 (f k) = v k) : Temp i d v := by
  have steps : TempF i d (fun _ _ _ k => (f k, 0)) :=
    tempF_of_tempFpOut (fun s => (run s).trans (tempOut_eq s d f)) (fun _ _ _ _ _ _ => rfl) fun _ _ _ _ _ => rfl
  simpa only [Temp, TempF, value] using steps

theorem Cont.get_eq (k : Cont) (n : BitVec 3) : k.get n = (k.reg n).toNat := rfl

/-! ### Integers modulo 2^64 -/

/-- A number of 64 bits written as itself. -/
theorem ofNat_of_toNat {x : DWord} {n : Nat} (value : x.toNat = n) : BitVec.ofNat 64 n = x :=
  (BitVec.toNat_eq_nat.1 value).2.symm

section
variable (x y : DWord)

theorem ofNat_sub_toNat : BitVec.ofNat 64 (x.toNat + 2 ^ 64 - y.toNat) = x - y := by
  rw [BitVec.sub_def, Nat.add_comm, Nat.sub_add_comm y.isLt.le]

theorem ofNat_mul_toNat : BitVec.ofNat 64 (x.toNat * y.toNat) = x * y := by
  rw [BitVec.ofNat_mul, BitVec.ofNat_toNat, BitVec.ofNat_toNat, BitVec.setWidth_eq, BitVec.setWidth_eq]

theorem ofNat_shl_toNat : BitVec.ofNat 64 (if y.toNat ≥ 64 then 0 else x.toNat * 2 ^ y.toNat) =
    if 64 ≤ y.toNat then 0 else x <<< y.toNat := by
  split
  · rfl
  · apply BitVec.eq_of_toNat_eq
    rw [BitVec.toNat_ofNat, BitVec.toNat_shiftLeft, Nat.shiftLeft_eq]

theorem ofNat_shr_toNat : BitVec.ofNat 64 (if y.toNat ≥ 64 then 0 else x.toNat / 2 ^ y.toNat) =
    if 64 ≤ y.toNat then 0 else x >>> y.toNat := by
  split
  · rfl
  · exact ofNat_of_toNat (by rw [BitVec.toNat_ushiftRight, Nat.shiftRight_eq_div_pow])

theorem ofNat_sar_toNat : BitVec.ofNat 64 (sarN 64 x.toNat y.toNat) = x.sshiftRight (min y.toNat 63) := by
  have within : sarN 64 x.toNat y.toNat = sarN 64 x.toNat (min y.toNat 63) := by rw [sarN, sarN, Nat.min_assoc, Nat.min_self]
  exact ofNat_of_toNat (within.trans (sarN_toNat x (by decide) _)).symm

theorem ofNat_uhi (j : BitVec 17) : BitVec.ofNat 64 (x.toNat * 2 ^ 17 + j.toNat) = x <<< 17 ||| j.setWidth 64 := by
  have apart : x <<< 17 &&& j.setWidth 64 = 0#64 := by
    ext i hi
    by_cases low : i < 17
    · simp [low]
    · simp [BitVec.getLsbD_of_ge j i (not_lt.1 low)]
  rw [← BitVec.add_eq_or_of_and_eq_zero _ _ apart]
  apply BitVec.eq_of_toNat_eq
  simp [Nat.shiftLeft_eq, BitVec.toNat_add, BitVec.toNat_shiftLeft]
end

theorem ofNat_sext_imm (j : BitVec 17) : BitVec.ofNat 64 (sext 17 64 j.toNat) = j.signExtend 64 :=
  ofNat_of_toNat (sext_toNat (by decide) 64 j).symm

/-! ### Floating-point arithmetic (R190, R191) -/

/-- The draw of .SR mixes the words of the operands (R394). -/
theorem microDelivery_eq (s : State) (b : Bundle) (u : Nat) (k : Cont) (r : BitVec 3) (sat : Bool) (x y : DWord) :
    s.microDelivery b u k r sat x.toNat y.toNat = s.microMode b u k r sat x y := by
  have low : ∀ z : DWord, z.toNat % 2 ^ 32 = (z.extractLsb' 0 32).toNat := fun z => by
    rw [extractLsb'_toNat_eq_bits, bits_zero]
  have high : ∀ z : DWord, z.toNat / 2 ^ 32 = (z.extractLsb' 32 32).toNat := fun z => by
    have fits : z.toNat / 2 ^ 32 < 2 ^ 32 := Nat.div_lt_of_lt_mul z.isLt
    rw [extractLsb'_toNat_eq_bits, bits, Nat.mod_eq_of_lt fits]
  have words : Nat.xor (Nat.xor (x.toNat % 2 ^ 32) (x.toNat / 2 ^ 32)) (Nat.xor (y.toNat % 2 ^ 32) (y.toNat / 2 ^ 32)) =
      (x.extractLsb' 0 32 ^^^ x.extractLsb' 32 32 ^^^ y.extractLsb' 0 32 ^^^ y.extractLsb' 32 32).toNat := by
    rw [low, low, high, high, BitVec.toNat_xor, BitVec.toNat_xor, BitVec.toNat_xor]
    exact (Nat.xor_assoc _ _ _).symm
  simp only [State.microDelivery, words]
  rfl

theorem State.Near.microDelivery {s s' : State} (near : s.Near s') (b : Bundle) (u : Nat) (k : Cont) (r : BitVec 3) (sat : Bool)
    (x y : Nat) : s'.microDelivery b u k r sat x y = s.microDelivery b u k r sat x y := by
  simp only [State.microDelivery, State.draw, near.drawSeed]

/-- The types of floating micro-ops, codes 0 and 1, are .F64 and .F32 (R394). -/
theorem utype_arith {ty : BitVec 4} (double : ty.toNat ≤ 1) : utype ty ∈ arithTypes := by
  revert ty
  decide

/-- The number that a floating micro-op reads in a temporary. -/
def Cont.num (k : Cont) (ty : BitVec 4) (n : BitVec 3) : Num :=
  (fmtOf (utype ty)).read ((k.reg n).toNat % 2 ^ tyWidth (utype ty))

theorem microFp_eq_roundedOnce (ty : BitVec 4) (r : BitVec 3) (sat : Bool) (a b : BitVec 3) (l : List (BitVec 3))
    (g : Bool → (Nat → Num) → Num) (s : State) (w : Bundle) (u : Nat) (k : Cont) : microFp ty r sat a b l g s w u k =
      roundedOnce (fmtOf (utype ty)) (s.microMode w u k r sat (k.reg a) (k.reg b)) (l.map (k.num ty))
        (g (r == 2) fun i => (l.map (k.num ty)).getD i (.nan false)) := rfl

/-- A floating micro-op of the temporaries `l` that gives a NaN for a NaN delivers its exact value rounded once. -/
theorem tempF_of_microArith {i : Instr} {d a b : BitVec 3} {ty : BitVec 4} {r : BitVec 3} {sat : Bool}
    {op : Bool → Num → Num → Num → Num × List Num} {l : List (BitVec 3)} {g : Bool → (Nat → Num) → Num}
    (run : ∀ s, exec i s = s.microArith d a b ty r sat op)
    (typed : i.wellFormed = (decide (ty.toNat ≤ 1) && decide (r.toNat ≤ 4)))
    (value : ∀ down (k : Cont), op down (k.num ty a) (k.num ty b) (k.num ty d) =
      (g down fun j => (l.map (k.num ty)).getD j (.nan false), l.map (k.num ty)))
    (strict : ∀ down (k : Cont), (l.map (k.num ty)).any (·.isNan) = true →
      (g down fun j => (l.map (k.num ty)).getD j (.nan false)).isNan = true) : TempF i d (microFp ty r sat a b l g) := by
  refine tempF_of_tempFpOut run (fun _ _ _ near _ _ => by simp only [near.microDelivery]) fun formed w s u k => ?_
  rw [typed, Bool.and_eq_true, decide_eq_true_eq] at formed
  have ieee := sp_of_arithType (utype_arith formed.1)
  rw [microFp_eq_roundedOnce, ← arith_eq_roundedOnce ieee _ (strict _ _), ← microDelivery_eq]
  change arith _ _ (op _ (k.num ty a) (k.num ty b) (k.num ty d)).2 (op _ (k.num ty a) (k.num ty b) (k.num ty d)).1 = _
  rw [value]
  rfl

theorem tempF_of_microMinMax {i : Instr} {d a b : BitVec 3} {ty : BitVec 4} {max : Bool}
    (run : ∀ s, exec i s = s.microMinMax d a b ty max) : TempF i d (fun _ _ _ k => let w := tyWidth (utype ty)
      extremum (utype ty) max ((k.reg a).toNat % 2 ^ w) ((k.reg b).toNat % 2 ^ w)) :=
  tempF_of_tempFpOut run (fun _ _ _ _ _ _ => rfl) fun _ _ _ _ _ => minMax_eq _ _ _ _

/-! ### Conversions and conditions (R61, R154, R197) -/

/-- A temporary's value under an integer type. -/
theorem intVal_reg (k : Cont) (ty : Nat) (n : BitVec 3) : intVal ty (tyWidth ty) (k.reg n).toNat = k.int ty n := by
  rw [intVal_eq (tyWidth_pos ty), BitVec.ofNat_toNat]
  rfl

theorem tempF_ucvt (d a : BitVec 3) (ty : BitVec 4) (r : BitVec 3) (sat : Bool) (c : BitVec 4) :
    TempF (.ucvt d a ty r sat c) d (fun s w u k =>
      let mode := s.microMode w u k r sat (k.reg a) 0
      let x : Num := if tyFloat (utype c) then readFp (utype c) ((k.reg a).toNat % 2 ^ tyWidth (utype c))
        else Num.ofInt (k.int (utype c) a)
      if tyFloat (utype ty) then convFp (utype ty) mode x
      else if tyFloat (utype c) then toInt (utype ty) r.toNat mode.draw x
      else
        let n := tyWidth (utype ty)
        let low : Int := if tySigned (utype ty) then -(2 ^ (n - 1)) else 0
        let high : Int := if tySigned (utype ty) then 2 ^ (n - 1) - 1 else 2 ^ n - 1
        ((BitVec.ofInt n (if sat then max low (min high (k.int (utype c) a)) else k.int (utype c) a)).toNat, 0)) := by
  refine tempF_of_tempFpOut (execUcvt.eq_1 d a ty r sat c) (fun _ _ _ near _ _ => by simp only [near.microDelivery]) fun _ w s u k => ?_
  have mode : s.microDelivery w u k r sat (k.get a) 0 = s.microMode w u k r sat (k.reg a) 0 :=
    microDelivery_eq s w u k r sat (k.reg a) 0
  rw [mode, convert, Cont.get_eq, intVal_reg, intResult_eq]
  cases tyFloat (utype c) <;> cases tyFloat (utype ty) <;> rfl

/-- Type codes 0 to 3 are the floating ones (R394). -/
theorem tyFloat_utype (ty : BitVec 4) : tyFloat (utype ty) = decide (ty.toNat ≤ 3) := by
  revert ty
  decide

/-- A comparison has a condition of its type (R394). -/
theorem ucmp_code {d a b : BitVec 3} {ty c : BitVec 4} (formed : (Instr.ucmp d a b ty c).wellFormed = true) :
    c.toNat ≤ if tyFloat (utype ty) then 13 else 5 := by
  simp only [Instr.wellFormed, Bool.and_eq_true, decide_eq_true_eq] at formed
  simpa only [tyFloat_utype, decide_eq_true_eq] using formed.2

theorem tempF_ucmp (d a b : BitVec 3) (ty c : BitVec 4) : TempF (.ucmp d a b ty c) d (fun _ _ _ k =>
    if tyFloat (utype ty) then
      let x := fun n => (fmtOf (utype ty)).read ((k.reg n).toNat % 2 ^ tyWidth (utype ty))
      (if floatCond c.toNat (x a) (x b) then 1 else 0, sigNan [x a, x b])
    else (if intCond c.toNat (k.int (utype ty) a) (k.int (utype ty) b) then 1 else 0, 0)) := by
  refine tempF_of_tempFpOut (execUcmp.eq_1 d a b ty c) (fun _ _ _ _ _ _ => rfl) fun formed w s u k => ?_
  have codes := ucmp_code formed
  split
  · next float =>
    rw [if_pos float] at codes
    simp only [float, if_true, fcmp, fcond_eq codes]
    rfl
  · next integer =>
    rw [if_neg integer] at codes
    simp only [integer, icond_eq codes, Cont.get_eq, intVal_reg]
    rfl

end Sys2Proof.Machine

open Sys2Proof Sys2Proof.Machine

/-- Settles O34: every thread at a micro-op that computes a temporary goes on (`microOut_micro`); sums and products give a NaN for a
NaN, so they deliver their exact value rounded once (`tempF_of_microArith`). -/
theorem arithmeticMicroOps : Obligations.ArithmeticMicroOps := by
  unfold Obligations.ArithmeticMicroOps
  refine ⟨fun d a b j => ⟨?_, ?_, ?_, ?_, ?_, ?_, ?_, ?_, ?_, ?_, ?_, ?_⟩,
    fun d a b ty r sat c => ⟨?_, ?_, ?_, ?_, ?_, ?_, ?_, ?_⟩⟩
  · exact temp_of_tempOut (execUadd.eq_1 d a b) fun _ => (BitVec.add_def _ _).symm
  · exact temp_of_tempOut (execUsub.eq_1 d a b) fun _ => ofNat_sub_toNat _ _
  · exact temp_of_tempOut (execUand.eq_1 d a b) fun _ => ofNat_of_toNat (BitVec.toNat_and _ _)
  · exact temp_of_tempOut (execUor.eq_1 d a b) fun _ => ofNat_of_toNat (BitVec.toNat_or _ _)
  · exact temp_of_tempOut (execUxor.eq_1 d a b) fun _ => ofNat_of_toNat (BitVec.toNat_xor _ _)
  · exact temp_of_tempOut (execUshl.eq_1 d a b) fun _ => ofNat_shl_toNat _ _
  · exact temp_of_tempOut (execUshr.eq_1 d a b) fun _ => ofNat_shr_toNat _ _
  · exact temp_of_tempOut (execUsar.eq_1 d a b) fun _ => ofNat_sar_toNat _ _
  · exact temp_of_tempOut (execUmul.eq_1 d a b) fun _ => ofNat_mul_toNat _ _
  · exact temp_of_tempOut (execUaddi.eq_1 d a j) fun k => by
      rw [BitVec.ofNat_add, ofNat_sext_imm, Cont.get_eq, BitVec.ofNat_toNat, BitVec.setWidth_eq]
  · exact temp_of_tempOut (execUmovi.eq_1 d j) fun _ => ofNat_sext_imm j
  · exact temp_of_tempOut (execUhi.eq_1 d a j) fun _ => ofNat_uhi _ j
  · exact tempF_of_microArith (execUfadd.eq_1 d a b ty r sat) rfl (fun _ _ => rfl) fun _ _ => add_strict _ _ _
  · exact tempF_of_microArith (execUfsub.eq_1 d a b ty r sat) rfl (fun _ _ => rfl) fun _ _ => sub_strict _ _ _
  · exact tempF_of_microArith (execUfmul.eq_1 d a b ty r sat) rfl (fun _ _ => rfl) fun _ _ => mul_strict _ _
  · exact tempF_of_microArith (execUfma.eq_1 d a b ty r sat) rfl (fun _ _ => rfl) fun _ _ => fma_strict _ _ _ _
  · exact tempF_of_microMinMax (execUfmin.eq_1 d a b ty)
  · exact tempF_of_microMinMax (execUfmax.eq_1 d a b ty)
  · exact tempF_ucvt d a ty r sat c
  · exact tempF_ucmp d a b ty c
end

section
/-! PROOFS. What no store, no write of a register line or of a team image and no end of a wait changes: the bias table (11 R222). -/
namespace Sys2Proof.Machine

/-! ### Bytes and tables -/

theorem State.bias_foldl {α : Type} (l : List α) (f : State → α → State) (h : ∀ s x, (f s x).bias = s.bias) (s : State) :
    (l.foldl f s).bias = s.bias :=
  List.foldlRecOn l f (motive := fun t : State => t.bias = s.bias) rfl (fun t k x _ => (h t x).trans k)

section
variable (s : State)
@[simp] theorem State.bias_ite {p : Prop} [Decidable p] (s t : State) : (if p then s else t).bias = if p then s.bias else t.bias :=
  apply_ite _ _ _ _
@[simp] theorem State.bias_poisonSector (sec : Nat) : (s.poisonSector sec).bias = s.bias := by
  unfold State.poisonSector; split <;> rfl
@[simp] theorem State.bias_setBytes (a : Nat) (bs : List Byte) : (s.setBytes a bs).bias = s.bias := by
  rw [setBytes_eq]
@[simp] theorem State.bias_cleanSector (sec : Nat) : (s.cleanSector sec).bias = s.bias := (rfl)
@[simp] theorem State.bias_dropReplicas (pa : Nat) : (s.dropReplicas pa).bias = s.bias := (rfl)
@[simp] theorem State.bias_keepOld (sec : Nat) : (s.keepOld sec).bias = s.bias := (rfl)
@[simp] theorem State.bias_dirtyFrame (loc : Nat) : (s.dirtyFrame loc).bias = s.bias := (rfl)
@[simp] theorem State.bias_storeBytes (loc key : Nat) (p c : Bool) (bs : List Byte) : (s.storeBytes loc key p c bs).bias = s.bias := by
  simp [State.storeBytes]
@[simp] theorem State.bias_storeLeaf (loc leaf : Nat) (bs : List Byte) : (s.storeLeaf loc leaf bs).bias = s.bias :=
  s.bias_storeBytes loc _ _ _ bs
@[simp] theorem State.bias_modLaunch (q : Nat) (f : Launch → Launch) : (s.modLaunch q f).bias = s.bias := by
  rw [(s.modLaunch_eq q f).1]
@[simp] theorem State.bias_modCluster (k : Nat) (f : Cluster → Cluster) : (s.modCluster k f).bias = s.bias := by
  rw [(s.modCluster_eq k f).1]

/-! ### Register lines (R112, R113) -/

@[simp] theorem State.bias_writeImageWord (ctx tag lane : Nat) (v : Word) : (s.writeImageWord ctx tag lane v).bias = s.bias :=
  s.bias_storeLeaf _ _ _
@[simp] theorem State.bias_clearKzero (l : RegLine) : (s.clearKzero l).bias = s.bias := by
  unfold State.clearKzero; split <;> rfl
@[simp] theorem State.bias_meetLineEcc (l : RegLine) (lane : Nat) : (s.meetLineEcc l lane).bias = s.bias := by
  unfold State.meetLineEcc
  dsimp only
  split
  · rfl
  · split
    · rfl
    · rfl
    · split <;> rfl
@[simp] theorem State.bias_writeBack (l : RegLine) : (s.writeBack l).bias = s.bias := by
  simp [State.writeBack, State.bias_foldl]
@[simp] theorem State.bias_dropLine (core ctx tag : Nat) : (s.dropLine core ctx tag).bias = s.bias := (rfl)
@[simp] theorem State.bias_modLine (core ctx tag : Nat) (f : RegLine → RegLine) : (s.modLine core ctx tag f).bias = s.bias := (rfl)
@[simp] theorem State.bias_makeRoom (core : Nat) : (s.makeRoom core).bias = s.bias := by
  unfold State.makeRoom
  dsimp only
  split
  · rfl
  · split <;> simp
@[simp] theorem State.bias_writeReg (t n : Nat) (v : Word) : (s.writeReg t n v).bias = s.bias := by
  simp [State.writeReg, State.placeLine]

/-! ### Waits, monitors and update-only copies (R269, R304, R307) -/

@[simp] theorem State.bias_imageWrite (c va n x : Nat) : (s.imageWrite c va n x).bias = s.bias := s.bias_storeLeaf _ _ _
@[simp] theorem State.bias_saveThread (c b lane : Nat) (x : Thread) : (s.saveThread c b lane x).bias = s.bias := by
  simp [State.saveThread, State.saveLatch, State.bias_foldl]
@[simp] theorem State.bias_modThreadOf (gid lane : Nat) (f : Thread → Thread) : (s.modThreadOf gid lane f).bias = s.bias := by
  unfold State.modThreadOf
  split
  · rfl
  · split <;> simp
@[simp] theorem State.bias_writeRegOf (gid lane n : Nat) (v : Word) : (s.writeRegOf gid lane n v).bias = s.bias := by
  unfold State.writeRegOf
  split
  · simp
  · split <;> simp
@[simp] theorem State.bias_wftDrop (t : Nat) : (s.wftDrop t).bias = s.bias := (rfl)
@[simp] theorem State.bias_acquire (core ctx scope : Nat) (b : Option (Nat × List Region)) :
    (s.acquire core ctx scope b).bias = s.bias := (rfl)
@[simp] theorem State.bias_endWait (t : Nat) (v : Word) : (s.endWait t v).bias = s.bias := by
  simp [State.endWait]
@[simp] theorem State.bias_endWaitAway (cl team g lane : Nat) (dst : BitVec 7) (v : Word) :
    (s.endWaitAway cl team g lane dst v).bias = s.bias := by
  simp [State.endWaitAway]
@[simp] theorem State.bias_freeSpill (m : Monitor) : (s.freeSpill m).bias = s.bias := by
  unfold State.freeSpill
  split
  · exact s.bias_setBytes _ _
  · rfl
@[simp] theorem State.bias_fireMonitor (m : Monitor) : (s.fireMonitor m).bias = s.bias := by
  unfold State.fireMonitor
  cases m.who <;> simp
@[simp] theorem State.bias_fireMonitors (loc n : Nat) : (s.fireMonitors loc n).bias = s.bias := by
  simp [State.fireMonitors, State.fireOrNote, State.bias_foldl]
@[simp] theorem State.bias_tbarWake (loc n : Nat) : (s.tbarWake loc n).bias = s.bias := by
  simp [State.tbarWake, State.bias_foldl]
@[simp] theorem State.bias_combineCopy (u : UCopy) : (s.combineCopy u).bias = s.bias := by
  simp [State.combineCopy, State.notice]
@[simp] theorem State.bias_combineWhere (p : UCopy → Bool) : (s.combineWhere p).bias = s.bias := by
  unfold State.combineWhere
  split
  · rfl
  · exact (State.bias_foldl _ _ (fun t u => t.bias_combineCopy u) _).trans rfl
@[simp] theorem State.bias_dirRecall (base n : Nat) : (s.dirRecall base n).bias = s.bias := (rfl)
/-- A recall writes back and invalidates; the bias table stays (R218, R222). -/
theorem State.bias_recall (base n : Nat) : (s.recall base n).bias = s.bias := by
  simp [State.recall]
end
end Sys2Proof.Machine
end

section
/-! PROOFS. What reads, writes and recalls of lines leave alone: all but the directory, replicas, stale copies and frames (11 R214,
R218, R220). -/
namespace Sys2Proof.Machine

/-- A state but for what the caches hold of memory: its directory, replicas, stale copies and frames. -/
def State.uncached (s : State) : State := { s with dir := [], replicas := [], stale := [], frames := [] }

section
variable {s t : State} (h : t.uncached = s.uncached)
include h
theorem State.uncached_subj : t.subj = s.subj := congrArg (·.subj) h
theorem State.uncached_mem : t.mem = s.mem := congrArg (·.mem) h
theorem State.uncached_threads : t.threads = s.threads := congrArg (·.threads) h
theorem State.uncached_monitors : t.monitors = s.monitors := congrArg (·.monitors) h
theorem State.uncached_sectorKey : t.sectorKey = s.sectorKey := congrArg (·.sectorKey) h
end

@[simp] theorem State.uncached_ite {p : Prop} [Decidable p] (s t : State) :
    (if p then s else t).uncached = if p then s.uncached else t.uncached := apply_ite _ _ _ _
theorem State.uncached_foldl {α : Type} (l : List α) (f : State → α → State) (h : ∀ s x, (f s x).uncached = s.uncached)
    (s : State) :
    (l.foldl f s).uncached = s.uncached :=
  List.foldlRecOn l f (motive := fun t : State => t.uncached = s.uncached) rfl (fun t k x _ => (h t x).trans k)

section
variable (s : State)
@[simp] theorem State.uncached_with_dir (d : List DirEntry) : State.uncached { s with dir := d } = s.uncached := (rfl)
@[simp] theorem State.uncached_dropReplicas (pa : Nat) : (s.dropReplicas pa).uncached = s.uncached := (rfl)
@[simp] theorem State.uncached_touchFrame (pa : Nat) : (s.touchFrame pa).uncached = s.uncached := by
  unfold State.touchFrame
  dsimp only
  split
  · rfl
  · split
    · rfl
    · split
      · rfl
      · split <;> rfl
@[simp] theorem State.uncached_trimL1 (die k : Nat) : (s.trimL1 die k).uncached = s.uncached := by
  unfold State.trimL1
  dsimp only
  split
  · rfl
  · split <;> rfl
@[simp] theorem State.uncached_trimL2 (die : Nat) : (s.trimL2 die).uncached = s.uncached := by
  unfold State.trimL2
  dsimp only
  split
  · rfl
  · split <;> rfl
@[simp] theorem State.uncached_dirRead (die : Nat) (k : Option Nat) (pa g : Nat) : (s.dirRead die k pa g).uncached = s.uncached := by
  simp only [State.dirRead, State.uncached_trimL2, State.uncached_trimL1, State.uncached_ite, State.uncached_touchFrame,
    State.uncached_with_dir, ite_self]
@[simp] theorem State.uncached_dirWrite (die k pa g : Nat) : (s.dirWrite die k pa g).uncached = s.uncached := by
  simp only [State.dirWrite, State.uncached_trimL2, State.uncached_trimL1, State.uncached_ite, State.uncached_touchFrame,
    State.uncached_with_dir, State.uncached_dropReplicas, ite_self]
end

/-- With no update-only copy to combine, a recall changes only what the caches hold (R218). -/
theorem State.uncached_recall {s : State} (copies : s.ucopies = []) (base n : Nat) : (s.recall base n).uncached = s.uncached := by
  simp only [State.recall, State.combineWhere, copies, List.isEmpty_nil, if_true]
  rfl

/-- After a recall no entry of the directory covers a byte of the range (R218). -/
theorem State.dir_recall (s : State) (base n : Nat) : ∀ d ∈ (s.recall base n).dir, overlaps d.base d.size base n = false := by
  intro d m
  simpa using (List.mem_filter.1 m).2
theorem overlaps_inner {a n b m c k : Nat} (h : overlaps a n b m = false) (low : b ≤ c) (high : c + k ≤ b + m) :
    overlaps a n c k = false := by
  simp only [overlaps, Bool.and_eq_false_iff, decide_eq_false_iff_not] at h ⊢
  omega

end Sys2Proof.Machine
end

section
/-! PROOFS. Bytes that come from outside, sector by sector, and bytes as they stand outside the package (11 R221, R222, R225). -/
namespace Sys2Proof.Machine

/-! ### Bytes and numbers -/

theorem State.setBytes_append (l r : List Byte) (s : State) (a : Nat) :
    s.setBytes a (l ++ r) = (s.setBytes a l).setBytes (a + l.length) r := by
  induction l generalizing s a with
  | nil => rfl
  | cons b l ih => rw [List.length_cons, Nat.add_comm l.length, ← Nat.add_assoc]; exact ih (s.setByte a b) (a + 1)

theorem State.bytes_eq_map (s : State) (a n : Nat) : s.bytes a n = (List.range n).map (fun i => s.byte (a + i)) := by
  induction n generalizing a with
  | zero => rfl
  | succ n ih => simp [State.bytes, ih, List.range_succ_eq_map, Function.comp_def, Nat.add_assoc, Nat.add_comm 1]

theorem State.readN_of_mem {s t : State} (mem : t.mem = s.mem) (a n : Nat) : t.readN a n = s.readN a n := by
  simp only [State.readN, State.bytes_eq_map, State.byte, mem]

theorem ofBytes_lt (l : List Byte) : ofBytes l < 256 ^ l.length := by
  induction l with
  | nil => exact Nat.one_pos
  | cons b l ih => have := b.isLt; rw [ofBytes, List.length_cons, Nat.pow_succ]; omega

/-- The digits of a number in base 256 are its bytes (R1). -/
theorem ofBytes_digit (l : List Byte) (i : Nat) : ofBytes l / 256 ^ i % 256 = (l.getD i 0).toNat := by
  induction l generalizing i with
  | nil => simp [ofBytes]
  | cons b l ih =>
    have small := b.isLt
    cases i with
    | zero => simp only [ofBytes, Nat.pow_zero, Nat.div_one, List.getD_cons_zero]; omega
    | succ i =>
      rw [List.getD_cons_succ, ← ih, Nat.pow_succ', ← Nat.div_div_eq_div_mul, ofBytes]
      congr 2; omega

/-- A byte of a sector of 32. -/
theorem extract_ofBytes {l : List Byte} (sector : l.length = 32) (i : Nat) :
    (BitVec.ofNat 256 (ofBytes l)).extractLsb' (8 * i) 8 = l.getD i 0 := by
  have bounded : ofBytes l < 2 ^ 256 := by
    have := ofBytes_lt l
    rwa [sector, show 256 = 2 ^ 8 from rfl, ← Nat.pow_mul] at this
  apply BitVec.eq_of_toNat_eq
  rw [BitVec.extractLsb'_toNat, BitVec.toNat_ofNat, Nat.mod_eq_of_lt bounded, Nat.shiftRight_eq_div_pow, Nat.pow_mul, ← ofBytes_digit]

/-! ### Stores of one sector after another (R221, R222) -/

/-- What every store of a sector leaves alone, stores sector by sector leave alone. -/
theorem State.bySector_keeps {α : Type} (g : State → α) {f : State → Nat → List Byte → State}
    (keeps : ∀ s loc bs, g (f s loc bs) = g s) (n : Nat) (s : State) (loc : Nat) (bs : List Byte) :
    g (s.bySector f n loc bs) = g s := by
  induction n generalizing s loc bs with
  | zero => rfl
  | succ n ih =>
    rw [State.bySector]
    split
    · rfl
    · exact (ih _ _ _).trans (keeps _ _ _)

/-- Bytes stored sector by sector are bytes stored at once. -/
theorem State.bySector_mem {f : State → Nat → List Byte → State}
    (stores : ∀ s loc bs, (f s loc bs).mem = (s.setBytes loc bs).mem) (n : Nat) (s : State) (loc : Nat) (bs : List Byte)
    (short : bs.length < n) : (s.bySector f n loc bs).mem = (s.setBytes loc bs).mem := by
  induction n generalizing s loc bs with
  | zero => exact absurd short (Nat.not_lt_zero _)
  | succ n ih =>
    rw [State.bySector]
    split
    · next empty => rw [List.isEmpty_iff.1 empty]; rfl
    · next more =>
      have nonempty : 0 < bs.length := List.length_pos_iff.2 (by simpa using more)
      rw [ih _ _ _ (by rw [List.length_drop]; omega), setBytes_mem _ _ _ _ (stores _ _ _)]
      by_cases one : bs.length ≤ 32 - loc % 32
      · rw [List.take_of_length_le one, List.drop_of_length_le one]; rfl
      · conv_rhs => rw [← List.take_append_drop (32 - loc % 32) bs, State.setBytes_append, List.length_take,
          Nat.min_eq_left (by omega)]

theorem State.outerStore_mem (s : State) (loc : Nat) (bs : List Byte) : (s.outerStore loc bs).mem = (s.setBytes loc bs).mem := by
  refine setBytes_mem _ _ _ _ ?_
  dsimp only
  split <;> rfl
theorem State.outerStore_onCores_dir (s : State) (loc : Nat) (bs : List Byte) :
    ((s.outerStore loc bs).onCores, (s.outerStore loc bs).dir) = (s.onCores, s.dir) := by
  unfold State.outerStore
  rw [setBytes_eq]
  dsimp only
  split <;> rfl

/-- A host's bytes in device memory stand where it puts them, and nothing on the cores or engines has changed (R222). -/
theorem State.bySector_hostStore (s : State) (loc : Nat) (bs : List Byte) :
    (s.bySector State.hostStore (bs.length + 1) loc bs).mem = (s.setBytes loc bs).mem ∧
      (s.bySector State.hostStore (bs.length + 1) loc bs).onCores = s.onCores :=
  ⟨State.bySector_mem (fun t a l => storeBytes_mem t a _ _ _ l) _ s loc bs (Nat.lt_succ_self _),
    State.bySector_keeps State.onCores (fun t a l => t.onCores_storeBytes a _ _ _ l) _ s loc bs⟩
/-- The bytes that an external home now has stand where it puts them, and nothing on the cores or engines and no entry of the directory
has changed (R221). -/
theorem State.bySector_outerStore (s : State) (loc : Nat) (bs : List Byte) :
    (s.bySector State.outerStore (bs.length + 1) loc bs).mem = (s.setBytes loc bs).mem ∧
      (s.bySector State.outerStore (bs.length + 1) loc bs).onCores = s.onCores ∧
      (s.bySector State.outerStore (bs.length + 1) loc bs).dir = s.dir :=
  ⟨State.bySector_mem State.outerStore_mem _ s loc bs (Nat.lt_succ_self _),
    Prod.mk.inj (State.bySector_keeps (fun t => (t.onCores, t.dir)) State.outerStore_onCores_dir _ s loc bs)⟩

/-! ### What stands outside the package (R225) -/

/-- A byte of a sector that no key covers stands outside as it does inside. -/
theorem State.outside_byte {s : State} (plain : s.sectorKey = []) (a : Nat) :
    (s.outside (sectorOf a)).extractLsb' (8 * (a % 32)) 8 = s.byte a := by
  have keyless : s.outside (sectorOf a) = BitVec.ofNat 256 (s.readN (sectorOf a * 32) 32) := by
    simp [State.outside, plain, Tab.at', Tab.find]
  have within : a % 32 < 32 := Nat.mod_lt _ (by decide)
  have place : sectorOf a * 32 + a % 32 = a := Nat.div_add_mod' a 32
  rw [keyless, State.readN, extract_ofBytes (by simp [State.bytes_eq_map]), State.bytes_eq_map,
    List.getD_eq_getElem _ _ (by simpa using within)]
  simp [place]
theorem State.outsideN_of_plain {s : State} (plain : s.sectorKey = []) (a n : Nat) : s.outsideN a n = s.readN a n := by
  unfold State.outsideN State.readN
  rw [State.bytes_eq_map]
  simp only [State.outside_byte plain]

end Sys2Proof.Machine
end

section
/-! PROOFS. Invalidations, bias flips, snoops and host accesses (11 R212, R213, R218, R221–R223). -/
namespace Sys2Proof.Machine

/-! ### Invalidations (R212, R213) -/

theorem Tab.at_map {α : Type} (t : Tab α) (g : α → α) {d : α} (same : g d = d) (k : Nat) :
    Tab.at' (t.map (fun p => (p.1, g p.2))) d k = g (Tab.at' t d k) := by
  induction t with
  | nil => exact same.symm
  | cons p r ih =>
    simp only [Tab.at', List.map_cons, Tab.find] at ih ⊢
    split
    · rfl
    · exact ih

/-- What an invalidation leaves of a core's TLB and instruction buffer. -/
def Core.without (c vpn n : Nat) (k : Core) : Core :=
  { k with tlb := k.tlb.filter (fun t => !(t.ctx == c && overlaps t.vpn t.span vpn n)),
           ibuf := k.ibuf.filter (fun l => !(l.ctx % 64 == c && overlaps (l.va / 64) 1 vpn n)) }
theorem State.core_tlbDrop (s : State) (c vpn n k : Nat) : (s.tlbDrop c vpn n).core k = (s.core k).without c vpn n :=
  Tab.at_map s.cores (Core.without c vpn n) rfl k

theorem State.tlbDrop_untranslated (s : State) (c vpn n : Nat) : (s.tlbDrop c vpn n).Untranslated c vpn n := by
  refine ⟨fun e m => ?_, fun w m => ?_, fun k => ⟨fun e m => ?_, fun l m => ?_⟩⟩
  · simpa [imp_iff_not_or] using (List.mem_filter.1 m).2
  · simpa [imp_iff_not_or] using (List.mem_filter.1 m).2
  · rw [State.core_tlbDrop] at m
    simpa [imp_iff_not_or] using (List.mem_filter.1 m).2
  · rw [State.core_tlbDrop] at m
    simpa [imp_iff_not_or] using (List.mem_filter.1 m).2

/-- An invalidation of `n` pages of context `c` by function `f`, with an operation, has begun: the translations are gone, memory and
threads stand, and its registers name the operation and what it waits for. -/
def State.Invalidates (s : State) (f c op vpn n : Nat) (t : State) : Prop :=
  t.Untranslated c vpn n ∧ t.mem = s.mem ∧ t.threads = s.threads ∧
    t.func f = { s.func f with invCtx := BitVec.ofNat 6 c, invOp := BitVec.ofNat 2 op,
                               inv := some { ctx := c, op := op, vpn := vpn, n := n, waits := s.accsUnder c (s.removed c vpn n),
                                             seqs := s.seqsUnder c (s.removed c vpn n) } }

/-- A write of INV_CTL's context and operation. -/
def State.invSelect (s : State) (f c op : Nat) : State :=
  s.modFunc f (fun x => { x with invCtx := BitVec.ofNat 6 c, invOp := BitVec.ofNat 2 op })
theorem State.invWrite_go (s : State) (f : Nat) {v c op : Nat} (context : v / 256 = c) (within : c < 64) (operation : v / 2 % 4 = op)
    (go : v % 2 = 1) : s.invWrite f v = (s.invSelect f c op).invGo f c op := by
  have field : BitVec.ofNat 2 (v / 2) = BitVec.ofNat 2 op := by
    apply BitVec.eq_of_toNat_eq
    simp only [BitVec.toNat_ofNat]
    omega
  simp only [State.invWrite, context, operation, field, go, if_true, Nat.mod_eq_of_lt within]
  rfl

theorem State.invStart_invalidates (s : State) (f c op vpn n : Nat) :
    s.Invalidates f c op vpn n ((s.invSelect f c op).invStart f c op vpn n) := by
  refine ⟨(s.invSelect f c op).tlbDrop_untranslated c vpn n, rfl, rfl, ?_⟩
  rw [State.invStart, State.func_modFunc_same]
  show ({ (s.invSelect f c op).func f with inv := _ } : Func) = _
  rw [State.invSelect, State.func_modFunc_same]
  rfl

/-- A context that the function sees, no invalidation of it in progress. -/
structure State.MayInvalidate (s : State) (f c : Nat) : Prop where
  sees : s.sees f c = true
  idle : (s.func f).inv = none

theorem State.MayInvalidate.context_lt {s : State} {f c : Nat} (h : s.MayInvalidate f c) : c < 64 := by
  have seen := h.sees
  simp only [State.sees, Bool.and_eq_true, decide_eq_true_eq] at seen
  obtain ⟨⟨within, -⟩, -⟩ := seen
  exact within
theorem State.MayInvalidate.select {s : State} {f c : Nat} (h : s.MayInvalidate f c) (op : Nat) :
    (s.invSelect f c op).MayInvalidate f c where
  sees := h.sees
  idle := by rw [State.invSelect, State.func_modFunc_same]; exact h.idle

/-- R212: GO for a range of pages that lies in the address space. -/
theorem State.MayInvalidate.range {s : State} {f c op : Nat} (h : s.MayInvalidate f c) (hop : op < 2) (pages : (s.func f).invPages ≠ 0)
    (fits : (s.func f).invVa.toNat + 4096 * (s.func f).invPages.toNat ≤ 2 ^ 57) :
    s.invGo f c op = s.invStart f c op ((s.func f).invVa.toNat / 4096) (s.func f).invPages.toNat := by
  have some_ : (s.func f).invPages.toNat ≠ 0 := fun z => pages (BitVec.eq_of_toNat_eq z)
  have three : op ≠ 3 := by omega
  have two : op ≠ 2 := by omega
  simp only [State.invGo, h.idle, h.sees, three, two, some_, Option.isSome_none, Bool.not_true, Bool.false_eq_true, decide_false,
    Bool.false_or, Bool.and_eq_true, decide_eq_true_eq, if_false]
  rw [if_neg (fun past => Nat.not_lt.2 fits past.2)]

/-- R212: GO for a whole context. -/
theorem State.MayInvalidate.context {s : State} {f c : Nat} (h : s.MayInvalidate f c) : s.invGo f c 2 = s.invStart f c 2 0 (2 ^ 45) := by
  simp [State.invGo, h.idle, h.sees]

/-- R212: a write of INV_CTL with GO begins the invalidation that `invGo` starts. -/
theorem State.MayInvalidate.begins {s : State} {f c v op vpn n : Nat} (h : s.MayInvalidate f c) (context : v / 256 = c)
    (operation : v / 2 % 4 = op) (go : v % 2 = 1)
    (starts : (s.invSelect f c op).invGo f c op = (s.invSelect f c op).invStart f c op vpn n) :
    s.Invalidates f c op vpn n (if s.inLoader then s else s.invWrite f v) := by
  have seen := h.sees
  simp only [State.sees, Bool.and_eq_true, Bool.not_eq_true'] at seen
  obtain ⟨-, running⟩ := seen
  rw [running, if_neg Bool.false_ne_true, s.invWrite_go f context h.context_lt operation go, starts]
  exact s.invStart_invalidates f c op vpn n

theorem State.MayInvalidate.rangeBegins {s : State} {f c v op : Nat} (h : s.MayInvalidate f c) (hop : op < 2) (context : v / 256 = c)
    (operation : v / 2 % 4 = op) (go : v % 2 = 1) (pages : (s.func f).invPages ≠ 0)
    (fits : (s.func f).invVa.toNat + 4096 * (s.func f).invPages.toNat ≤ 2 ^ 57) :
    s.Invalidates f c op ((s.func f).invVa.toNat / 4096) (s.func f).invPages.toNat (if s.inLoader then s else s.invWrite f v) := by
  have same : (s.invSelect f c op).func f = { s.func f with invCtx := BitVec.ofNat 6 c, invOp := BitVec.ofNat 2 op } :=
    s.func_modFunc_same f _
  refine h.begins context operation go ?_
  rw [(h.select op).range hop (by rw [same]; exact pages) (by rw [same]; exact fits), same]

/-! ### The end of an invalidation (R209, R213) -/

theorem State.invOver_of {s : State} {j : InvJob} (accs : ∀ a ∈ s.accs, a.id ∉ j.waits)
    (copies : ∀ k ∈ s.copies, k.id ∈ j.waits → k.buf = []) (seqs : ∀ u ∈ j.seqs, s.running u = false) : s.invOver j = true := by
  simpa [State.invOver, not_imp_not] using ⟨⟨accs, copies⟩, seqs⟩

/-- Discarding the contents of released locations changes no operand, function or claim. -/
theorem State.foldl_zeroPage_keeps (l : List Claim) (s : State) :
    (l.foldl (fun s k => s.zeroPage k.loc) s).subj = s.subj ∧ (l.foldl (fun s k => s.zeroPage k.loc) s).funcs = s.funcs ∧
      (l.foldl (fun s k => s.zeroPage k.loc) s).claims = s.claims :=
  List.foldlRecOn l _ (motive := fun t : State => t.subj = s.subj ∧ t.funcs = s.funcs ∧ t.claims = s.claims)
    ⟨rfl, rfl, rfl⟩ (fun _ h _ _ => h)
theorem State.func_release (s : State) (c vpn n f : Nat) : (s.release c vpn n).func f = s.func f :=
  congrArg (fun t => Tab.at' t Func.reset f) (State.foldl_zeroPage_keeps _ s).2.1
theorem State.subj_release (s : State) (c vpn n : Nat) : (s.release c vpn n).subj = s.subj := (State.foldl_zeroPage_keeps _ s).1
/-- R212: a released range is claimed by nothing. -/
theorem State.claims_release (s : State) (c vpn n : Nat) :
    ∀ k ∈ (s.release c vpn n).claims, ¬(k.ctx = c ∧ vpn ≤ k.vpn ∧ k.vpn < vpn + n) := by
  rintro k m ⟨context, low, high⟩
  obtain ⟨claimed, stays⟩ := List.mem_filter.1 m
  rw [(State.foldl_zeroPage_keeps _ s).2.2] at claimed
  simp [claimed, context, low, high] at stays

/-- R213: when what an invalidation waits for has ended, BUSY clears with STATUS 1, the range released under OP 1. -/
theorem execInvalidationDone_of_over {s : State} {j : InvJob} (busy : (s.func s.subj.f).inv = some j) (over_ : s.invOver j = true) :
    exec .invalidationDone s = .next ((if j.op = 1 then s.release j.ctx j.vpn j.n else s).modFunc s.subj.f
      (fun x => { x with inv := none, invStatus := 1 })) := by
  refine congrArg Host.Outcome.next ?_
  have subj : (if j.op = 1 then s.release j.ctx j.vpn j.n else s).subj = s.subj := by
    split
    · exact s.subj_release _ _ _
    · rfl
  simp only [busy, over_, subj, Bool.not_true, Bool.false_eq_true, if_false]

/-! ### Bias flips (R222, R223) -/

/-- The bias table after a flip of a page (R222). -/
def flipped (l : List Nat) (page : Nat) (dev : Bool) : List Nat :=
  if dev then insertBy (fun a b => decide (a ≤ b)) page (l.filter (· != page)) else l.filter (· != page)
/-- It holds that page as asked, and every other as before. -/
theorem contains_flipped (l : List Nat) (page q : Nat) (dev : Bool) :
    (flipped l page dev).contains q = if q = page then dev else l.contains q := by
  rw [Bool.eq_iff_iff]
  cases dev <;> by_cases same : q = page <;> simp [flipped, mem_insertBy, same]

/-- The page that BIAS_PA names may be flipped: it lies in the carve-out, the physical function has the feature, and no flip is in
progress (R222, R223). -/
structure State.MayFlip (s : State) : Prop where
  idle : s.dev.flip = none
  devmem : isDevmem s.dev.biasPa.toNat = true
  carved : s.dev.biasPa.toNat < 2 ^ 46 + s.carveout
  session : (s.func 0).session = true
  feature : (s.func 0).accept.getLsbD 11 = true
theorem State.MayFlip.biasGo {s : State} (h : s.MayFlip) {dev : Bool} (other : s.deviceBias s.dev.biasPa.toNat = !dev) :
    s.biasGo dev = s.modDev (fun d => { d with flip := some (d.biasPa.toNat / 4096, dev) }) := by
  obtain ⟨idle, devmem, carved, session, feature⟩ := h
  have inside : decide (s.dev.biasPa.toNat ≥ 2 ^ 46 + s.carveout) = false := decide_eq_false (Nat.not_le.2 carved)
  simp only [State.biasGo, idle, devmem, inside, session, feature, other, Option.isSome_none, Bool.not_true, Bool.or_self, Bool.and_self,
    Bool.not_beq_self, Bool.false_eq_true, if_false]
  rfl
/-- R223: a write of BIAS_CTL with GO begins a flip to the direction that the page does not have. -/
theorem State.MayFlip.begins {s : State} (h : s.MayFlip) {dev : Bool} (other : s.deviceBias s.dev.biasPa.toNat = !dev) {v : Nat}
    (direction : bit v 1 = dev) (go : v % 2 = 1) :
    s.biasWrite v = { s with dev := { s.dev with toDevice := dev, flip := some (s.dev.biasPa.toNat / 4096, dev) } } := by
  obtain ⟨idle, devmem, carved, session, feature⟩ := h
  have directed : (s.modDev (fun d => { d with toDevice := dev })).MayFlip := ⟨idle, devmem, carved, session, feature⟩
  rw [State.biasWrite, if_pos go, direction, directed.biasGo other]
  rfl

/-- R223: when the page is served, its copies are recalled, its bit changes and BUSY clears with STATUS 1. -/
theorem biasFlipDone_of_ready {s : State} {page : Nat} {dev : Bool} (busy : s.dev.flip = some (page, dev))
    (ready : s.flipReady page = true) :
    Becomes .biasFlipDone s (fun t => t.dev.flip = none ∧ t.dev.biasStatus = 1 ∧
      (∀ q, t.bias.contains q = if q = page then dev else s.bias.contains q) ∧
      ∀ d ∈ t.dir, overlaps d.base d.size (page * 4096) 4096 = false) := by
  have table := s.bias_recall (page * 4096) 4096
  have lines := s.dir_recall (page * 4096) 4096
  refine ⟨State.modDev { s.recall (page * 4096) 4096 with bias := flipped (s.recall (page * 4096) 4096).bias page dev }
    (fun d => { d with flip := none, biasStatus := 1 }), congrArg Host.Outcome.next ?_, ?_⟩
  · simp only [busy, ready, Bool.not_true, Bool.false_eq_true, if_false]
    rfl
  · generalize s.recall (page * 4096) 4096 = r at table lines ⊢
    rw [← table]
    exact ⟨rfl, rfl, fun q => contains_flipped r.bias page q dev, lines⟩

/-! ### Snoops and host accesses (R218, R221, R222) -/

/-- Nothing but the host looks at what it does: no monitor, no update-only copy, no engine with a line in progress. -/
structure State.Unobserved (s : State) : Prop where
  canonical : s.Inv
  monitors : s.monitors = []
  copies : s.ucopies = []
  engines : ∀ k ∈ s.copies, k.held = []

theorem State.Unobserved.inProgress {s : State} (h : s.Unobserved) (base n : Nat) : s.inProgress base n = false := by
  simp only [State.inProgress, List.any_eq_false]
  intro c m
  simp [h.engines c m]
theorem State.fireMonitors_of_none {s : State} (monitors : s.monitors = []) (loc n : Nat) : s.fireMonitors loc n = s := by
  simp [State.fireMonitors, monitors]
theorem State.stores_of_mem {s t : State} (w : s.Inv) {loc : Nat} {bs : List Byte} (mem : t.mem = (s.setBytes loc bs).mem) :
    s.Stores loc bs t := by
  intro p
  rw [← s.setBytes_stores w loc bs p, State.byte, mem, State.byte]

/-- A range of bytes that a snoop may name: in the pool, or in host memory (R221). -/
def snoopable (a n : Nat) : Bool := (isPool a && isPool (a + n - 1)) || (isHostMem a && isHostMem (a + n - 1))
/-- Bytes of a line that a snoop of `a` recalls (R221). -/
def snoopLine (a : Nat) : Nat := if isPool a then 128 else 64
/-- The device's answer to a snoop of a range of lines: what it holds newer than the home (R218, R221). -/
def State.answerSnoop (s : State) (base len : Nat) : State :=
  let s := s.served .externalSnoop
  if s.holdsDirty base len then { s with hostData := BitVec.ofNat 64 (s.outsideN s.subj.a 8) } else s
theorem State.answerSnoop_keeps (s : State) (base len : Nat) :
    (s.answerSnoop base len).subj = s.subj ∧ (s.answerSnoop base len).mem = s.mem ∧ (s.answerSnoop base len).threads = s.threads ∧
      (s.answerSnoop base len).monitors = s.monitors ∧ (s.answerSnoop base len).ucopies = s.ucopies := by
  unfold State.answerSnoop
  dsimp only
  split <;> exact ⟨rfl, rfl, rfl, rfl, rfl⟩

/-- First byte of the line of `line` bytes that holds `a`. -/
def linesBase (line a : Nat) : Nat := a / line * line
/-- Bytes of the lines of `line` bytes that hold `a`, …, `a + n - 1`. -/
def linesLen (line a n : Nat) : Nat := (a + n + line - 1) / line * line - linesBase line a
theorem lines_cover {line : Nat} (a n : Nat) (pos : 0 < line) :
    linesBase line a ≤ a ∧ a + n ≤ linesBase line a + linesLen line a n := by
  have first : a / line * line ≤ a := Nat.div_mul_le_self a line
  have last : a + n ≤ (a + n + line - 1) / line * line := by
    have := Nat.lt_div_mul_add (a := a + n + line - 1) pos
    omega
  unfold linesLen linesBase
  omega

/-- The snooped lines recalled: they begin at `base` and have `len` bytes. -/
def State.snooped (s : State) (base len : Nat) : State := (s.answerSnoop base len).recall base len
theorem State.uncached_snooped {s : State} (copies : s.ucopies = []) (base len : Nat) :
    (s.snooped base len).uncached = (s.answerSnoop base len).uncached := by
  obtain ⟨-, -, -, -, held⟩ := s.answerSnoop_keeps base len
  exact State.uncached_recall (held.trans copies) base len
/-- The snooped lines recalled, the home's bytes in place, and the monitors on the lines evaluated. -/
def State.snoopStores (s : State) (base len : Nat) : State :=
  ((s.snooped base len).bySector State.outerStore ((s.snooped base len).subj.data.length + 1) s.subj.a
    (s.snooped base len).subj.data).fireMonitors base len

/-- R221: a snoop of lines that no engine has in progress. -/
theorem execExternalSnoop_of_free {s : State} (some_ : 0 < s.subj.data.length)
    (within : snoopable s.subj.a s.subj.data.length = true) {base len : Nat} (first : base = linesBase (snoopLine s.subj.a) s.subj.a)
    (last : len = linesLen (snoopLine s.subj.a) s.subj.a s.subj.data.length) (free : s.inProgress base len = false) :
    exec .externalSnoop s = .next (s.snoopStores base len) := by
  subst first last
  have length : max 1 s.subj.data.length = s.subj.data.length := Nat.max_eq_right some_
  have shape : ∀ n, max 1 s.subj.data.length = n → exec .externalSnoop s = .next (
      let base := linesBase (snoopLine s.subj.a) s.subj.a
      let len := linesLen (snoopLine s.subj.a) s.subj.a n
      if !snoopable s.subj.a n then s
      else if s.inProgress base len then s.defer .externalSnoop
      else s.snoopStores base len) := by
    rintro n rfl
    rfl
  rw [shape _ length]
  simp only [within, free, Bool.not_true, Bool.false_eq_true, if_false]

/-- R221: a snoop puts the bytes where they belong, and no entry of the directory is left of them. -/
theorem externalSnoop_stores {s : State} (quiet : s.Unobserved) (some_ : 0 < s.subj.data.length)
    (within : snoopable s.subj.a s.subj.data.length = true) :
    Becomes .externalSnoop s (fun t => s.Stores s.subj.a s.subj.data t ∧ t.threads = s.threads ∧
      ∀ d ∈ t.dir, overlaps d.base d.size s.subj.a s.subj.data.length = false) := by
  obtain ⟨low, high⟩ := lines_cover s.subj.a s.subj.data.length (line := snoopLine s.subj.a) (by unfold snoopLine; split <;> decide)
  refine ⟨_, execExternalSnoop_of_free some_ within rfl rfl (quiet.inProgress _ _), ?_⟩
  generalize linesBase (snoopLine s.subj.a) s.subj.a = base at low high
  generalize linesLen (snoopLine s.subj.a) s.subj.a s.subj.data.length = len at high
  have recalled := State.uncached_snooped quiet.copies base len
  obtain ⟨heldSubj, heldMem, heldThreads, heldMonitors, -⟩ := s.answerSnoop_keeps base len
  rw [State.snoopStores, (State.uncached_subj recalled).trans heldSubj]
  obtain ⟨mem, onCores, dir⟩ := (s.snooped base len).bySector_outerStore s.subj.a s.subj.data
  have monitors := (State.onCores_monitors onCores).trans ((State.uncached_monitors recalled).trans (heldMonitors.trans quiet.monitors))
  rw [State.fireMonitors_of_none monitors]
  refine ⟨State.stores_of_mem quiet.canonical (mem.trans (setBytes_mem _ _ _ _ ((State.uncached_mem recalled).trans heldMem))),
    (State.onCores_threads onCores).trans ((State.uncached_threads recalled).trans heldThreads), fun d m => ?_⟩
  rw [dir] at m
  exact overlaps_inner (State.dir_recall _ base len d m) low high

/-- The carve-out lies in no range that a link serves (R203, R215). -/
theorem State.linkUp_carveout {s : State} {a : Nat} (low : 2 ^ 46 ≤ a) (high : a < 2 ^ 46 + s.carveout) : s.linkUp a = true := by
  have size : s.dev.devmemGib.toNat < 64 := s.dev.devmemGib.isLt
  have pool : isPool a = false := decide_eq_false (Nat.not_lt.2 low)
  have host : isHostMem a = false := by
    simp only [State.carveout] at high
    simp only [isHostMem, Bool.and_eq_false_iff, decide_eq_false_iff_not]
    omega
  simp [State.linkUp, pool, host]

/-- A host's access to bytes of the carve-out that waits for nothing (R222, R223). -/
theorem State.Unobserved.hostWaits {s : State} (quiet : s.Unobserved) (idle : s.dev.flip = none) {a n : Nat} (some_ : 0 < n)
    (devmem : isDevmem a = true) (within : a + n ≤ 2 ^ 46 + s.carveout) : s.hostWaits a n = false := by
  have low : 2 ^ 46 ≤ a := by
    simp only [isDevmem, Bool.and_eq_true, decide_eq_true_eq] at devmem
    exact devmem.1
  have first : s.linkUp a = true := State.linkUp_carveout low (by omega)
  have last : s.linkUp (a + n - 1) = true := State.linkUp_carveout (by omega) (by omega)
  have still : ∀ l, s.flipping l = false := fun l => by simp [State.flipping, idle]
  simp [State.hostWaits, first, last, still, quiet.inProgress]

/-- The sectors of the lines of 64 bytes that hold bytes `a`, …, `a + n - 1`. -/
def hostSectors (a n : Nat) : List Nat := (List.range (linesLen 64 a n / 32)).map (fun i => linesBase 64 a + 32 * i)
/-- The lines of a host's access recalled. -/
def State.hostRecall (s : State) (a n : Nat) : State := (s.served .hostCxlMemAccess).recall (linesBase 64 a) (linesLen 64 a n)
/-- The lines of a host's write recalled, and the host their owner. -/
def State.hostOwns (s : State) (a n : Nat) : State :=
  (hostSectors a n).foldl (fun s p => s.dirWrite (homeDie p) 145 p 0) (s.hostRecall a n)
/-- The lines of a host's read recalled, and the host a sharer. -/
def State.hostShares (s : State) (a n : Nat) : State :=
  (hostSectors a n).foldl (fun s p => s.dirRead (homeDie p) (some 145) p 0) (s.hostRecall a n)
/-- A host's write performed: the subject's bytes stored, and the monitors on them evaluated. -/
def State.hostStores (s : State) (a n : Nat) : State :=
  ((s.hostOwns a n).bySector State.hostStore (n + 1) a (s.hostOwns a n).subj.data).fireMonitors a n
/-- A host's read performed: the host has the bytes as they stand outside the package. -/
def State.hostLoads (s : State) (a n : Nat) : State :=
  { s.hostShares a n with hostData := BitVec.ofNat 64 ((s.hostShares a n).outsideN a n) }

theorem State.uncached_hostRecall {s : State} (copies : s.ucopies = []) (a n : Nat) :
    (s.hostRecall a n).uncached = (s.served .hostCxlMemAccess).uncached :=
  State.uncached_recall (s := s.served .hostCxlMemAccess) copies _ _
theorem State.uncached_hostOwns {s : State} (copies : s.ucopies = []) (a n : Nat) :
    (s.hostOwns a n).uncached = (s.served .hostCxlMemAccess).uncached :=
  (State.uncached_foldl _ _ (fun t _ => t.uncached_dirWrite _ _ _ _) _).trans (State.uncached_hostRecall copies a n)
theorem State.uncached_hostShares {s : State} (copies : s.ucopies = []) (a n : Nat) :
    (s.hostShares a n).uncached = (s.served .hostCxlMemAccess).uncached :=
  (State.uncached_foldl _ _ (fun t _ => t.uncached_dirRead _ _ _ _) _).trans (State.uncached_hostRecall copies a n)

/-- R222: a host's access to `n` bytes of the carve-out that waits for nothing. -/
theorem execHostCxlMemAccess_of_free {s : State} {n : Nat} (size : (if s.subj.w then s.subj.data.length else min 8 s.subj.b) = n)
    (some_ : 0 < n) (devmem : isDevmem s.subj.a = true) (within : s.subj.a + n ≤ 2 ^ 46 + s.carveout)
    (free : s.hostWaits s.subj.a n = false) :
    exec .hostCxlMemAccess s = .next (if (s.hostRecall s.subj.a n).subj.w then s.hostStores s.subj.a n else s.hostLoads s.subj.a n) := by
  have ranged : (n = 0 || !isDevmem s.subj.a || s.subj.a + n > 2 ^ 46 + s.carveout) = false := by
    rw [devmem, decide_eq_false some_.ne', decide_eq_false (Nat.not_lt.2 within)]
    rfl
  have shape : exec .hostCxlMemAccess s = .next (
      if n = 0 || !isDevmem s.subj.a || s.subj.a + n > 2 ^ 46 + s.carveout then s
      else if s.hostWaits s.subj.a n then s.defer .hostCxlMemAccess
      else if (s.hostRecall s.subj.a n).subj.w then s.hostStores s.subj.a n
      else s.hostLoads s.subj.a n) := by
    subst size
    rfl
  rw [shape, ranged, free, if_neg Bool.false_ne_true, if_neg Bool.false_ne_true]

/-- R222: a host's write of the carve-out puts its bytes where they belong. -/
theorem hostCxlMemAccess_stores {s : State} (quiet : s.Unobserved) (idle : s.dev.flip = none) (devmem : isDevmem s.subj.a = true)
    (write : s.subj.w = true) (some_ : 0 < s.subj.data.length) (within : s.subj.a + s.subj.data.length ≤ 2 ^ 46 + s.carveout) :
    Becomes .hostCxlMemAccess s (fun t => s.Stores s.subj.a s.subj.data t ∧ t.threads = s.threads) := by
  refine ⟨_, execHostCxlMemAccess_of_free (if_pos write) some_ devmem within (quiet.hostWaits idle some_ devmem within), ?_⟩
  have owned := State.uncached_hostOwns quiet.copies s.subj.a s.subj.data.length
  have recalled := State.uncached_hostRecall quiet.copies s.subj.a s.subj.data.length
  have writes : (s.hostRecall s.subj.a s.subj.data.length).subj.w = true := (congrArg Subject.w (State.uncached_subj recalled)).trans write
  have subj : (s.hostOwns s.subj.a s.subj.data.length).subj = s.subj := (State.uncached_subj owned).trans rfl
  rw [if_pos writes, State.hostStores, subj]
  obtain ⟨mem, onCores⟩ := (s.hostOwns s.subj.a s.subj.data.length).bySector_hostStore s.subj.a s.subj.data
  have monitors := (State.onCores_monitors onCores).trans ((State.uncached_monitors owned).trans quiet.monitors)
  rw [State.fireMonitors_of_none monitors]
  exact ⟨State.stores_of_mem quiet.canonical (mem.trans (setBytes_mem _ _ _ _ ((State.uncached_mem owned).trans rfl))),
    (State.onCores_threads onCores).trans ((State.uncached_threads owned).trans rfl)⟩

/-- R222, R225: a host's read of 8 bytes of the carve-out that no key covers gives those bytes. -/
theorem hostCxlMemAccess_reads {s : State} (quiet : s.Unobserved) (idle : s.dev.flip = none) (devmem : isDevmem s.subj.a = true)
    (read : s.subj.w = false) (eight : s.subj.b = 8) (within : s.subj.a + 8 ≤ 2 ^ 46 + s.carveout) (plain : s.sectorKey = []) :
    Becomes .hostCxlMemAccess s (fun t => t.mem = s.mem ∧ t.threads = s.threads ∧
      t.hostData = BitVec.ofNat 64 (s.readN s.subj.a 8)) := by
  have size : (if s.subj.w then s.subj.data.length else min 8 s.subj.b) = 8 := by rw [read, eight]; rfl
  refine ⟨_, execHostCxlMemAccess_of_free size (by decide) devmem within (quiet.hostWaits idle (by decide) devmem within), ?_⟩
  have shared := State.uncached_hostShares quiet.copies s.subj.a 8
  have recalled := State.uncached_hostRecall quiet.copies s.subj.a 8
  have reads : (s.hostRecall s.subj.a 8).subj.w = false := (congrArg Subject.w (State.uncached_subj recalled)).trans read
  rw [reads, if_neg Bool.false_ne_true, State.hostLoads]
  have mem : (s.hostShares s.subj.a 8).mem = s.mem := (State.uncached_mem shared).trans rfl
  refine ⟨mem, (State.uncached_threads shared).trans rfl, ?_⟩
  show BitVec.ofNat 64 _ = _
  rw [State.outsideN_of_plain ((State.uncached_sectorKey shared).trans plain), State.readN_of_mem mem]

end Sys2Proof.Machine

open Sys2Proof Sys2Proof.Machine

/-- Settles O48: event by event. GO of INV_CTL and of BIAS_CTL begins what it names (`MayInvalidate.begins`, `MayFlip.begins`); a flip
recalls its page, and a recall keeps the bias table (`State.bias_recall`); with nothing to observe it, a recall moves no byte
(`State.uncached_recall`), and bytes stored sector by sector are bytes stored at once (`State.bySector_mem`). -/
theorem outsideAccessEvents : Obligations.OutsideAccessEvents := by
  unfold Obligations.OutsideAccessEvents
  intro s
  dsimp only
  refine ⟨fun sees idle => ?_, fun j busy accs copies seqs => ?_, fun hf loader idle devmem carved session feature => ?_,
    fun page dev busy ready => biasFlipDone_of_ready busy ready,
    fun canonical monitors ucopies idle engines => ⟨fun some_ within => ?_, fun devmem =>
      ⟨fun write some_ within => ?_, fun read eight within plain => ?_⟩⟩⟩
  · have may : s.MayInvalidate s.subj.f s.subj.c := ⟨sees, idle⟩
    have context : s.subj.c < 64 := may.context_lt
    refine ⟨fun pages fits => ⟨⟨_, rfl, ?_⟩, ⟨_, rfl, ?_⟩⟩, ⟨_, rfl, ?_⟩⟩
    · exact may.rangeBegins (op := 0) (by decide) (by omega) (by omega) (by omega) pages fits
    · exact may.rangeBegins (op := 1) (by decide) (by omega) (by omega) (by omega) pages fits
    · exact may.begins (op := 2) (by omega) (by omega) (by omega) (may.select 2).context
  · refine ⟨_, execInvalidationDone_of_over busy (State.invOver_of accs copies seqs), ?_, fun other => ?_, fun release => ?_⟩
    · rw [State.func_modFunc_same]
      split
      · rw [State.func_release]
      · rfl
    · rw [if_neg other]
      exact s.modFunc_puts _ _
    · rw [if_pos release]
      exact s.claims_release _ _ _
  · have may : s.MayFlip := ⟨idle, devmem, carved, session, feature⟩
    exact ⟨fun host => becomes_of_guard rfl (by simp [hf, loader]) (may.begins (dev := true) host rfl rfl),
      fun device => becomes_of_guard rfl (by simp [hf, loader]) (may.begins (dev := false) device rfl rfl)⟩
  · exact externalSnoop_stores ⟨canonical, monitors, ucopies, engines⟩ some_ (by simpa [snoopable] using within)
  · exact hostCxlMemAccess_stores ⟨canonical, monitors, ucopies, engines⟩ idle devmem write some_ within
  · exact hostCxlMemAccess_reads ⟨canonical, monitors, ucopies, engines⟩ idle devmem read eight within plain
end

section
/-! PROOFS. What the check and the service of an access leave alone: the threads, teams and groups on the cores, their register lines, and
the accesses and operations in flight (11 R204–R208, R218, R220, R225, R226; 12 R237, R238). -/
namespace Sys2Proof.Machine

/-- What stands on the cores and engines, and the accesses and operations in flight. -/
def State.atWork (s : State) : (Tab Team × Tab Group × Tab Thread × Tab Cluster × List RegLine × List Monitor × List Copy) ×
    List Access × List Op := (s.onCores, s.accs, s.ops)

section
variable {s t : State} (h : t.atWork = s.atWork)
include h
theorem State.atWork_onCores : t.onCores = s.onCores := congrArg (·.1) h
theorem State.atWork_accs : t.accs = s.accs := congrArg (·.2.1) h
theorem State.atWork_ops : t.ops = s.ops := congrArg (·.2.2) h
end

/-! ### Composition -/

@[simp] theorem State.atWork_ite {p : Prop} [Decidable p] (s t : State) :
    (if p then s else t).atWork = if p then s.atWork else t.atWork := apply_ite _ _ _ _
@[simp] theorem State.atWork_fst_ite {α : Type} {p : Prop} [Decidable p] (x y : State × α) :
    (if p then x else y).1.atWork = if p then x.1.atWork else y.1.atWork := apply_ite (fun x : State × α => x.1.atWork) _ _ _
theorem State.atWork_foldl {α : Type} (l : List α) (f : State → α → State) (h : ∀ s x, (f s x).atWork = s.atWork) (s : State) :
    (l.foldl f s).atWork = s.atWork :=
  List.foldlRecOn l f (motive := fun t : State => t.atWork = s.atWork) rfl (fun t k x _ => (h t x).trans k)
/-- What changes only what the caches hold leaves the work alone. -/
theorem State.atWork_of_uncached {s t : State} (h : t.uncached = s.uncached) : t.atWork = s.atWork := by
  show t.uncached.atWork = s.uncached.atWork
  rw [h]
/-- What an operation with an answer leaves alone, at the state that a match names, where one of two ways was taken. -/
theorem State.atWork_of_way {α : Type} {p : Prop} [Decidable p] {s t : State} {x : State × α} {r v : α}
    (e : (if p then (s, v) else x) = (t, r)) (h : x.1.atWork = s.atWork) : t.atWork = s.atWork := by
  split at e
  · exact congrArg (fun y => y.1.atWork) e.symm
  · rw [e] at h; exact h

section
variable (s : State)

/-! ### Bytes, poison, array faults -/

@[simp] theorem State.atWork_poisonSector (sec : Nat) : (s.poisonSector sec).atWork = s.atWork := by
  unfold State.poisonSector; split <;> rfl
@[simp] theorem State.atWork_logLasting (u sec : Nat) (p : Bool) : (s.logLasting u sec p).atWork = s.atWork := (rfl)
@[simp] theorem State.atWork_meetEcc (sec : Nat) : (s.meetEcc sec).atWork = s.atWork := by
  unfold State.meetEcc
  split
  · rfl
  · dsimp only
    split
    · rfl
    · rfl
    · rw [State.atWork_ite, State.atWork_poisonSector, State.atWork_logLasting, State.atWork_logLasting, ite_self]
      rfl
@[simp] theorem State.atWork_consume (loc key : Nat) : (s.consume loc key).1.atWork = s.atWork := by
  simp [State.consume]
@[simp] theorem State.atWork_setBytes (a : Nat) (bs : List Byte) : (s.setBytes a bs).atWork = s.atWork := by
  rw [setBytes_eq]; rfl
@[simp] theorem State.atWork_cleanSector (sec : Nat) : (s.cleanSector sec).atWork = s.atWork := (rfl)
@[simp] theorem State.atWork_dropReplicas (pa : Nat) : (s.dropReplicas pa).atWork = s.atWork := (rfl)
@[simp] theorem State.atWork_keepOld (sec : Nat) : (s.keepOld sec).atWork = s.atWork := (rfl)
@[simp] theorem State.atWork_dirtyFrame (loc : Nat) : (s.dirtyFrame loc).atWork = s.atWork := (rfl)
@[simp] theorem State.atWork_with_sectorKey (t : Tab Nat) : State.atWork { s with sectorKey := t } = s.atWork := (rfl)
@[simp] theorem State.atWork_storeBytes (loc key : Nat) (p c : Bool) (bs : List Byte) :
    (s.storeBytes loc key p c bs).atWork = s.atWork := by
  simp only [State.storeBytes, State.atWork_setBytes, State.atWork_ite, State.atWork_dirtyFrame, State.atWork_with_sectorKey,
    State.atWork_cleanSector, State.atWork_poisonSector, State.atWork_dropReplicas, State.atWork_keepOld, ite_self]
@[simp] theorem State.atWork_storeLeaf (loc leaf : Nat) (bs : List Byte) : (s.storeLeaf loc leaf bs).atWork = s.atWork :=
  s.atWork_storeBytes loc _ _ _ bs

/-! ### Reads and writes of a line (R218, R220) -/

@[simp] theorem State.uncached_noteRead (core leaf loc : Nat) : (s.noteRead core leaf loc).uncached = s.uncached := by
  simp [State.noteRead]
@[simp] theorem State.uncached_noteReplica (a : Access) : (s.noteReplica a).uncached = s.uncached := by
  unfold State.noteReplica
  dsimp only
  split
  · split <;> rfl
  · rfl
@[simp] theorem State.uncached_l2Read (die pa : Nat) : (s.l2Read die pa).uncached = s.uncached := by
  simp [State.l2Read]
@[simp] theorem State.atWork_keepStale (core : Nat) (e : Bool) (ctx va : Nat) (st : Bool) (loc : Nat) :
    (s.keepStale core e ctx va st loc).atWork = s.atWork := by
  unfold State.keepStale
  refine (State.atWork_foldl _ _ (fun t k => ?_) _).trans rfl
  dsimp only
  split
  · rfl
  · split <;> rfl
@[simp] theorem State.atWork_noteWrite (core ctx va : Nat) (st : Bool) (leaf loc : Nat) :
    (s.noteWrite core ctx va st leaf loc).atWork = s.atWork := by
  simp [State.noteWrite, State.atWork_of_uncached (State.uncached_dirWrite _ _ _ _ _)]
theorem State.mem_noteWrite (core ctx va : Nat) (st : Bool) (leaf loc : Nat) :
    (s.noteWrite core ctx va st leaf loc).mem = s.mem := by
  unfold State.noteWrite
  split
  · exact (State.uncached_mem (State.uncached_dirWrite _ _ _ _ _)).trans (s.keepStale_keeps _ _ _ _ _ _).2.2
  · rfl
@[simp] theorem State.atWork_holdFor (loc : Nat) : (s.holdFor loc).atWork = s.atWork := by
  unfold State.holdFor; split <;> rfl

/-! ### Homes, walks and checks (R204–R209) -/

@[simp] theorem State.atWork_claim (c vpn loc : Nat) : (s.claim c vpn loc).1.atWork = s.atWork := by
  unfold State.claim
  dsimp only
  split
  · rfl
  · split <;> rfl
@[simp] theorem State.atWork_walkReads (die c va : Nat) : (s.walkReads die c va).atWork = s.atWork := by
  unfold State.walkReads
  rw [State.atWork_ite, State.atWork_foldl, ite_self]
  intro t p
  have read : (((t.consume p.2 0).1).l2Read die p.2).atWork = t.atWork :=
    (State.atWork_of_uncached (State.uncached_l2Read _ _ _)).trans (t.atWork_consume p.2 0)
  dsimp only
  split <;> exact read
@[simp] theorem State.atWork_lookup (core c va : Nat) : (s.lookup core c va).1.atWork = s.atWork := by
  have walked := s.atWork_walkReads (dieOf core) c va
  unfold State.lookup
  dsimp only
  split
  · rfl
  split
  · rfl
  split
  · exact s.atWork_holdFor _
  split
  · exact walked
  · exact walked
  · exact (State.atWork_holdFor _ _).trans walked
  · exact walked
@[simp] theorem State.atWork_check (core c : Nat) (sup : Bool) (m : Mode) (va : Nat) :
    (s.check core c sup m va).1.atWork = s.atWork := by
  have found := s.atWork_lookup core c va
  unfold State.check
  split
  · rfl
  generalize s.lookup core c va = x at found ⊢
  obtain ⟨t, (_ | _ | _) | ⟨e, page⟩⟩ := x
  · exact found
  · exact found
  · exact found
  · by_cases own : pteHome e ≤ 1 <;> simpa [own] using found
/-- R208, R228, R229: the checks of a lane leave the work alone. -/
theorem State.atWork_checkLane (o : Op) (l : Lane) : (s.checkLane o l).1.atWork = s.atWork := by
  have checked := s.atWork_check o.core o.ctx (s.isSup l.tid) (if isWriteOp o.instr then .write else .read) l.addr.toNat
  unfold State.checkLane
  dsimp only
  split
  · rfl
  split
  · next e => exact State.atWork_of_way e checked
  next t p e =>
  have placed := State.atWork_of_way e checked
  split
  · exact placed
  split
  · have read := (t.atWork_consume p.loc (pteKey p.leaf)).trans placed
    split <;> next e => rw [e] at read; exact read
  · exact placed
end

end Sys2Proof.Machine
end

section
/-! PROOFS. Accesses that have been performed: what their end leaves of the threads, and what their results leave in registers (12 R230,
R235; 14 R289; 22 R452). -/
namespace Sys2Proof.Machine

/-! ### Tables and threads -/

theorem Tab.mem_put {α : Type} {t : Tab α} {k : Nat} {v : α} {p : Nat × α} (h : p ∈ t.put k v) : p = (k, v) ∨ p ∈ t := by
  induction t with
  | nil => simpa [Tab.put] using h
  | cons q r ih =>
    obtain ⟨j, x⟩ := q
    simp only [Tab.put] at h
    split at h
    · exact (List.mem_cons.1 h).imp_right (List.mem_cons_of_mem _)
    · split at h
      · exact List.mem_cons.1 h
      · rcases List.mem_cons.1 h with rfl | h
        · exact .inr List.mem_cons_self
        · exact (ih h).imp_right (List.mem_cons_of_mem _)

theorem Access.isOf_eq_false {a : Access} {w : Nat} : a.isOf w = false ↔ w ∉ a.tid :: a.mates := by
  rw [Access.isOf, Bool.or_eq_false_iff, List.mem_cons, not_or, beq_eq_false_iff_ne, ne_comm]
  simp

/-- A thread as one that looks again, if it stood at a fence (R289). -/
def Thread.pastFence (x : Thread) : Thread := if x.waitFor == .fence then { x with waitFor := .nothing } else x

theorem Thread.pastFence_cases (x : Thread) : x.pastFence = x ∨ x.waitFor = .fence ∧ x.pastFence = { x with waitFor := .nothing } := by
  unfold Thread.pastFence
  split
  · next h => exact .inr ⟨by simpa using h, rfl⟩
  · exact .inl rfl
theorem Thread.pastFence_of_ne {x : Thread} (h : x.waitFor ≠ .fence) : x.pastFence = x :=
  x.pastFence_cases.resolve_right fun k => h k.1
@[simp] theorem Thread.pastFence_tstate (x : Thread) : x.pastFence.tstate = x.tstate := by
  rcases x.pastFence_cases with h | ⟨-, h⟩ <;> rw [h]
@[simp] theorem Thread.pastFence_twice (x : Thread) : x.pastFence.pastFence = x.pastFence := by
  rcases x.pastFence_cases with h | ⟨-, h⟩
  · rw [h, h]
  · rw [h]; rfl

/-! ### The end of an access (R235, R289, R452) -/

/-- `t` is `s` after an access of the threads `us` has been dropped: the accesses in flight are `l`; of the threads only those of `us` may
have changed, and only in that they have left a fence. -/
structure State.Dropped (s : State) (us : List Nat) (l : List Access) (t : State) : Prop where
  frame : t = { s with accs := l, msiWait := t.msiWait, msix := t.msix, outst := t.outst, threads := t.threads }
  threads : ∀ w, t.thread w = if w ∈ us then (s.thread w).pastFence else s.thread w
  entries : ∀ p ∈ t.threads, p ∈ s.threads ∨ p.2.waitFor = .nothing

/-- A thread at a fence looks again (R289). -/
def State.leaveFence (s : State) (u : Nat) : State :=
  if (s.thread u).waitFor == .fence then s.modThread u (fun x => { x with waitFor := .nothing }) else s

theorem State.leaveFence_dropped (s : State) (u : Nat) : s.Dropped [u] s.accs (s.leaveFence u) := by
  unfold State.leaveFence
  split
  · next fenced =>
    refine ⟨rfl, fun w => ?_, fun p m => (Tab.mem_put m).symm.imp_right fun e => by rw [e]⟩
    rw [State.thread_modThread]
    by_cases own : w = u
    · subst own; simp [Thread.pastFence, fenced]
    · simp [own]
  · next free =>
    refine ⟨rfl, fun w => ?_, fun p m => .inl m⟩
    by_cases own : w = u
    · subst own; simp [Thread.pastFence, free]
    · simp [own]

theorem State.foldl_leaveFence_dropped (us : List Nat) (s : State) : s.Dropped us s.accs (us.foldl State.leaveFence s) := by
  induction us generalizing s with
  | nil => exact ⟨rfl, fun w => rfl, fun p h => .inl h⟩
  | cons u us ih =>
    rw [List.foldl_cons]
    have first := s.leaveFence_dropped u
    have rest := ih (s.leaveFence u)
    generalize us.foldl State.leaveFence (s.leaveFence u) = t at rest ⊢
    generalize s.leaveFence u = r at first rest
    refine ⟨?_, fun w => ?_, fun p m => (rest.entries p m).elim (first.entries p) .inr⟩
    · have frame := rest.frame
      rw [first.frame] at frame
      exact frame
    · rw [rest.threads, first.threads]
      by_cases e : w = u
      · subst e; simp
      · simp [e]

/-- R235, R289, R452: an access that is no remote one leaves the accesses in flight, and its threads look again at their fences. -/
theorem State.dropAcc_dropped (s : State) {a : Access} (near : a.remote = false) :
    s.Dropped (a.tid :: a.mates) (s.accs.filter (fun e => e.id != a.id)) (s.dropAcc a) := by
  let left : State := State.settleMsi { s with accs := s.accs.filter (fun e => e.id != a.id) }
  have counted : ∀ n, s.Dropped (a.tid :: a.mates) left.accs
      ((a.tid :: a.mates).foldl State.leaveFence { left with outst := n }) := fun n => by
    obtain ⟨frame, threads, entries⟩ := State.foldl_leaveFence_dropped (a.tid :: a.mates) { left with outst := n }
    exact ⟨frame, threads, entries⟩
  unfold State.dropAcc
  simp only [near, Bool.not_false, if_true]
  cases counterOf a.kind a.instr a.hints false
  · exact counted s.outst
  · dsimp only
    rw [State.modOut_eq]
    exact counted _
  · dsimp only
    rw [State.modOut_eq]
    exact counted _

section
variable {s t : State} {us : List Nat} {l : List Access} (h : s.Dropped us l t)
include h
theorem State.Dropped.accs : t.accs = l := by rw [h.frame]
theorem State.Dropped.mem : t.mem = s.mem := by rw [h.frame]
theorem State.Dropped.lines : t.lines = s.lines := by rw [h.frame]
theorem State.Dropped.teams : t.teams = s.teams := by rw [h.frame]
theorem State.Dropped.groups : t.groups = s.groups := by rw [h.frame]
theorem State.Dropped.thread_other {w : Nat} (other : w ∉ us) : t.thread w = s.thread w := (h.threads w).trans (if_neg other)
theorem State.Dropped.thread_of_ne {w : Nat} (free : (s.thread w).waitFor ≠ .fence) : t.thread w = s.thread w := by
  rw [h.threads, Thread.pastFence_of_ne free, ite_self]
theorem State.Dropped.tstate (w : Nat) : (t.thread w).tstate = (s.thread w).tstate := by
  rw [h.threads]; split <;> simp
theorem State.Dropped.alive (w : Nat) : t.alive w = s.alive w := by rw [State.alive, h.tstate, State.alive]
theorem State.Dropped.teamOf (w : Nat) : t.teamOf w = s.teamOf w := by rw [h.frame]; rfl
/-- What watched nothing watches nothing after it. -/
theorem State.Dropped.unwatched (quiet : s.Unwatched) : t.Unwatched := by
  obtain ⟨canonical, monitors, barriers, copies⟩ := quiet
  refine ⟨by rw [State.Inv, h.mem]; exact canonical, by rw [h.frame]; exact monitors, fun p m a ph => ?_, by rw [h.frame]; exact copies⟩
  rcases h.entries p m with old | idle
  · exact barriers p old a ph
  · rw [idle]; exact fun e => nomatch e
end

/-! ### Results in registers (R230) -/

theorem State.HasLines.near {s : State} {u n k : Nat} (h : s.HasLines u n k) : gidOf u < 2 ^ 40 := h.1
theorem State.HasLines.alive {s : State} {u n k : Nat} (h : s.HasLines u n k) : s.aliveAt u = true := h.2.1

theorem State.aliveAt_of_near {s : State} {u : Nat} (near : gidOf u < 2 ^ 40) : s.aliveAt u = s.alive u := by
  rw [State.aliveAt, State.threadAt, if_pos near, threadKey_gidOf_laneOf, State.alive]

/-- Lines depend on the groups, the teams and the register lines alone. -/
theorem State.lineOf_of_same {s t : State} (groups : t.groups = s.groups) (teams : t.teams = s.teams) (lines : t.lines = s.lines)
    (g n : Nat) : t.lineOf g n = s.lineOf g n := by
  simp only [State.lineOf, State.line, State.ctxOfGroup, State.lineAddr, State.groupBlock, State.team, State.group, groups, teams, lines]

/-- What a result of `w` bits leaves whose registers have their lines: only lines change, and the registers hold its words. -/
structure State.Holds (s : State) (u n k v : Nat) (t : State) : Prop where
  frame : t = { s with threads := t.threads, lines := t.lines }
  threads : ∀ w, t.thread w = s.thread w
  result : t.readRegs u n k = wordsLow k v

/-- A result is written to registers that have their lines (R42, R112). -/
theorem State.HasLines.writeDst {s t : State} {u k w v : Nat} {d : BitVec 7} (present : s.HasLines u d.toNat k) (some_ : 0 < k)
    (groups : t.groups = s.groups) (teams : t.teams = s.teams) (lines : t.lines = s.lines)
    (width : (if w ≤ 32 then 1 else w / 32) = k) (small : v < 2 ^ w) : t.Holds u d.toNat k v (t.writeDst u d w v) := by
  obtain ⟨near, -, fits_, lined⟩ := present
  have reg : d.toNat < 120 := by omega
  have regs : (useW d w).regs = k := width
  have put := putDst_put t u (some (useW d w)) v near (fun x e => by cases e; rfl) (fun x e _ => by
    cases e
    rw [regs]
    exact .inl fun i hi => by rw [State.lineOf_of_same groups teams lines]; exact lined i hi)
  have latch : isLatch (useW d w).code = false := not_latch_of_reg _ reg
  refine ⟨put.frame, fun x => ?_, ?_⟩
  · by_cases e : x = u
    · subst e
      exact put.own.trans (by simp [Thread.latched, latch])
    · exact put.others x e
  · have held := put.result _ rfl reg
    rw [regs, show (useW d w).width = w from rfl, Nat.mod_eq_of_lt small] at held
    exact held

end Sys2Proof.Machine
end

section
/-! PROOFS. Maintenance of lines, and monitors that are polled (12 R244, R245; 15 R307, R309). -/
namespace Sys2Proof.Machine

/-! ### Accesses of one operation that end together (R244, R245) -/

/-- R244, R245: the threads that wait for a result go on. -/
theorem State.thread_wakeResult (s : State) (id w : Nat) :
    (s.wakeResult id).thread w = if (s.thread w).waitFor = .result id then { s.thread w with waitFor := .nothing } else s.thread w := by
  let g : Thread → Thread := fun x => if x.waitFor == .result id then { x with waitFor := .nothing } else x
  have each : (s.wakeResult id).threads = s.threads.map (fun p => (p.1, g p.2)) :=
    List.map_congr_left fun p _ => by simp only [g]; split <;> rfl
  rw [State.thread, each, Tab.at_map s.threads g rfl w]
  simp only [g, beq_iff_eq]
  rfl

section
variable {f : State → Access → State}

/-- What one access of a list brings about and no other undoes holds after all of them. -/
theorem State.foldl_reaches {P : State → Prop} {l : List Access} (keeps : ∀ s, ∀ b ∈ l, P s → P (f s b)) {a : Access} (listed : a ∈ l)
    (reach : ∀ s, P (f s a)) (s : State) : P (l.foldl f s) := by
  induction l generalizing s with
  | nil => exact absurd listed List.not_mem_nil
  | cons b l ih =>
    rw [List.foldl_cons]
    rcases List.mem_cons.1 listed with rfl | later
    · exact List.foldlRecOn l f (reach s) fun t h c m => keeps t c (List.mem_cons_of_mem _ m) h
    · exact ih (fun t c m => keeps t c (List.mem_cons_of_mem _ m)) later _

/-- Accesses whose effect leaves memory and the work alone are dropped one after another. -/
theorem State.foldl_dropAcc (effect : ∀ s a, (f s a).mem = s.mem ∧ (f s a).atWork = s.atWork) (l : List Access)
    (near : ∀ a ∈ l, a.remote = false) (s : State) :
    let t := l.foldl (fun s a => (f s a).dropAcc a) s
    t.mem = s.mem ∧ t.lines = s.lines ∧ t.accs = s.accs.filter (fun e => !(l.map (·.id)).contains e.id) ∧
      ∀ w, (s.thread w).waitFor ≠ .fence → t.thread w = s.thread w := by
  induction l generalizing s with
  | nil => exact ⟨rfl, rfl, by simp, fun _ _ => rfl⟩
  | cons a l ih =>
    obtain ⟨mem, lines, accs, threads⟩ := ih (fun b m => near b (List.mem_cons_of_mem _ m)) ((f s a).dropAcc a)
    have dropped := (f s a).dropAcc_dropped (near a List.mem_cons_self)
    obtain ⟨mem1, work⟩ := effect s a
    have thread1 : ∀ w, (s.thread w).waitFor ≠ .fence → ((f s a).dropAcc a).thread w = s.thread w := fun w free => by
      have same := State.onCores_thread (State.atWork_onCores work) w
      rw [dropped.thread_of_ne (by rw [same]; exact free), same]
    refine ⟨mem.trans (dropped.mem.trans mem1), lines.trans (dropped.lines.trans (State.onCores_lines (State.atWork_onCores work))), ?_,
      fun w free => (threads w (by rw [thread1 w free]; exact free)).trans (thread1 w free)⟩
    rw [List.foldl_cons, accs, dropped.accs, State.atWork_accs work, List.filter_filter]
    refine List.filter_congr fun e _ => ?_
    rw [List.map_cons, List.contains_cons, Bool.not_or, Bool.and_comm, bne]
end

/-- What the end of a maintenance operation leaves, whatever its accesses do to their lines (R244, R245). -/
theorem State.wakeResult_foldl {f : State → Access → State} (effect : ∀ s a, (f s a).mem = s.mem ∧ (f s a).atWork = s.atWork)
    (l : List Access) (near : ∀ a ∈ l, a.remote = false) (s : State) (id : Nat) :
    let t := (l.foldl (fun s a => (f s a).dropAcc a) s).wakeResult id
    t.mem = s.mem ∧ t.lines = s.lines ∧ t.accs = s.accs.filter (fun e => !(l.map (·.id)).contains e.id) ∧
      ∀ w, (s.thread w).waitFor = .result id → t.thread w = { s.thread w with waitFor := .nothing } := by
  obtain ⟨mem, lines, accs, threads⟩ := State.foldl_dropAcc effect l near s
  refine ⟨mem, lines, accs, fun w waits => ?_⟩
  have same := threads w (by rw [waits]; exact fun e => nomatch e)
  rw [State.thread_wakeResult, same, if_pos waits]

/-! ### CFLUSH and CINV (R244) -/

theorem State.maintainLine_effect (s : State) (a : Access) :
    (s.maintainLine a).mem = s.mem ∧ (s.maintainLine a).atWork = s.atWork := by
  unfold State.maintainLine
  dsimp only
  split
  · exact ⟨rfl, rfl⟩
  · split <;> exact ⟨rfl, rfl⟩

/-- Maintenance of a line adds no entry to the directory. -/
theorem State.dir_maintainLine (s : State) (a : Access) {d : DirEntry} (h : d ∈ (s.maintainLine a).dir) :
    ∃ e ∈ s.dir, e.base = d.base ∧ e.size = d.size := by
  unfold State.maintainLine at h
  dsimp only at h
  split at h
  · exact ⟨d, h, rfl, rfl⟩
  · split at h
    · exact ⟨d, (List.mem_filter.1 h).1, rfl, rfl⟩
    · obtain ⟨e, m, rfl⟩ := List.mem_map.1 h
      refine ⟨e, m, ?_⟩
      split <;> exact ⟨rfl, rfl⟩

/-- After CFLUSH no entry of the directory covers a byte of the line (R244). -/
theorem State.dir_maintainLine_cflush (s : State) {a : Access} {k : BitVec 6} {o : BitVec 7} {i : BitVec 6}
    (flush : a.instr = .cflush k o i) (home : pteHome a.leaf.toNat = 2) (pure_ : pteEffects a.leaf.toNat = false) :
    ∀ d ∈ (s.maintainLine a).dir, overlaps d.base d.size a.pa 128 = false := by
  intro d h
  simp only [State.maintainLine, home, pure_, flush] at h
  simpa using (List.mem_filter.1 h).2

theorem cacheMaintenanceDone_of_ready {s : State} {mine : List Access} (copies : s.ucopies = []) (near : ∀ a ∈ mine, a.remote = false)
    (ready : s.lineAccs s.subj.id .maintain = some mine) : Becomes .cacheMaintenanceDone s (fun t =>
      (t.mem = s.mem ∧ t.lines = s.lines ∧ t.accs = s.accs.filter (fun e => !(mine.map (·.id)).contains e.id) ∧
        ∀ w, (s.thread w).waitFor = .result s.subj.id → t.thread w = { s.thread w with waitFor := .nothing }) ∧
      ∀ a ∈ mine, ∀ k o i, a.instr = .cflush k o i → pteHome a.leaf.toNat = 2 → pteEffects a.leaf.toNat = false →
        ∀ d ∈ t.dir, overlaps d.base d.size a.pa 128 = false) := by
  refine ⟨_, congrArg Host.Outcome.next ?_, State.wakeResult_foldl State.maintainLine_effect mine near s s.subj.id,
    fun a listed k o i flush home pure_ => ?_⟩
  · simp only [ready, State.settleU_of_none copies]
  · refine State.foldl_reaches (P := fun t => ∀ d ∈ t.dir, overlaps d.base d.size a.pa 128 = false) (fun t b m gone d h => ?_) listed
      (fun t d h => ?_) s
    · rw [((t.maintainLine b).dropAcc_dropped (near b m)).frame] at h
      obtain ⟨e, listed, base, size⟩ := t.dir_maintainLine b h
      rw [← base, ← size]
      exact gone e listed
    · rw [((t.maintainLine a).dropAcc_dropped (near a listed)).frame] at h
      exact t.dir_maintainLine_cflush flush home pure_ d h

/-! ### PERSIST (R245) -/

theorem Tab.find_filter_eq_none {α : Type} {t : Tab α} {k : Nat} {p : Nat × α → Bool} (h : t.find k = none ∨ ∀ v, p (k, v) = false) :
    Tab.find (t.filter p) k = none := by
  induction t with
  | nil => rfl
  | cons q r ih =>
    obtain ⟨j, x⟩ := q
    by_cases e : k = j
    · subst e
      have gone : ∀ v, p (k, v) = false := h.resolve_left (by simp [Tab.find])
      rw [List.filter_cons, if_neg (by simp [gone x])]
      exact ih (.inr gone)
    · have rest := ih (h.imp_left (by simp [Tab.find, e]))
      rw [List.filter_cons]
      split
      · simpa [Tab.find, e] using rest
      · exact rest

theorem persistDone_of_ready {s : State} {mine : List Access} (copies : s.ucopies = []) (near : ∀ a ∈ mine, a.remote = false)
    (ready : s.lineAccs s.subj.id .persist = some mine) : Becomes .persistDone s (fun t =>
      (t.mem = s.mem ∧ t.lines = s.lines ∧ t.accs = s.accs.filter (fun e => !(mine.map (·.id)).contains e.id) ∧
        ∀ w, (s.thread w).waitFor = .result s.subj.id → t.thread w = { s.thread w with waitFor := .nothing }) ∧
      ∀ a ∈ mine, ∀ i, i < 4 → t.notDurable.find (a.pa / 32 + i) = none) := by
  refine ⟨_, congrArg Host.Outcome.next ?_,
    State.wakeResult_foldl (f := fun s a => s.persistLine a.pa) (fun _ _ => ⟨rfl, rfl⟩) mine near s s.subj.id, fun a listed i small => ?_⟩
  · simp only [ready, State.settleU_of_none copies]
  · refine State.foldl_reaches (P := fun t => t.notDurable.find (a.pa / 32 + i) = none) (fun t b m gone => ?_) listed (fun t => ?_) s
    · rw [((t.persistLine b.pa).dropAcc_dropped (near b m)).frame]
      exact Tab.find_filter_eq_none (.inl gone)
    · rw [((t.persistLine a.pa).dropAcc_dropped (near a listed)).frame]
      exact Tab.find_filter_eq_none (.inr fun v => by simp; omega)

/-! ### Monitors that are polled (R307, R309) -/

/-- The threads, and the monitors that they wait on. -/
def State.waiters (s : State) : Tab Thread × List Monitor := (s.threads, s.monitors)

@[simp] theorem State.waiters_ite {p : Prop} [Decidable p] (s t : State) :
    (if p then s else t).waiters = if p then s.waiters else t.waiters := apply_ite _ _ _ _
theorem State.waiters_foldl {α : Type} (l : List α) (f : State → α → State) (h : ∀ s x, (f s x).waiters = s.waiters) (s : State) :
    (l.foldl f s).waiters = s.waiters :=
  List.foldlRecOn l f (motive := fun t : State => t.waiters = s.waiters) rfl (fun t k x _ => (h t x).trans k)

section
variable (s : State)
@[simp] theorem State.waiters_poisonSector (sec : Nat) : (s.poisonSector sec).waiters = s.waiters := by
  unfold State.poisonSector; split <;> rfl
@[simp] theorem State.waiters_writeImageWord (ctx tag lane : Nat) (v : Word) : (s.writeImageWord ctx tag lane v).waiters = s.waiters :=
  Prod.ext (s.storeBytes_watchers _ _ _ _ _).1 (s.storeBytes_watchers _ _ _ _ _).2
@[simp] theorem State.waiters_clearKzero (l : RegLine) : (s.clearKzero l).waiters = s.waiters := by
  unfold State.clearKzero; split <;> rfl
@[simp] theorem State.waiters_meetLineEcc (l : RegLine) (lane : Nat) : (s.meetLineEcc l lane).waiters = s.waiters := by
  unfold State.meetLineEcc
  dsimp only
  split
  · rfl
  · split
    · rfl
    · rfl
    · split <;> rfl
@[simp] theorem State.waiters_writeBack (l : RegLine) : (s.writeBack l).waiters = s.waiters := by
  simp [State.writeBack, State.waiters_foldl]
@[simp] theorem State.waiters_dropLine (core ctx tag : Nat) : (s.dropLine core ctx tag).waiters = s.waiters := (rfl)
@[simp] theorem State.waiters_makeRoom (core : Nat) : (s.makeRoom core).waiters = s.waiters := by
  unfold State.makeRoom
  dsimp only
  split
  · rfl
  · split <;> simp
/-- A register that is written, and a line that is written back for it, change no thread and no monitor (R112, R113). -/
theorem State.waiters_writeReg (t n : Nat) (v : Word) : (s.writeReg t n v).waiters = s.waiters := by
  show (s.placeLine t n).waiters = s.waiters
  unfold State.placeLine
  split
  · rfl
  · exact s.waiters_makeRoom (coreOf t)
end

/-- The end of a wait: the thread runs, and then its status is written, where it has a destination (R307). -/
theorem State.endWait_eq (s : State) (u : Nat) (v : Word) :
    let t := (s.wftDrop u).modThread u (fun x => { x with tstate := .run, waitFor := .nothing, waitDst := 126 })
    s.endWait u v = if (s.thread u).waitDst.toNat < 120 then t.writeReg u (s.thread u).waitDst.toNat v else t := rfl

/-- R307: the end of a thread's wait leaves the monitors and the other threads, and the thread runs. -/
theorem State.endWait_waiters (s : State) (u : Nat) (v : Word) :
    (s.endWait u v).monitors = s.monitors ∧ (∀ w, w ≠ u → (s.endWait u v).thread w = s.thread w) ∧
      (s.endWait u v).thread u = { s.thread u with tstate := .run, waitFor := .nothing, waitDst := 126 } := by
  let t := (s.wftDrop u).modThread u (fun x => { x with tstate := .run, waitFor := .nothing, waitDst := 126 })
  have kept : (s.endWait u v).waiters = t.waiters := by
    rw [State.endWait_eq, State.waiters_ite, State.waiters_writeReg, ite_self]
  have threads : ∀ w, (s.endWait u v).thread w = t.thread w := fun w => by
    rw [State.thread, show (s.endWait u v).threads = t.threads from congrArg Prod.fst kept, State.thread]
  exact ⟨congrArg Prod.snd kept, fun w other => by rw [threads, State.thread_modThread, if_neg other]; rfl,
    by rw [threads, State.thread_modThread_same]; rfl⟩

/-- R112, R307: the status of a wait is written to a register that has its line. -/
theorem State.endWait_status {s : State} {u : Nat} (v : Word) (lines : s.HasLines u (s.thread u).waitDst.toNat 1) :
    (s.endWait u v).mem = s.mem ∧ (s.endWait u v).readReg u (s.thread u).waitDst.toNat = v := by
  obtain ⟨-, -, reg, present⟩ := lines
  have placed : ((s.wftDrop u).modThread u (fun x => { x with tstate := .run, waitFor := .nothing, waitDst := 126 })).Placed u
      (s.thread u).waitDst.toNat := .inl (present 0 Nat.one_pos)
  rw [State.endWait_eq, if_pos (by omega)]
  exact ⟨by rw [writeReg_eq _ _ _ _ placed]; rfl, readReg_writeReg_same _ _ _ _ placed⟩

/-- The monitor of a thread that is polled and fires: it is gone, and the thread's wait ends (R307, R309). -/
theorem State.fireMonitor_polled {s : State} {m : Monitor} {u due : Nat} (who : m.who = .thread u) (place : m.place = .poll due) :
    ∃ l, s.fireMonitor m = ({ s with monitors := s.monitors.filter (fun x => x.id != m.id), stale := l } : State).endWait u 0 := by
  unfold State.fireMonitor State.freeSpill
  rw [place, who]
  dsimp only
  split
  · exact ⟨_, rfl⟩
  · exact ⟨s.stale, rfl⟩

theorem execMonitorPoll_due {s : State} {m : Monitor} {due : Nat} (copies : s.ucopies = [])
    (named : s.monitors.find? (fun m => m.id == s.subj.id) = some m) (place : m.place = .poll due) (reached : due ≤ s.wall) :
    exec .monitorPoll s = .next (if s.monitorHolds m then s.fireOrNote m else { s with monitors := s.monitors.map (fun x =>
      if x.id == m.id then { x with place := .poll (due + 2 * oneUs) } else x) }) := by
  show execMonitorPoll s = _
  simp only [execMonitorPoll, named, place, if_neg (Nat.not_lt.2 reached), State.settleU_of_none copies]
  rfl

/-- R307, R309: a polled monitor of a thread whose condition holds, its context not halted. -/
theorem monitorPoll_fires {s : State} {m : Monitor} {due u : Nat} (copies : s.ucopies = [])
    (named : s.monitors.find? (fun m => m.id == s.subj.id) = some m) (place : m.place = .poll due) (reached : due ≤ s.wall)
    (holds : s.monitorHolds m = true) (goes : (s.ctx m.ctx).halted = false) (who : m.who = .thread u) :
    Becomes .monitorPoll s (fun t =>
      t.monitors = s.monitors.filter (fun x => x.id != m.id) ∧ (∀ w, w ≠ u → t.thread w = s.thread w) ∧
        t.thread u = { s.thread u with tstate := .run, waitFor := .nothing, waitDst := 126 } ∧
        (s.HasLines u (s.thread u).waitDst.toNat 1 → t.mem = s.mem ∧ t.readReg u (s.thread u).waitDst.toNat = 0)) := by
  obtain ⟨l, fired⟩ := State.fireMonitor_polled (s := s) who place
  refine ⟨s.fireMonitor m, ?_, ?_⟩
  · rw [execMonitorPoll_due copies named place reached, if_pos holds, State.fireOrNote, who, goes]
    rfl
  · rw [fired]
    obtain ⟨monitors, others, own⟩ := State.endWait_waiters
      ({ s with monitors := s.monitors.filter (fun x => x.id != m.id), stale := l } : State) u 0
    exact ⟨monitors, others, own, fun lines => State.endWait_status
      (s := { s with monitors := s.monitors.filter (fun x => x.id != m.id), stale := l }) 0 lines⟩

end Sys2Proof.Machine

open Sys2Proof Sys2Proof.Machine

/-- Settles O51: the accesses of a maintenance operation are dropped one after another, which moves no byte (`State.foldl_dropAcc`); what
one of them does to its line no other undoes (`State.foldl_reaches`). A monitor that fires ends its thread's wait
(`State.fireMonitor_polled`, `State.endWait_waiters`). -/
theorem maintenanceAndMonitors : Obligations.MaintenanceAndMonitors := by
  unfold Obligations.MaintenanceAndMonitors
  refine ⟨fun s mine copies _ near => ⟨fun ready => cacheMaintenanceDone_of_ready copies near ready,
    fun ready => persistDone_of_ready copies near ready⟩, fun s m due u copies named place reached => ⟨fun fails => ⟨_, ?_, rfl⟩,
    fun holds goes who => monitorPoll_fires copies named place reached holds goes who⟩⟩
  rw [execMonitorPoll_due copies named place reached, fails, if_neg Bool.false_ne_true]
end

section
/-! PROOFS. The end of fetch suspension of a lane that passes (07 R136; 12 R229, R230, R233; 15 R301). -/
namespace Sys2Proof.Machine

/-- `t` is `s` with one more access in flight, that of a lane at its place, with the kind, size and data that `k` says; operations and
threads are as before. -/
structure State.Adds (s : State) (l : Lane) (p : Passed) (k : Acc) (t : State) : Prop where
  access : ∃ a, t.accs = s.accs ++ [a] ∧ a.kind = k.kind ∧ a.tid = l.tid ∧ a.va = l.addr ∧ a.pa = p.loc ∧ a.size = k.size ∧
    a.x = k.x ∧ a.y = k.y
  ops : t.ops = s.ops
  threads : t.threads = s.threads

theorem State.atWork_modOut (s : State) (q : Option Nat) (core : Nat) (f : Outst → Outst) : (s.modOut q core f).atWork = s.atWork := by
  rw [State.modOut_eq]; rfl

theorem State.addAccess_adds (s : State) (o : Op) (l : Lane) (p : Passed) (k : Acc) : s.Adds l p k (s.addAccess o l p k) := by
  have listed : ∃ a n, (s.addAccess o l p k).atWork = (State.holdFor { s with nextId := n, accs := s.accs ++ [a] } p.loc).atWork ∧
      a.kind = k.kind ∧ a.tid = l.tid ∧ a.va = l.addr ∧ a.pa = p.loc ∧ a.size = k.size ∧ a.x = k.x ∧ a.y = k.y := by
    unfold State.addAccess
    dsimp only
    cases counterOf k.kind o.instr o.hints (isScratchOp o.instr && s.remoteLoc l.tid p.loc)
    · exact ⟨_, _, rfl, rfl, rfl, rfl, rfl, rfl, rfl, rfl⟩
    · exact ⟨_, _, State.atWork_modOut _ _ _ _, rfl, rfl, rfl, rfl, rfl, rfl, rfl⟩
    · exact ⟨_, _, State.atWork_modOut _ _ _ _, rfl, rfl, rfl, rfl, rfl, rfl, rfl⟩
  obtain ⟨a, n, work, fields⟩ := listed
  rw [State.atWork_holdFor] at work
  exact ⟨⟨a, (State.atWork_accs work).trans rfl, fields⟩, (State.atWork_ops work).trans rfl,
    (State.onCores_threads (State.atWork_onCores work)).trans rfl⟩

/-- A thread outside a replay set goes on after its instruction (R136, R413). -/
theorem State.passThread_outside {s : State} {u : Nat} (o : Op) (outside : (s.thread u).inSet = none) (near : gidOf u < 2 ^ 40) :
    s.passThread o u = s.modThread u (fun x => { x with pc := o.pc + 4, runPc := o.pc + 4, waitFor := .nothing, tstate := .run }) := by
  unfold State.passThread State.leaveSet State.leaveSetOf State.threadAt
  rw [if_pos near, threadKey_gidOf_laneOf, State.thread_modThread_same]
  dsimp only
  rw [outside]

/-- Checks of one lane that all pass: nothing traps, nothing parks, and the lane does what its instruction makes of it (R229). -/
theorem State.endChecks_of_passes {s s' : State} {o : Op} {l : Lane} {p : Passed} (copies : s.ucopies = [])
    (passes : s.checkLane o l = (s', .ok p)) :
    s.endChecks o [l] = ({ s' with ops := s'.ops.filter (fun x => x.id != o.id) } : State).passLanes o [(l, p)] := by
  unfold State.endChecks
  rw [State.settleU_of_none copies]
  simp only [State.checkLanes, passes]
  rfl

/-- `t` is `s` after the one lane of an operation has passed: the operation is gone, its thread goes on, no other thread has changed, and
the access that `k` says is in flight. -/
def State.WentOn (s : State) (o : Op) (l : Lane) (p : Passed) (k : Acc) (t : State) : Prop :=
  (t.ops = s.ops.filter (fun x => x.id != o.id) ∧ (∀ w, w ≠ l.tid → t.thread w = s.thread w) ∧
    t.thread l.tid = { s.thread l.tid with pc := o.pc + 4, runPc := o.pc + 4, waitFor := .nothing, tstate := .run }) ∧
  ∃ a, t.accs = s.accs ++ [a] ∧ a.kind = k.kind ∧ a.tid = l.tid ∧ a.va = l.addr ∧ a.pa = p.loc ∧ a.size = k.size ∧ a.x = k.x ∧ a.y = k.y

/-- R136, R230, R233: the one lane of an operation passes and puts the access that `k` says in flight; its thread goes on. -/
theorem State.OnePasses.goesOn {s : State} {o : Op} {l : Lane} {p : Passed} (one : s.OnePasses o l p) (k : Acc)
    (checks : unitReads o.instr = false ∧ ∀ t : State, t.endOp o [l] = t.endChecks o [l])
    (adds : ∀ t : State, t.passLanes o [(l, p)] = (t.addAccess o l p k).passThread o l.tid) :
    Becomes .fetchSuspensionEnd s (s.WentOn o l p k) := by
  obtain ⟨named, lanes, ⟨alive, waits, outside, near⟩, copies, s', passes⟩ := one
  obtain ⟨reads, ends⟩ := checks
  have here : s.lanesAt o = [l] := by simp [State.lanesAt, lanes, alive, waits]
  have work : s'.atWork = s.atWork := by have h := s.atWork_checkLane o l; rw [passes] at h; exact h
  let r : State := { s' with ops := s'.ops.filter (fun x => x.id != o.id) }
  obtain ⟨access, ops, threads⟩ := r.addAccess_adds o l p k
  have same : ∀ w, (r.addAccess o l p k).thread w = s.thread w := fun w => by
    rw [State.thread, threads]; exact State.onCores_thread (State.atWork_onCores work) w
  refine ⟨(r.addAccess o l p k).passThread o l.tid, ?_, ?_⟩
  · show execFetchSuspensionEnd s = _
    simp only [execFetchSuspensionEnd, named, here, reads, Bool.false_and, Bool.false_eq_true, if_false]
    rw [ends, State.endChecks_of_passes copies passes, adds]
  · rw [State.passThread_outside o (by rw [same]; exact outside) near]
    refine ⟨⟨ops.trans (by rw [← State.atWork_ops work]), fun w other => ?_, ?_⟩, ?_⟩
    · rw [State.thread_modThread, if_neg other, same]
    · rw [State.thread_modThread_same, same]
    · rw [← State.atWork_accs work]
      exact access

section
variable {s : State} {o : Op} {l : Lane} {p : Passed} (one : s.OnePasses o l p)
include one

/-- The one lane of an LD (R230). -/
theorem State.OnePasses.load {d : BitVec 7} {k : BitVec 6} {x : BitVec 7} {i : BitVec 6} (ld : o.instr = .ld d k x i) :
    Becomes .fetchSuspensionEnd s (s.WentOn o l p { kind := .load, size := elemSize o.instr o.hints, strong := hStrong o.hints }) := by
  refine one.goesOn _ ⟨by rw [ld]; rfl, fun t => ?_⟩ fun t => ?_
  · simp [State.endOp, ld, isMatrixOp]
  · simp [State.passLanes, State.passMem, ld, isTbarOp, isAtomicOp]

/-- The one lane of an ST (R233). -/
theorem State.OnePasses.store {d : BitVec 7} {k : BitVec 6} {x : BitVec 7} {i : BitVec 6} (st : o.instr = .st d k x i) :
    Becomes .fetchSuspensionEnd s (s.WentOn o l p
      { kind := .store, size := elemSize o.instr o.hints, x := l.x, y := l.y, strong := hStrong o.hints }) := by
  refine one.goesOn _ ⟨by rw [st]; rfl, fun t => ?_⟩ fun t => ?_
  · simp [State.endOp, st, isMatrixOp]
  · simp [State.passLanes, State.passMem, st, isTbarOp, isAtomicOp]

/-- The one lane of an ATOM (R301). -/
theorem State.OnePasses.atomic {d x y : BitVec 7} {n : BitVec 4} (atom : o.instr = .atom d x y n) :
    ∃ k : Acc, (k.kind = .atomic ∧ k.size = elemSize o.instr o.hints ∧ k.x = l.x ∧ k.y = l.y) ∧
      Becomes .fetchSuspensionEnd s (s.WentOn o l p k) := by
  refine ⟨
    { kind := .atomic, size := elemSize o.instr o.hints, x := l.x, y := l.y, strong := hStrong o.hints,
      acq := bits (hXmod o.hints) 0 2 == 1 || bits (hXmod o.hints) 0 2 == 3 || bit (hXmod o.hints) 3,
      rel := bits (hXmod o.hints) 0 2 == 2 || bits (hXmod o.hints) 0 2 == 3 }, ⟨rfl, rfl, rfl, rfl⟩,
    one.goesOn _ ⟨by rw [atom]; rfl, fun t => ?_⟩ fun t => ?_⟩
  · simp [State.endOp, atom, isMatrixOp]
  · simp [State.passLanes, State.passAtomic, atom, isTbarOp, isAtomicOp]
end

end Sys2Proof.Machine
end

section
/-! PROOFS. What an access that may be performed finds and leaves in memory, where nothing watches it and it meets no fault, poison or
foreign key (11 R218; 12 R232–R238; 15 R297). -/
namespace Sys2Proof.Machine

/-! ### Numbers in memory (R1) -/

theorem State.readN_lt (s : State) (a n : Nat) : s.readN a n < 2 ^ (8 * n) := by
  have := ofBytes_lt (s.bytes a n)
  rwa [State.bytes_eq_map, List.length_map, List.length_range, ← State.bytes_eq_map, show 256 = 2 ^ 8 from rfl, ← Nat.pow_mul] at this

@[simp] theorem length_bytesOf (n x : Nat) : (bytesOf n x).length = n := by simp [bytesOf]

/-- The bytes of a number of 8 bytes are those of its low doubleword. -/
theorem bytesOf_low {n : Nat} (small : n ≤ 8) (x y : Nat) : bytesOf n (x + y * 2 ^ 64) = bytesOf n x := by
  refine List.map_congr_left fun i m => BitVec.eq_of_toNat_eq ?_
  have within : 8 * i + 8 ≤ 64 := by have := List.mem_range.1 m; omega
  obtain ⟨j, split_⟩ := Nat.exists_eq_add_of_le within
  have high : y * 2 ^ 64 = (y * 2 ^ j * 256) * 2 ^ (8 * i) := by
    rw [split_, Nat.pow_add, Nat.pow_add]; ring
  rw [BitVec.toNat_ofNat, BitVec.toNat_ofNat, high, Nat.add_mul_div_right _ _ (by positivity), Nat.add_mul_mod_self_right]

/-- A number that has been stored reads as it was stored, but for its width. -/
theorem State.Stores.readN {s t : State} {a n x : Nat} (h : s.Stores a (bytesOf n x) t) : t.readN a n = x % 2 ^ (8 * n) := by
  rw [← ofBytes_range, State.readN, State.bytes_eq_map]
  refine congrArg ofBytes (List.map_congr_left fun i m => ?_)
  have within := List.mem_range.1 m
  rw [h, if_pos (by rw [length_bytesOf]; omega), Nat.add_sub_cancel_left,
    List.getD_eq_getElem _ _ (by rw [length_bytesOf]; exact within)]
  simp [bytesOf]
/-- A number that no stored byte lies in reads as before. -/
theorem State.Stores.readN_other {s t : State} {a b n : Nat} {bs : List Byte} (h : s.Stores a bs t)
    (apart : b + n ≤ a ∨ a + bs.length ≤ b) : t.readN b n = s.readN b n := by
  simp only [State.readN, State.bytes_eq_map]
  refine congrArg ofBytes (List.map_congr_left fun i m => ?_)
  have within := List.mem_range.1 m
  rw [h, if_neg (by omega)]

/-! ### Nothing in the way -/

theorem sortBy_singleton {α : Type} (le : α → α → Bool) (x : α) : sortBy le [x] = [x] := rfl

/-- An access that waits for fewer may be performed as well (R234). -/
theorem State.mayPerform_filter {s : State} {a : Access} (may : s.mayPerform a = true) (p : Nat → Bool) :
    s.mayPerform { a with after := a.after.filter p } = true := by
  simp only [State.mayPerform, Bool.and_eq_true, Bool.not_eq_true', List.any_eq_false, List.contains_eq_mem, decide_eq_true_eq,
    List.mem_filter] at may ⊢
  obtain ⟨⟨⟨follows, scoreboard⟩, link⟩, line⟩ := may
  exact ⟨⟨⟨fun e m k => follows e m k.1, scoreboard⟩, link⟩, line⟩

theorem State.readyTogether_one {s : State} {a : Access} (may : s.mayPerform a = true) : s.readyTogether [a] = [a] := by
  unfold State.readyTogether
  dsimp only
  rw [List.all_cons, State.mayPerform_filter may]
  rfl

/-- Where there is no fault, no poison and no key, an access consumes what it finds (R237). -/
theorem State.consume_of_sound {s : State} (sound : s.ecc = [] ∧ s.poison = [] ∧ s.sectorKey = []) (loc key : Nat) :
    s.consume loc key = (s, true) := by
  obtain ⟨ecc, poison, keys⟩ := sound
  simp [State.consume, State.meetEcc, State.eccAt, State.isPoisoned, State.keyMismatch, ecc, poison, keys, Tab.find]

/-- Nothing notices a write by one who has changed nothing that watches (R269, R307). -/
theorem State.Unwatched.notice {s t : State} (quiet : s.Unwatched) (work : t.atWork = s.atWork) (loc n : Nat) : t.notice loc n = t :=
  State.notice_of_unwatched ((State.onCores_monitors (State.atWork_onCores work)).trans quiet.monitors)
    (by rw [State.onCores_threads (State.atWork_onCores work)]; exact quiet.barriers) loc n

theorem State.Unwatched.settleU {s : State} (quiet : s.Unwatched) : s.settleU = s := State.settleU_of_none quiet.copies

/-- `t` is `s` with bytes written from a location up; the work stands as it was, and memory in its canonical form. -/
structure State.WritesAt (s : State) (loc : Nat) (bs : List Byte) (t : State) : Prop where
  work : t.atWork = s.atWork
  stores : s.Stores loc bs t
  canonical : t.Inv

/-- Bytes written under a leaf's key stand, whatever the caches hold (R225, R226). -/
theorem State.WritesAt.of_storeBytes {s t : State} (canonical : s.Inv) (work : t.atWork = s.atWork) (mem : t.mem = s.mem)
    (loc key : Nat) (persist cached : Bool) (bs : List Byte) : s.WritesAt loc bs (t.storeBytes loc key persist cached bs) := by
  have placed : (t.storeBytes loc key persist cached bs).mem = (s.setBytes loc bs).mem :=
    (storeBytes_mem _ _ _ _ _ _).trans (setBytes_mem _ _ _ _ mem)
  refine ⟨(t.atWork_storeBytes _ _ _ _ _).trans work, fun p => ?_, ?_⟩
  · rw [← State.setBytes_stores canonical loc bs p, State.byte, placed, State.byte]
  · rw [State.Inv, placed]
    exact setBytes_wf bs s loc canonical

/-- Bytes written and noticed by nothing (R233, R307). -/
theorem State.WritesAt.of_storeLeaf {s t : State} (quiet : s.Unwatched) (work : t.atWork = s.atWork) (mem : t.mem = s.mem)
    (loc leaf n : Nat) (bs : List Byte) : s.WritesAt loc bs ((t.storeLeaf loc leaf bs).notice loc n) := by
  have written := State.WritesAt.of_storeBytes quiet.canonical work mem loc (pteKey leaf) (ptePersist leaf) (pteHome leaf == 2) bs
  rw [quiet.notice (t := t.storeLeaf loc leaf bs) written.work]
  exact written

/-! ### The end of an access that has been performed -/

/-- R235: an access that has been performed, whatever it wrote. -/
theorem State.Dropped.performed {s r t : State} {a : Access} (work : r.atWork = s.atWork)
    (dropped : r.Dropped (a.tid :: a.mates) (r.accs.filter (fun e => e.id != a.id)) t) : s.Performed a t := by
  refine ⟨by rw [dropped.accs, State.atWork_accs work], fun w other => ?_⟩
  rw [dropped.thread_other (Access.isOf_eq_false.1 other)]
  exact State.onCores_thread (State.atWork_onCores work) w

/-! ### Stores (R233–R238) -/

/-- A store of at most 8 bytes writes its bytes at its place (R233). -/
theorem State.Due.writeAcc {s : State} {a : Access} (due : s.Due a) (small : a.size ≤ 8) :
    s.WritesAt a.pa (bytesOf a.size a.x.toNat) (s.writeAcc a) := by
  have work := s.atWork_noteWrite a.core a.ctx a.va.toNat a.strong a.leaf.toNat a.pa
  have mem := s.mem_noteWrite a.core a.ctx a.va.toNat a.strong a.leaf.toNat a.pa
  unfold State.writeAcc
  rw [due.settleU, bytesOf_low small]
  dsimp only
  generalize s.noteWrite a.core a.ctx a.va.toNat a.strong a.leaf.toNat a.pa = t at work mem ⊢
  refine State.WritesAt.of_storeLeaf due.toUnwatched ?_ ?_ _ _ _ _
  · split
    · split <;> exact work
    · exact work
  · split
    · split <;> exact mem
    · exact mem

/-- At most 8 bytes are no whole sector. -/
theorem coverSector_one {a : Access} (small : a.size ≤ 8) : coverSector [a] a = false := by
  rw [coverSector, Bool.and_eq_false_iff]
  refine .inr ?_
  rw [List.all_eq_false]
  by_cases first : a.pa ≤ a.pa / 32 * 32 + 0 ∧ a.pa / 32 * 32 + 0 < a.pa + a.size
  · refine ⟨31, by decide, ?_⟩
    simp
    omega
  · refine ⟨0, by decide, ?_⟩
    simpa using first

theorem storePerformed_of_due {s : State} {a : Access} (due : s.Due a) (kind : a.kind = .store) (alone : s.sectorStores a = [a])
    (some_ : 0 < a.size) (small : a.size ≤ 8) : Becomes .storePerformed s (fun t =>
      s.Performed a t ∧ s.Stores a.pa (bytesOf a.size a.x.toNat) t ∧ t.lines = s.lines ∧ t.teams = s.teams) := by
  have written := due.writeAcc small
  have dropped := (s.writeAcc a).dropAcc_dropped due.near
  refine ⟨s.performStore a, ?_, dropped.performed written.work, fun p => ?_, ?_, ?_⟩
  · show execStorePerformed s = _
    have itself : [a].filter (fun e => overlaps e.pa e.size a.pa a.size) = [a] := by
      simp [overlaps, some_]
    have whole : s.splitHalf a = (none, s) := by rw [State.splitHalf, if_pos (by omega)]
    simp only [execStorePerformed, due.named, kind, alone, coverSector_one small, itself, State.readyTogether_one due.may, whole,
      bne_self_eq_false, Bool.false_eq_true, if_false]
  · rw [← written.stores p, State.byte, State.performStore, dropped.mem, State.byte]
  · exact dropped.lines.trans (State.onCores_lines (State.atWork_onCores written.work))
  · exact dropped.teams.trans (State.onCores_teams (State.atWork_onCores written.work))

end Sys2Proof.Machine
end

section
/-! PROOFS. Loads that are performed: what they read, and what their instruction does with it (12 R230, R232, R242; 14 R290). -/
namespace Sys2Proof.Machine

/-! ### What a load reads (R238) -/

section
variable {s : State} (none_ : s.stale = [])
include none_
/-- Where no slice holds an older copy, a read leaves none. -/
theorem State.stale_touchFrame (pa : Nat) : (s.touchFrame pa).stale = [] := by
  unfold State.touchFrame
  dsimp only
  split
  · exact none_
  · split
    · exact none_
    · split
      · exact none_
      · split
        · simp [State.dirRecall, State.dirDrop, none_]
        · exact none_
theorem State.stale_trimL1 (die k : Nat) : (s.trimL1 die k).stale = [] := by
  unfold State.trimL1
  dsimp only
  split
  · exact none_
  · split <;> exact none_
theorem State.stale_trimL2 (die : Nat) : (s.trimL2 die).stale = [] := by
  unfold State.trimL2
  dsimp only
  split
  · exact none_
  · split
    · simp [none_]
    · exact none_
theorem State.stale_dirRead (die : Nat) (k : Option Nat) (pa g : Nat) : (s.dirRead die k pa g).stale = [] := by
  unfold State.dirRead
  dsimp only
  refine State.stale_trimL2 (State.stale_trimL1 ?_ _ _) _
  split
  · refine State.stale_touchFrame ?_ _
    exact none_
  · exact none_
theorem State.stale_noteRead (core leaf loc : Nat) : (s.noteRead core leaf loc).stale = [] := by
  unfold State.noteRead
  dsimp only
  split
  · split
    · exact State.stale_dirRead none_ _ _ _ _
    · exact State.stale_dirRead (State.stale_dirRead none_ _ _ _ _) _ _ _ _
  · exact none_
theorem State.stale_noteReplica (a : Access) : (s.noteReplica a).stale = [] := by
  unfold State.noteReplica
  dsimp only
  split
  · split <;> exact none_
  · exact none_
/-- Without older copies a weak load is served by memory (R238, R291). -/
theorem State.readWeak_of_none (core loc n : Nat) : s.readWeak core loc n = (s, s.readN loc n) := by
  simp [State.readWeak, State.staleFor, none_]
end

/-- R232, R238: the access reads the bytes of its place, and changes nothing but what the caches hold. -/
theorem State.Due.readAcc {s : State} {a : Access} (due : s.Due a) :
    ∃ t, s.readAcc a = (t, some (s.readN a.pa a.size)) ∧ t.uncached = s.uncached := by
  have noted : ((s.noteRead a.core a.leaf.toNat a.pa).noteReplica a).uncached = s.uncached :=
    (State.uncached_noteReplica _ a).trans (s.uncached_noteRead _ _ _)
  have older := due.current
  have clean := fun none_ : s.stale = [] => State.stale_noteReplica (State.stale_noteRead none_ a.core a.leaf.toNat a.pa) a
  unfold State.readAcc
  rw [due.settleU, State.consume_of_sound due.sound]
  dsimp only
  generalize (s.noteRead a.core a.leaf.toNat a.pa).noteReplica a = t at noted clean ⊢
  have value : ∀ r : State, r.uncached = s.uncached → r.readN a.pa a.size = s.readN a.pa a.size :=
    fun r same => State.readN_of_mem (State.uncached_mem same) _ _
  simp only [Bool.not_true, Bool.false_eq_true, if_false]
  split
  · next strong => exact ⟨t.seeSector a.core a.pa, by rw [value (t.seeSector a.core a.pa) noted], noted⟩
  · next weak =>
    rw [State.readWeak_of_none (clean (older.resolve_left weak))]
    exact ⟨t, by rw [value t noted], noted⟩

/-- R232, R235: a load has read the bytes of its place and is dropped. -/
theorem State.Due.loaded {s : State} {a : Access} (due : s.Due a) :
    ∃ r, s.readAcc a = (r, some (s.readN a.pa a.size)) ∧ r.atWork = s.atWork ∧ (r.dropAcc a).mem = s.mem ∧
      r.Dropped (a.tid :: a.mates) (r.accs.filter (fun e => e.id != a.id)) (r.dropAcc a) := by
  obtain ⟨r, read, same⟩ := due.readAcc
  have dropped := r.dropAcc_dropped due.near
  exact ⟨r, read, State.atWork_of_uncached same, dropped.mem.trans (State.uncached_mem same), dropped⟩

/-- LOAD_DATA_RETURN of a load of at most 8 bytes (R232, R236). -/
theorem State.Due.exec_load {s : State} {a : Access} (due : s.Due a) (kind : a.kind = .load) (small : a.size ≤ 8) :
    exec .loadDataReturn s = .next (s.performLoad a) := by
  have whole : s.splitHalf a = (none, s) := by rw [State.splitHalf, if_pos (by omega)]
  show execLoadDataReturn s = _
  simp only [execLoadDataReturn, due.named, kind, due.may, whole, beq_self_eq_true, Bool.and_self, if_true]

/-! ### LD and LDS (R230) -/

theorem tyWidth_cases (ty : Nat) : tyWidth ty ≤ 32 ∨ tyWidth ty = 64 ∨ tyWidth ty = 128 := by
  unfold tyWidth; split <;> simp

/-- An element of at most 8 bytes takes a register, or a pair for 8 (R42). -/
theorem regs_of_size {n ty w : Nat} (width : 8 * n = tyWidth ty) (small : n ≤ 8) (wide : w = tyWidth ty ∨ w = max 32 (tyWidth ty)) :
    (if w ≤ 32 then 1 else w / 32) = if n = 8 then 2 else 1 := by
  rcases tyWidth_cases ty with narrow | double | quad
  · rw [if_pos (by omega), if_neg (by omega)]
  · rw [if_neg (by omega), if_pos (by omega)]
    omega
  · omega

/-- LD and LDS write the element, sign-extended under .I8 and .I16 (R230). -/
theorem loadValue_eq {ty n x : Nat} (width : 8 * n = tyWidth ty) : loadValue ty x = widened ty n x := by
  unfold loadValue widened
  by_cases narrow : ty = 1 ∨ ty = 2
  · have pos : 0 < tyWidth ty := by rcases narrow with rfl | rfl <;> decide
    rw [if_pos (by simpa using narrow), if_pos narrow, width, sext, wrapInt_eq_toNat, signedOf_eq_toInt _ _ pos, BitVec.signExtend]
  · rw [if_neg (by simpa using narrow), if_neg narrow]

theorem widened_lt {ty n x : Nat} (width : 8 * n = tyWidth ty) (bound : x < 2 ^ (8 * n)) : widened ty n x < 2 ^ max 32 (tyWidth ty) := by
  unfold widened
  split
  · exact lt_of_lt_of_le (BitVec.isLt _) (Nat.pow_le_pow_right (by decide) (le_max_left _ _))
  · rw [width] at bound
    exact lt_of_lt_of_le bound (Nat.pow_le_pow_right (by decide) (le_max_right _ _))

/-- LDK's value: 32 bits sign-extended under .I32 (R242). -/
theorem ofNat_ldkValue (ty x : Nat) :
    BitVec.ofNat 64 (ldkValue ty x) = if ty = 3 then (BitVec.ofNat 32 x).signExtend 64 else BitVec.ofNat 64 x := by
  unfold ldkValue
  split
  · exact ofNat_sext 32 64 x (by decide)
  · rfl

section
variable {s : State} {a : Access} (due : s.Due a)
include due

/-- R230, R232: the data of LD and LDS stand in their registers. -/
theorem State.Due.loadElement (kind : a.kind = .load) (small : a.size ≤ 8) {d : BitVec 7} {k : BitVec 6} {x : BitVec 7} {i : BitVec 6}
    (ld : a.instr = .ld d k x i ∨ a.instr = .lds d k x i) (width : 8 * a.size = tyWidth (hTy a.hints 7))
    (lines : s.HasLines a.tid d.toNat (if a.size = 8 then 2 else 1)) : Becomes .loadDataReturn s (fun t =>
      s.Performed a t ∧ t.mem = s.mem ∧ t.teams = s.teams ∧
        t.readRegs a.tid d.toNat (if a.size = 8 then 2 else 1) =
          wordsLow (if a.size = 8 then 2 else 1) (widened (hTy a.hints 7) a.size (s.readN a.pa a.size))) := by
  obtain ⟨r, read, work, mem, dropped⟩ := due.loaded
  obtain ⟨accs, others⟩ := dropped.performed work
  have cores := State.atWork_onCores work
  have half : a.withHalf (s.readN a.pa a.size) = s.readN a.pa a.size := by
    rw [Access.withHalf, if_neg (by simp; omega)]
  have alive : (r.dropAcc a).aliveAt a.tid = true := by
    rw [State.aliveAt_of_near lines.near, dropped.alive, State.alive, State.onCores_thread cores, ← State.alive,
      ← State.aliveAt_of_near lines.near]
    exact lines.alive
  obtain ⟨frame, threads, result⟩ := lines.writeDst (t := r.dropAcc a) (by split <;> decide)
    (dropped.groups.trans (State.onCores_groups cores)) (dropped.teams.trans (State.onCores_teams cores))
    (dropped.lines.trans (State.onCores_lines cores)) (regs_of_size width small (.inr rfl)) (widened_lt width (s.readN_lt _ _))
  have performed : s.performLoad a = (r.dropAcc a).writeDst a.tid d (max 32 (tyWidth (hTy a.hints 7)))
      (widened (hTy a.hints 7) a.size (s.readN a.pa a.size)) := by
    rcases ld with ld | ld <;>
      simp only [State.performLoad, read, ld, State.loadWrite, alive, half, Bool.not_true, Bool.false_eq_true, if_false, loadValue_eq width]
  refine ⟨_, due.exec_load kind small, ?_⟩
  rw [performed]
  refine ⟨⟨?_, fun w other => (threads w).trans (others w other)⟩, ?_, ?_, result⟩
  · rw [frame]; exact accs
  · rw [frame]; exact mem
  · rw [frame]; exact dropped.teams.trans (State.onCores_teams cores)

/-! ### LDK (R242) -/

/-- R232, R242: the data of LDK stand in the k register of its team. -/
theorem State.Due.loadK (kind : a.kind = .load) (small : a.size ≤ 8) {d k i : BitVec 6} (ldk : a.instr = .ldk d k i)
    (alive : s.alive a.tid = true) : Becomes .loadDataReturn s (fun t =>
      t.accs = s.accs.filter (fun e => e.id != a.id) ∧ t.mem = s.mem ∧ t.lines = s.lines ∧
        (let m := s.team (s.teamOf a.tid)
         let v : DWord := if hTy a.hints 12 = 3 then (BitVec.ofNat 32 (s.readN a.pa a.size)).signExtend 64
           else BitVec.ofNat 64 (s.readN a.pa a.size)
         t.team (s.teamOf a.tid) = { m with k := m.k.put d.toNat v }) ∧
        ∀ w, a.isOf w = false → t.thread w = s.thread w) := by
  obtain ⟨r, read, work, mem, dropped⟩ := due.loaded
  obtain ⟨accs, others⟩ := dropped.performed work
  have cores := State.atWork_onCores work
  have lives : (r.dropAcc a).alive a.tid = true := by
    rw [dropped.alive, State.alive, State.onCores_thread cores]; exact alive
  have team : (r.dropAcc a).teamOf a.tid = s.teamOf a.tid := by
    rw [dropped.teamOf, State.teamOf, State.onCores_group cores, State.teamOf]
  have same : (r.dropAcc a).team (s.teamOf a.tid) = s.team (s.teamOf a.tid) := by
    rw [State.team, dropped.teams, ← State.team, State.onCores_team cores]
  refine ⟨_, due.exec_load kind small, ?_⟩
  have performed : s.performLoad a = (r.dropAcc a).setK (s.teamOf a.tid) d.toNat
      (if hTy a.hints 12 = 3 then (BitVec.ofNat 32 (s.readN a.pa a.size)).signExtend 64 else BitVec.ofNat 64 (s.readN a.pa a.size)) := by
    simp only [State.performLoad, read, ldk, lives, if_true, team]
    rw [ofNat_ldkValue]
  rw [performed]
  refine ⟨accs, mem, dropped.lines.trans (State.onCores_lines cores), ?_, others⟩
  rw [State.setK, State.team_modTeam_same, same]

/-! ### ACQ (R290) -/

/-- R232, R290: an ACQ that its thread waits for ends the wait, and its data stand in its registers. -/
theorem State.Due.acquired (kind : a.kind = .load) (eight : a.size = 8) {d x : BitVec 7} {m : Bool} (acq : a.instr = .acq d x m)
    (alive : s.alive a.tid = true) (waits : (s.thread a.tid).waitFor = .result a.id) (lines : s.HasLines a.tid d.toNat 2) :
    Becomes .loadDataReturn s (fun t =>
      t.readRegs a.tid d.toNat 2 = wordsLow 2 (s.readN a.pa a.size) ∧ t.mem = s.mem ∧
        t.thread a.tid = { s.thread a.tid with waitFor := .nothing }) := by
  obtain ⟨r, read, work, mem, dropped⟩ := due.loaded
  have cores := State.atWork_onCores work
  have lives : (r.dropAcc a).alive a.tid = true := by
    rw [dropped.alive, State.alive, State.onCores_thread cores]; exact alive
  have stands : (r.dropAcc a).thread a.tid = s.thread a.tid := by
    rw [dropped.thread_of_ne (by rw [State.onCores_thread cores, waits]; exact fun e => nomatch e), State.onCores_thread cores]
  let t : State := ((r.dropAcc a).acquire a.core a.ctx a.scope a.named).wakeResult a.id
  have woken : t.thread a.tid = { s.thread a.tid with waitFor := .nothing } := by
    rw [State.thread_wakeResult, show ((r.dropAcc a).acquire a.core a.ctx a.scope a.named).thread a.tid = s.thread a.tid from stands,
      if_pos waits]
  obtain ⟨frame, threads, result⟩ := lines.writeDst (t := t) (w := 64) (by decide)
    (dropped.groups.trans (State.onCores_groups cores)) (dropped.teams.trans (State.onCores_teams cores))
    (dropped.lines.trans (State.onCores_lines cores)) rfl
    ((s.readN_lt a.pa a.size).trans_le (Nat.pow_le_pow_right (by decide) (by omega)))
  have performed : s.performLoad a = t.writeDst a.tid d 64 (s.readN a.pa a.size) := by
    simp only [State.performLoad, read, acq, lives, if_true]
    rfl
  refine ⟨_, due.exec_load kind eight.le, ?_⟩
  rw [performed]
  refine ⟨result, ?_, (threads _).trans woken⟩
  rw [frame]; exact mem
end

end Sys2Proof.Machine
end

section
/-! PROOFS. Atomic lanes at their places, and the barrier instructions that are one (13 R265–R268; 15 R295, R297, R303). -/
namespace Sys2Proof.Machine

/-! ### One lane at its element (R295, R297) -/

/-- What an atomic lane orders changes only what slices still hold (R285, R303). -/
theorem State.orderAtomic_uncached (s : State) (a : Access) (wrote : Bool) : (s.orderAtomic a wrote).uncached = s.uncached := by
  unfold State.orderAtomic
  dsimp only
  have each : ∀ (p : Bool) (f : State → State), (∀ t, (f t).uncached = t.uncached) → ∀ t, (if p then f t else t).uncached = t.uncached :=
    fun p f same t => by split; exacts [same t, rfl]
  refine (each _ (fun t => t.acquire a.core a.ctx a.scope none) (fun _ => rfl) _).trans ?_
  refine (each _ (fun t => t.seeSector a.core a.pa) (fun _ => rfl) _).trans ?_
  exact each _ (fun t => t.publish a.core a.ctx a.scope none) (fun _ => rfl) s

/-- The bytes that an atomic lane leaves at its place: of the new value, if it writes one (R295). -/
def Access.written (a : Access) (old : Nat) : List Byte :=
  ((atomNew (atomCode a.instr) (hTy a.hints 7) old a.x.toNat a.y.toNat).map (bytesOf a.size)).getD []

/-- An access of one operation alone at its element (R297). -/
theorem State.exec_atomicLaneApplied_alone {s : State} {a : Access} (named : s.accOf s.subj.id = some a) (kind : a.kind = .atomic)
    (alone : s.sameElement a = [a]) : exec .atomicLaneApplied s = .next
      (if isTbarOp a.instr then s.applyTbar a
       else if (s.uChoice a).1 then (s.uChoice a).2.foldU a else (s.uChoice a).2.settleU.applyAtomic a) := by
  show execAtomicLaneApplied s = _
  simp only [execAtomicLaneApplied, named, kind, alone, bne_self_eq_false, Bool.false_eq_true, if_false, List.foldl_cons, List.foldl_nil]

section
variable {s : State} {a : Access} (due : s.Due a)
include due

/-- An atomic that returns what was there is taken to its place (R304). -/
theorem State.Due.exec_atomic {u : Use} (kind : a.kind = .atomic) (alone : s.sameElement a = [a])
    (plain : isTbarOp a.instr = false) (dst : (formOf a.hints a.instr).dst = some u) :
    exec .atomicLaneApplied s = .next (s.applyAtomic a) := by
  have unfolded : s.uChoice a = (false, s) := by
    have kept : s.uAllowed a = false := by simp [State.uAllowed, dst]
    rw [State.uChoice, kept]
    rfl
  rw [State.exec_atomicLaneApplied_alone due.named kind alone, plain, unfolded]
  exact congrArg (fun t : State => Host.Outcome.next (t.applyAtomic a)) due.settleU

/-- R295: one read and one write at the place of the lane, whose old value stands in its registers. -/
theorem State.Due.applyAtomic {d : BitVec 7} {w k : Nat} (supported : unsupported a = false)
    (dst : (formOf a.hints a.instr).dst = some (useW d w)) (some_ : 0 < k) (regs : (if w ≤ 32 then 1 else w / 32) = k)
    (width : 8 * a.size = w) (lines : s.HasLines a.tid d.toNat k) :
    s.Performed a (s.applyAtomic a) ∧ (s.applyAtomic a).readRegs a.tid d.toNat k = wordsLow k (s.readN a.pa a.size) ∧
      s.Stores a.pa (a.written (s.readN a.pa a.size)) (s.applyAtomic a) := by
  have dropped := s.dropAcc_dropped due.near
  have old : (s.dropAcc a).readN a.pa a.size = s.readN a.pa a.size := State.readN_of_mem dropped.mem _ _
  have quiet := dropped.unwatched due.toUnwatched
  have applied : ∃ t, (s.dropAcc a).WritesAt a.pa (a.written (s.readN a.pa a.size)) t ∧
      s.applyAtomic a = if t.aliveAt a.tid then t.writeDst a.tid d w (s.readN a.pa a.size) else t := by
    unfold State.applyAtomic Access.written
    simp only [State.consume_of_sound due.sound, supported, dst, Bool.not_true, Bool.false_eq_true, if_false, old]
    generalize s.dropAcc a = u at quiet ⊢
    cases atomNew (atomCode a.instr) (hTy a.hints 7) (s.readN a.pa a.size) a.x.toNat a.y.toNat with
    | some v =>
      refine ⟨_, State.WritesAt.of_storeLeaf quiet ?_ ?_ a.pa a.leaf.toNat a.size (bytesOf a.size v), rfl⟩
      · exact (State.atWork_of_uncached (State.orderAtomic_uncached _ a true)).trans (u.atWork_noteWrite _ _ _ _ _ _)
      · exact (State.uncached_mem (State.orderAtomic_uncached _ a true)).trans (u.mem_noteWrite _ _ _ _ _ _)
    | none =>
      have same := (State.orderAtomic_uncached (u.noteRead a.core a.leaf.toNat a.pa) a false).trans (u.uncached_noteRead _ _ _)
      exact ⟨_, ⟨State.atWork_of_uncached same, fun p => by
        rw [State.byte, State.uncached_mem same, if_neg (by simp), State.byte], by
        rw [State.Inv, State.uncached_mem same]; exact quiet.canonical⟩, rfl⟩
  obtain ⟨t, written, applied⟩ := applied
  have cores := State.atWork_onCores written.work
  have alive : t.aliveAt a.tid = true := by
    rw [State.aliveAt_of_near lines.near, State.alive, State.onCores_thread cores, dropped.tstate, ← State.alive,
      ← State.aliveAt_of_near lines.near]
    exact lines.alive
  obtain ⟨frame, threads, result⟩ := lines.writeDst (t := t) (w := w) some_
    ((State.onCores_groups cores).trans dropped.groups) ((State.onCores_teams cores).trans dropped.teams)
    ((State.onCores_lines cores).trans dropped.lines) regs (width ▸ s.readN_lt a.pa a.size)
  obtain ⟨accs, others⟩ := dropped.performed (s := s) rfl
  rw [applied, alive, if_pos rfl]
  refine ⟨⟨?_, fun x other => (threads x).trans ((State.onCores_thread cores x).trans (others x other))⟩, result, fun p => ?_⟩
  · rw [frame]; exact (State.atWork_accs written.work).trans accs
  · have stored := written.stores p
    rw [State.byte, State.byte, dropped.mem, ← State.byte, ← State.byte] at stored
    rw [frame]
    exact stored

/-- R295, R297: an atomic that returns the old value of an element of its type. -/
theorem State.Due.applied {d : BitVec 7} (kind : a.kind = .atomic) (alone : s.sameElement a = [a]) (supported : unsupported a = false)
    (plain : isTbarOp a.instr = false) (dst : (formOf a.hints a.instr).dst = some (useW d (tyWidth (hTy a.hints 7))))
    (width : 8 * a.size = tyWidth (hTy a.hints 7)) (small : a.size ≤ 8)
    (lines : s.HasLines a.tid d.toNat (if a.size = 8 then 2 else 1)) : Becomes .atomicLaneApplied s (fun t =>
      s.Performed a t ∧ t.readRegs a.tid d.toNat (if a.size = 8 then 2 else 1) =
        wordsLow (if a.size = 8 then 2 else 1) (s.readN a.pa a.size) ∧ s.Stores a.pa (a.written (s.readN a.pa a.size)) t) :=
  ⟨_, due.exec_atomic kind alone plain dst,
    due.applyAtomic supported dst (by split <;> decide) (regs_of_size width small (.inl rfl)) width lines⟩
end

/-- Every operation of ATOM and ATOMS writes a value (R295). -/
theorem atomNew_isSome {op ty old b c : Nat} (op_ : op ≤ 8) : ∃ v, atomNew op ty old b c = some v := by
  unfold atomNew
  split
  · exact ⟨_, rfl⟩
  · exact ⟨_, rfl⟩
  · exact ⟨_, rfl⟩
  · omega
  · exact ⟨_, rfl⟩

/-! ### Barriers (R265–R268) -/

/-- A barrier whose fields fit its two words (R265). -/
structure Tbar.Fits (b : Tbar) : Prop where
  pending : b.pending < 2 ^ 64
  init : b.init < 2 ^ 16
  pend : b.pend < 2 ^ 16

theorem State.tbar_fits (s : State) (loc : Nat) : (s.tbar loc).Fits :=
  ⟨s.readN_lt loc 8, Nat.mod_lt _ (by decide), Nat.mod_lt _ (by decide)⟩
theorem Tbar.Fits.step {b : Tbar} (fits : b.Fits) : b.step.Fits := by
  unfold Tbar.step
  split
  · exact ⟨fits.pending, fits.init, fits.init⟩
  · exact fits

/-- The fields of the second word of a barrier that fits (R265). -/
theorem Tbar.Fits.word1 {b : Tbar} (fits : b.Fits) : b.word1 < 2 ^ 64 ∧ bits b.word1 0 16 = b.init ∧ bits b.word1 16 16 = b.pend ∧
    bit b.word1 32 = b.phase ∧ bit b.word1 33 = b.err := by
  obtain ⟨-, init, pend⟩ := fits
  have flag : ∀ x : Bool, b2n x = if x then 1 else 0 := fun _ => rfl
  simp only [bits, bit, Tbar.word1, flag, Nat.testBit_eq_decide_div_mod_eq]
  cases b.phase <;> cases b.err <;> simp <;> omega

/-- R265: a barrier that is replaced reads as the new one, and nothing else than its bytes has changed. -/
theorem State.Unwatched.setTbar {s t : State} (quiet : s.Unwatched) (work : t.atWork = s.atWork) (mem : t.mem = s.mem) (loc : Nat)
    {b : Tbar} (fits : b.Fits) : (t.setTbar loc b).atWork = s.atWork ∧ (t.setTbar loc b).tbar loc = b := by
  have first := State.WritesAt.of_storeBytes quiet.canonical work mem loc 0 false false (bytesOf 8 b.pending)
  have second := State.WritesAt.of_storeBytes first.canonical rfl rfl (loc + 8) 0 false false (bytesOf 8 b.word1)
  obtain ⟨small, init, pend, phase, err⟩ := fits.word1
  unfold State.setTbar
  rw [quiet.notice (second.work.trans first.work)]
  refine ⟨second.work.trans first.work, ?_⟩
  unfold State.tbar
  dsimp only
  rw [second.stores.readN, second.stores.readN_other (.inl (Nat.le_refl _)), first.stores.readN, Nat.mod_eq_of_lt small,
    Nat.mod_eq_of_lt fits.pending, init, pend, phase, err]

section
variable {s : State} {a : Access} (due : s.Due a)
include due

/-- A barrier that an access replaces once it has been dropped (R265). -/
theorem State.Due.setTbar {u t : State} {b : Tbar} (dropped : s.Dropped (a.tid :: a.mates) (s.accs.filter (fun e => e.id != a.id)) u)
    (work : t.atWork = u.atWork) (mem : t.mem = u.mem) (fits : b.Fits) :
    s.Performed a (t.setTbar a.pa b) ∧ (t.setTbar a.pa b).tbar a.pa = b := by
  obtain ⟨work, stands⟩ := (dropped.unwatched due.toUnwatched).setTbar work mem a.pa fits
  obtain ⟨accs, others⟩ := dropped.performed (s := s) rfl
  exact ⟨⟨(State.atWork_accs work).trans accs, fun w other => (State.onCores_thread (State.atWork_onCores work) w).trans (others w other)⟩,
    stands⟩

/-- TBAR.INIT at its place (R268). -/
theorem State.Due.tbarInit (kind : a.kind = .atomic) (alone : s.sameElement a = [a]) {x y : BitVec 7} (init : a.instr = .tbarInit x y) :
    Becomes .atomicLaneApplied s (fun t => s.Performed a t ∧ t.tbar a.pa =
      { pending := 0, init := a.x.toNat % 65536, pend := a.x.toNat % 65536, phase := false, err := false }) := by
  have low : bits a.x.toNat 0 16 = a.x.toNat % 65536 := by simp [bits]
  refine ⟨(s.dropAcc a).setTbar a.pa
    { pending := 0, init := a.x.toNat % 65536, pend := a.x.toNat % 65536, phase := false, err := false }, ?_, ?_⟩
  · rw [State.exec_atomicLaneApplied_alone due.named kind alone, init, isTbarOp, if_pos rfl]
    simp only [State.applyTbar, State.consume_of_sound due.sound, init, low, Bool.not_true, Bool.false_eq_true, if_false]
  · exact due.setTbar (s.dropAcc_dropped due.near) rfl rfl
      ⟨Nat.two_pow_pos 64, Nat.mod_lt _ (by decide), Nat.mod_lt _ (by decide)⟩

/-- TBAR.ACK at its place (R266, R268). -/
theorem State.Due.tbarAck (kind : a.kind = .atomic) (alone : s.sameElement a = [a]) {x : BitVec 7} (ack : a.instr = .tbarAck x) :
    Becomes .atomicLaneApplied s (fun t => s.Performed a t ∧ t.tbar a.pa =
      Tbar.step { s.tbar a.pa with pend := (s.tbar a.pa).pend - 1 }) := by
  have dropped := s.dropAcc_dropped due.near
  have stood : (s.dropAcc a).tbar a.pa = s.tbar a.pa := by
    simp only [State.tbar, State.readN_of_mem dropped.mem]
  refine ⟨((s.dropAcc a).publish a.core a.ctx 3 none).setTbar a.pa (s.tbar a.pa).arrive.step, ?_, ?_⟩
  · rw [State.exec_atomicLaneApplied_alone due.named kind alone, ack, isTbarOp, if_pos rfl]
    simp only [State.applyTbar, State.consume_of_sound due.sound, ack, stood, Bool.not_true, Bool.false_eq_true, if_false]
  · have fits := s.tbar_fits a.pa
    have arrived : (s.tbar a.pa).arrive.Fits := ⟨fits.pending, fits.init, lt_of_le_of_lt (Nat.sub_le _ _) fits.pend⟩
    exact due.setTbar dropped rfl rfl arrived.step
end

end Sys2Proof.Machine

open Sys2Proof Sys2Proof.Machine

/-- Settles O50: event by event. The one lane of an operation that passes puts its access in flight (`State.OnePasses.goesOn`). With
nothing that watches, a store's bytes stand (`State.Due.writeAcc`), a load reads its place (`State.Due.readAcc`), and an atomic does both
(`State.Due.applyAtomic`); the access is then dropped (`State.dropAcc_dropped`), and a result stands in registers that have their lines
(`State.HasLines.writeDst`). -/
theorem accessesPerformed : Obligations.AccessesPerformed := by
  unfold Obligations.AccessesPerformed
  refine ⟨fun s o l p one => ⟨fun d k x i ld => ?_, fun d k x i st => one.store st, fun d x y n atom => ?_⟩,
    fun s a due => ⟨fun kind alone some_ small => storePerformed_of_due due kind alone some_ small,
      fun kind small => ⟨fun d k x i ld width lines => due.loadElement kind small ld width lines,
        fun d k i ldk _ alive => due.loadK kind small ldk alive,
        fun d x m acq eight alive waits lines => due.acquired kind eight acq alive waits lines⟩,
      fun kind alone supported => ⟨fun d x y o atom width small op lines => ?_, fun d x y cas width small lines => ?_,
        fun x y init => due.tbarInit kind alone init, fun x ack _ => due.tbarAck kind alone ack⟩⟩⟩
  · obtain ⟨t, run, goes, a, accs, kind, tid, va, pa, size, -⟩ := one.load ld
    exact ⟨t, run, goes, a, accs, kind, tid, va, pa, size⟩
  · obtain ⟨k, ⟨kind, size, x, y⟩, t, run, goes, a, accs, fields⟩ := one.atomic atom
    rw [kind, size, x, y] at fields
    exact ⟨t, run, goes, a, accs, fields⟩
  · obtain ⟨v, new⟩ : ∃ v, atomNew o.toNat (hTy a.hints 7) (s.readN a.pa a.size) a.x.toNat a.y.toNat = some v := atomNew_isSome op
    have written : a.written (s.readN a.pa a.size) = bytesOf a.size v := by
      rcases atom with atom | atom <;> simp [Access.written, atom, atomCode, new]
    obtain ⟨t, run, performed, result, stored⟩ := due.applied (d := d) kind alone supported (by rcases atom with h | h <;> rw [h] <;> rfl)
      (by rcases atom with h | h <;> rw [h] <;> rfl) width small lines
    rw [written] at stored
    exact ⟨t, run, performed, result, v, new, stored⟩
  · have written : a.written (s.readN a.pa a.size) = if s.readN a.pa a.size = a.y.toNat then bytesOf a.size a.x.toNat else [] := by
      rcases cas with cas | cas <;> simp only [Access.written, cas, atomCode, atomNew] <;> split <;> rfl
    rw [← written]
    exact due.applied (d := d) kind alone supported (by rcases cas with h | h <;> rw [h] <;> rfl)
      (by rcases cas with h | h <;> rw [h] <;> rfl) width small lines
end
